-- ==== Sys2Proof/Word.lean ====
section
/-! DEFINITION. Words and bytes of the machine, and their plainest arithmetic. -/

namespace Sys2Proof

/-- A byte (R2). -/
abbrev Byte := BitVec 8

/-- A 64-bit word, the width of a thread register (R71). -/
abbrev Word := BitVec 64

end Sys2Proof
end

