-- ==== Sys2Proof/Types.lean ====
section
/-! DEFINITION. The operands of the commands: plain records of what arrives from outside the block (log entry 2). -/

namespace Sys2Proof

/-- A die or stack that is polled, powered and lost as one unit (R13, R472). -/
inductive DieUnit where
  | ct (n : Fin 16) | stack (n : Fin 8) | mh (n : Fin 2) | fc (n : Fin 8) | hub | hio | lk (n : Fin 3)
  deriving DecidableEq, Repr

/-- What a power-on or a restart of MGT meets outside the model: whether the PLL locks (R33), the clock monitor's word
(R35), and whether trial firmware confirms itself (R412). -/
structure BootEnv where
  pllLocks : Bool := true
  clkOk : BitVec 6 := 0x3F#6
  trialOk : Bool := true
  deriving DecidableEq, Repr

/-- What the start-up of the 54 V domain meets (R468, R469). -/
structure StartEnv where
  /-- Dies and stacks that fail their start-up step. -/
  failed : List DieUnit := []
  /-- Ports that train, with their lanes. -/
  lanes : List (Nat × List Nat) := []
  /-- Failing columns of each core found by the array self-test (R168). -/
  columns : List (Nat × BitVec 128) := []
  /-- Cores whose outlier strip fails (R168). -/
  strips : BitVec 64 := 0
  /-- A hardware fault cut the last power-loss sequence short, so that the medium holds no seal (R329). -/
  cut : Bool := false
  deriving DecidableEq, Repr

/-- A fabric packet (R41): its header flit, whose first 32 bits route it and whose other bytes carry the command and address
of its protocol; its data flits; and whether it expects a response. -/
structure Packet where
  hdr : BitVec 512 := 0
  data : List (BitVec 512) := []
  wantsRsp : Bool := false
  deriving DecidableEq, Repr

/-- A write access to a register (R9): which function's BAR, the offset in it, how many bytes, and the data. -/
structure RegAccess where
  /-- 0 PF0 BAR0, 1 PF1 BAR0, 2 PF1 BAR2, 3 PF1 BAR4. -/
  bar : Fin 4 := 2
  off : BitVec 28 := 0
  size : BitVec 7 := 4
  data : BitVec 64 := 0
  deriving DecidableEq, Repr

/-- An access of 8 bytes. -/
def RegAccess.wide (a : RegAccess) : Bool := a.size == 8

/-- An access of 4 or 8 bytes; of any other size it is dropped (R9). -/
def RegAccess.fits (a : RegAccess) : Bool := a.size == 4 || a.size == 8

/-- A command of the NVMe submission queue entry (R335). -/
structure NvmeCmd where
  opcode : BitVec 8 := 0
  psdt : BitVec 2 := 0
  cid : BitVec 16 := 0
  nsid : BitVec 32 := 0
  prp1 : BitVec 64 := 0
  prp2 : BitVec 64 := 0
  cdw10 : BitVec 32 := 0
  cdw11 : BitVec 32 := 0
  cdw12 : BitVec 32 := 0
  cdw13 : BitVec 32 := 0
  cdw14 : BitVec 32 := 0
  cdw15 : BitVec 32 := 0
  deriving DecidableEq, Repr

/-- A byte of a range read from the host that comes with an error: its offset in the range, and whether it came with POISON or
PCIe completed the read with an error (R62, R226). -/
structure HostErr where
  off : BitVec 48 := 0
  poison : Bool := false
  deriving DecidableEq, Repr

/-- The exact number m × 2^e. -/
structure Dyadic where
  m : Int := 0
  e : Int := 0
  deriving DecidableEq, Repr

/-- An error that a memory hub meets in a line it reads: the line, as PA / 64, and whether it is uncorrectable (R135). -/
structure MemHit where
  line : BitVec 44 := 0
  ue : Bool := false
  deriving DecidableEq, Repr

/-- An error in a core's own stores: 0 a scratchpad sector by 8 × row + sector, 1 an accumulator entry by 128 × row + column
(R179, R184), 2 a segment of a function table by 256 × slot + segment (R202); and whether it is uncorrectable. -/
structure CoreHit where
  store : Fin 3 := 0
  idx : BitVec 15 := 0
  ue : Bool := false
  deriving DecidableEq, Repr

/-- How far a NAND page read climbs its ladder (R318). -/
inductive ReadLadder where
  | hard (bits : Nat)      -- decoded, with that many corrected bits
  | retry (n : Nat)
  | soft
  | rebuilt
  | lost
  | sysLost (both : Bool)  -- a record of the system area that fails, in one half of its mirror or in both (R319)
  deriving DecidableEq, Repr

/-- What a read of the NOR flash, the 24-hour scan's or another, finds in a sector (R400): a row that differs at the margin, a corrected
single-bit error, or an uncorrectable word, by what lies there: a firmware bank, a slot of the key store in use, an entry of the log's
window. -/
inductive NorFind where
  | margin (bank : Fin 3) (sector : Fin 2048)
  | corrected (bank : Fin 3) (sector : Fin 2048)
  | firmware (slot : Fin 2)
  | keySlot (i : Fin 512)
  | logEntry (sector : Fin 256) (row : Fin 64)
  deriving DecidableEq, Repr

/-- The identity a link partner sends (R373). -/
structure LinkIdent where
  module : Nat := 0
  link : Nat := 0
  dimX : Nat := 1
  dimY : Nat := 1
  dimZ : Nat := 1
  posX : Nat := 0
  posY : Nat := 0
  posZ : Nat := 0
  verMin : Nat := 0x0100
  verMax : Nat := 0x0100
  /-- Direction of its link, as LINK_DIR. -/
  dir : Nat := 0
  deriving DecidableEq, Repr

/-- A reachability message (R377). -/
structure ReachMsg where
  dim : Fin 3 := 0
  plus : Bool := false
  coord : Nat := 0
  deriving DecidableEq, Repr

/-- What the header of a packet in transit tells a module on its way (R376): the module it is for, the VC it arrives on, and the
chosen directions, a bit for + in X, Y and Z. -/
structure Transit where
  dest : Nat := 0
  vc : BitVec 3 := 4
  plus : BitVec 3 := 0
  deriving DecidableEq, Repr

/-- A request that arrives from, or leaves to, another module (R381, R382); in transit it stands for any packet (R376). -/
structure RemReq where
  /-- 0 read, 1 write, 2 SWAP, 3 ADD, 4 CAS. -/
  op : Nat := 0
  srcMod : Nat := 0
  ptn : Nat := 0
  key : BitVec 64 := 0
  off : Nat := 0
  len : Nat := 0
  data : List (BitVec 8) := []
  mask : List Bool := []
  /-- CAS: the value compared. -/
  cmp : BitVec 64 := 0
  lc : Bool := false
  /-- The link it arrives on. -/
  link : Nat := 0
  /-- The agent code of its sender (R119). -/
  agent : Nat := 0
  /-- The route of a packet for another module; none for a request to this one. -/
  transit : Option Transit := none
  deriving DecidableEq, Repr

/-- What the target answers (R380, R381): the data read, an acknowledgement, or a refusal. -/
inductive RemAns where
  | data (bs : List (BitVec 8)) | poison | ack | refused
  deriving DecidableEq, Repr

/-- The route a management command came by (R392, R402). -/
inductive Route where
  | mailbox
  | weft (job : BitVec 32)
  deriving DecidableEq, Repr

/-- A chain frame in the fields of R452; `crcOk` says that its CRC agrees. -/
structure ChainFrame where
  dst : BitVec 8 := 0
  src : BitVec 8 := 0
  type : BitVec 8 := 0
  tag : BitVec 8 := 0
  hops : BitVec 8 := 0
  rsv : BitVec 8 := 0
  payload : List (BitVec 8) := []
  crcOk : Bool := true
  deriving DecidableEq, Repr

/-- An offset measurement of the PTP servo (R449). -/
structure PtpMeas where
  valid : Bool := true
  offsetNs : Int := 0
  ratePpb : Int := 0
  utcOffset : Nat := 0
  deriving DecidableEq, Repr

/-- What PCIe link training reaches (R331). -/
structure PcieRes where
  rate : Nat := 64
  width : Nat := 16
  flit : Bool := true
  deriving DecidableEq, Repr

end Sys2Proof
end

