-- ==== Sys2Proof/Syntax.lean ====
section
/-! DEFINITION. The commands of the LX-3200, one constructor per row of the opcode table. -/

namespace Sys2Proof

/-- A command: one row of the opcode table with its operands (log entry 2). -/
inductive Instr where
  /-- POWER_ON_RESET (R458). The 12 V standby input is applied. The crystal and PLL start, MGT boots, and everything not held in NOR, NAND or fuses is cleared. -/
  | powerOnReset (e : BootEnv)
  /-- PLL_LOCK_RETRY (R33). The 100 ms retry timer expires while the root PLL is unlocked, and MGT tries the lock again. -/
  | pllLockRetry (locks : Bool)
  /-- CLOCK_FAILURE (R35). A clock-monitor window finds a derived clock deviating by more than ±0.5 %. MGT isolates the bridge, holds the 54 V domain in reset and logs the failure, and on SCLK/TCLK/lock loss also switches to XCLK and makes the field functions safe. -/
  | clockFailure (clks : BitVec 6) (lockLost : Bool)
  /-- PLL_LOCK_RETURN (R35). The root PLL relocks, and MGT switches back to SCLK and restores the field functions. -/
  | pllLockReturn
  /-- XCLK_LOSS (R438). The RC oscillator finds XCLK absent for 2 µs, and every output is de-energised. -/
  | xclkLoss
  /-- TRIAL_TIMEOUT (R412). A trial boot is not confirmed within 60 s, so MGT restarts; after three such failures the ROM switches NEXT. -/
  | trialTimeout (e : BootEnv)
  /-- DOMAIN_RESTART (R468). After the hold or on the 54 V start threshold, the 54 V domain runs start-up steps 5-11. -/
  | domainRestart (e : StartEnv)
  /-- INPUT_54V_FAIL (R462). The 54 V input stays out of range for 20 µs. The input switch opens and the power-loss sequence runs. -/
  | input54vFail (high : Bool)
  /-- INPUT_54V_RETURN (R462). The 54 V input returns to the start threshold. Start-up resumes from step 5, or a module reset follows. -/
  | input54vReturn
  /-- STANDBY_FAIL (R462). The 12 V input falls below 10.8 V. MGT programs the queued log and switches the domain off after R329. -/
  | standbyFail
  /-- HOLDUP_READY (R463). The hold-up bank reaches READY, and held write-class programs may start. -/
  | holdupReady
  /-- HOLDUP_FAULT (R463). The charger misses READY within 5 s, or the self-test finds the bank low. The bank state becomes FAULT and writes become write-protected. -/
  | holdupFault
  /-- POWER_CAP_STEP (R464). On each 10 ms step, the best-effort gate g moves down or up by the 100 ms power average. -/
  | powerCapStep (avg : BitVec 16)
  /-- TEMPERATURE_LIMIT (R466). A temperature stays above a warning, throttle or critical limit for 10 ms, and that limit acts. -/
  | temperatureLimit (sensor : Fin 162) (limit : Fin 3)
  /-- TEMPERATURE_RELEASE (R466). A temperature stays 5 °C below a limit for 1 s, and the limit is released. -/
  | temperatureRelease (sensor : Fin 162) (limit : Fin 3)
  /-- RAIL_OUT_OF_RANGE (R467). A rail stays outside ±5 % for 100 µs. Its die or stack is lost, or the module resets. -/
  | railOutOfRange (rail : Fin 34) (high : Bool)
  /-- LOW_FLOW (R465). The outlet exceeds the inlet by more than 20 °C for 10 s, and log 0x8403 is written. -/
  | lowFlow
  /-- HEALTH_POLL_MISS (R472). A die misses its third consecutive 10 ms health poll and is lost. -/
  | healthPollMiss (u : DieUnit)
  /-- MGT_WATCHDOG_EXPIRY (R472). The 2 s hardware watchdog of the management processor expires and causes a module reset. -/
  | mgtWatchdogExpiry
  /-- SENSOR_SAMPLE (R395). The sensor hub samples every sensor on its 1 ms period. -/
  | sensorSample (vals : List (Option (BitVec 32)))
  /-- ENERGY_ESTIMATE (R263). Every 100 µs, HUB adds the activity-based energy estimates to each partition. -/
  | energyEstimate (acts : List (Fin 32 × List Nat))
  /-- ENERGY_RECONCILE (R263). At the end of each 10 ms window, the estimates are reconciled with the measured energy. -/
  | energyReconcile (meas : Option Nat)
  /-- FABRIC_PACKET (R41). A packet reaches HUB, is routed on its flow's lane, and is delivered to its destination port. -/
  | fabricPacket (p : Packet)
  /-- CREDIT_RETURN (R45). A credit return reaches the sender and restores its credits. -/
  | creditReturn (port : Fin 31) (lane : Fin 48) (dir : Bool) (vc : Fin 6)
  /-- FLIT_CRC_FAIL (R48). A flit fails its CRC. The receiver discards the lane's later flits and requests replay. -/
  | flitCrcFail (port : Fin 31) (lane : Fin 48) (dir : Bool) (again : Bool) (retrain : Option Bool)
  /-- CREDIT_SNAP_GO (R46). A write of GO to HUB_CREDIT_SNAP_CTL snapshots the credit books of one hop. -/
  | creditSnapGo (w : BitVec 32)
  /-- LNK_CREDIT_SNAP_GO (R374). A write of GO to LNK_CREDIT_SNAP_CTL snapshots the credit books of one link VC. -/
  | lnkCreditSnapGo (l : Fin 48) (w : BitVec 32)
  /-- STAGE (R65). A WARP_CTL STAGE request copies the image into the shadow store and starts validation. -/
  | stage
  /-- STAGE_COMPLETE (R63). Validation of the copy ends. The shadow slot becomes STAGED, or returns to its former state with WARP_STATUS set. -/
  | stageComplete (h : Option HostErr)
  /-- COMMIT (R65). A WARP_CTL COMMIT request applies and locks the staged image. -/
  | commit
  /-- STRUCT_RESET (R66). A WARP_CTL STRUCT_RESET request stops ring fetching and starts draining the jobs. -/
  | structReset
  /-- DISCARD (R65). A WARP_CTL DISCARD request empties the shadow slot. -/
  | discard
  /-- DRAIN_WINDOW_EXPIRY (R66). DRAIN_WINDOW ends or the jobs drain. Remaining jobs stop, partitions reset, and apply and lock run. -/
  | drainWindowExpiry
  /-- CONFIG_STORE_WRITE (R68). After commit with STORE = 1, the image is written over the older copy in NOR bank D and verified. -/
  | configStoreWrite (ok : Bool)
  /-- REGISTER_WRITE (R7). A write to a register without its own row acts by its fields' access codes, subject to R9. -/
  | registerWrite (a : RegAccess)
  /-- LOCKERR_CLEAR (R70). A write of 1 to WARP_LOCKERR.LOCKERR re-arms the capture and zeroes COUNT. -/
  | lockerrClear
  /-- ALU (R77). A thread executes an ALU instruction. -/
  | alu (c : Fin 64) (t : Fin 32)
  /-- LUI (R76). A thread executes LUI. -/
  | lui (c : Fin 64) (t : Fin 32)
  /-- LD (R76). A thread loads from memory at a + sext(IMM). -/
  | ld (c : Fin 64) (t : Fin 32)
  /-- ST (R76). A thread stores to memory. -/
  | st (c : Fin 64) (t : Fin 32)
  /-- AMO (R76). A thread performs an atomic SWAP, ADD or CAS on 8 bytes. -/
  | amo (c : Fin 64) (t : Fin 32)
  /-- LOAD_DATA_RETURN (R72). The data of an L1-missing LD, ST, AMO or fetch returns, and the instruction completes. -/
  | loadDataReturn (c : Fin 64) (t : Fin 32) (hits : List MemHit)
  /-- BR (R76). A thread executes a conditional branch. -/
  | br (c : Fin 64) (t : Fin 32)
  /-- JAL (R76). A thread executes JAL. -/
  | jal (c : Fin 64) (t : Fin 32)
  /-- JALR (R76). A thread executes JALR. -/
  | jalr (c : Fin 64) (t : Fin 32)
  /-- EXIT (R96). A task ends, reporting its result code once its descriptors complete. -/
  | exitTask (c : Fin 64) (t : Fin 32)
  /-- YIELD (R76). A thread yields its issue turn. -/
  | yieldTurn (c : Fin 64) (t : Fin 32)
  /-- TRAP (R76). A thread raises the program fault TRAP. -/
  | trap (c : Fin 64) (t : Fin 32)
  /-- SPR (R78). A thread reads a special value. -/
  | spr (c : Fin 64) (t : Fin 32)
  /-- ISSUE (R81). A thread hands a 128-bit descriptor to an engine queue, waiting for space. -/
  | issue (c : Fin 64) (t : Fin 32)
  /-- SIGNAL (R76). A thread adds to a sync object. -/
  | signal (c : Fin 64) (t : Fin 32)
  /-- WAIT (R91). A thread waits on a sync object, with or without a limit. -/
  | waitObj (c : Fin 64) (t : Fin 32)
  /-- SETC (R76). A thread sets COUNT of an object. -/
  | setc (c : Fin 64) (t : Fin 32)
  /-- SETT (R76). A thread sets THRESHOLD, and optionally MODE. -/
  | sett (c : Fin 64) (t : Fin 32)
  /-- SREAD (R76). A thread reads an object's count and threshold, or its SYNC_CTL. -/
  | sread (c : Fin 64) (t : Fin 32)
  /-- TASK_POST (R95). A thread posts a 64-byte task record to Shuttle. -/
  | taskPost (c : Fin 64) (t : Fin 32)
  /-- FENCE (R137). A thread executes an ACQUIRE, RELEASE or FULL fence. -/
  | fence (c : Fin 64) (t : Fin 32)
  /-- FENCE_ENGINES (R76). A thread waits until every descriptor it has issued has completed. -/
  | fenceEngines (c : Fin 64) (t : Fin 32)
  /-- WAIT_TIMEOUT (R91). A timed WAIT's timer expires. The core sends a cancel, and the store answers released or cancelled. -/
  | waitTimeout (c : Fin 64) (t : Fin 32)
  /-- SYNC_UPDATE (R88). The sync store applies the arrivals at one object as one update and releases waiters by mode. -/
  | syncUpdate (bank : Fin 32)
  /-- WAKE_DELIVERY (R92). A wake message reaches a core and completes the released thread's WAIT. -/
  | wakeDelivery (c : Fin 64) (t : Fin 32)
  /-- SYNC_CSR_WRITE (R86). A CSR write to an object's COUNT or THRESHOLD acts as SETC or SETT. -/
  | syncCsrWrite (obj : BitVec 13) (off : Fin 2) (wide : Bool) (v : BitVec 64)
  /-- HUB_SYNC_SIGNAL_WRITE (R93). A 64-bit write to HUB_SYNC_SIGNAL adds ADD to OBJECT. -/
  | hubSyncSignalWrite (v : BitVec 64)
  /-- TASK_DISPATCH (R96). Shuttle starts a ready task on a FREE thread of an eligible core. -/
  | taskDispatch (lc : Bool)
  /-- NOTICE_RING_CONS_WRITE (R98). A write to NOTICE_RING_CONS frees slots, and held records are written. -/
  | noticeRingConsWrite (ring : Fin 33) (v : BitVec 32)
  /-- WM_HIT_CLEAR (R102). A write of 1 to WM_HIT re-arms the monitor, which relatches if the level is still beyond. -/
  | wmHitClear (w : Fin 256)
  /-- WM_CFG_WRITE (R102). A write to NOTICE_WM_CFG; enabling latches at once if the level is beyond MARK. -/
  | wmCfgWrite (w : Fin 256) (v : BitVec 64)
  /-- XREQ_ENABLE (R114). A write that sets PTN_XREQ_CFG.ENABLE makes HUB set the trigger object and serve the request ring. -/
  | xreqEnable (p : Fin 32) (v : BitVec 32)
  /-- SHOOT_RANGE (R116). HUB takes a SHOOT_RANGE record and invalidates the range in the partition's caches. -/
  | shootRange (p : Fin 32)
  /-- SHOOT_ALL (R116). HUB takes a SHOOT_ALL record and invalidates every cached translation of the partition. -/
  | shootAll (p : Fin 32)
  /-- SHOOTDOWN_ACK (R116). An agent's shootdown acknowledgement arrives; after the last one, DONE is signalled. -/
  | shootdownAck (p : Fin 32) (agent : Fin 65)
  /-- RESUME (R121). HUB takes a RESUME record, and the halted agent walks afresh. -/
  | resume (p : Fin 32)
  /-- RESUME_PAGE (R121). HUB takes a RESUME_PAGE record, resuming every agent halted on the page. -/
  | resumePage (p : Fin 32)
  /-- ABORT (R121). HUB takes an ABORT record, and the halted agent aborts. -/
  | abortAgent (p : Fin 32)
  /-- MOVE (R124). HUB takes a MOVE record, swaps the leaf to MOVING, shoots the page down and starts the copy. -/
  | movePage (p : Fin 32)
  /-- MOVE_COPY_DONE (R124). The 64 KiB copy ends. The leaf is rewritten, shot down again and DONE is signalled. -/
  | moveCopyDone (p : Fin 32)
  /-- RESUME_WINDOW_EXPIRY (R121). RESUME_WINDOW expires for a halted agent, which aborts with cause TRANSLATION. -/
  | resumeWindowExpiry (agent : BitVec 16)
  /-- FAULT_QUEUE_CONS_WRITE (R120). A write to PTN_FAULT_CONS frees slots for waiting fault records. -/
  | faultQueueConsWrite (p : Fin 32) (v : BitVec 32)
  /-- RD_S (R127). The directory serves a read-shared request. -/
  | rdS (c : Fin 64) (line : BitVec 44)
  /-- RD_X (R130). The directory serves a read-for-ownership request. -/
  | rdX (c : Fin 64) (line : BitVec 44)
  /-- UPGR (R131). The directory serves an S-to-M upgrade, or serves it as RD_X. -/
  | upgr (c : Fin 64) (line : BitVec 44)
  /-- EVICT_DIRTY (R129). The directory takes a dirty eviction and sends EVICT_ACK. -/
  | evictDirty (c : Fin 64) (line : BitVec 44)
  /-- EVICT_CLEAN (R129). The directory takes a clean eviction. -/
  | evictClean (c : Fin 64) (line : BitVec 44)
  /-- RD_U (R132). The directory serves an uncached read. -/
  | rdU (agent : BitVec 16) (line : BitVec 44)
  /-- WR_U (R132). The directory serves an uncached write under a byte mask. -/
  | wrU (agent : BitVec 16) (line : BitVec 44) (mask : BitVec 64) (data : BitVec 512)
  /-- SNP_INV (R131). A core receives an invalidating snoop and answers. -/
  | snpInv (c : Fin 64) (line : BitVec 44)
  /-- SNP_SHARE (R132). A core downgrades to S and supplies dirty data. -/
  | snpShare (c : Fin 64) (line : BitVec 44)
  /-- SNP_OWN (R130). A core supplies data and invalidates. -/
  | snpOwn (c : Fin 64) (line : BitVec 44)
  /-- ACK (R127). The directory receives a snoop answer: no copy or clean. -/
  | snoopAck (c : Fin 64) (line : BitVec 44)
  /-- ACK_DATA (R127). The directory receives a snoop answer carrying dirty data. -/
  | snoopAckData (c : Fin 64) (line : BitVec 44)
  /-- GONE (R129). The directory receives GONE for a line whose eviction is in flight. -/
  | gone (c : Fin 64) (line : BitVec 44)
  /-- DATA_S (R127). A core receives a fill in S. -/
  | dataS (c : Fin 64) (line : BitVec 44)
  /-- DATA_E (R127). A core receives a fill in E. -/
  | dataE (c : Fin 64) (line : BitVec 44)
  /-- DATA_X (R127). A core receives a fill in M. -/
  | dataX (c : Fin 64) (line : BitVec 44)
  /-- GRANT (R127). A core receives an upgrade grant without data. -/
  | grant (c : Fin 64) (line : BitVec 44)
  /-- EVICT_ACK (R126). A core receives EVICT_ACK and frees the WB line. -/
  | evictAck (c : Fin 64) (line : BitVec 44)
  /-- COMP (R126). The directory receives a fill acknowledgement and leaves BUSY. -/
  | comp (c : Fin 64) (line : BitVec 44)
  /-- DONE_U (R132). An uncached agent receives completion of its request. -/
  | doneU (agent : BitVec 16) (line : BitVec 44)
  /-- MMA (R173). The matrix engine takes an MMA descriptor and runs a pass or main pass. -/
  | mma (c : Fin 64) (hits : List CoreHit)
  /-- ACC_LOAD (R173). The matrix engine loads accumulator entries from a run. -/
  | accLoad (c : Fin 64)
  /-- ACC_STORE (R173). The matrix engine converts entries into result slots. -/
  | accStore (c : Fin 64) (hits : List CoreHit)
  /-- ACC_CLEAR (R173). The matrix engine sets entries to +0. -/
  | accClear (c : Fin 64)
  /-- REMAINDER_PASS (R170). The engine runs the remainder set's pass and the completions of its operations. -/
  | remainderPass (c : Fin 64)
  /-- MATRIX_COMPLETE (R175). A matrix operation finishes, ORs its flags and sends its completion signal. -/
  | matrixComplete (c : Fin 64)
  /-- COMPARE_AND_COUNT (R187). The compare-and-count engine tests a run against a key, counts and writes a mask. -/
  | compareAndCount (c : Fin 64) (hits : List CoreHit)
  /-- ADD (R191). Vector elementwise a + b. -/
  | vAdd (c : Fin 64)
  /-- SUB (R191). Vector elementwise a - b. -/
  | vSub (c : Fin 64)
  /-- MUL (R191). Vector elementwise a × b. -/
  | vMul (c : Fin 64)
  /-- FMA (R191). Vector fused multiply-add. -/
  | vFma (c : Fin 64)
  /-- MIN (R192). Vector elementwise minimum. -/
  | vMin (c : Fin 64)
  /-- MAX (R192). Vector elementwise maximum. -/
  | vMax (c : Fin 64)
  /-- ABS (R191). Vector absolute value. -/
  | vAbs (c : Fin 64)
  /-- NEG (R191). Vector negation. -/
  | vNeg (c : Fin 64)
  /-- CLT (R192). Vector compare less than. -/
  | vClt (c : Fin 64)
  /-- CEQ (R192). Vector compare equal. -/
  | vCeq (c : Fin 64)
  /-- COPY (R191). Vector format conversion copy. -/
  | vCopy (c : Fin 64)
  /-- FILL (R191). Vector fill with SCALAR. -/
  | vFill (c : Fin 64)
  /-- RSUM (R191). Vector sum reduction in ACC. -/
  | rsum (c : Fin 64)
  /-- RMAX (R191). Vector maximum reduction. -/
  | rmax (c : Fin 64)
  /-- STATS (R203). The vector engine accumulates a statistics record. -/
  | stats (c : Fin 64)
  /-- LNORM (R204). Layer normalisation from a record. -/
  | lnorm (c : Fin 64)
  /-- RNORM (R204). Root-mean-square normalisation from a record. -/
  | rnorm (c : Fin 64)
  /-- SMAX_SUM (R208). The vector engine builds the soft-maximum state record. -/
  | smaxSum (c : Fin 64)
  /-- SMAX_NORM (R209). The vector engine writes soft-maximum outputs from the record. -/
  | smaxNorm (c : Fin 64)
  /-- VECTOR_COMPLETE (R212). A vector operation finishes, writes its record, ORs its flags and signals. -/
  | vectorComplete (c : Fin 64) (hits : List CoreHit)
  /-- SFU_OP (R196). The SFU engine writes f(p × a) for a run from a table slot. -/
  | sfuOp (c : Fin 64) (hits : List CoreHit)
  /-- SFU_COMPLETE (R212). An SFU operation finishes and signals. -/
  | sfuComplete (c : Fin 64)
  /-- SFU_SLOT_RELOAD (R202). A slot reload from HUB's copy after an uncorrectable error finishes, and waiting descriptors proceed. -/
  | sfuSlotReload (c : Fin 64)
  /-- LOAD (R229). A stream engine starts a LOAD stream of tiles into its slot ring. -/
  | streamLoad (c : Fin 64) (e : Fin 2)
  /-- STORE (R229). A stream engine starts a STORE stream from slots to memory. -/
  | streamStore (c : Fin 64) (e : Fin 2)
  /-- GATHER (R230). A stream engine starts a GATHER stream that builds rows from indexed chunks. -/
  | streamGather (c : Fin 64) (e : Fin 2)
  /-- MC_LEAD (R232). A stream engine leads a multicast stream of a group. -/
  | mcLead (c : Fin 64) (e : Fin 2)
  /-- MC_JOIN (R233). A member stream engine joins a multicast stream, registering four tokens. -/
  | mcJoin (c : Fin 64) (e : Fin 2)
  /-- STREAM_ROW_LANDED (R230). A stream row's data lands. When a tile completes, DONE_OBJ is signalled, and at the last tile the stream completes. -/
  | streamRowLanded (c : Fin 64) (e : Fin 2) (hits : List MemHit)
  /-- FETCH_TOKEN (R233). A slot-return token reaches HUB, and the leader may start the next tile. -/
  | fetchToken (g : Fin 32) (c : Fin 64)
  /-- BOBBIN (R238). The Bobbin path translates both pages and moves up to 512 bytes. -/
  | bobbin (c : Fin 64)
  /-- BOBBIN_COMPLETE (R238). A Bobbin transfer's write completes and its completion is signalled. -/
  | bobbinComplete (c : Fin 64)
  /-- IN_PLACE_RESUME (R251). With no latency-critical work left, the engine restores and resumes the pre-empted operation. -/
  | inPlaceResume (c : Fin 64) (eng : Fin 7)
  /-- TIME_SLICE (R256). At a millisecond boundary, Shuttle takes cores for waiting best-effort jobs by full save. -/
  | timeSlice
  /-- FULL_SAVE_COMPLETE (R254). A full save's frame is complete, and the core passes to the waiting job or is restored. -/
  | fullSaveComplete (c : Fin 64)
  /-- FULL_RESTORE (R255). A saved frame is restored onto an eligible core, and the job holds it. -/
  | fullRestore (c : Fin 64)
  /-- REGULATOR_RELEASE (R260). A held request is served once its bucket level rises above its hold level. -/
  | regulatorRelease (p : Fin 32) (r : Fin 6)
  /-- LC_PIN_WRITE (R258). A write to PTN_LC_PIN makes every core of the partition walk and lock, or unpin, the page. -/
  | lcPinWrite (p : Fin 32) (n : Fin 4) (v : BitVec 64)
  /-- ACCT_SNAPSHOT_GO (R264). A write of GO to PTN_ACCT_CTL captures the partition's account counters. -/
  | acctSnapshotGo (p : Fin 32)
  /-- DB_SQ_TAIL_WRITE (R351). A doorbell write posts submission entries, or is dropped as invalid. -/
  | dbSqTailWrite (p : Fin 32) (r : Fin 4) (v : BitVec 32)
  /-- DB_CQ_HEAD_WRITE (R351). A write of the CQ head releases completion slots, or is dropped. -/
  | dbCqHeadWrite (p : Fin 32) (r : Fin 4) (v : BitVec 32)
  /-- HELLO (R350). A 64-bit write to DB_HELLO opens a Weft session after version and base checks. -/
  | hello (p : Fin 32) (v : BitVec 64)
  /-- ENTRY_FETCH (R352). A submission entry's read returns, and Shuttle admits or refuses it. -/
  | entryFetch (p : Fin 32) (r : Fin 4)
  /-- CQ_IRQ_TIMER (R370). The DB_CQ_IRQ TIME limit expires after an unsignalled completion, and the MSI-X message is raised. -/
  | cqIrqTimer (p : Fin 32) (r : Fin 4)
  /-- RUN (R358). The Weft opcode RUN builds a root task record. -/
  | runTask (job : BitVec 32)
  /-- SEARCH (R291). The Weft opcode SEARCH takes a snapshot and runs the search kernel. -/
  | searchJob (job : BitVec 32)
  /-- INSERT (R294). The Weft opcode INSERT encodes and commits insert records. -/
  | insertJob (job : BitVec 32)
  /-- DELETE (R294). The Weft opcode DELETE commits tombstones. -/
  | deleteJob (job : BitVec 32)
  /-- CREATE (R296). MERGE sub-operation CREATE writes a new index at CSN 1. -/
  | createIx (job : BitVec 32)
  /-- OPEN (R296). MERGE sub-operation OPEN copies the kernel, centroids, codebooks and mirror into the context. -/
  | openIx (job : BitVec 32)
  /-- MERGE (R297). MERGE sub-operation MERGE builds new list versions up to the through-CSN. -/
  | mergeIx (job : BitVec 32)
  /-- MERGE_PUBLISH (R297). The new versions are published at one CSN in one journal entry. -/
  | mergePublish (job : BitVec 32) (bad : List (BitVec 21))
  /-- DROP (R296). MERGE sub-operation DROP refuses new jobs and frees the index once no snapshot remains. -/
  | dropIx (job : BitVec 32)
  /-- STAT (R298). MERGE sub-operation STAT writes the index status block. -/
  | statIx (job : BitVec 32)
  /-- INGEST_BIND (R299). The Weft opcode binds a field stream to an ingest ring. -/
  | ingestBind (job : BitVec 32)
  /-- UNBIND (R362). INGEST_BIND with UNBIND releases a binding between two frames. -/
  | unbind (job : BitVec 32)
  /-- WEFT_FENCE (R363). The Weft FENCE opcode completes after earlier entries of its scope. -/
  | weftFence (job : BitVec 32)
  /-- CHECKPOINT (R389). The Weft opcode CHECKPOINT queries the coordinator and starts writing the listed pages. -/
  | checkpoint (job : BitVec 32) (last : BitVec 64)
  /-- CHECKPOINT_PAGES_WRITTEN (R389). The pages are written, and the slot becomes PREPARED and is reported to the coordinator. -/
  | checkpointPagesWritten (job : BitVec 32)
  /-- RESTORE (R390). The Weft opcode RESTORE writes back a committed checkpoint. -/
  | restore (job : BitVec 32) (last : BitVec 64)
  /-- QUERY_ACCOUNTS (R365). The Weft opcode snapshots the accounts and writes them to DEST_VA. -/
  | queryAccounts (job : BitVec 32)
  /-- LOAD_IMAGE (R226). The Weft opcode LOAD_IMAGE drains inference and starts the model load. -/
  | loadImage (job : BitVec 32)
  /-- IMAGE_UNLOAD (R366). LOAD_IMAGE of SRC_KIND 2 drains inference and leaves no image resident. -/
  | imageUnload (job : BitVec 32)
  /-- LOAD_DRAIN_END (R226). The load's drain ends or DRAIN_WINDOW expires, and the checks of step 2 run. -/
  | loadDrainEnd (h : Option HostErr)
  /-- LOAD_COPY_DONE (R226). The model copy ends. The resident map is written and the image is RESIDENT, or none. -/
  | loadCopyDone (h : Option HostErr)
  /-- CSR_READ (R367). The MGMT code CSR_READ reads a CSR offset into the reply. -/
  | csrRead (r : Route)
  /-- CSR_WRITE (R367). The MGMT code CSR_WRITE writes VALUE to a CSR offset. -/
  | csrWrite (r : Route)
  /-- WARP_STAGE (R367). The MGMT code WARP_STAGE stages an image from a partition VA. -/
  | warpStage (r : Route)
  /-- WARP_COMMIT (R367). The MGMT code WARP_COMMIT always completes with INVALID_FIELD. -/
  | warpCommit (r : Route)
  /-- WARP_STRUCT_RESET (R367). The MGMT code WARP_STRUCT_RESET requests a structural reset. -/
  | warpStructReset (r : Route)
  /-- WARP_DISCARD (R367). The MGMT code WARP_DISCARD discards the staged image. -/
  | warpDiscard (r : Route)
  /-- CANCEL (R368). The Weft CANCEL opcode stops a job, which completes with PREEMPTED. -/
  | cancelJob (job : BitVec 32)
  /-- SCAN_ENABLE (R275). A write that sets PTN_SCAN_CFG.ENABLE starts serving the scan ring. -/
  | scanEnable (p : Fin 32) (v : BitVec 32)
  /-- SCAN (R276). The dispatcher takes a SCAN record and queues its batch. -/
  | scan (p : Fin 32)
  /-- FETCH (R289). The dispatcher takes a FETCH record and reads records. -/
  | fetchRecords (p : Fin 32)
  /-- SCAN_INSERT (R294). A scan-ring INSERT record commits inserts. -/
  | scanInsert (p : Fin 32)
  /-- SCAN_DELETE (R294). A scan-ring DELETE record commits tombstones. -/
  | scanDelete (p : Fin 32)
  /-- BATCH_PLACE (R282). Once slots and tombstone sets are free, the dispatcher places a batch and sends extent descriptors. -/
  | batchPlace (lc : Bool)
  /-- EXTENT_DESCRIPTOR (R283). A Quern engine receives an extent descriptor and queues its page reads. -/
  | extentDescriptor (ch : Fin 64)
  /-- ENTRY_PAGE_READ (R284). An entry page arrives, and the engine scores its entries into the top-R sets. -/
  | entryPageRead (ch : Fin 64) (ue : Option (BitVec 32))
  /-- ENGINE_REPORT (R288). After LAST and the prefetch, an engine writes candidates, reports and frees its slots, and the last report signals DONE. -/
  | engineReport (ch : Fin 64)
  /-- WRITE (R311). The NVMe Write is encrypted, gathered, programmed and completed after the journal. -/
  | nvmeWrite (q : BitVec 16) (cmd : NvmeCmd)
  /-- READ (R310). The NVMe Read returns the data of each block by map entry. -/
  | nvmeRead (q : BitVec 16) (cmd : NvmeCmd)
  /-- FLUSH (R337). The NVMe Flush completes once earlier writes are on the medium. -/
  | nvmeFlush (q : BitVec 16) (cmd : NvmeCmd)
  /-- WRITE_ZEROES (R337). The NVMe Write Zeroes unmaps the range atomically. -/
  | writeZeroes (q : BitVec 16) (cmd : NvmeCmd)
  /-- DATASET_MANAGEMENT (R323). The NVMe Dataset Management Deallocate records discards. -/
  | datasetManagement (q : BitVec 16) (cmd : NvmeCmd)
  /-- ORDERED_WRITE (R343). A vendor write ordered against write-class commands in scope. -/
  | orderedWrite (q : BitVec 16) (cmd : NvmeCmd)
  /-- ORDERED_READ (R343). A vendor read ordered after earlier writes in scope. -/
  | orderedRead (q : BitVec 16) (cmd : NvmeCmd)
  /-- CREATE_IO_SQ (R336). The admin command creates an I/O submission queue. -/
  | createIoSq (cmd : NvmeCmd)
  /-- CREATE_IO_CQ (R336). The admin command creates an I/O completion queue. -/
  | createIoCq (cmd : NvmeCmd)
  /-- DELETE_IO_SQ (R336). The admin command deletes an I/O submission queue, aborting its commands. -/
  | deleteIoSq (cmd : NvmeCmd)
  /-- DELETE_IO_CQ (R336). The admin command deletes an I/O completion queue. -/
  | deleteIoCq (cmd : NvmeCmd)
  /-- GET_LOG_PAGE (R339). The admin command returns a supported log page. -/
  | getLogPage (cmd : NvmeCmd)
  /-- IDENTIFY (R340). The admin command returns an Identify structure. -/
  | identify (cmd : NvmeCmd)
  /-- NVME_ABORT (R336). The admin Abort aborts a command that has not started. -/
  | nvmeAbort (cmd : NvmeCmd)
  /-- SET_FEATURES (R338). The admin command sets a supported feature. -/
  | setFeatures (cmd : NvmeCmd)
  /-- GET_FEATURES (R338). The admin command returns a supported feature. -/
  | getFeatures (cmd : NvmeCmd)
  /-- ASYNCHRONOUS_EVENT_REQUEST (R342). The admin command arms an asynchronous event, or receives a pending one. -/
  | asyncEventRequest (cmd : NvmeCmd)
  /-- FIRMWARE_IMAGE_DOWNLOAD (R348). The admin command writes a firmware piece into staging. -/
  | firmwareImageDownload (cmd : NvmeCmd)
  /-- FIRMWARE_COMMIT (R348). The admin command checks, writes or activates a firmware slot. -/
  | firmwareCommit (cmd : NvmeCmd)
  /-- FORMAT_NVM (R347). The admin command unmaps or crypto-erases a host namespace. -/
  | formatNvm (cmd : NvmeCmd)
  /-- CONTROLLER_ENABLE (R335). A write of CC.EN enables the controller, or resets it when cleared. -/
  | controllerEnable (cc : BitVec 32)
  /-- SHUTDOWN (R335). CC.SHN writes the journal buffers and reports shutdown complete. -/
  | shutdown (cc : BitVec 32)
  /-- POWER_STATE_TRANSITION_DONE (R345). Entry to or exit from a flash-side power state completes. -/
  | powerStateTransitionDone
  /-- FLR_PF0 (R334). A function level reset of PF0 acts as an NVMe controller reset. -/
  | flrPf0
  /-- FLR_PF1 (R334). A function level reset of PF1 ends every Weft session and stops every job. -/
  | flrPf1
  /-- HOT_RESET (R334). A hot reset, link down or PERST# acts as both FLRs. -/
  | hotReset
  /-- WORDLINE_GATHER_EXPIRY (R311). The 8 µs gather window ends, and the one-bit wordline is padded and programmed. -/
  | wordlineGatherExpiry (ch : Fin 64)
  /-- NAND_PROGRAM_COMPLETE (R311). A page program finishes, stripe parity is updated and the journal record is written. -/
  | nandProgramComplete (ch : Fin 64) (ok : Bool)
  /-- ERASE_COMPLETE (R322). A block erase finishes, and the wear-levelling trigger is tested. -/
  | eraseComplete (block : BitVec 21) (ok : Bool)
  /-- NAND_PAGE_READ (R318). A page read climbs the retry and rebuild ladder until it decodes or the unit is lost. -/
  | nandPageRead (unit : BitVec 36) (res : ReadLadder)
  /-- FOLD (R313). With the Millpond at 10 % of C or more, an FC die folds the oldest one-bit data into QLC. -/
  | fold (die : Fin 8) (bad : List (BitVec 21))
  /-- GARBAGE_COLLECTION (R321). Below 4,096 free blocks, an FC die relocates and frees QLC blocks. -/
  | garbageCollection (die : Fin 8) (bad : List (BitVec 21))
  /-- REFRESH (R320). An FC die relocates a block that has reached its read, age or soft-decode limit. -/
  | refresh (block : BitVec 21) (bad : List (BitVec 21))
  /-- JOURNAL_FLUSH (R328). A half-full journal buffer is written to the system area. -/
  | journalFlush (die : Fin 8)
  /-- POOL_SNAPSHOT_GO (R306). A write of GO to FC_POOL_CTL captures the pool books of all eight dies. -/
  | poolSnapshotGo
  /-- LINK_TRAINING (R372). After commit, a link with a direction starts training. -/
  | linkTraining (l : Fin 48) (ok : Bool)
  /-- LINK_TRAINING_RETRY (R372). A training that failed in steps 1-3 is retried every 1 s. -/
  | linkTrainingRetry (l : Fin 48) (ok : Bool)
  /-- IDENTITY_EXCHANGE (R373). The partner's identity arrives. The link is checked and goes UP, REFUSED or MISWIRED. -/
  | identityExchange (l : Fin 48) (id : LinkIdent)
  /-- LINK_REPLAY (R375). A link flit fails its CRC or sequence, and replay is requested. -/
  | linkReplay (l : Fin 48) (fec : BitVec 16) (fail : Option Bool)
  /-- LANE_LOCK_LOSS (R375). A lane stays out of lock for 1 ms, and the link goes DOWN. -/
  | laneLockLoss (l : Fin 48)
  /-- LINK_DOWN_RETRAIN (R375). A DOWN link's 10 s timer expires, and it retrains. -/
  | linkDownRetrain (l : Fin 48) (ok : Bool)
  /-- REACHABILITY_MESSAGE (R377). A reachability message records a dead direction on a ring. -/
  | reachabilityMessage (m : ReachMsg)
  /-- REMOTE_REQUEST (R380). The target serves or refuses a remote read, write, AMO or signal-page write. -/
  | remoteRequest (r : RemReq)
  /-- REMOTE_REFUSAL (R383). A refusal or unreachable destination fails the source access as kind WINDOW. -/
  | remoteRefusal (agent : BitVec 16)
  /-- JOB_ABORT_MESSAGE (R386). A job-abort message stops the key's jobs and is forwarded once. -/
  | jobAbortMessage (l : Fin 48) (key : BitVec 64)
  /-- COLL_ENABLE (R384). A write that sets PTN_COLL_CFG.ENABLE starts serving the collective ring. -/
  | collEnable (p : Fin 32) (v : BitVec 32)
  /-- ALLREDUCE (R385). A collective record reduces along the group's rings. -/
  | allreduce (p : Fin 32) (others : List (Nat × List (BitVec 8)))
  /-- BROADCAST (R385). A collective record copies ROOT's data to every member. -/
  | broadcast (p : Fin 32) (others : List (Nat × List (BitVec 8)))
  /-- BARRIER (R385). A collective record completes once every member has posted. -/
  | barrier (p : Fin 32) (others : List (Nat × List (BitVec 8)))
  /-- PREPARED (R389). The coordinator receives PREPARED. With all modules prepared, it commits and sends COMMIT. -/
  | prepared (mod : Fin 2048) (key : BitVec 64) (id : BitVec 64)
  /-- CHECKPOINT_COMMIT (R389). A participant receives COMMIT, marks its slot COMMITTED and completes. -/
  | checkpointCommit (key : BitVec 64) (id : BitVec 64)
  /-- CHECKPOINT_ABORT (R389). A participant receives ABORT and completes without committing. -/
  | checkpointAbort (key : BitVec 64) (id : BitVec 64) (status : BitVec 8)
  /-- STATUS (R394). The management command returns the status registers and the service level. -/
  | mgmtStatus (r : Route)
  /-- SENSOR_READ (R394). The management command returns sensor words. -/
  | sensorRead (r : Route)
  /-- LOG_READ (R407). The management command returns log entries by SEQ. -/
  | logRead (r : Route)
  /-- FW_DOWNLOAD (R410). The management command writes a firmware piece into staging. -/
  | fwDownload (r : Route)
  /-- FW_COMMIT (R411). The management command checks, writes and activates a firmware slot. -/
  | fwCommit (r : Route)
  /-- OVERRIDE_UNTESTED (R416). The management command overrides an untested combination and leaves held mode. -/
  | overrideUntested (r : Route)
  /-- RAISE_SECVER (R413). The management command raises the fused SECVER minimum. -/
  | raiseSecver (r : Route)
  /-- CRYPTO_ERASE (R421). The management command replaces a namespace key and unmaps its entries. -/
  | cryptoErase (r : Route)
  /-- RESET (R394). The management command requests a module reset or a full power cycle. -/
  | mgmtReset (r : Route)
  /-- DEBUG_REOPEN (R424). The management command destroys keys, blows fuses, opens debug and resets. -/
  | debugReopen (r : Route)
  /-- NOR_OP_COMPLETE (R400). A NOR program or erase ends with its verify, and a failure retries, remaps or retires. -/
  | norOpComplete (bank : Fin 3) (ok : Bool)
  /-- NOR_DAILY_SCAN (R400). The 24-hour margin scan schedules sector refreshes. -/
  | norDailyScan (finds : List NorFind)
  /-- LOG_ENTRY_PROGRAM (R406). A queued log entry is programmed into the ring, and the window moves when a sector fills. -/
  | logEntryProgram
  /-- LOG_ARCHIVE_PAGE (R405). A full log sector is archived and its index record written. -/
  | logArchivePage (ok : Bool)
  /-- FIELD_RING_ENABLE (R431). A write that sets PTN_FIELD_CFG.ENABLE starts serving the field ring. -/
  | fieldRingEnable (p : Fin 32) (v : BitVec 32)
  /-- SLOT_WRITE (R442). A field record replaces a mailbox slot's back buffer, and flips if FLIP is set. -/
  | slotWrite (p : Fin 32)
  /-- DO_WRITE (R431). A field record commands outputs and restarts the watchdog. -/
  | doWrite (p : Fin 32)
  /-- WDOG (R432). A field record sets the field watchdog period. -/
  | wdog (p : Fin 32)
  /-- FIELD_WATCHDOG_EXPIRY (R432). The field watchdog expires, and the partition's outputs are held. -/
  | fieldWatchdogExpiry (p : Fin 32)
  /-- FIELD_SUPPLY_LOSS (R428). FIELD_24V stays below 17 V for 100 µs, and every output is unpowered. -/
  | fieldSupplyLoss
  /-- FIELD_SUPPLY_RESTORE (R428). FIELD_24V stays above 18 V for 10 ms, and the supply is restored. -/
  | fieldSupplyRestore
  /-- DO_OVERLOAD (R433). An output stays in current limit for 1 ms or overheats, and latches FAULT. -/
  | doOverload (n : Fin 8)
  /-- DO_FAULT_CLEAR (R433). A write of 1 to FIELD_DO.FAULT clears the latch, and the output returns to its row. -/
  | doFaultClear (mask : BitVec 8)
  /-- DO_CLEAR (R457). The management command clears output FAULT latches. -/
  | doClear (r : Route)
  /-- DI_CHANGE (R434). A digital input is stable for 200 µs at a new level, so it changes state and notifies. -/
  | diChange (n : Fin 8) (level : Bool)
  /-- INH_CHANNEL_CHANGE (R435). An inhibit channel changes level, updating DEMAND and the timers. -/
  | inhChannelChange (n : Fin 2) (chB : Bool) (released : Bool)
  /-- INH_DISAGREE_EXPIRY (R436). DISAGREE reaches DISC, and the inhibit input enters FAULT. -/
  | inhDisagreeExpiry (n : Fin 2)
  /-- INH_AGREE_EXPIRY (R436). AGREE reaches DISC, and DISAGREE clears. -/
  | inhAgreeExpiry (n : Fin 2)
  /-- INH_ACK (R437). The management acknowledge of an inhibit FAULT is accepted or refused. -/
  | inhAck (r : Route)
  /-- FIELD_INH_ACK (R437). A write of 1 to FIELD_INH.ACK acknowledges an inhibit FAULT. -/
  | fieldInhAck (n : Fin 2)
  /-- BUTTON_RELEASE (R439). A press ends, and a module reset or a power cycle follows by hold time. -/
  | buttonRelease (holdMs : BitVec 30)
  /-- BUTTON_STUCK (R439). A press reaches 30 s, and the button is STUCK. -/
  | buttonStuck
  /-- BUTTON_UNSTICK (R439). The contact stays open for 1 s, and the stuck button recovers. -/
  | buttonUnstick
  /-- FIELD_FRAME_RX (R440). A field port receives a frame and classifies it to PTP, cyclic, ingest or drop. -/
  | fieldFrameRx (port : Fin 2) (f : List (BitVec 8)) (fcsOk : Bool)
  /-- CYCLIC_REQUEST (R445). A cyclic request is checked and its reply built from the mailbox. -/
  | cyclicRequest (port : Fin 2)
  /-- CYCLIC_REPLY_TRANSMIT (R445). A gate window opens and the reply leaves, or it is dropped as late. -/
  | cyclicReplyTransmit (port : Fin 2) (late : Bool)
  /-- QBV_LIST_ACTIVATE (R441). A new gate control list takes effect at its first cycle start. -/
  | qbvListActivate (port : Fin 2)
  /-- PTP_MESSAGE (R449). A PTP message yields an offset measurement, and the servo steps or slews. -/
  | ptpMessage (m : PtpMeas)
  /-- PTP_HOLDOVER (R449). After 3 s without a valid measurement, the time base enters HOLDOVER. -/
  | ptpHoldover
  /-- PPS_IN_EDGE (R448). A PPS_IN rising edge is time-stamped and taken as a second boundary. -/
  | ppsInEdge
  /-- TIME_APPLY_NOW (R447). A write of NOW to TIME_APPLY sets TIME_NOW to the staged value. -/
  | timeApplyNow
  /-- TIME_APPLY_AT_SECOND (R447). A write of AT_SECOND to TIME_APPLY stages the apply for the next boundary. -/
  | timeApplyAtSecond
  /-- SECOND_BOUNDARY_APPLY (R447). At the boundary, a pending apply sets TIME_NOW or is refused. -/
  | secondBoundaryApply
  /-- TIME_NOW_LOW_READ (R446). A 32-bit read of TIME_NOW's low half latches the high half for that interface. -/
  | timeNowLowRead (iface : Fin 36)
  /-- FIELD_STATUS (R457). The management command returns the FIELD registers. -/
  | fieldStatus (r : Route)
  /-- PORT_CFG (R457). The management command sets a port's FEC, PCP, station and groups. -/
  | portCfg (r : Route)
  /-- QBV_SET (R441). The management command sets a port's gate control list. -/
  | qbvSet (r : Route)
  /-- TIME_SETAPPLY (R457). The management command stages and applies a time. -/
  | timeSetapply (r : Route)
  /-- TIME_CFG (R448). The management command selects the time source, profile and domain. -/
  | timeCfg (r : Route)
  /-- CHAIN_STATUS (R457). The management command returns FIELD_CHAIN. -/
  | chainStatus (r : Route)
  /-- ENUM (R454). An ENUM frame of walk 1 or walk 2 passes the module, which claims or assigns an address. -/
  | enumFrame (down : Bool) (f : ChainFrame)
  /-- CHAIN_CMD (R456). A chain CMD frame is served as a chain-route command, with a REPLY. -/
  | chainCmd (down : Bool) (f : ChainFrame)
  /-- CHAIN_PORT_UP (R455). The chain ports come up, and the module sends ATTACH. -/
  | chainPortUp (down : Bool)
  /-- CHAIN_PORT_DOWN (R451). A chain port sees no idles for 100 µs and goes DOWN; on CHAIN_DOWN the module sends DETACH. -/
  | chainPortDown (down : Bool)
  /-- WON_FLAG_EXPIRY (R454). The won flag from walk 1 lapses after 1 s. -/
  | wonFlagExpiry
  /-- BUTTON_PRESS (R439). RESET_BTN has been closed for 20 ms, so the closure counts as a press: FIELD_BTN.STATE becomes PRESSED and PRESSES increments. -/
  | buttonPress
  /-- XCLK_RETURN (R438). XCLK returns after an absence, and once MGT reloads the field settings the outputs leave the de-energised state. -/
  | xclkReturn
  /-- PCIE_LINK_TRAINING (R331). The PCIe port trains to the best supported rate and width, or stays down and MGT writes log 0x7201. -/
  | pcieLinkTraining (res : Option PcieRes)
  /-- FIELD_PORT_LINK (R440). A field Ethernet port's 25GBASE-R link comes up or goes down, and FIELD_PORT.LINK follows. -/
  | fieldPortLink (port : Fin 2) (up : Bool)
  /-- CHAIN_FRAME_FORWARD (R452). A chain frame not addressed to the module (REPLY, EVENT, ATTACH, DETACH or a foreign CMD) is received, CRC-checked and stored and forwarded, or discarded and counted in CRC_ERRORS. -/
  | chainFrameForward (down : Bool) (f : ChainFrame)
  /-- LAST_COMMITTED_QUERY (R389). The coordinator receives a module's query for a key's last committed CKPT_ID and answers it. -/
  | lastCommittedQuery (mod : Fin 2048) (key : BitVec 64)
  /-- RANDOM_SOURCE_HEALTH_FAILURE (R417). A health test of the entropy source fails, so the enclave refuses key generation and logs 0x700A until the tests pass again. -/
  | randomSourceHealthFailure (pass : Bool)
  deriving DecidableEq, Repr

end Sys2Proof
end

