-- ==== Sys2Proof/Decode.lean ====
section
/-! DEFINITION. The command a word spells by the opcode table's bits. The table gives no row any bits (every row's
"fields" is empty), so no word spells a command. -/

namespace Sys2Proof

/-- No row of spec/opcode_table.json gives bits: no word is a command. -/
def decodeTableWord (_nbits _w : Nat) : Option Instr := none

end Sys2Proof
end

