-- ==== Sys2Proof/Config.lean ====
section
/-! DEFINITION. The free values of the model: constants without a body, for every value the spec leaves open. Nothing can
be proved about a value of one, so a theorem holds whatever it is. Each is named in the assumption log. -/

namespace Sys2Proof

/-- What a byte of board memory, host memory or a remote module reads as before anything has written it: by the count of
start-ups and the address (R135; log entry 7). -/
opaque Config.freeByte : Nat → Nat → BitVec 8

/-- A value the spec does not state, by the number of the place in the model that asks, and what it depends on (log entry 8). -/
opaque Config.freeNat : Nat → List Nat → Nat

/-- The direction of a tie the spec does not decide, by the place that asks and its operands (log entry 10). -/
opaque Config.tieUp : Nat → List Int → Bool

/-- The result a bounded, not exactly rounded operation delivers, by place and operands: an offset within its bound, in
the result's own unit (log entry 9). -/
opaque Config.pick : Nat → List Int → Int

/-- The verdict of the enclave's ECDSA P-384 check over an image's header and digests under a vendor key (R409; log entry 13). -/
opaque Config.signatureOk : Nat → List (BitVec 8) → Bool

/-- The 32 random bytes of a key generation, of which only the identity is used (R417; log entry 13). -/
opaque Config.keyCheck : Nat → Nat → Nat

/-- AES-256-XTS of a 4 KiB data unit under a tweak, with the key that a namespace has in a generation (R311; log entry 13). -/
opaque Config.xts : (nsid gen : Nat) → (tweak : BitVec 128) → (unit : BitVec 32768) → BitVec 32768

end Sys2Proof
end

