-- ==== Sys2Proof/Machine/Bits.lean ====
section
/-! DEFINITION. Bit fields, byte order and the plain list helpers of the meanings (R2, R3). -/

namespace Sys2Proof.Machine

/-- Field of `len` bits of `n` from bit `lo` up. -/
def fld (n lo len : Nat) : Nat := (n >>> lo) % 2 ^ len

/-- Bit `i` of `n`. -/
def bitN (n i : Nat) : Bool := (n >>> i) % 2 = 1

/-- 1 for true, 0 for false. -/
def b2n (b : Bool) : Nat := if b then 1 else 0

/-- The two's complement value of the low `w` bits of `n`. -/
def sx (w n : Nat) : Int := if n % 2 ^ w < 2 ^ (w - 1) then (n % 2 ^ w : Nat) else (n % 2 ^ w : Nat) - (2 ^ w : Nat)

/-- The low `w` bits of an integer as a natural number. -/
def wrapN (w : Nat) (i : Int) : Nat := (i % (2 ^ w : Nat)).toNat

/-- The `n` bytes of a number, least significant first (R3). -/
def bytesLE : Nat → Nat → List Byte
  | 0, _ => []
  | n + 1, v => BitVec.ofNat 8 v :: bytesLE n (v >>> 8)

/-- The number of a list of bytes, least significant first (R3). -/
def leNat : List Byte → Nat
  | [] => 0
  | b :: bs => b.toNat + (leNat bs) <<< 8

/-- `n` bytes of a record from offset `o`, as a number; bytes beyond its end read as 0. -/
def leAt (bs : List Byte) (o n : Nat) : Nat := leNat ((bs.drop o).take n)

/-- The bytes of a list in the opposite order of significance. -/
def beNat (bs : List Byte) : Nat := leNat bs.reverse

/-- The list padded with zeros, or cut, to `n` bytes. -/
def padTo (n : Nat) (bs : List Byte) : List Byte := bs.take n ++ List.replicate (n - bs.length) 0

/-- `n` zero bytes. -/
def zeros (n : Nat) : List Byte := List.replicate n 0

/-- Replaces the bytes of `bs` from offset `o` by `vs`, within its length. -/
def patch (bs : List Byte) (o : Nat) (vs : List Byte) : List Byte :=
  bs.take o ++ (vs.take (bs.length - o)) ++ bs.drop (o + vs.length)

/-- CRC-32C, bit by bit from the least significant one: the polynomial 0x1EDC6F41 reflected, all ones first and last
(R308; log entry 25). -/
def crc32c (bs : List Byte) : Nat :=
  let bit := fun (c : Nat) => if c % 2 = 1 then (c / 2) ^^^ 0x82F63B78 else c / 2
  (bs.foldl (fun c b => (List.range 8).foldl (fun c _ => bit c) (c ^^^ b.toNat)) 0xFFFFFFFF) ^^^ 0xFFFFFFFF

/-- True when every byte is zero. -/
def allZero (bs : List Byte) : Bool := bs.all (· == 0)

/-- Addition that saturates at the largest number of `w` bits. -/
def satAdd (w a b : Nat) : Nat := min (a + b) (2 ^ w - 1)

/-- `n` rounded up to a multiple of `m`. -/
def roundUp (n m : Nat) : Nat := (n + m - 1) / m * m

/-- The numbers of the set bits of `n` below `w`. -/
def bitsOf (w n : Nat) : List Nat := (List.range w).filter fun i => bitN n i

/-- The number of set bits below `w`. -/
def popN (w n : Nat) : Nat := (bitsOf w n).length

/-- `n` with bit `i` set to `b`. -/
def setBitN (n i : Nat) (b : Bool) : Nat :=
  if bitN n i == b then n else if b then n + 2 ^ i else n - 2 ^ i

/-- Replaces the element at index `i`. -/
def setAt {α : Type} : List α → Nat → α → List α
  | [], _, _ => []
  | _ :: xs, 0, v => v :: xs
  | x :: xs, i + 1, v => x :: setAt xs i v

/-- Removes the first element that satisfies `p`. -/
def dropFirst {α : Type} (p : α → Bool) : List α → List α
  | [] => []
  | x :: xs => if p x then xs else x :: dropFirst p xs

/-- Changes the first element that satisfies `p`. -/
def modFirst {α : Type} (p : α → Bool) (f : α → α) : List α → List α
  | [] => []
  | x :: xs => if p x then f x :: xs else x :: modFirst p f xs

/-- The list in pieces of `n` (the last may be shorter); `fuel` bounds the pieces. -/
def chunks {α : Type} (n : Nat) : Nat → List α → List (List α)
  | 0, _ => []
  | _, [] => []
  | f + 1, xs => xs.take n :: chunks n f (xs.drop n)

/-- Insertion of an element into a list sorted by `le`, behind its equals. -/
def insertBy {α : Type} (le : α → α → Bool) (x : α) : List α → List α
  | [] => [x]
  | y :: ys => if le y x then y :: insertBy le x ys else x :: y :: ys

/-- A list sorted by `le`, equals in their order. -/
def sortBy {α : Type} (le : α → α → Bool) (xs : List α) : List α := xs.foldl (fun acc x => insertBy le x acc) []

/-- The lines that `n` bytes from `pa` touch. -/
def linesOf (pa n : Nat) : List Nat :=
  if n = 0 then [] else (List.range ((pa + n - 1) / 64 - pa / 64 + 1)).map fun i => pa / 64 + i

end Sys2Proof.Machine
end

