-- ==== Sys2Proof/Machine/State.lean ====
section
/-! DEFINITION. The state of the LX-3200 as the spec gives it: every register, buffer, counter, mode and pin, the
queue of waiting commands, and the state after reset. Every field's default is its value at power-on reset; a value the
spec does not give is named in INVENTORY.md and in the assumption log (entries 4, 5 and 6). -/

namespace Sys2Proof.Machine

/-- A table by number: sorted by key, no key twice; a key not listed holds the table's default (its reader names it). -/
abbrev Tab (α : Type) := List (Nat × α)

/-- Memory by device physical address: addresses strictly rising (R103; log entry 7). -/
abbrev Memory := List Host.Cell

/-- The four fates an agent of the coherence domain's line can have in an L1 (R126). -/
inductive L1State where
  | M | E | S | WB
  deriving DecidableEq, Repr

/-- One line of an L1 data cache (R126); an absent line is I. -/
structure L1Line where
  /-- MESI state, WB while an eviction is in flight (R126 (05)). -/
  st : L1State := .S
  /-- a WB line that left M carries data (R126 (05)). -/
  dirty : Bool := false
  /-- the 64 bytes (R126 (05)). -/
  data : BitVec 512 := 0
  /-- poison travelling with a line read before the error arose (R135 (05)). -/
  poison : Bool := false
  deriving DecidableEq, Repr

/-- The directory's state of one line (R126). -/
inductive DirSt where
  | inv
  | shared (sharers : BitVec 64)
  | excl (owner : Fin 64)
  deriving DecidableEq, Repr
/-- A request the directory serves or queues (R127, R128). -/
inductive DirReqKind where
  | rdS | rdX | upgr | rdU | wrU (mask : BitVec 64) (data : BitVec 512)
  deriving DecidableEq, Repr

/-- A request for a line, with the agent that sent it (R127). -/
structure DirReq where
  /-- RD_S, RD_X, UPGR, RD_U or WR_U (R127 (05)). -/
  kind : DirReqKind := .rdS
  /-- global core 0-63; for RD_U and WR_U the agent code of R119 (R128 (05)). -/
  src : Nat := 0
  deriving DecidableEq, Repr

/-- The service of one request (R126, R128, R129). -/
structure DirBusy where
  /-- the request in service (R126 (05)). -/
  req : DirReq := {}
  /-- cores whose snoop answer is outstanding (SNOOPING while not 0) (R126 (05)). -/
  waiting : BitVec 64 := 0
  /-- cores whose eviction arrived and whose GONE is awaited (R129 (05)). -/
  evictSeen : BitVec 64 := 0
  /-- cores whose GONE arrived and whose eviction is awaited (R129 (05)). -/
  goneSeen : BitVec 64 := 0
  /-- the service is a back-invalidation (R133 (05)). -/
  backInv : Bool := false
  /-- the answer has been sent and COMP is awaited (R126 (05)). -/
  granted : Bool := false
  /-- state the line takes at COMP (R126 (05)). -/
  next : DirSt := .inv
  /-- the fill went out with POISON (R135 (05)). -/
  poison : Bool := false
  deriving DecidableEq, Repr

/-- A directory entry (R126). -/
structure DirEntry where
  /-- I, S with sharers, or X with its owner (R126 (05)). -/
  st : DirSt := .inv
  /-- BUSY or SNOOPING (R126 (05)). -/
  busy : Option DirBusy := none
  /-- requests waiting, oldest first, at most 64 (R128 (05)). -/
  queue : List DirReq := []
  /-- time of last use (R133 (05)). -/
  lru : Nat := 0
  deriving DecidableEq, Repr

/-- A message of R127 that the model has sent and whose arrival has not been commanded yet. -/
inductive CohMsg where
  | req (r : DirReqKind) (src : Nat) (line : Nat)
  | evictDirty (core line : Nat) (data : BitVec 512)
  | evictClean (core line : Nat)
  | snpInv (core line : Nat) | snpShare (core line : Nat) | snpOwn (core line : Nat)
  | ack (core line : Nat) | ackData (core line : Nat) (data : BitVec 512) | gone (core line : Nat)
  | dataS (core line : Nat) (data : BitVec 512) (poison : Bool)
  | dataE (core line : Nat) (data : BitVec 512) (poison : Bool)
  | dataX (core line : Nat) (data : BitVec 512) (poison : Bool)
  | grant (core line : Nat) | evictAck (core line : Nat) | comp (core line : Nat)
  | doneU (agent line : Nat) (data : BitVec 512) (poison : Bool)
  deriving DecidableEq, Repr

/-- The global coherence directory of HUB (R126-R133). -/
structure Directory where
  /-- by line number PA/64 (R126 (05)). -/
  entries : Tab DirEntry := []
  /-- messages sent and not yet arrived, oldest first (R127 (05)). -/
  msgs : List CohMsg := []
  /-- requests that wait at their source while 512 lines are busy (R128 (05)). -/
  srcWait : List (DirReq × Nat) := []
  /-- the core each bank last granted (R128 (05)). -/
  lastCore : Tab Nat := []
  /-- DIR_EVICTIONS, saturating (MEM_DIR_STATUS (05)). -/
  evictions : Nat := 0
  /-- use counter behind lru (R133 (05)). -/
  clock : Nat := 0
  deriving DecidableEq, Repr

/-- A task instruction in its fields (R75). -/
structure TInstr where
  op : Nat := 0
  rd : Nat := 0
  ra : Nat := 0
  rb : Nat := 0
  fn : Nat := 0
  imm : Nat := 0
  deriving DecidableEq, Repr

/-- What an executing thread waits for (R72, R73). -/
inductive Pend where
  | none
  | access (line : Nat)      -- an L1-missing LD, ST or AMO on this line (R72)
  | uncached (pa : Nat) (done : Option (BitVec 512 × Bool))   -- an LD, ST or AMO on an uncached target (R125)
  | fetch (line : Nat) (done : Option (BitVec 512 × Bool))    -- an instruction fetch that missed the instruction cache
  | queueSpace (eng : Nat)   -- ISSUE waiting for queue space (R81)
  | engines                  -- FENCE ENGINES (R76)
  | exit (code : BitVec 16)  -- EXIT waiting for its descriptors (R96)
  | sync (obj : Nat) (timed : Bool)   -- WAIT outstanding at HUB (R91)
  | sread (obj : Nat)        -- SREAD outstanding at HUB
  | fenceMem                 -- RELEASE or FULL waiting for remote acknowledgements (R381)
  deriving DecidableEq, Repr

/-- A hardware thread (R71, R73). -/
structure Thread where
  /-- 0 FREE 1 READY 2 EXEC 3 ENGINE 4 SYNC 5 HALTED 6 SAVED (R73 CT_THR_STATE (04)). -/
  st : BitVec 4 := 0
  /-- CLASS (R73 CT_THR_STATE (04)). -/
  lc : Bool := false
  /-- program counter (R71 (04)). -/
  pc : BitVec 48 := 0
  /-- g0-g31, g0 always 0 (R71 (04)). -/
  regs : Tab (BitVec 64) := []
  /-- task handle (R74 (04)). -/
  task : Nat := 0
  /-- job identifier (R78 (04)). -/
  job : Nat := 0
  /-- what the instruction in execution waits for (R72 (04)). -/
  pend : Pend := .none
  /-- fields of the instruction in execution while it waits (pend) (R72 (04)). -/
  insn : TInstr := {}
  /-- descriptors issued and not completed (R76 FENCE (04)). -/
  outst : Nat := 0
  /-- remote writes not yet acknowledged (R381 (14)). -/
  remoteW : Nat := 0
  /-- addresses of the remote writes not yet acknowledged, oldest first (R116 R381 (05)). -/
  remoteVas : List Nat := []
  /-- a remote write was refused and no fence has met it (R383 (14)). -/
  remoteBad : Bool := false
  /-- a remote write could not reach its module and no fence has met it (R383 (14)). -/
  remoteGone : Bool := false
  /-- result flag word (R159 CT_THR_FLAGS (06)). -/
  flags : BitVec 8 := 0
  /-- OPS_FLAGGED, saturating (R159 CT_THR_FLAGS (06)). -/
  opsFlagged : Nat := 0
  /-- READY threads of its class that are picked before it (R76 YIELD (04)). -/
  yieldMask : BitVec 32 := 0
  /-- FLAGS bit 1 of the context record (R74 (04)). -/
  faultPending : Bool := false
  deriving DecidableEq, Repr

/-- One entry of an engine queue (R81, R249). -/
structure QEntry where
  /-- descriptor (R81 (04)). -/
  desc : BitVec 128 := 0
  /-- issuing thread (R81 (04)). -/
  thr : Nat := 0
  /-- its job (R249 (10)). -/
  job : Nat := 0
  /-- its class (R249 (10)). -/
  lc : Bool := false
  /-- completion object, partition-relative (R81 (04)). -/
  obj : Nat := 0
  /-- completion ADD, 0 no signal (R81 (04)). -/
  add : Nat := 0
  deriving DecidableEq, Repr

/-- A run of elements by place: bytes of the scratchpad, or entries of the accumulator store; its start, its length and the bits
of an element (R188). -/
structure RunAt where
  acc : Bool := false
  start : Nat := 0
  len : Nat := 0
  bits : Nat := 8
  deriving DecidableEq, Repr

/-- The exact sums beside a row's record, by which the model holds results to the bounds of R203 and R210; the hardware has no
such state (log entry 9). -/
structure RowBook where
  /-- the record that the sums belong to. -/
  bytes : BitVec 256 := 0
  /-- the row has been followed from its first element. -/
  known : Bool := true
  /-- sum of the elements (STATS), or of e^(x - XMAX) in units of 2^-200 (SMAX_SUM). -/
  sum : Dyadic := {}
  /-- sum of their magnitudes (STATS). -/
  mag : Dyadic := {}
  /-- sum of their squares (STATS). -/
  sq : Dyadic := {}
  deriving DecidableEq, Repr

/-- An operation an engine runs or holds pre-empted (R250, R251). -/
structure EngOp where
  /-- the entry taken (R250 (10)). -/
  q : QEntry := {}
  /-- its results are written and the completion is due (R175 R212 (07,08)). -/
  done : Bool := false
  /-- flag set of the operation (R158 (06)). -/
  flags : BitVec 8 := 0
  /-- count added to ADD (compare-and-count) (R187 (07)). -/
  extra : Nat := 0
  /-- record to be written at completion, if any (R211 (08)). -/
  record : List (BitVec 8) := []
  /-- elements processed: the pre-emption point reached (R213 R250 (08,10)). -/
  pos : Nat := 0
  /-- partial sum of RSUM, in ACC, or largest element of RMAX so far, in FP32 (R213 (08)). -/
  part : BitVec 48 := 0
  /-- places that it writes (R194 R179 (07,08)). -/
  outs : List RunAt := []
  /-- exact sums of the row so far (R203 R210 (08)). -/
  book : RowBook := {}
  deriving DecidableEq, Repr

/-- A row whose request a stream engine has issued and whose data has not landed (R230): its tile, its row in the tile,
and its pieces by physical address (none: a zero chunk) and length, and the virtual addresses it used. -/
structure StreamRow where
  tile : Nat := 0
  row : Nat := 0
  /-- FLOW_TAG of the request and of its data: row mod 6 (R230). -/
  tag : Nat := 0
  parts : List (Option Nat × Nat) := []
  vas : List Nat := []
  deriving DecidableEq, Repr

/-- A stream engine (R227-R236). -/
structure StreamSt where
  /-- a stream runs (CT_STRM_STATUS (09)). -/
  busy : Bool := false
  /-- its queue entry (R227 (09)). -/
  q : QEntry := {}
  /-- tiles started (CT_STRM_STATUS (09)). -/
  nextTile : Nat := 0
  /-- next row to request in tile nextTile-1, 0 when wholly requested (CT_STRM_STATUS (09)). -/
  row : Nat := 0
  /-- rows landed of tiles whose DONE has not been sent (R230 (09)). -/
  landedRows : Nat := 0
  /-- rows requested and not landed, oldest first (R230 (09)). -/
  fly : List StreamRow := []
  /-- tiles whose DONE has been sent (R236 (09)). -/
  landed : Nat := 0
  /-- returns taken from AVAIL_OBJ (R236 (09)). -/
  taken : Nat := 0
  /-- halted on a fault, its own or its leader's (CT_STRM_STATUS (09)). -/
  halted : Bool := false
  /-- faulting address (R236 (09)). -/
  faultVa : BitVec 64 := 0
  /-- kind of a fault to be raised again on restore, 0 none (FAULT_PENDING) (R252 (10)). -/
  pendKind : Nat := 0
  /-- its level (R252 (10)). -/
  pendLevel : Nat := 0
  deriving DecidableEq, Repr

/-- A Bobbin transfer in flight (R238). -/
structure BobSt where
  /-- its queue entry (R237 (09)). -/
  q : QEntry := {}
  /-- translated source (R238 (09)). -/
  srcPa : Nat := 0
  /-- translated destination (R238 (09)). -/
  dstPa : Nat := 0
  /-- halted on a fault (CT_BOB_STATUS (09)). -/
  halted : Bool := false
  deriving DecidableEq, Repr

/-- A remainder piece (R169, R170). -/
structure RmdPiece where
  /-- its MMA (R170 (07)). -/
  q : QEntry := {}
  /-- columns of the piece (R169 (07)). -/
  cols : Nat := 0
  /-- weights moved into the remainder weight buffer, as the tile's bytes (R169 (07)). -/
  tile : List (BitVec 8) := []
  /-- flag set so far (R158 (06)). -/
  flags : BitVec 8 := 0
  /-- its remainder pass has run and its completion is due (R170 (07)). -/
  done : Bool := false
  /-- places that its operation writes (R179 (07)). -/
  outs : List RunAt := []
  deriving DecidableEq, Repr

/-- A scratchpad sector whose valid bit is set (R180, R183, R184). -/
structure Sector where
  /-- 64 bytes (R180 (07)). -/
  data : BitVec 512 := 0
  /-- uncorrectable or carrying the poison mark (R184 (07)). -/
  bad : Bool := false
  deriving DecidableEq, Repr

/-- A special-function table (R198). -/
structure SfTable where
  /-- the built-in default of this slot number (R201 (08)). -/
  builtin : Option Nat := none
  /-- 1 LINEAR 2 EXP 3 MANT (R198 (08)). -/
  fn : Nat := 1
  /-- X0 (R198 (08)). -/
  x0 : BitVec 32 := 0
  /-- SCALE (R198 (08)). -/
  scale : BitVec 32 := 0
  /-- LOW (R198 (08)). -/
  low : BitVec 32 := 0
  /-- HIGH (R198 (08)). -/
  high : BitVec 32 := 0
  /-- C_LOG (R198 (08)). -/
  clog : BitVec 32 := 0
  /-- LOW_MODE (R198 (08)). -/
  lowMode : Nat := 0
  /-- HIGH_MODE (R198 (08)). -/
  highMode : Nat := 0
  /-- EXP_RULE (R198 (08)). -/
  expRule : Nat := 0
  /-- c0, c1, c2 of each segment (R198 (08)). -/
  segs : List (BitVec 32 × BitVec 32 × BitVec 32) := []
  /-- first 8 bytes of the SHA-256 over the body, or the built-in marker (R223 (09)). -/
  digest : BitVec 64 := 0
  deriving DecidableEq, Repr

/-- One core (R13). -/
structure CoreSt where
  /-- hardware threads (R71 (04)). -/
  threads : Tab Thread := []
  /-- engine queues by engine number, oldest first (R81 (04)). -/
  queues : Tab (List QEntry) := []
  /-- operation in MATRIX, VECTOR, SFU and SPAD (R250 (10)). -/
  running : Tab EngOp := []
  /-- pre-empted context of an engine (R251 (10)). -/
  preempted : Tab EngOp := []
  /-- job last served by each engine (R249 (10)). -/
  lastJob : Tab Nat := []
  /-- STREAM0 and STREAM1 (R227 (09)). -/
  streams : Tab StreamSt := []
  /-- pre-empted stream context (R251 (10)). -/
  strmPre : Tab StreamSt := []
  /-- Bobbin transfers in flight (R238 (09)). -/
  bobs : List BobSt := []
  /-- OPS (CT_BOB_STATUS (09)). -/
  bobOps : Nat := 0
  /-- scratchpad sectors with their valid bit set, by 8*row+sector (R180 R183 (07)). -/
  spad : Tab Sector := []
  /-- accumulator entries written, by 128*row+column (R177 (07)). -/
  acc : Tab (BitVec 48) := []
  /-- row-and-group valid bits, by 4*row+group (R177 (07)). -/
  accValid : Tab Unit := []
  /-- entries that read as uncorrectable (R179 (07)). -/
  accBad : Tab Unit := []
  /-- remainder set, oldest first (R170 (07)). -/
  rmd : List RmdPiece := []
  /-- remainder set of the pre-empted matrix context (R171 R251 (07,10)). -/
  rmdPre : List RmdPiece := []
  /-- the remainder pass of a resumed set runs before anything else (R171 (07)). -/
  rmdFirst : Bool := false
  /-- sectors last written for latency-critical work (R254 (10)). -/
  lcSpad : Tab Unit := []
  /-- row-and-groups last written for latency-critical work (R254 (10)). -/
  lcAcc : Tab Unit := []
  /-- exact sums of records in the scratchpad, by byte offset / 32 (R203 R210 (08)). -/
  books : Tab RowBook := []
  /-- OPS (CT_MX_STATUS (07)). -/
  mxOps : Nat := 0
  /-- OPS (CT_VU_STATUS (08)). -/
  vuOps : Nat := 0
  /-- OPS (CT_SFU_STATUS (08)). -/
  sfuOps : Nat := 0
  /-- WIDTH w (CT_CORE_WIDTH (07)). -/
  width : Nat := 128
  /-- outlier strip passed (CT_CORE_WIDTH (07)). -/
  stripOk : Bool := true
  /-- working physical columns (CT_COL_MAP_LO/HI (07)). -/
  colMap : BitVec 128 := BitVec.allOnes 128
  /-- CE (CT_SPAD_ECC (07)). -/
  eccCe : Nat := 0
  /-- SPAD_UE (CT_SPAD_ECC (07)). -/
  eccSpadUe : Nat := 0
  /-- ACC_UE (CT_SPAD_ECC (07)). -/
  eccAccUe : Nat := 0
  /-- LAST_ROW (CT_SPAD_ECC (07)). -/
  eccLastRow : Nat := 0
  /-- LAST_SECTOR (CT_SPAD_ECC (07)). -/
  eccLastSector : Nat := 0
  /-- LAST_ACC (CT_SPAD_ECC (07)). -/
  eccLastAcc : Bool := false
  /-- instants of uncorrectable events of the last hour (R475 (17)). -/
  ueTimes : List Nat := []
  /-- SLOT_VALID (CT_SFU_STATUS (08)). -/
  sfuValid : BitVec 16 := 0x07FF#16
  /-- RELOADING while not empty: slots being reloaded, oldest first (CT_SFU_STATUS (08)). -/
  sfuReloading : List Nat := []
  /-- LAST_SLOT (CT_SFU_STATUS (08)). -/
  sfuLastSlot : Nat := 0
  /-- slots whose memory holds an uncorrectable word, with its segment (R202 (08)). -/
  sfuBad : Tab Nat := []
  /-- instant of the last uncorrectable error of each slot (R202 (08)). -/
  sfuUeTime : Tab Nat := []
  /-- CE (CT_SFU_ECC (08)). -/
  sfuCe : Nat := 0
  /-- UE (CT_SFU_ECC (08)). -/
  sfuUe : Nat := 0
  /-- LAST_SEG (CT_SFU_ECC (08)). -/
  sfuLastSeg : Nat := 0
  /-- L1 data cache by line number PA/64 (R126 (05)). -/
  l1 : Tab L1Line := []
  /-- outstanding requests by line (one per line) (R126 (05)). -/
  l1Req : Tab Pend := []
  /-- instruction cache by VA/64 (R134 (05)). -/
  icache : Tab (BitVec 512) := []
  /-- free-running ACLK count (R78 SPR 6 (04)). -/
  aclk : Nat := 0
  /-- thread last picked, latency-critical (R72 (04)). -/
  rrLc : Nat := 31
  /-- thread last picked, best-effort (R72 (04)). -/
  rrBe : Nat := 31
  /-- IMM that each thread's last TRAP carried (R76 TRAP (04)). -/
  trapImm : Tab (BitVec 32) := []
  /-- best-effort job that holds the core (R248 (10)). -/
  holder : Nat := 0
  /-- instant from which the holder holds it (R256 (10)). -/
  heldSince : Nat := 0
  /-- a full save is in progress (R254 (10)). -/
  saving : Bool := false
  /-- frame of the save in progress (R253 (10)). -/
  saveFrame : Nat := 0
  /-- waiting job the core is taken for (R256 (10)). -/
  saveFor : Nat := 0
  /-- retired until module reset (R475 (17)). -/
  retired : Bool := false
  deriving DecidableEq, Repr

/-- The kinds of a sync-store waiter (R87, R114, R229). -/
inductive Waiter where
  | thread (core thr : Nat)
  | task (handle : Nat)
  | ring (ptn kind : Nat)      -- 0 request ring, 1 scan ring, 2 collective ring, 3 field ring
  | stream (core eng : Nat)      -- 3, 4 best-effort STREAM0, STREAM1; 5, 6 latency-critical
  deriving DecidableEq, Repr
/-- What one arrival at a sync-store input asks for (R88, R89). -/
inductive SyncOp where
  | add (n : Nat)
  | setC (n : Nat)
  | setT (n : Nat) (mode : Option Nat)
  | setAll (count thresh mode : Nat)           -- the one-update set of R114 and R229
  | setCT (count thresh : Nat)                 -- a 64-bit CSR write of COUNT and THRESHOLD (R86)
  | setCtl (mode : Option Nat) (clear : Bool)  -- a CSR write of SYNC_CTL: MODE, and 1 to OVF (R86)
  | wait (w : Waiter)
  | test (w : Waiter)                          -- a WAIT with a limit of 0 (R91)
  | cancel (w : Waiter)
  | read (core thr : Nat) (ctl : Bool)         -- SREAD
  deriving DecidableEq, Repr

/-- An arrival waiting at a sync-store input (R88). -/
structure Arrival where
  /-- input 0-79 (R88 (04)). -/
  input : Nat := 0
  /-- absolute object (R88 (04)). -/
  obj : Nat := 0
  /-- what it asks for (R89 (04)). -/
  op : SyncOp := .add 0
  deriving DecidableEq, Repr

/-- A synchronisation object (R84, R86). -/
structure SyncObj where
  /-- COUNT (R86 SYNC_COUNT (04)). -/
  count : Nat := 0
  /-- THRESHOLD (R86 SYNC_THRESHOLD (04)). -/
  thresh : Nat := 0
  /-- MODE 0 LEVEL 1 CONSUME 2 ONESHOT (R86 SYNC_CTL (04)). -/
  mode : Nat := 0
  /-- OVF (R86 SYNC_CTL (04)). -/
  ovf : Bool := false
  /-- waiters, oldest first (R87 (04)). -/
  fifo : List Waiter := []
  deriving DecidableEq, Repr

/-- The sync store (R84-R93). -/
structure SyncSt where
  /-- objects by absolute number (R84 (04)). -/
  objs : Tab SyncObj := []
  /-- arrivals not yet applied, in order of arrival (R88 (04)). -/
  arrivals : List Arrival := []
  /-- wake messages in flight: core, thread, g[RD] (R92 (04)). -/
  wakes : List (Nat × Nat × Nat) := []
  /-- ADD (R93 HUB_SYNC_SIGNAL (04)). -/
  sigAdd : BitVec 32 := 0
  /-- OBJECT (R93 HUB_SYNC_SIGNAL (04)). -/
  sigObj : BitVec 13 := 0
  deriving DecidableEq, Repr

/-- A notice record before it is written (R97). -/
structure NoticeRec where
  /-- CODE (R97 (04)). -/
  code : Nat := 0
  /-- SOURCE (R97 (04)). -/
  source : Nat := 0
  /-- DATA (R97 (04)). -/
  data : BitVec 64 := 0
  deriving DecidableEq, Repr

/-- A notice ring (R98, R99). -/
structure NoticeRing where
  /-- ADDR (R98 NOTICE_RING_BASE (04)). -/
  base : BitVec 50 := 0
  /-- ENABLE (R98 NOTICE_RING_CFG (04)). -/
  enable : Bool := false
  /-- SIZE_LOG2 as written (R98 NOTICE_RING_CFG (04)). -/
  size : Nat := 6
  /-- PROD (R98 NOTICE_RING_PROD (04)). -/
  prod : BitVec 32 := 0
  /-- CONS (R98 NOTICE_RING_CONS (04)). -/
  cons : BitVec 32 := 0
  /-- LOST, saturating (R98 NOTICE_RING_LOST (04)). -/
  lost : Nat := 0
  /-- records held in HUB; none marks the place of the 0x4104 record (R99 (04)). -/
  held : List (Option NoticeRec) := []
  /-- records lost since the last 0x4104 (R99 (04)). -/
  lostNow : Nat := 0
  deriving DecidableEq, Repr

/-- A watermark monitor (R101, R102). -/
structure WmSt where
  /-- ENABLE (R101 NOTICE_WM_CFG (04)). -/
  enable : Bool := false
  /-- DIR (R101 NOTICE_WM_CFG (04)). -/
  dir : Bool := false
  /-- KIND (R101 NOTICE_WM_CFG (04)). -/
  kind : Nat := 0
  /-- INDEX (R101 NOTICE_WM_CFG (04)). -/
  index : Nat := 0
  /-- MARK (R101 NOTICE_WM_CFG (04)). -/
  mark : Nat := 0
  /-- WM_HIT (R101 NOTICE_WM_STATUS (04)). -/
  hit : Bool := false
  /-- PEAK (R101 NOTICE_WM_STATUS (04)). -/
  peak : Nat := 0
  deriving DecidableEq, Repr

/-- The notice engine (R97-R102). -/
structure NoticeSt where
  /-- rings 0-31 of the partitions, 32 of the module (R98 (04)). -/
  rings : Tab NoticeRing := []
  /-- watermark monitors (R101 (04)). -/
  wms : Tab WmSt := []
  deriving DecidableEq, Repr

/-- A record ring served as R114 lays down (request, scan, collective and field rings). -/
structure RingSt where
  /-- ADDR (R114 (05)). -/
  base : BitVec 50 := 0
  /-- ENABLE (R114 (05)). -/
  enable : Bool := false
  /-- trigger object, partition-relative (R114 (05)). -/
  obj : BitVec 13 := 0x1FFF#13
  /-- SIZE_LOG2 as written (R114 (05)). -/
  size : Nat := 6
  /-- slots taken since the enable (R114 (05)). -/
  next : Nat := 0
  /-- releases whose record has not been taken (R114 (05)). -/
  avail : Nat := 0
  /-- records taken, modulo 2^16 (PTN_XREQ_STATUS.TAKEN and its likes (05,11,16)). -/
  taken : Nat := 0
  /-- records skipped, saturating (PTN_XREQ_STATUS.ERRORS and its likes (05,11,16)). -/
  errors : Nat := 0
  deriving DecidableEq, Repr

/-- A partition's fault queue (R119, R120). -/
structure FaultRing where
  /-- ADDR (R120 PTN_FAULT_BASE (05)). -/
  base : BitVec 50 := 0
  /-- ENABLE (R120 PTN_FAULT_CFG (05)). -/
  enable : Bool := false
  /-- OBJ (R120 PTN_FAULT_CFG (05)). -/
  obj : BitVec 13 := 0x1FFF#13
  /-- SIZE_LOG2 as written (R120 PTN_FAULT_CFG (05)). -/
  size : Nat := 6
  /-- PROD (R120 PTN_FAULT_PROD (05)). -/
  prod : BitVec 32 := 0
  /-- CONS (R120 PTN_FAULT_CONS (05)). -/
  cons : BitVec 32 := 0
  deriving DecidableEq, Repr

/-- An agent halted on a translation fault (R118-R122). -/
structure HaltRec where
  /-- partition (R119 (05)). -/
  ptn : Nat := 0
  /-- agent code of the fault record (R119 AGENT (05)). -/
  agent : Nat := 0
  /-- faulting address (R119 (05)). -/
  va : BitVec 64 := 0
  /-- resume token, 0 for an unresolvable kind (R119 (05)). -/
  token : BitVec 32 := 0
  /-- job that a HUB or port agent acts for (R369 (13)). -/
  job : Nat := 0
  /-- kind 1-8 (R118 (05)). -/
  kind : Nat := 0
  /-- ACCESS 0-14 (R119 (05)). -/
  access : Nat := 0
  /-- LEVEL 0-3 (R119 (05)). -/
  level : Nat := 0
  /-- FLAGS bit 1 (R119 (05)). -/
  mcast : Bool := false
  /-- FLAGS bit 2 (R119 (05)). -/
  lc : Bool := false
  /-- GROUP (R119 (05)). -/
  group : Nat := 0xFF
  /-- TIME (R119 (05)). -/
  time : BitVec 64 := 0
  /-- its record stands in the queue (R120 (05)). -/
  written : Bool := false
  /-- a record of an agent that is not halted, waiting for a slot of the queue (R122 (05)). -/
  note : Bool := false
  /-- scan batch that a Quern engine writes for (R288 (11)). -/
  batch : Nat := 0
  deriving DecidableEq, Repr

/-- A cached translation (R112, R113). -/
structure Leaf where
  /-- partition tag (R112 (05)). -/
  ptn : Nat := 0
  /-- global core 0-63 whose caches hold it, or 64 for the I/O translation cache (R112 (05)). -/
  agent : Nat := 0
  /-- first VA of the page (R112 (05)). -/
  va : Nat := 0
  /-- 512 MiB page (R112 (05)). -/
  big : Bool := false
  /-- first PA of the page (R112 (05)). -/
  pa : Nat := 0
  /-- leaf READ (R108 (05)). -/
  r : Bool := false
  /-- leaf W (R108 (05)). -/
  w : Bool := false
  /-- leaf X (R108 (05)). -/
  x : Bool := false
  /-- locked by PTN_LC_PIN (R258 (10)). -/
  pinned : Bool := false
  /-- 0 instruction, 1 data, 2 engine micro-cache, 3 core or I/O translation cache (R112 (05)). -/
  cache : Nat := 3
  deriving DecidableEq, Repr

/-- A walk-cache entry (R112). -/
structure WalkEnt where
  /-- partition tag (R112 (05)). -/
  ptn : Nat := 0
  /-- core 0-63 or 64 for HUB (R112 (05)). -/
  agent : Nat := 0
  /-- first VA of the span (R112 (05)). -/
  va : Nat := 0
  /-- 0 or 1 (R112 (05)). -/
  level : Nat := 0
  /-- next table (R112 (05)). -/
  table : Nat := 0
  deriving DecidableEq, Repr

/-- A shootdown in progress: the agents whose acknowledgement is outstanding and the DONE it signals (R116), or the
two shootdowns of a MOVE (R124). -/
structure Shoot where
  ptn : Nat := 0
  vaLo : Nat := 0
  vaHi : Nat := 0
  waiting : List Nat := []
  doneObj : Nat := 0xFFFF
  doneAdd : Nat := 0
  /-- 0 a request-ring shootdown, 1 the first of a MOVE, 2 the second of a MOVE. -/
  why : Nat := 0
  deriving DecidableEq, Repr
/-- A tier move in progress (R124): the leaf's address and old value, source and destination. -/
structure MoveSt where
  ptn : Nat := 0
  va : Nat := 0
  leafPa : Nat := 0
  oldLeaf : BitVec 64 := 0
  src : Nat := 0
  dst : Nat := 0
  doneObj : Nat := 0xFFFF
  doneAdd : Nat := 0
  /-- 0 first shootdown, 1 copying, 2 second shootdown. -/
  stage : Nat := 0
  slot : Nat := 0
  head : BitVec 64 := 0
  deriving DecidableEq, Repr

/-- Translation, faults and requests (R107-R124). -/
structure XlatSt where
  /-- cached leaves of every core and of HUB (R112 (05)). -/
  leaves : List Leaf := []
  /-- cached non-leaf entries (R112 (05)). -/
  walks : List WalkEnt := []
  /-- agents halted, in the order of the faults (R121 (05)). -/
  halted : List HaltRec := []
  /-- token given next (R119 (05)). -/
  nextToken : BitVec 32 := 1
  /-- shootdowns in progress, oldest first (R116 (05)). -/
  shoots : List Shoot := []
  /-- tier moves in progress (R124 (05)). -/
  moves : List MoveSt := []
  /-- lines of stacks and board memory recorded as poisoned, by PA/64 (R135 (05)). -/
  poison : Tab Unit := []
  /-- STACK_UE by memory hub (MEM_ECC_COUNT (05)). -/
  eccStackUe : Tab Nat := []
  /-- BOARD_UE (MEM_ECC_COUNT (05)). -/
  eccBoardUe : Tab Nat := []
  /-- STACK_CE (MEM_ECC_COUNT (05)). -/
  eccStackCe : Tab Nat := []
  /-- BOARD_CE (MEM_ECC_COUNT (05)). -/
  eccBoardCe : Tab Nat := []
  deriving DecidableEq, Repr

/-- A memory window of a partition (R54, R55). -/
structure Window where
  /-- VA_BASE (R54 (03)). -/
  va : Nat := 0
  /-- LENGTH (R54 (03)). -/
  len : Nat := 0
  /-- PA_BASE (R54 (03)). -/
  pa : Nat := 0
  /-- TIER 0-3 (R54 (03)). -/
  tier : Nat := 0
  /-- READ (R54 (03)). -/
  r : Bool := false
  /-- WRITE (R54 (03)). -/
  w : Bool := false
  deriving DecidableEq, Repr

/-- An arbiter of a shared resource (R259). -/
structure Arb where
  /-- partition whose turn of the round it is, 32 the module (R259 (10)). -/
  turn : Nat := 0
  /-- what is left of the quanta of each partition that waits, in bytes or cycles (R259 (10)). -/
  credit : Tab Int := []
  /-- latency-critical grants in a row while best-effort requests wait (R259 (10)). -/
  lcRun : Nat := 0
  deriving DecidableEq, Repr

/-- A request held at its charging point, by the work item it stands for (R260). -/
inductive HeldReq where
  | row (core eng : Nat)
  | line (kind : DirReqKind) (src line : Nat)
  | evict (core line : Nat)
  | bobbin (core : Nat)
  | walk (agent : Nat)
  | buf (pa : Nat)
  | entry (ring : Nat)
  | record (kind : Nat)
  | page (chan : Nat)
  | batch (tag chan : Nat)
  | job (id : Nat)
  | nvme (order : Nat)
  | store (nsid : Nat)
  | save (core : Nat)
  | port (src : Nat)
  deriving DecidableEq, Repr

/-- A regulator of a partition (R54, R260). -/
structure Regul where
  /-- RATE, MB/s (PTN_REG_*_RATE (03)). -/
  rate : Nat := 0
  /-- BURST, KiB (PTN_REG_*_RATE (03)). -/
  burst : Nat := 0
  /-- bucket level in 1/1600 byte (one RATE unit per FCLK cycle) (R260 PTN_REG_STATUS (10)). -/
  level : Int := 0
  /-- HELD, saturating (PTN_REG_STATUS (10)). -/
  held : Nat := 0
  /-- held requests: latency-critical, bytes, the work item (R260 (10)). -/
  waiting : List (Bool × Nat × HeldReq) := []
  deriving DecidableEq, Repr

/-- A pinned page (R258). -/
structure PinSt where
  /-- EN (PTN_LC_PIN (10)). -/
  en : Bool := false
  /-- OK (PTN_LC_PIN (10)). -/
  ok : Bool := false
  /-- VA[47:16] (PTN_LC_PIN (10)). -/
  va : BitVec 32 := 0
  deriving DecidableEq, Repr

/-- The PTN block of a partition and what apply gives it (R54, R69). -/
structure PtnSt where
  /-- BE_WEIGHT (PTN_CLASS (03)). -/
  beWeight : Nat := 1
  /-- LC_CORE_LIMIT (PTN_CLASS (03)). -/
  lcLimit : Nat := 0
  /-- BE_PERMIT (PTN_CLASS (03)). -/
  bePermit : Bool := false
  /-- LC_PERMIT (PTN_CLASS (03)). -/
  lcPermit : Bool := false
  /-- MODEL_USER (PTN_CLASS (03)). -/
  modelUser : Bool := false
  /-- ENABLE (PTN_CLASS (03)). -/
  enable : Bool := false
  /-- CORES (PTN_CORES (03)). -/
  cores : BitVec 64 := 0
  /-- COUNT (PTN_SYNC_RANGE (03)). -/
  syncCount : Nat := 0
  /-- BASE (PTN_SYNC_RANGE (03)). -/
  syncBase : Nat := 0
  /-- regulators 0 stacks 1 board 2 flash read 3 flash program 4 fabric 5 links (PTN_REG_*_RATE (03)). -/
  regs : Tab Regul := []
  /-- TAG (PTN_TENANT_TAG (03)). -/
  tag : BitVec 64 := 0
  /-- low half of TAG holds a written value (R70 (03)). -/
  tagLo : Bool := false
  /-- high half of TAG holds a written value (R70 (03)). -/
  tagHi : Bool := false
  /-- enabled by the committed image (R54 (03)). -/
  live : Bool := false
  /-- memory windows (R54 (03)). -/
  windows : List Window := []
  /-- Weft rings (R54 DB_INFO (03,13)). -/
  ringCount : Nat := 0
  /-- RING_DEPTH_LOG2 (R54 DB_INFO (03,13)). -/
  depthLog2 : Nat := 0
  /-- MSIX_BASE (R54 DB_INFO (03,13)). -/
  msixBase : Nat := 0
  /-- ROOT = PA[49:16] (PTN_PT_ROOT (05)). -/
  ptRoot : BitVec 34 := 0
  /-- EN (PTN_PT_ROOT (05)). -/
  ptEn : Bool := false
  /-- fault queue (PTN_FAULT_* (05)). -/
  fault : FaultRing := {}
  /-- translation request ring (PTN_XREQ_* (05)). -/
  xreq : RingSt := {}
  /-- STALE (PTN_XREQ_STATUS (05)). -/
  xStale : Nat := 0
  /-- LATE (PTN_XREQ_STATUS (05)). -/
  xLate : Nat := 0
  /-- scan ring (PTN_SCAN_* (11)). -/
  scan : RingSt := {}
  /-- PAGES_LOST (PTN_SCAN_STATUS (11)). -/
  scanLost : Nat := 0
  /-- collective ring (PTN_COLL_* (14)). -/
  coll : RingSt := {}
  /-- field ring (PTN_FIELD_* (16)). -/
  fring : RingSt := {}
  /-- WDOG_EXPIRED (PTN_FIELD_STATUS (16)). -/
  wdogExpired : Bool := false
  /-- PERIOD_MS (PTN_FIELD_STATUS (16)). -/
  wdogPeriod : Nat := 0
  /-- the field watchdog runs (R432 (16)). -/
  wdogRunning : Bool := false
  /-- instant of its last restart (R432 (16)). -/
  wdogStart : Nat := 0
  /-- pinned pages (PTN_LC_PIN (10)). -/
  pins : Tab PinSt := []
  /-- running account counters (R262 PTN_ACCT (10)). -/
  acct : Tab Nat := []
  /-- captured counters and SNAP_TIME (R264 PTN_ACCT (10)). -/
  acctSnap : Tab Nat := []
  /-- BUSY (PTN_ACCT_CTL (10)). -/
  acctBusy : Bool := false
  /-- energy estimate of the running window (R263 (10)). -/
  winEst : Nat := 0
  /-- KEY (PTN_LNK_KEY (14)). -/
  lnkKey : BitVec 64 := 0
  /-- EN (PTN_LNK_JOB (14)). -/
  lnkEn : Bool := false
  /-- COORD (PTN_LNK_JOB (14)). -/
  lnkCoord : BitVec 11 := 0
  /-- DROPPED (PTN_LNK_JOB (14)). -/
  lnkDropped : Nat := 0
  /-- WRITE (PTN_LNK_EXPORT (14)). -/
  expWrite : Bool := false
  /-- READ (PTN_LNK_EXPORT (14)). -/
  expRead : Bool := false
  /-- PAGES (PTN_LNK_EXPORT (14)). -/
  expPages : BitVec 22 := 0
  /-- BASE (PTN_LNK_EXPORT (14)). -/
  expBase : BitVec 32 := 0
  /-- sequence number of the next job (R242 (10)). -/
  jobSeq : Nat := 1
  deriving DecidableEq, Repr

/-- How far an admitted entry has come (R241, R245). -/
inductive JobStage where
  | admitted     -- admitted, its opcode not yet acted on
  | waitLoad     -- a RUN that waits for a model load (R27)
  | running      -- its tasks, engines or agents are at work
  deriving DecidableEq, Repr

/-- An entry of the job table (R240-R245). -/
structure Job where
  /-- job identifier (R242 (10)). -/
  id : Nat := 0
  /-- partition (R242 (10)). -/
  ptn : Nat := 0
  /-- Weft ring (R239 (10)). -/
  ring : Nat := 0
  /-- TAG (R353 (13)). -/
  tag : BitVec 16 := 0
  /-- class (R242 (10)). -/
  lc : Bool := false
  /-- NO_IRQ (R353 (13)). -/
  noIrq : Bool := false
  /-- the entry (R353 (13)). -/
  entry : List (BitVec 8) := []
  /-- progress (R245 (10)). -/
  stage : JobStage := .admitted
  /-- handle of the root task, 0 when the opcode has none (R243 (10)). -/
  root : Nat := 0
  /-- EXIT code of the root task once it has ended (R245 (10)). -/
  rootEnded : Option (BitVec 16) := none
  /-- flag word (R158 (06)). -/
  flags : BitVec 8 := 0
  /-- DOWNGRADES, saturating at 255 (R354 (13)). -/
  downgrades : Nat := 0
  /-- order of fetch (R363 (13)). -/
  order : Nat := 0
  /-- instant it began waiting for a core, 0 when not waiting (R256 (10)). -/
  waitSince : Nat := 0
  /-- progress counter reported in RESULT (R357 (13)). -/
  count : Nat := 0
  deriving DecidableEq, Repr

/-- A task posted and not ended (R94-R96). -/
structure Task where
  /-- task handle (R95 (04)). -/
  handle : Nat := 0
  /-- job (R95 (04)). -/
  job : Nat := 0
  /-- partition (R95 (04)). -/
  ptn : Nat := 0
  /-- ENTRY (R94 (04)). -/
  pc : BitVec 48 := 0
  /-- CORE, 0xFF any (R94 (04)). -/
  core : Nat := 0xFF
  /-- class it runs in (R244 (10)). -/
  lc : Bool := false
  /-- ARG0-ARG5 (R94 (04)). -/
  args : List (BitVec 64) := []
  /-- 0 bound, 1 ready, 2 on a thread (R95 R96 (04)). -/
  st : Nat := 0
  deriving DecidableEq, Repr

/-- A full-save frame in use (R253). -/
structure Frame where
  /-- frame number 64-2047 (R253 (10)). -/
  idx : Nat := 64
  /-- job (R253 (10)). -/
  job : Nat := 0
  /-- core it was saved from (R253 (10)). -/
  core : Nat := 0
  /-- WIDTH at save (R253 (10)). -/
  width : Nat := 0
  /-- WARP_GEN at save (R253 (10)). -/
  gen : BitVec 32 := 0
  /-- must return to its own core (R255 (10)). -/
  bound : Bool := false
  /-- thread context records (R253 (10)). -/
  threads : Tab Thread := []
  /-- queued engine entries (R253 (10)). -/
  queues : Tab (List QEntry) := []
  /-- engine contexts (R253 (10)). -/
  running : Tab EngOp := []
  /-- stream context records (R253 (10)). -/
  streams : Tab StreamSt := []
  /-- remainder set (R253 (10)). -/
  rmd : List RmdPiece := []
  /-- valid scratchpad sectors (R253 (10)). -/
  spad : Tab Sector := []
  /-- accumulator entries (R253 (10)). -/
  acc : Tab (BitVec 48) := []
  /-- valid bits (R253 (10)). -/
  accValid : Tab Unit := []
  /-- exact sums of records (R203 R210 (08)). -/
  books : Tab RowBook := []
  /-- an uncorrectable error was met while saving (R254 (10)). -/
  poisoned : Bool := false
  /-- instant of the save (R256 (10)). -/
  since : Nat := 0
  deriving DecidableEq, Repr

/-- Shuttle and the accounts of HUB (R239-R264). -/
structure ShuttleSt where
  /-- job table, in order of admission (R240 (10)). -/
  jobs : List Job := []
  /-- tasks posted and not ended (R95 (04)). -/
  tasks : List Task := []
  /-- ready latency-critical tasks, oldest first (R246 (10)). -/
  readyLc : List Nat := []
  /-- ready best-effort tasks, oldest first (R246 (10)). -/
  readyBe : List Nat := []
  /-- handle given next (R95 (04)). -/
  nextHandle : Nat := 1
  /-- full-save frames in use (R253 (10)). -/
  frames : List Frame := []
  /-- entries fetched so far (R363 (13)). -/
  fetchOrder : Nat := 0
  /-- latency-critical rings whose doorbell advanced, oldest first (R240 (10)). -/
  lcDoorbells : List (Nat × Nat) := []
  /-- partition last served best-effort (R240 (10)). -/
  fetchRr : Nat := 0
  /-- ring last served best-effort in each partition (R240 (10)). -/
  lastRing : Tab Nat := []
  /-- entries taken in the present visit (R240 (10)). -/
  fetchBurst : Nat := 0
  /-- LC_PREEMPTS (HUB_SHUTTLE_COUNT (10)). -/
  lcPreempts : BitVec 32 := 0
  /-- FULL_SAVES (HUB_SHUTTLE_COUNT (10)). -/
  fullSaves : BitVec 32 := 0
  /-- WORST_NS (HUB_LC_WORST (10)). -/
  lcWorst : BitVec 32 := 0
  /-- device physical address of frame 0 (HUB_SAVE_BASE (10)). -/
  saveBase : BitVec 50 := 0
  /-- measured energy, uJ (HUB_ACCT_MEASURED (10)). -/
  measured : BitVec 64 := 0
  /-- unattributed energy, uJ (HUB_ACCT_UNATTRIBUTED (10)). -/
  unattrib : BitVec 64 := 0
  /-- RECONCILIATIONS (HUB_ACCT_RECON (10)). -/
  recons : BitVec 32 := 0
  /-- SENSOR_LOST (HUB_ACCT_RECON (10)). -/
  sensorLost : Bool := false
  /-- LAST_SCALE (HUB_ACCT_RECON (10)). -/
  lastScale : Nat := 0x10000
  deriving DecidableEq, Repr

/-- Credit books of one hop and VC (R45, R374). -/
structure CreditBook where
  /-- credits held by the sender (R45 (02)). -/
  sender : Nat := 0
  /-- flits in flight (R45 (02)). -/
  flying : Nat := 0
  /-- credit returns in flight (R45 (02)). -/
  returns : Nat := 0
  /-- flits held by the receiver (R45 (02)). -/
  occ : Nat := 0
  deriving DecidableEq, Repr

/-- A fabric port (R40, R48, R49). -/
structure PortSt where
  /-- CRC_RETRIES (HUB_FAB_PORT_STATUS (02)). -/
  crcRetries : Nat := 0
  /-- RETRAINS (HUB_FAB_PORT_STATUS (02)). -/
  retrains : Nat := 0
  /-- LANES_UP (HUB_FAB_PORT_STATUS (02)). -/
  lanesUp : Nat := 0
  /-- FAILED (HUB_FAB_PORT_STATUS (02)). -/
  failed : Bool := false
  /-- TRAINING (HUB_FAB_PORT_STATUS (02)). -/
  training : Bool := false
  /-- UP (HUB_FAB_PORT_STATUS (02)). -/
  up : Bool := false
  /-- lane map (R41 (02)). -/
  laneMap : List Nat := []
  /-- lanes retired (R49 (02)). -/
  retired : List Nat := []
  /-- consecutive failed replays of one flit, by lane and direction (R48 (02)). -/
  replayFails : Tab Nat := []
  /-- retrainings failed in a row (R48 (02)). -/
  trainFails : Nat := 0
  /-- replay buffer of each lane and direction, newest first: each flit with the routing word of its packet (R48 (02)). -/
  replay : Tab (List (BitVec 32 × BitVec 512)) := []
  /-- packets delivered to the port, newest last (R41 (02)). -/
  delivered : List Packet := []
  deriving DecidableEq, Repr

/-- A packet presented at its source and not yet in the queue of an input lane (R43, R44, R260). -/
structure SrcPkt where
  /-- the packet (R44 (02)). -/
  pkt : Packet := {}
  /-- the injection regulator holds it (R260 (10)). -/
  held : Bool := false
  deriving DecidableEq, Repr

/-- A packet in the queue of an input lane (R44). -/
structure LanePkt where
  /-- the packet (R44 (02)). -/
  pkt : Packet := {}
  /-- its flits that have left (R43 (02)). -/
  sent : Nat := 0
  /-- lanes its flits travelled on, with their number (R45 (02)). -/
  onLanes : List (Nat × Nat) := []
  deriving DecidableEq, Repr

/-- A packet at HUB with the copies that have still to leave (R44, R45, R47). -/
structure HubPkt where
  /-- the packet (R47 (02)). -/
  pkt : Packet := {}
  /-- input lanes whose buffers hold its flits, with their number (R45 (02)). -/
  onLanes : List (Nat × Nat) := []
  /-- output ports that lack their copy, with the flits of the copy already sent (R47 (02)). -/
  outs : List (Nat × Nat) := []
  deriving DecidableEq, Repr

/-- The Twill fabric (R40-R49). -/
structure FabricSt where
  /-- ports 0-30 (R40 (02)). -/
  ports : Tab PortSt := []
  /-- credit books by ((port*64+lane)*2+dir)*8+vc (R45 (02)). -/
  books : Tab CreditBook := []
  /-- packets waiting at their source (R44 (02)). -/
  srcWait : List SrcPkt := []
  /-- packets in the queues of the input lanes (R44 (02)). -/
  laneQ : List LanePkt := []
  /-- packets held at HUB (R47 (02)). -/
  hubWait : List HubPkt := []
  /-- next slot of the frame of each lane and direction, by (port*64+lane)*2+dir (R43 (02)). -/
  slots : Tab Nat := []
  /-- bytes left of the injection grant a port holds for a partition, by 32*port+partition (R261 (10)). -/
  grants : Tab Nat := []
  /-- multicast packets delivered to each member core, newest last (R47 (02)). -/
  coreIn : Tab (List Packet) := []
  /-- requests that completed with HELD_MODE (R15 (01)). -/
  held : List Packet := []
  /-- requests answered with ABORT_UNCORRECTABLE; the answer carries the FLOW_TAG of its request (R41) (R48 (02)). -/
  aborted : List Packet := []
  /-- DROPPED_COPIES (HUB_MCAST_STATUS (02)). -/
  dropCopies : Nat := 0
  /-- EMPTY_GROUP_DROPS (HUB_MCAST_STATUS (02)). -/
  emptyDrops : Nat := 0
  /-- members of each group (HUB_MCAST_MEMBERS (02)). -/
  members : Tab (BitVec 64) := []
  /-- owner of each group (R57 (03)). -/
  mcOwner : Tab Nat := []
  /-- BUSY (HUB_CREDIT_SNAP_CTL (02)). -/
  snapBusy : Bool := false
  /-- VC (HUB_CREDIT_SNAP_CTL (02)). -/
  snapVc : BitVec 3 := 0
  /-- DIR (HUB_CREDIT_SNAP_CTL (02)). -/
  snapDir : Bool := false
  /-- PORT (HUB_CREDIT_SNAP_CTL (02)). -/
  snapPort : BitVec 5 := 0
  /-- LANE (HUB_CREDIT_SNAP_CTL (02)). -/
  snapLane : BitVec 6 := 0
  /-- CONSTANT, SENDER_CREDITS, IN_FLIGHT, OCCUPANCY (HUB_CREDIT_SNAP_DATA (02)). -/
  snapData : BitVec 64 := 0
  deriving DecidableEq, Repr

/-- A multicast stream's books (R232, R233). -/
structure McastTok where
  /-- ACTIVE (HUB_MCAST_TOKENS (09)). -/
  active : Bool := false
  /-- HALTED (HUB_MCAST_TOKENS (09)). -/
  halted : Bool := false
  /-- LEAD_CORE (HUB_MCAST_TOKENS (09)). -/
  lead : Nat := 0
  /-- engine of the leader (R232 (09)). -/
  leadEng : Nat := 3
  /-- members joined: core and engine (HUB_MCAST_TOKENS (09)). -/
  joined : List (Nat × Nat) := []
  /-- tokens at HUB of each member core (R233 (09)). -/
  tokens : Tab Nat := []
  /-- tokens in flight to HUB (R233 (09)). -/
  flying : Tab Nat := []
  /-- TILES_STARTED (HUB_MCAST_TOKENS (09)). -/
  started : Nat := 0
  deriving DecidableEq, Repr

/-- A PARTITION section as parsed (R54). -/
structure WPart where
  /-- FLAGS bit 0 (R54 (03)). -/
  enable : Bool := false
  /-- FLAGS bit 1 (R54 (03)). -/
  modelUser : Bool := false
  /-- FLAGS bit 2 (R54 (03)). -/
  lcPermit : Bool := false
  /-- FLAGS bit 3 (R54 (03)). -/
  bePermit : Bool := false
  /-- BE_WEIGHT (R54 (03)). -/
  beWeight : Nat := 1
  /-- LC_CORE_LIMIT (R54 (03)). -/
  lcLimit : Nat := 0
  /-- CORES (R54 (03)). -/
  cores : BitVec 64 := 0
  /-- SYNC_BASE (R54 (03)). -/
  syncBase : Nat := 0
  /-- SYNC_COUNT (R54 (03)). -/
  syncCount : Nat := 0
  /-- RING_COUNT (R54 (03)). -/
  ringCount : Nat := 1
  /-- RING_DEPTH_LOG2 (R54 (03)). -/
  depthLog2 : Nat := 4
  /-- MSIX_BASE (R54 (03)). -/
  msixBase : Nat := 0
  /-- RATE and BURST (R54 (03)). -/
  regs : List (Nat × Nat) := []
  /-- windows (R54 (03)). -/
  windows : List Window := []
  deriving DecidableEq, Repr

/-- A NAMESPACE entry as parsed (R56). -/
structure WNs where
  /-- NSID (R56 (03)). -/
  nsid : Nat := 0
  /-- PURPOSE (R56 (03)). -/
  purpose : Nat := 0
  /-- OWNER (R56 (03)). -/
  owner : Nat := 0xFF
  /-- DESTROY (R56 (03)). -/
  destroy : Bool := false
  /-- SIZE (R56 (03)). -/
  size : Nat := 0
  deriving DecidableEq, Repr

/-- The field settings of one output (R59). -/
structure DoSet where
  /-- SAFE energised (R59 (03)). -/
  safe : Bool := false
  /-- INH_MASK (R59 (03)). -/
  inhMask : BitVec 2 := 0
  /-- SOURCE (R59 (03)). -/
  source : Nat := 0xFF
  deriving DecidableEq, Repr

/-- The field settings (R59). -/
structure FieldSet where
  /-- DO[0-7] (R59 (03)). -/
  dos : List DoSet := []
  /-- DISC in ms (R59 R68 (03)). -/
  disc : List Nat := [2000, 2000]
  /-- DI_NOTIFY (R59 (03)). -/
  diNotify : List Nat := []
  /-- SLOT_OWNER (R59 (03)). -/
  slotOwner : List Nat := []
  deriving DecidableEq, Repr

/-- The LINK section (R60). -/
structure LinkSet where
  /-- DIM_X (R60 (03)). -/
  dimX : Nat := 1
  /-- DIM_Y (R60 (03)). -/
  dimY : Nat := 1
  /-- DIM_Z (R60 (03)). -/
  dimZ : Nat := 1
  /-- POS_X (R60 (03)). -/
  posX : Nat := 0
  /-- POS_Y (R60 (03)). -/
  posY : Nat := 0
  /-- POS_Z (R60 (03)). -/
  posZ : Nat := 0
  /-- LINK_DIR (R60 (03)). -/
  dirs : List Nat := []
  deriving DecidableEq, Repr

/-- A warp image as read (R50-R61). -/
structure WarpImg where
  /-- the copy (R50 (03)). -/
  bytes : List (BitVec 8) := []
  /-- IMAGE_ID (R50 (03)). -/
  id : BitVec 64 := 0
  /-- FLAGS.STORE (R50 (03)). -/
  store : Bool := false
  /-- version it is read as (R64 (03)). -/
  fmt : Nat := 0
  /-- RESUME_WINDOW in us (R53 (03)). -/
  resumeWindow : Nat := 2000
  /-- DRAIN_WINDOW in ms (R53 (03)). -/
  drainWindow : Nat := 100
  /-- MODEL_BASE (R53 (03)). -/
  modelBase : Nat := 0
  /-- MODEL_LEN (R53 (03)). -/
  modelLen : Nat := 0
  /-- PARTITION sections by partition (R54 (03)). -/
  parts : Tab WPart := []
  /-- namespace entries (R56 (03)). -/
  nss : List WNs := []
  /-- OWNER and MEMBERS of each group (R57 (03)). -/
  mcast : Tab (Nat × BitVec 64) := []
  /-- tables by slot (R198 (08)). -/
  sft : Tab SfTable := []
  /-- WB_MODE (R58 (03)). -/
  wbMode : Nat := 0
  /-- MAP_CACHE in GiB (R58 (03)). -/
  mapCache : Nat := 4
  /-- WL_SPREAD (R58 (03)). -/
  wlSpread : Nat := 200
  /-- FIELD section (R59 (03)). -/
  field : FieldSet := {}
  /-- LINK section (R60 (03)). -/
  link : Option LinkSet := none
  /-- KIND and INDEX (R61 (03)). -/
  retire : List (Nat × Nat) := []
  deriving DecidableEq, Repr

/-- Where a change comes from (R70, R402). -/
inductive Src where
  | bar2                     -- a plain write through PF1 BAR2
  | weft (ptn : Nat)         -- Weft MGMT of a partition
  | mailbox                  -- the MGMT mailbox
  | chain (addr : Nat)       -- the management chain
  | mgt                      -- management firmware
  | pf0                      -- an NVMe command
  | button
  | rom
  | hub                      -- HUB itself
  | block (n : Nat)          -- an internal block of R402
  deriving DecidableEq, Repr

/-- The warp loader (R62-R70) and the WARP block. -/
structure WarpSt where
  /-- ADDR (WARP_SRC_ADDR (03)). -/
  srcAddr : BitVec 50 := 0
  /-- LEN (WARP_SRC_LEN (03)). -/
  srcLen : BitVec 21 := 0
  /-- ERR_STATUS (WARP_STATUS (03)). -/
  errStatus : Nat := 0
  /-- ERR_SECTION (WARP_STATUS (03)). -/
  errSection : Nat := 0
  /-- ERR_OFFSET (WARP_STATUS (03)). -/
  errOffset : Nat := 0
  /-- BUSY_REFUSED (WARP_STATUS (03)). -/
  busyRefused : Bool := false
  /-- SHADOW 0 EMPTY 1 STAGING 2 STAGED (WARP_STATUS (03)). -/
  shadow : Nat := 0
  /-- ACTIVE 0 NONE 1 COMMITTED 2 APPLYING 3 DRAINING (WARP_STATUS (03)). -/
  active : Nat := 0
  /-- active slot (R65 (03)). -/
  activeImg : Option WarpImg := none
  /-- staged image (second store) (R62 (03)). -/
  stagedImg : Option WarpImg := none
  /-- shadow store being validated (R62 (03)). -/
  copy : List (BitVec 8) := []
  /-- device physical pieces the copy was made from (R62 (03)). -/
  copyFrom : List (Nat × Nat) := []
  /-- first byte that could not be read, and why: 0 no memory, 1 PCIe error, 2 POISON (R62 (03)). -/
  copyBad : Option (Nat × Nat) := none
  /-- length submitted (R63 (03)). -/
  stageLen : Nat := 0
  /-- source of the request in progress (R426 (15)). -/
  stageSrc : Src := .bar2
  /-- Weft job that waits for the staging (R367 (13)). -/
  stageJob : Nat := 0
  /-- image a structural reset will apply (R66 (03)). -/
  drainWith : Option WarpImg := none
  /-- GEN (WARP_GEN (03)). -/
  gen : BitVec 32 := 0
  /-- ACTIVE_FMT (WARP_FMT (03)). -/
  activeFmt : Nat := 0
  /-- LOCKERR (WARP_LOCKERR (03)). -/
  lockErr : Bool := false
  /-- SRC (WARP_LOCKERR (03)). -/
  lockSrc : Nat := 0
  /-- COUNT (WARP_LOCKERR (03)). -/
  lockCount : Nat := 0
  /-- ADDR (WARP_LOCKERR (03)). -/
  lockAddr : BitVec 28 := 0
  /-- TAG (WARP_SESSION_TAG (03)). -/
  tag : BitVec 64 := 0
  /-- low half holds a written value (R70 (03)). -/
  tagLo : Bool := false
  /-- high half holds a written value (R70 (03)). -/
  tagHi : Bool := false
  /-- LK registers locked (R69 (03)). -/
  locked : Bool := false
  /-- HUB's copy of the tables; a slot not listed holds its built-in default, or none for 11-15 (R197 (08)). -/
  tables : Tab SfTable := []
  /-- the committed image waits to be written to the store (R68 (03)). -/
  storePending : Bool := false
  deriving DecidableEq, Repr

/-- The resident model image (R220-R226, R477). -/
structure ModelSt where
  /-- STATE 0 NONE 1 RESIDENT 2 DRAINING 3 LOADING (HUB_MODEL_STATUS (09)). -/
  st : Nat := 0
  /-- TABLE_MISMATCH (HUB_MODEL_STATUS (09)). -/
  mismatch : Bool := false
  /-- ACTIVE_FMT (HUB_MODEL_STATUS (09)). -/
  fmt : Nat := 0
  /-- IMAGE_ID (HUB_MODEL_ID (09)). -/
  id : BitVec 64 := 0
  /-- bytes of the weight region (HUB_MODEL_LEN (09)). -/
  len : BitVec 64 := 0
  /-- an image is resident (also while a load drains) (R225 (09)). -/
  resident : Bool := false
  /-- MODEL_BASE under which the image was loaded (R67 (03)). -/
  base : Nat := 0
  /-- TABLES of the resident image (R223 (09)). -/
  tables : List (Nat × BitVec 64) := []
  /-- LOAD_IMAGE job in progress (R366 (13)). -/
  loadJob : Nat := 0
  /-- the job is SRC_KIND 2 (R366 (13)). -/
  loadUnload : Bool := false
  /-- the image being copied (R226 (09)). -/
  loadImg : List (BitVec 8) := []
  /-- version it is read as (R220 (09)). -/
  loadFmt : Nat := 0
  deriving DecidableEq, Repr

/-- A ring pair of a session (R351, R352). -/
structure WeftRing where
  /-- T (R349 DB_SQ_TAIL (13)). -/
  sqTail : Nat := 0
  /-- CH (R349 DB_CQ_HEAD (13)). -/
  cqHead : Nat := 0
  /-- ADDR of the submission ring (R349 DB_SQ_BASE (13)). -/
  sqBase : BitVec 50 := 0
  /-- ADDR of the completion ring (R349 DB_CQ_BASE (13)). -/
  cqBase : BitVec 50 := 0
  /-- THRESH (R349 DB_CQ_IRQ (13)). -/
  thresh : BitVec 8 := 1
  /-- TIME (R349 DB_CQ_IRQ (13)). -/
  time : BitVec 8 := 0
  /-- H, entries fetched (R351 (13)). -/
  sqHead : Nat := 0
  /-- CT, completions written (R351 (13)). -/
  cqTail : Nat := 0
  /-- completion phase of the present pass (R350 (13)). -/
  phase : Bool := true
  /-- jobs fetched and not completed (R352 (13)). -/
  inflight : Nat := 0
  /-- completions not yet signalled (R370 (13)). -/
  unsig : Nat := 0
  deriving DecidableEq, Repr

/-- A partition's doorbell page and session (R349, R350). -/
structure WeftPage where
  /-- rings 0-3 (R349 (13)). -/
  rings : Tab WeftRing := []
  /-- HOST_TAG (DB_HELLO (13)). -/
  hostTag : BitVec 32 := 0
  /-- VER_MAX (DB_HELLO (13)). -/
  verMax : BitVec 16 := 0
  /-- VER_MIN (DB_HELLO (13)). -/
  verMin : BitVec 16 := 0
  /-- WARP_GEN (DB_HELLO_STATUS (13)). -/
  gen : BitVec 32 := 0
  /-- STATUS (DB_HELLO_STATUS (13)). -/
  status : Nat := 0
  /-- BUSY (DB_HELLO_STATUS (13)). -/
  busy : Bool := false
  /-- ACTIVE (DB_HELLO_STATUS (13)). -/
  active : Bool := false
  /-- VERSION (DB_HELLO_STATUS (13)). -/
  version : Nat := 0
  /-- BAD_WRITES (DB_STATUS (13)). -/
  badWrites : Nat := 0
  /-- EARLY, CFG_REFUSED, BAD_HEAD, BAD_TAIL (DB_STATUS (13)). -/
  sticky : BitVec 4 := 0
  /-- HOST_TAG of the session (R367 (13)). -/
  sessTag : BitVec 32 := 0
  deriving DecidableEq, Repr

/-- PCIe, MSI-X and the Weft pages (R331-R334, R349-R370). -/
structure HostSt where
  /-- PCIe link trained (R331 (13)). -/
  linkUp : Bool := false
  /-- rate in GT/s (R331 (13)). -/
  rate : Nat := 0
  /-- width in lanes (R331 (13)). -/
  width : Nat := 0
  /-- FLIT mode (R331 (13)). -/
  flit : Bool := false
  /-- doorbell pages (R349 (13)). -/
  pages : Tab WeftPage := []
  /-- PF1 vectors raised (event lines, merging) (R370 (13)). -/
  raised : BitVec 144 := 0
  /-- PF0 vectors raised (R370 (13)). -/
  raised0 : BitVec 129 := 0
  /-- PF1 MSI-X table entries (R333 (13)). -/
  msix1 : Tab (BitVec 128) := []
  /-- PF0 MSI-X table entries (R333 (13)). -/
  msix0 : Tab (BitVec 128) := []
  deriving DecidableEq, Repr

/-- An NVMe submission queue (R336). -/
structure NvmeSq where
  /-- PRP1 (R336 (13)). -/
  base : Nat := 0
  /-- entries (R336 (13)). -/
  size : Nat := 0
  /-- completion queue (R336 (13)). -/
  cq : Nat := 0
  /-- entries fetched (R336 (13)). -/
  head : Nat := 0
  /-- tail doorbell (R335 (13)). -/
  tail : Nat := 0
  deriving DecidableEq, Repr

/-- An NVMe completion queue (R336). -/
structure NvmeCq where
  /-- PRP1 (R336 (13)). -/
  base : Nat := 0
  /-- entries (R336 (13)). -/
  size : Nat := 0
  /-- interrupt vector (R370 (13)). -/
  vector : Nat := 0
  /-- interrupts enabled (R336 (13)). -/
  ien : Bool := true
  /-- completions written (R336 (13)). -/
  tail : Nat := 0
  /-- head doorbell (R335 (13)). -/
  head : Nat := 0
  /-- phase tag of the present pass (R336 (13)). -/
  phase : Bool := true
  deriving DecidableEq, Repr

/-- An NVMe command fetched and not completed. -/
structure NvmeOut where
  /-- submission queue (R336 (13)). -/
  sq : Nat := 0
  /-- the command (R335 (13)). -/
  cmd : NvmeCmd := {}
  /-- order of fetch (R343 (13)). -/
  order : Nat := 0
  /-- has started (Abort does not stop it) (R336 (13)). -/
  started : Bool := false
  /-- units not yet recorded (R311 (12)). -/
  left : Nat := 0
  deriving DecidableEq, Repr

/-- The NVMe controller PF0 (R335-R348). -/
structure NvmeSt where
  /-- CC (R335 CC (13)). -/
  cc : BitVec 32 := 0
  /-- RDY (R335 CSTS.RDY (13)). -/
  rdy : Bool := false
  /-- CFS (R335 CSTS.CFS (13)). -/
  cfs : Bool := false
  /-- SHST (R335 CSTS.SHST (13)). -/
  shst : Nat := 0
  /-- interrupt mask (R335 INTMS/INTMC (13)). -/
  intm : BitVec 32 := 0
  /-- admin queue attributes (R335 AQA (13)). -/
  aqa : BitVec 32 := 0
  /-- admin submission queue base (R335 ASQ (13)). -/
  asq : BitVec 64 := 0
  /-- admin completion queue base (R335 ACQ (13)). -/
  acq : BitVec 64 := 0
  /-- submission queues, 0 the admin queue (R336 (13)). -/
  sqs : Tab NvmeSq := []
  /-- completion queues (R336 (13)). -/
  cqs : Tab NvmeCq := []
  /-- commands fetched and not completed, in order of fetch (R343 (13)). -/
  outs : List NvmeOut := []
  /-- order given next (R343 (13)). -/
  orderNext : Nat := 0
  /-- feature values by FID (temperature thresholds under 0x04 over and 0x104 under) (R338 (13)). -/
  feats : Tab (BitVec 32) := []
  /-- outstanding Asynchronous Event Requests (R342 (13)). -/
  aers : List (BitVec 16) := []
  /-- events not yet posted: type, information, log page (R342 (13)). -/
  events : List (Nat × Nat × Nat) := []
  /-- event types posted and masked until re-armed (R342 (13)). -/
  eventMasked : List Nat := []
  /-- error information entries, newest first (status, SQ, CID, NSID) (R339 (13)). -/
  errLog : List (BitVec 80) := []
  /-- errors so far (R339 (13)). -/
  errCount : Nat := 0
  /-- NSIDs of the Changed Namespace List (R339 (13)). -/
  changedNs : BitVec 33 := 0
  /-- SMART critical warning bits last reported (R339 (13)). -/
  warn : BitVec 8 := 0
  /-- a unit of a host namespace was lost since power-on reset (R339 (13)). -/
  lostSincePor : Bool := false
  /-- host logical blocks read (R339 (13)). -/
  unitsRead : Nat := 0
  /-- host logical blocks written (R339 (13)). -/
  unitsWritten : Nat := 0
  /-- host read commands (R339 (13)). -/
  readCmds : Nat := 0
  /-- host write commands (R339 (13)). -/
  writeCmds : Nat := 0
  /-- power state held (R345 (13)). -/
  ps : Nat := 0
  /-- power state being entered, equal to ps when none (R346 (13)). -/
  psTarget : Nat := 0
  /-- operational state held last (R345 (13)). -/
  psOper : Nat := 0
  deriving DecidableEq, Repr

/-- A map entry of 5 bytes (R307). -/
structure MapEnt where
  unreadable : Bool := false
  discarded : Bool := false
  millpond : Bool := false
  valid : Bool := false
  unit : Nat := 0
  deriving DecidableEq, Repr
/-- A 4 KiB unit as it stands on the medium (R310, R311): the plaintext, the key generation it was encrypted under and
the page header's NSID and LBA. -/
structure UnitData where
  nsid : Nat := 0
  lba : Nat := 0
  keyGen : Nat := 0
  data : BitVec 32768 := 0
  deriving DecidableEq, Repr
/-- The pool a block stands in (R306). -/
inductive Pool where
  | free | opened | full | retired | parity
  deriving DecidableEq, Repr

/-- A NAND block (R303, R306). -/
structure BlockSt where
  /-- mode of its last erase (R303 (12)). -/
  oneBit : Bool := false
  /-- wear units (R303 (12)). -/
  wear : Nat := 0
  /-- pool (R306 (12)). -/
  pool : Pool := .free
  /-- row that owns it (R304 (12)). -/
  row : Nat := 0
  /-- next wordline position (R305 (12)). -/
  nextPage : Nat := 0
  /-- free and awaiting erase (R306 (12)). -/
  dirty : Bool := false
  /-- row that a retired block stood in (R315 R317 (12)). -/
  exRow : Nat := 0
  /-- valid units (R306 (12)). -/
  valid : Nat := 0
  /-- reads since its last program (R320 (12)). -/
  reads : Nat := 0
  /-- order of opening (oldest first folding) (R313 (12)). -/
  opened : Nat := 0
  deriving DecidableEq, Repr

/-- A row of a stripe group (R304, R305). -/
structure RowSt where
  /-- identity (R304 (12)). -/
  id : Nat := 0
  /-- stripe group 16h+d (R304 (12)). -/
  group : Nat := 0
  /-- number within the group (R304 (12)). -/
  num : Nat := 0
  /-- mode (R304 (12)). -/
  oneBit : Bool := false
  /-- member blocks by position (R304 (12)). -/
  members : List Nat := []
  /-- closed (R304 (12)). -/
  closed : Bool := false
  /-- running exclusive-or of each incomplete stripe, by 4*page+plane (R305 (12)). -/
  xors : Tab (BitVec 131072) := []
  /-- parity pages programmed (R304 (12)). -/
  parityDone : Tab (BitVec 131072) := []
  deriving DecidableEq, Repr

/-- A 4 KiB block gathered for a one-bit wordline (R311). -/
structure GUnit where
  /-- the unit (R311 (12)). -/
  u : UnitData := {}
  /-- NVMe command, or 0 (R325 (12)). -/
  order : Nat := 0
  /-- source unit of a relocation (R314 (12)). -/
  src : Option Nat := none
  /-- atomic piece it belongs to (R324 (12)). -/
  journal : Nat := 0
  deriving DecidableEq, Repr

/-- A wordline program in flight (R311). -/
structure ProgSt where
  /-- block, channel*2^15+die*2^11+number (R301 (12)). -/
  block : Nat := 0
  /-- first page (R301 (12)). -/
  page : Nat := 0
  /-- units in order (R311 (12)). -/
  units : List GUnit := []
  deriving DecidableEq, Repr

/-- A journal record (R328). -/
inductive JRec where
  | mapPiece (ents : List (Nat × Nat × MapEnt))   -- entries of one atomic piece: NSID, LBA, entry
  | discard (nsid lba count : Nat)
  | unmapAll (nsid : Nat)
  | nsChange (nsid : Nat)
  | index (handle csn : Nat)
  | publish (handle csn : Nat)
  | pool (block : Nat)
  | ckpt (slot state : Nat)
  deriving DecidableEq, Repr
/-- A namespace that stands on the medium (R56, R63). -/
structure NsSt where
  nsid : Nat := 0
  purpose : Nat := 0
  owner : Nat := 0xFF
  size : Nat := 0
  attached : Bool := false
  deriving DecidableEq, Repr
/-- The books of one FC die (R306, and the error counters of its register map). -/
structure FcDie where
  free : Nat := 262144
  opened : Nat := 0
  full : Nat := 0
  retired : Nat := 0
  parity : Nat := 0
  /-- The last capture of FC_POOL_CTL: free, open, full, retired, parity. -/
  snap : List Nat := [262144, 0, 0, 0, 0]
  retries : Nat := 0
  soft : Nat := 0
  rebuilds : Nat := 0
  lost : Nat := 0
  misses : BitVec 32 := 0
  readOnly : Bool := false
  partnerLost : Bool := false
  /-- Garbage collection runs until 8,192 blocks are free (R321). -/
  gc : Bool := false
  /-- Extent-independent journal buffer: records held, not yet written to the system area (R328). -/
  jbuf : List JRec := []
  deriving DecidableEq, Repr
/-- An extent run of an index and its hold count (R316, R317). -/
structure RunSt where
  nsid : Nat := 0
  lba : Nat := 0
  unit : Nat := 0
  pages : Nat := 0
  holds : Nat := 0
  moved : Bool := false
  deriving DecidableEq, Repr

/-- A map page as it stands in the system area (R308). -/
structure MapPage where
  /-- its directory entry (R308 (12)). -/
  ent : MapEnt := {}
  /-- write sequence number of its header (R308 (12)). -/
  seq : Nat := 0
  /-- its 16 KiB (R308 (12)). -/
  image : BitVec 131072 := 0
  deriving DecidableEq, Repr

/-- Flash media and translation (R301-R330). -/
structure FlashSt where
  /-- namespaces on the medium (R56 (03)). -/
  nss : List NsSt := []
  /-- map entries by NSID*2^40+LBA (R307 (12)). -/
  map : Tab MapEnt := []
  /-- units programmed, by unit address (R310 (12)). -/
  units : Tab UnitData := []
  /-- blocks (R306 (12)). -/
  blocks : Tab BlockSt := []
  /-- row table (R304 (12)). -/
  rows : List RowSt := []
  /-- identity of the next row (R304 (12)). -/
  rowNext : Nat := 1
  /-- rows opened so far in each group (R304 (12)). -/
  groupRows : Tab Nat := []
  /-- books of the FC dies (R306 (12)). -/
  dies : Tab FcDie := []
  /-- units gathering, by channel (R311 (12)). -/
  gather : Tab (List GUnit) := []
  /-- units waiting for the Millpond, by channel (R313 (12)). -/
  waitMill : Tab (List GUnit) := []
  /-- program in flight on each channel (R311 (12)). -/
  progs : Tab ProgSt := []
  /-- number of the next atomic piece (R324 (12)). -/
  pieceNext : Nat := 1
  /-- pieces programmed in part: units missing and entries ready (R324 (12)). -/
  pieces : Tab (Nat × List (Nat × Nat × MapEnt)) := []
  /-- journal records in the system area, oldest first (R328 (12)). -/
  sys : List JRec := []
  /-- exclusive-ors written at power loss: row, stripe, value (R305 (12)). -/
  sysXor : List (Nat × Nat × BitVec 131072) := []
  /-- the seal record stands (R329 (12)). -/
  sealed : Bool := true
  /-- map pages written and the directory, by NSID*2^40+i (R308 (12)). -/
  mapPages : Tab MapPage := []
  /-- write sequence number of the next map page (R308 (12)). -/
  mapSeq : Nat := 0
  /-- map pages cached, most recently used first, with their dirty mark (R309 (12)). -/
  cache : List (Nat × Bool) := []
  /-- WB_MODE (R58 R312 (12)). -/
  wbMode : Nat := 0
  /-- Millpond capacity C, recomputed when a one-bit row opens (R312 (12)). -/
  capUser : Nat := 3298534883328
  /-- WL_SPREAD (R58 (03)). -/
  wlSpread : Nat := 200
  /-- MAP_CACHE (R58 R468 (03,17)). -/
  mapCacheGiB : Nat := 16
  /-- extent runs (R317 (12)). -/
  runs : List RunSt := []
  /-- units that fail stripe rebuild (R319 (12)). -/
  lostUnits : Tab Unit := []
  /-- BUSY (FC_POOL_CTL (12)). -/
  poolBusy : Bool := false
  /-- start-ups without a seal (R339 (13)). -/
  unsafeShut : Nat := 0
  /-- units lost in host namespaces (R339 (13)). -/
  hostLost : Nat := 0
  /-- channel whose wordline gathers next (R311 (12)). -/
  nextChan : Nat := 0
  /-- order of block openings (R313 (12)). -/
  openSeq : Nat := 0
  deriving DecidableEq, Repr

/-- An index entry with its record (R267, R269). -/
structure Entry where
  /-- CODES (R267 (11)). -/
  codes : BitVec 256 := 0
  /-- ATTR (R267 (11)). -/
  attr : BitVec 64 := 0
  /-- IDENT (R267 (11)). -/
  ident : BitVec 64 := 0
  /-- record of RECSIZE bytes (R269 (11)). -/
  vec : List (BitVec 8) := []
  deriving DecidableEq, Repr

/-- A list version (R272). -/
structure Version where
  /-- VSTART (R272 (11)). -/
  vstart : Nat := 1
  /-- VEND, none while current (R272 (11)). -/
  vend : Option Nat := none
  /-- entries in order (R268 (11)). -/
  ents : List Entry := []
  /-- its runs that hold entries: j, first LBA of the entry extent and of the record extent (R268 R269 R316 (11,12)). -/
  runs : List (Nat × Nat × Nat) := []
  deriving DecidableEq, Repr

/-- A side-list insert copy (R273). -/
structure SideCopy where
  /-- the entry (R273 (11)). -/
  e : Entry := {}
  /-- list (R273 (11)). -/
  list : Nat := 0
  /-- insert CSN (R273 (11)). -/
  csn : Nat := 0
  /-- publication CSN of the version that holds it (R273 (11)). -/
  merged : Option Nat := none
  deriving DecidableEq, Repr

/-- A tombstone (R273). -/
structure Tomb where
  /-- IDENT (R273 (11)). -/
  ident : BitVec 64 := 0
  /-- CSN (R273 (11)). -/
  csn : Nat := 0
  /-- publication CSN of a version that excludes it (R273 (11)). -/
  merged : Option Nat := none
  deriving DecidableEq, Repr

/-- An index (R265-R274). -/
structure IndexSt where
  /-- handle 16*NSID+slot (R265 (11)). -/
  handle : Nat := 0
  /-- DIM (R266 (11)). -/
  dim : Nat := 64
  /-- VFMT (R266 (11)). -/
  vfmt : Nat := 0
  /-- METRIC (R266 (11)). -/
  metric : Nat := 0
  /-- CODE (R266 (11)). -/
  code : Nat := 0
  /-- LISTS (R266 (11)). -/
  lists : Nat := 1
  /-- STRIPE (R266 (11)). -/
  stripe : Nat := 1
  /-- SIDE_MAX (R266 (11)). -/
  sideMax : Nat := 1024
  /-- LISTS x DIM FP32 (R266 (11)). -/
  centroids : List (BitVec 32) := []
  /-- codebooks (R266 (11)). -/
  books : List (BitVec 32) := []
  /-- last CSN taken = frontier F (R270 (11)). -/
  csn : Nat := 1
  /-- P of the last publication (R298 (11)). -/
  lastPub : Nat := 0
  /-- versions of each list, oldest first (R272 (11)). -/
  vers : Tab (List Version) := []
  /-- retained insert copies, in CSN order (R273 (11)). -/
  side : List SideCopy := []
  /-- retained tombstones, in CSN order (R273 (11)). -/
  tombs : List Tomb := []
  /-- identifier directory: GEN of each live ID (R294 (11)). -/
  live : Tab Nat := []
  /-- identifier directory: last GEN of each known ID (R294 (11)). -/
  known : Tab Nat := []
  /-- active snapshot pins: holder and S (R271 (11)). -/
  snaps : List (Nat × Nat) := []
  /-- CTX_VA while open (R296 (11)). -/
  opened : Option Nat := none
  /-- DROP job that waits for the snapshots (R296 (11)). -/
  dropping : Nat := 0
  /-- MERGE job in progress (R297 (11)). -/
  merging : Nat := 0
  /-- its through-CSN (R297 (11)). -/
  mergeM : Nat := 0
  /-- versions built and not yet published (R297 (11)). -/
  mergeNew : Tab (List Entry) := []
  /-- MERGE jobs that wait (R297 (11)). -/
  mergeWait : List Nat := []
  deriving DecidableEq, Repr

/-- A candidate (R287): score, IDENT, channel and locator. -/
structure Cand where
  score : Nat := 0
  ident : BitVec 64 := 0
  chan : Nat := 0
  loc : Nat := 0
  deriving DecidableEq, Repr
/-- An extent descriptor in the fields of R283. -/
structure ExtDesc where
  tag : Nat := 0
  qmask : BitVec 32 := 0
  list : Nat := 0
  run : Nat := 0
  lc : Bool := false
  last : Bool := false
  slotBase : Nat := 0
  vstart : Nat := 0
  entryUnit : Nat := 0
  recUnit : Nat := 0
  pages : Nat := 0
  entries : Nat := 0
  /-- CODE: PQ4. -/
  pq4 : Bool := false
  recSize64 : Nat := 0
  /-- Entry pages already scanned or lost. -/
  done : Nat := 0
  /-- Entries of the page in the engine's buffer that are scanned; 0 while the page has not been read. -/
  at_ : Nat := 0
  deriving DecidableEq, Repr

/-- A scan batch (R275, R282). -/
structure Batch where
  /-- batch tag (R283 (11)). -/
  tag : Nat := 0
  /-- partition (R276 (11)). -/
  ptn : Nat := 0
  /-- handle (R276 (11)). -/
  index : Nat := 0
  /-- S (R276 (11)). -/
  snap : Nat := 0
  /-- the record pinned S itself (R276 (11)). -/
  ownPin : Bool := false
  /-- class (R276 (11)). -/
  lc : Bool := false
  /-- NQ (R276 (11)). -/
  nq : Nat := 1
  /-- R (R276 (11)). -/
  r : Nat := 1
  /-- PREFETCH (R276 (11)). -/
  prefetch : Nat := 0
  /-- list set (R276 (11)). -/
  lists : List (Nat × BitVec 32) := []
  /-- tables, 16384 bytes per query (R278 (11)). -/
  tables : List (BitVec 8) := []
  /-- filters, empty for none (R280 (11)). -/
  filters : List (BitVec 8) := []
  /-- candidate buffer (R287 (11)). -/
  dVa : Nat := 0
  /-- record buffer (R287 (11)). -/
  eVa : Nat := 0
  /-- DONE_OBJ (R276 (11)). -/
  doneObj : Nat := 0xFFFF
  /-- DONE_ADD (R276 (11)). -/
  doneAdd : Nat := 0
  /-- SEARCH job, 0 for a scan-ring record (R291 (11)). -/
  job : Nat := 0
  /-- placed on its engines (R282 (11)). -/
  placed : Bool := false
  /-- channels of the batch (R282 (11)). -/
  chans : List Nat := []
  /-- channels that have reported (R288 (11)). -/
  reported : List Nat := []
  /-- top-R of each (channel, query), by 64*q+c (R284 (11)). -/
  tops : Tab (List Cand) := []
  /-- LOST marks by 64*q+c (R286 (11)). -/
  lostQ : Tab Unit := []
  /-- pages lost (R287 (11)). -/
  pagesLost : Nat := 0
  /-- STATUS (R287 (11)). -/
  status : Nat := 0
  /-- a FETCH record (R289 (11)). -/
  fetch : Bool := false
  /-- locators of a FETCH: CHANNEL and LOC (R276 (11)). -/
  locs : List (Nat × Nat) := []
  /-- query vectors of a SEARCH (R291 (11)). -/
  queries : List (BitVec 8) := []
  /-- queries marked INVALID (R291 (11)). -/
  invalid : BitVec 32 := 0
  /-- query results by 64*q+c, or records of a FETCH by number, that are written (R288 R289 (11)). -/
  written : Tab Unit := []
  /-- channels whose record pages are read (R288 (11)). -/
  fetched : List Nat := []
  /-- first unit of the record page of each locator of a FETCH in progress (R289 R317 (11,12)). -/
  pages : Tab Nat := []
  /-- runs that a FETCH in progress holds (R317 (12)). -/
  heldRuns : List Nat := []
  /-- the buffer header is written (R288 (11)). -/
  headed : Bool := false
  deriving DecidableEq, Repr

/-- A Quern engine (R281, FC_QN_*). -/
structure QuernEng where
  /-- BE_FREE (FC_QN_STATUS (11)). -/
  beFree : Nat := 32
  /-- LC_FREE (FC_QN_STATUS (11)). -/
  lcFree : Nat := 8
  /-- query slots taken: batch tag, class, SLOT_BASE, NQ (R281 R283 (11)). -/
  slots : List (Nat × Bool × Nat × Nat) := []
  /-- the engine queue's arbiter (R259 (10)). -/
  arb : Arb := {}
  /-- resident tombstone sets: index, largest S, tombstones (FC_QN_STATUS.TOMB_SETS (11)). -/
  sets : List (Nat × Nat × List Tomb) := []
  /-- extent descriptors queued, in order (FC_QN_STATUS.QUEUE (11)). -/
  queue : List ExtDesc := []
  /-- descriptors sent and not yet received (R283 (11)). -/
  pend : List ExtDesc := []
  /-- ENTRIES (FC_QN_COUNT (11)). -/
  entries : BitVec 48 := 0
  /-- PAGES_LOST (FC_QN_COUNT (11)). -/
  pagesLost : Nat := 0
  /-- LOOKUPS (FC_QN_LOOKUPS (11)). -/
  lookups : BitVec 64 := 0
  deriving DecidableEq, Repr

/-- Near-flash search (R265-R298). -/
structure SearchSt where
  /-- indexes (R265 (11)). -/
  indexes : List IndexSt := []
  /-- batches in the order their records were taken (R275 (11)). -/
  batches : List Batch := []
  /-- tag given next (R283 (11)). -/
  nextTag : Nat := 1
  /-- Quern engines by channel (R281 (11)). -/
  engs : Tab QuernEng := []
  deriving DecidableEq, Repr

/-- An ingest binding in force (R299). -/
structure BindSt where
  /-- partition (R299 (11)). -/
  ptn : Nat := 0
  /-- PORT (R299 (11)). -/
  port : Nat := 0
  /-- ETHERTYPE (R299 (11)). -/
  etype : Nat := 0
  /-- STREAM (R299 (11)). -/
  stream : Nat := 0xFFFF
  /-- BUF_VA (R299 (11)). -/
  buf : Nat := 0
  /-- BUF_LEN (R299 (11)). -/
  len : Nat := 0
  /-- OBJ (R299 (11)). -/
  obj : Nat := 0
  /-- STORE (R299 (11)). -/
  store : Nat := 0
  /-- PROD (R299 (11)). -/
  prod : Nat := 0
  /-- DROPS (R299 (11)). -/
  drops : Nat := 0
  /-- frames so far (R299 (11)). -/
  seq : Nat := 0
  /-- first reclamation logged (R300 (11)). -/
  reclaimed : Bool := false
  deriving DecidableEq, Repr

/-- Ingest (R299, R300). -/
structure IngestSt where
  /-- bindings in force (R299 (11)). -/
  binds : Tab BindSt := []
  /-- append position of each ingest store, by NSID (R300 (11)). -/
  storePos : Tab Nat := []
  /-- position of the oldest byte that each store holds (R300 (11)). -/
  storeBase : Tab Nat := []
  /-- bytes of each store whose write waits (R300 R313 (11,12)). -/
  storeWait : Tab (List (BitVec 8)) := []
  deriving DecidableEq, Repr

/-- A flit on a link (R374, R376). -/
structure LkFlit where
  /-- link VC (R374 (14)). -/
  vc : Nat := 4
  /-- partition, 32 for the module (R379 (14)). -/
  ptn : Nat := 32
  /-- key of its job, 0 none (R379 (14)). -/
  key : BitVec 64 := 0
  /-- latency-critical (R374 (14)). -/
  lc : Bool := false
  /-- the last flit of its packet (R374 (14)). -/
  last : Bool := true
  /-- payload bytes of the packet, in its header flit (R261 (10)). -/
  pay : Nat := 0
  /-- counted as held by the link regulator (R260 (10)). -/
  held : Bool := false
  /-- flow of its packet: source and destination module, source agent, VC (R376 (14)). -/
  flow : List Nat := []
  /-- module its packet is for (R376 (14)). -/
  dest : Nat := 0
  /-- chosen directions in the packet's header, a bit for + in X, Y and Z (R376 (14)). -/
  plus : BitVec 3 := 0
  deriving DecidableEq, Repr

/-- A Selvedge link (R371-R375). -/
structure LinkSt where
  /-- STATE 0 OFF 1 TRAINING 2 UP 3 DOWN 4 REFUSED 5 MISWIRED 6 UNUSED (LNK_STATUS (14)). -/
  st : Nat := 0
  /-- CAUSE (LNK_STATUS (14)). -/
  cause : Nat := 0
  /-- VERSION (LNK_STATUS (14)). -/
  version : Nat := 0
  /-- RETRAINS (LNK_STATUS (14)). -/
  retrains : Nat := 0
  /-- DIR (LNK_STATUS (14)). -/
  dir : Nat := 0
  /-- MODULE (LNK_PARTNER (14)). -/
  pMod : Nat := 0
  /-- LINK (LNK_PARTNER (14)). -/
  pLink : Nat := 0
  /-- CRC_RETRIES (LNK_ERR (14)). -/
  crc : Nat := 0
  /-- FEC_CORRECTED (LNK_ERR (14)). -/
  fec : Nat := 0
  /-- REFUSED (LNK_ERR (14)). -/
  refused : Nat := 0
  /-- DROPPED (LNK_ERR (14)). -/
  dropped : Nat := 0
  /-- BUSY (LNK_CREDIT_SNAP_CTL (14)). -/
  snapBusy : Bool := false
  /-- VC (LNK_CREDIT_SNAP_CTL (14)). -/
  snapVc : BitVec 3 := 0
  /-- DIR (LNK_CREDIT_SNAP_CTL (14)). -/
  snapDir : Bool := false
  /-- CONSTANT, SENDER_CREDITS, IN_FLIGHT, OCCUPANCY (LNK_CREDIT_SNAP_DATA (14)). -/
  snapData : BitVec 64 := 0
  /-- credit books by 8*dir+vc (R374 (14)). -/
  books : Tab CreditBook := []
  /-- sequence number sent next (R375 (14)). -/
  txSeq : BitVec 12 := 0
  /-- sequence number expected next (R375 (14)). -/
  rxSeq : BitVec 12 := 0
  /-- consecutive failed replays of one flit (R375 (14)). -/
  replayFails : Nat := 0
  /-- retrainings failed in a row (R375 (14)). -/
  trainFails : Nat := 0
  /-- training steps 1-3 are done and the identity exchange waits (R372 (14)). -/
  aligned : Bool := false
  /-- flits in the replay buffer, oldest first (R375 R386 (14)). -/
  replay : List LkFlit := []
  /-- flits in the send queue, in arrival order (R374 R386 (14)). -/
  sendq : List LkFlit := []
  /-- slot of the frame of 16 that comes next (R374 (14)). -/
  slot : Nat := 0
  /-- the send queue's arbiter (R259 (10)). -/
  arb : Arb := {}
  /-- partition whose packet has begun to leave, by VC (R374 (14)). -/
  part : Tab Nat := []
  deriving DecidableEq, Repr

/-- A checkpoint slot (R388). -/
structure CkSlot where
  id : Nat := 0
  key : BitVec 64 := 0
  /-- 0 EMPTY, 1 WRITING, 2 PREPARED, 3 COMMITTED. -/
  st : Nat := 0
  pages : Nat := 0
  digest : BitVec 256 := 0
  deriving DecidableEq, Repr
/-- What a coordinator knows of a key (R389). -/
structure Coord where
  key : BitVec 64 := 0
  /-- CKPT_ID of the coordinator's own checkpoint in progress, 0 when none. -/
  cur : Nat := 0
  modules : Nat := 1
  /-- Modules that reported PREPARED, with their CKPT_ID. -/
  prepared : List (Nat × Nat) := []
  /-- The checkpoint aborted last: its CKPT_ID, 0 when none, and the status sent. -/
  aborted : Nat × Nat := (0, 0)
  deriving DecidableEq, Repr
/-- A message the module sends to another (R377, R386, R389). -/
inductive LinkMsg where
  | reach (dim : Nat) (plus : Bool) (mod : Nat)
  | jobAbort (key : BitVec 64) (link : Nat)
  | prepared (mod : Nat) (key : BitVec 64) (id : Nat)
  | commit (mod : Nat) (key : BitVec 64) (id : Nat)
  | abort (mod : Nat) (key : BitVec 64) (id status : Nat)
  | query (mod : Nat) (key : BitVec 64)
  | lastIs (mod : Nat) (key : BitVec 64) (id : Nat)
  | request (mod : Nat) (r : RemReq)
  | answer (mod : Nat) (a : RemAns)
  deriving DecidableEq, Repr

/-- Selvedge links and multi-module jobs (R371-R390). -/
structure LinksSt where
  /-- links 0-47 (R371 (14)). -/
  links : Tab LinkSt := []
  /-- dimensions and position (R60 (03)). -/
  torus : LinkSet := {}
  /-- dead directions of the module's rings: dimension, plus, coordinate (R377 (14)). -/
  dead : List (Nat × Bool × Nat) := []
  /-- messages sent, newest last (R377 R386 R389 (14)). -/
  outbox : List LinkMsg := []
  /-- keys whose job-abort message has been forwarded (R386 (14)). -/
  abortSeen : List (BitVec 64) := []
  /-- checkpoint slots (R388 (14)). -/
  slots : Tab CkSlot := []
  /-- keys this module coordinates (R389 (14)). -/
  coords : List Coord := []
  deriving DecidableEq, Repr

/-- A log entry (R401). -/
structure LogEnt where
  /-- TIME (R401 (15)). -/
  time : BitVec 64 := 0
  /-- SEQ (R401 (15)). -/
  seq : BitVec 32 := 0
  /-- SOURCE (R401 (15)). -/
  source : BitVec 16 := 0
  /-- CODE (R401 (15)). -/
  code : Nat := 0
  /-- PAYLOAD, zeros beyond the bytes listed (R401 (15)). -/
  payload : List (BitVec 8) := []
  /-- CHAIN, big end first (R401 (15)). -/
  chain : BitVec 128 := 0
  /-- FLAGS bit 0 (R401 (15)). -/
  timeInvalid : Bool := false
  /-- an uncorrectable word (R407 (15)). -/
  bad : Bool := false
  deriving DecidableEq, Repr

/-- The log (R401-R407). -/
structure LogSt where
  /-- SEQ of the next entry (MOD_LOG_STATUS (15)). -/
  nextSeq : BitVec 32 := 1
  /-- last entry accepted (R403 (15)). -/
  last : LogEnt := { code := 0x7000 }
  /-- entries accepted and not yet programmed (R406 MOD_LOG_STATUS.QUEUED (15)). -/
  queue : List LogEnt := []
  /-- entries discarded since the last 0x7010 (R406 (15)). -/
  discarded : Nat := 0
  /-- sectors of the window, oldest first; an abandoned row stands as an entry of code 0 (R404 (15)). -/
  sectors : List (List LogEnt) := [[{ code := 0x7000 }]]
  /-- the newest row is being programmed: its entry still takes one of the 128 places (R398 R406 (15)). -/
  progOn : Bool := false
  /-- the next good sector stands erased (R404 (15)). -/
  erased : Bool := true
  /-- the erase of the next good sector waits for its bank (R399 R404 (15)). -/
  eraseDue : Bool := false
  /-- oldest sectors of the window already archived (R405 (15)). -/
  archived : Nat := 0
  /-- entries of the sector after them that stand on a page already (R405 (15)). -/
  archPart : Nat := 0
  /-- archive pages: page number and entries, oldest first (R405 (15)). -/
  pages : List (Nat × List LogEnt) := []
  /-- page written next (R405 (15)). -/
  pageNext : Nat := 0
  /-- records of the archive index by page (R405 (15)). -/
  archIdx : Tab (List (BitVec 8)) := []
  /-- ARCHIVING (MOD_LOG_STATUS (15)). -/
  archiving : Bool := false
  /-- GAP (MOD_LOG_STATUS (15)). -/
  gap : Bool := false
  /-- good sectors of the log region (R404 (15)). -/
  good : Nat := 1024
  /-- key, instant of the last entry, events folded since, TIME of the first of them (rate limits of the log codes (all)). -/
  rate : List (Nat × Nat × Nat × BitVec 64) := []
  deriving DecidableEq, Repr

/-- A firmware image of a slot, in the fields MGT uses (R409). The signature and the digests are judged when it is read. -/
structure FwImg where
  bytes : List (BitVec 8) := []
  comps : BitVec 3 := 0
  secver : Nat := 0
  mgtV : BitVec 16 := 0
  fcV : BitVec 16 := 0
  hubV : BitVec 16 := 0
  tested : List (BitVec 64) := []
  deriving DecidableEq, Repr
/-- A key-store slot (R418): state 0xFF FREE, 0x7F NEW, 0x3F ACTIVE, 0x00 DESTROYED. -/
structure KeySlot where
  st : Nat := 0xFF
  nsid : Nat := 0
  gen : Nat := 0
  /-- CHECK or the unwrap fails. -/
  bad : Bool := false
  deriving DecidableEq, Repr
/-- An operation of a NOR bank (R398, R399). -/
structure NorOp where
  erase : Bool := false
  row : Nat := 0
  /-- A second program pulse has been given (R400). -/
  again : Bool := false
  deriving DecidableEq, Repr
/-- A copy of the configuration store (R68). -/
structure StoreCopy where
  seq : Nat := 0
  bytes : List (BitVec 8) := []
  deriving DecidableEq, Repr
/-- A firmware commit at step 4 of R411: where its completion goes, the slot, the ACTION and the images to be written. -/
structure LongFw where
  src : Src := .mailbox
  /-- Job of a Weft command, command identifier of an NVMe command, chain TAG. -/
  job : Nat := 0
  slot : Nat := 1
  action : Nat := 0
  set : List FwImg := []
  deriving DecidableEq, Repr

/-- A sensor (R395, R396). -/
structure Sensor where
  /-- VALID (MOD_SENSOR (15)). -/
  valid : Bool := false
  /-- VALUE (MOD_SENSOR (15)). -/
  value : BitVec 32 := 0
  /-- its failure is logged (R396 (15)). -/
  failed : Bool := false
  deriving DecidableEq, Repr

/-- The management die (R391-R426). -/
structure MgtSt where
  /-- the log (R401 (15)). -/
  log : LogSt := {}
  /-- MGT firmware runs (R391 (15)). -/
  running : Bool := false
  /-- the ROM serves alone (R412 (15)). -/
  recovery : Bool := false
  /-- sensors by index (MOD_SENSOR (15)). -/
  sensors : Tab Sensor := []
  /-- firmware slot 1 (R397 (15)). -/
  slotA : List FwImg := []
  /-- firmware slot 2 (R397 (15)). -/
  slotB : List FwImg := []
  /-- BOOT_SLOT (MOD_FW_STATUS (15)). -/
  bootSlot : Nat := 0
  /-- NEXT_SLOT (MOD_FW_STATUS (15)). -/
  nextSlot : Nat := 0
  /-- NEXT of the boot record (R412 (15)). -/
  norNext : Nat := 1
  /-- TRIAL of the boot record (R411 (15)). -/
  norTrial : Bool := false
  /-- TRIAL (MOD_FW_STATUS (15)). -/
  trial : Bool := false
  /-- unconfirmed trials in a row (R412 (15)). -/
  trialFails : Nat := 0
  /-- HELD (MOD_FW_STATUS (15)). -/
  held : Bool := false
  /-- UNTESTED (MOD_FW_STATUS (15)). -/
  untested : Bool := false
  /-- MGT_VER (MOD_FW_VER (15)). -/
  mgtVer : BitVec 16 := 0
  /-- FC_VER (MOD_FW_VER (15)). -/
  fcVer : BitVec 16 := 0
  /-- HUB_VER (MOD_FW_VER (15)). -/
  hubVer : BitVec 16 := 0
  /-- override record (R416 (15)). -/
  override : Option (BitVec 64) := none
  /-- source that owns the staging (R410 (15)). -/
  stagSrc : Option Src := none
  /-- staged bytes (R410 (15)). -/
  stag : List (BitVec 8) := []
  /-- 4 KiB pieces staged (R410 (15)). -/
  stagPages : Tab Unit := []
  /-- LENGTH bytes are present and logged (R410 (15)). -/
  stagDone : Bool := false
  /-- fused SECVER minimum (MOD_FW_STATUS (15)). -/
  secverMin : Nat := 0
  /-- silicon stepping (MOD_FW_STATUS (15)). -/
  stepping : BitVec 8 := 1
  /-- key-store slots in use (R418 (15)). -/
  keys : List KeySlot := []
  /-- revocation fuses of the four vendor keys that are intact (R409 (15)). -/
  keyFuses : BitVec 4 := 0xF
  /-- slots used in the present half (R418 (15)). -/
  keyHalf : Nat := 0
  /-- key registers of the FC dies: generation by NSID (R420 (15)). -/
  keyRegs : Tab Nat := []
  /-- board-memory keys generated so far (R419 (15)). -/
  boardKey : Nat := 0
  /-- the entropy source passes its health tests (R417 (15)). -/
  rngOk : Bool := true
  /-- root-kill fuse blown (R424 (15)). -/
  rootKilled : Bool := false
  /-- debug fuse blown (R424 (15)). -/
  debugOpen : Bool := false
  /-- ERASE_PENDING (MOD_KEY_STATUS (15)). -/
  erasePending : BitVec 32 := 0
  /-- CODE (MGMT_MB_CMD (15)). -/
  mbCode : BitVec 16 := 0
  /-- ARG_LEN (MGMT_MB_CMD (15)). -/
  mbArgLen : Nat := 0
  /-- GO, reads 1 until accepted (MGMT_MB_CMD (15)). -/
  mbGo : Bool := false
  /-- BUSY (MGMT_MB_STATUS (15)). -/
  mbBusy : Bool := false
  /-- DONE (MGMT_MB_STATUS (15)). -/
  mbDone : Bool := false
  /-- STATUS (MGMT_MB_STATUS (15)). -/
  mbStatus : Nat := 0
  /-- REPLY_LEN (MGMT_MB_STATUS (15)). -/
  mbReplyLen : Nat := 0
  /-- LOG_SEQ (MGMT_MB_STATUS (15)). -/
  mbLogSeq : BitVec 32 := 0
  /-- argument bytes (MGMT_MB_ARG (15)). -/
  mbArg : Tab (BitVec 8) := []
  /-- reply bytes (MGMT_MB_REPLY (15)). -/
  mbReply : List (BitVec 8) := []
  /-- operations of each bank, innermost first (R398 R399 (15)). -/
  norOps : Tab (List NorOp) := []
  /-- spare sectors left in bank D (R397 (15)). -/
  norSpare : Nat := 192
  /-- sectors of bank D remapped (R400 (15)). -/
  norRemap : List Nat := []
  /-- banks with a sector that failed erase verify (R400 (15)). -/
  norBadBank : Tab Unit := []
  /-- sectors scheduled for refresh: bank, sector (R400 (15)). -/
  norRefresh : List (Nat × Nat) := []
  /-- configuration store (R68 (03)). -/
  store : List StoreCopy := []
  /-- last valid field settings (R68 (03)). -/
  lastField : Option FieldSet := none
  /-- bypassed columns of each core (R168 (07)). -/
  bypass : Tab (BitVec 128) := []
  /-- cores whose outlier strip failed (R168 (07)). -/
  stripBad : BitVec 64 := 0
  /-- firmware commit whose bank is being written (R392 R411 (15)). -/
  long : Option LongFw := none
  deriving DecidableEq, Repr

/-- An inhibit input (R435-R437). -/
structure InhSt where
  /-- A_RELEASED (FIELD_INH (16)). -/
  aRel : Bool := false
  /-- B_RELEASED (FIELD_INH (16)). -/
  bRel : Bool := false
  /-- FAULT latched (FIELD_INH.STATE (16)). -/
  fault : Bool := false
  /-- DISC in ms (FIELD_INH.DISC_MS (16)). -/
  disc : Nat := 2000
  /-- DISAGREE timer in ns (FIELD_INH.DISAGREE_MS (16)). -/
  disagree : Nat := 0
  /-- AGREE timer in ns (R436 (16)). -/
  agree : Nat := 0
  /-- SAW_DEMAND (FIELD_INH (16)). -/
  sawD : Bool := false
  /-- SAW_RELEASED (FIELD_INH (16)). -/
  sawR : Bool := false
  /-- ACK_REFUSED (FIELD_INH (16)). -/
  ackRefused : Bool := false
  /-- FAULTS (FIELD_INH (16)). -/
  faults : Nat := 0
  deriving DecidableEq, Repr

/-- A result mailbox slot (R442). -/
structure MboxSlot where
  /-- front buffer (R442 (16)). -/
  front : BitVec 256 := 0
  /-- back buffer (R442 (16)). -/
  back : BitVec 256 := 0
  /-- staged mark (R442 (16)). -/
  staged : Bool := false
  deriving DecidableEq, Repr

/-- A gate control list (R441). -/
structure Gates where
  base : BitVec 64 := 0
  cycleNs : Nat := 0
  ents : List (BitVec 8 × Nat) := []
  deriving DecidableEq, Repr
/-- A reply of the cyclic exchange ready for its egress queue (R444, R445). -/
structure CycReply where
  dst : BitVec 48 := 0
  vid : Nat := 0
  pcp : Nat := 0
  payload : List (BitVec 8) := []
  deriving DecidableEq, Repr

/-- A field Ethernet port (R440-R445). -/
structure EthPort where
  /-- requests (FIELD_PORT.CYC_REQUESTS (16)). -/
  reqs : Nat := 0
  /-- replies (FIELD_PORT.CYC_REPLIES (16)). -/
  replies : Nat := 0
  /-- requests dropped (FIELD_PORT.CYC_DROPPED (16)). -/
  dropped : Nat := 0
  /-- replies dropped as late (FIELD_PORT.CYC_LATE (16)). -/
  late : Nat := 0
  /-- ingest frames dropped (FIELD_PORT.INGEST_DROPS (16)). -/
  ingDrops : Nat := 0
  /-- frames of no binding (FIELD_PORT.RX_UNCLAIMED (16)). -/
  unclaimed : Nat := 0
  /-- link up (FIELD_PORT.LINK (16)). -/
  linkUp : Bool := false
  /-- FEC in use (FIELD_PORT.LINK (16)). -/
  fec : Nat := 0
  /-- FCS errors (FIELD_PORT.RX_FCS_ERRORS (16)). -/
  fcsErr : Nat := 0
  /-- FEC selected (PORT_CFG (16)). -/
  fecCfg : Nat := 0
  /-- CYC_PCP (PORT_CFG (16)). -/
  pcp : Nat := 0
  /-- STATION (PORT_CFG (16)). -/
  station : Nat := 0
  /-- group addresses (PORT_CFG (16)). -/
  groups : List (BitVec 48) := []
  /-- gate control list in force (R441 (16)). -/
  gates : Gates := {}
  /-- list that waits for its first cycle (R441 (16)). -/
  gatesNew : Option Gates := none
  /-- requests being assembled or queued, with their receive time stamps (R445 (16)). -/
  queue : List (BitVec 64 × List (BitVec 8)) := []
  /-- replies in the egress queue (R445 (16)). -/
  ready : List CycReply := []
  /-- replies transmitted, newest last (R445 (16)). -/
  sent : List CycReply := []
  /-- FRESH bits of this port (R442 (16)). -/
  fresh : BitVec 64 := 0
  deriving DecidableEq, Repr

/-- The field connector (R427-R445). -/
structure FieldSt where
  /-- field settings in force (R430 (16)). -/
  set : FieldSet := {}
  /-- MGT has loaded field settings since power-on (R429 (16)). -/
  loaded : Bool := false
  /-- COMMANDED (FIELD_DO (16)). -/
  commanded : BitVec 8 := 0
  /-- outputs commanded since the last holding event (R430 (16)). -/
  cmdSince : BitVec 8 := 0
  /-- FAULT (FIELD_DO (16)). -/
  fault : BitVec 8 := 0
  /-- SUPPLY_LOST (FIELD_DO (16)). -/
  supplyLost : Bool := true
  /-- XCLK absent, or settings not reloaded since (R438 (16)). -/
  xclkLost : Bool := false
  /-- XCLK is absent (R438 (16)). -/
  xclkOut : Bool := false
  /-- STATE (FIELD_DI (16)). -/
  di : BitVec 8 := 0
  /-- changes (FIELD_DI_COUNT (16)). -/
  diCount : Tab (BitVec 32) := []
  /-- inhibit inputs (FIELD_INH (16)). -/
  inh : Tab InhSt := []
  /-- STATE 0 OPEN 1 PRESSED 2 STUCK (FIELD_BTN (16)). -/
  btnState : Nat := 0
  /-- HOLD_MS (FIELD_BTN (16)). -/
  btnHold : Nat := 0
  /-- PRESSES (FIELD_BTN (16)). -/
  btnPresses : Nat := 0
  /-- field ports (FIELD_PORT (16)). -/
  ports : Tab EthPort := []
  /-- both ports stopped (R35 (02)). -/
  portsStopped : Bool := false
  /-- result mailbox (R442 (16)). -/
  mbox : Tab MboxSlot := []
  deriving DecidableEq, Repr

/-- The time base (R446-R450). -/
structure TimeSt where
  /-- seconds (TIME_NOW (16)). -/
  sec : Nat := 0
  /-- nanoseconds (TIME_NOW (16)). -/
  ns : Nat := 0
  /-- staged seconds and nanoseconds (TIME_SET (16)). -/
  setVal : BitVec 64 := 0
  /-- PENDING (TIME_STATUS (16)). -/
  pending : Bool := false
  /-- SOURCE of the apply that waits (R447 (16)). -/
  pendSrc : BitVec 16 := 0
  /-- SET_ERR (TIME_STATUS (16)). -/
  setErr : Bool := false
  /-- VALID (TIME_STATUS (16)). -/
  valid : Bool := false
  /-- STATE 0 FREE 1 LOCKING 2 LOCKED 3 HOLDOVER 4 INVALID (TIME_STATUS (16)). -/
  st : Nat := 0
  /-- SOURCE (TIME_STATUS (16)). -/
  source : Nat := 0
  /-- RATE_PPB (TIME_STATUS (16)). -/
  rate : Int := 0
  /-- OFFSET_NS (TIME_STATUS (16)). -/
  offset : Int := 0
  /-- stamp of the last edge (TIME_PPS_IN (16)). -/
  pps : BitVec 64 := 0
  /-- latched high half of each interface (R446 (16)). -/
  latches : Tab (BitVec 32) := []
  /-- PROFILE (TIME_CFG (16)). -/
  profile : Nat := 0
  /-- DOMAIN (TIME_CFG (16)). -/
  domain : Nat := 0
  /-- a measurement was made since the source was selected (R449 (16)). -/
  measured : Bool := false
  /-- consecutive measurements within 1 us (R449 (16)). -/
  goodRun : Nat := 0
  /-- currentUtcOffset of a locked PTP source (R447 (16)). -/
  utcOffset : Option Nat := none
  /-- nanoseconds since power-on reset (R401 (15)). -/
  mono : Nat := 0
  /-- 5 ns frames since the last XCLK edge while XCLK counts (R450 (16)). -/
  xsub : Nat := 0
  /-- copies of the other dies, by SOURCE number, that an apply has not yet reached: what they are ahead of TIME_NOW in ns, and the ns until it reaches them (R38 R447 (02 16)). -/
  copies : Tab (Int × Nat) := []
  /-- rate correction not yet carried into a whole ns, in 1e-9 ns (R446 (16)). -/
  fracPpb : Int := 0
  deriving DecidableEq, Repr

/-- The management chain (R451-R456). -/
structure ChainSt where
  /-- ADDR (FIELD_CHAIN (16)). -/
  addr : Nat := 0
  /-- CONFIRMED (FIELD_CHAIN (16)). -/
  confirmed : Bool := false
  /-- POSITION (FIELD_CHAIN (16)). -/
  position : Nat := 0
  /-- UP_UP (FIELD_CHAIN (16)). -/
  upUp : Bool := false
  /-- DOWN_UP (FIELD_CHAIN (16)). -/
  downUp : Bool := false
  /-- CRC_ERRORS (FIELD_CHAIN (16)). -/
  crcErrors : Nat := 0
  /-- EVENTS_DROPPED (FIELD_CHAIN (16)). -/
  evDropped : Nat := 0
  /-- won flag of walk 1 (R454 (16)). -/
  won : Bool := false
  /-- instants of the EVENT frames of the last second (R456 (16)). -/
  evTimes : List Nat := []
  /-- frames sent up the chain, newest last (R452 (16)). -/
  outUp : List ChainFrame := []
  /-- frames sent down the chain, newest last (R452 (16)). -/
  outDown : List ChainFrame := []
  deriving DecidableEq, Repr

/-- Clocks (R32-R35). -/
structure ClkSt where
  /-- UNLOCK_COUNT (MOD_CLK_STATUS (02)). -/
  unlocks : Nat := 0
  /-- ON_XCLK (MOD_CLK_STATUS (02)). -/
  onXclk : Bool := true
  /-- PLL_LOCK (MOD_CLK_STATUS (02)). -/
  lock : Bool := false
  /-- CLK_OK (MOD_CLK_STATUS (02)). -/
  ok : BitVec 6 := 0
  /-- CLK_FAULT (MOD_CLK_FAULT (02)). -/
  faults : BitVec 6 := 0
  deriving DecidableEq, Repr

/-- Power, units, service level (R458-R475). -/
structure PwrSt where
  /-- start-ups of the 54 V domain so far, on which the unwritten bytes of memory depend (R135 (05)). -/
  startUps : Nat := 0
  /-- 12 V standby present (R462 (17)). -/
  standby : Bool := true
  /-- 54 V input has met the start threshold (R461 (17)). -/
  in54 : Bool := false
  /-- 54 V domain out of reset (R468 (17)). -/
  domainUp : Bool := false
  /-- MGT bridge isolated (HUB_FAB_PORT_STATUS[30].ISOLATED (02)). -/
  isolated : Bool := true
  /-- the power-loss sequence runs (R329 (12)). -/
  lossRunning : Bool := false
  /-- units found lost while it runs, logged after the restart (R474 (17)). -/
  lateLost : List DieUnit := []
  /-- LEVEL (MOD_SL_STATUS (17)). -/
  level : Nat := 0
  /-- LOCKOUT (MOD_SL_STATUS (17)). -/
  lockout : Bool := false
  /-- CT_OK (MOD_SL_STATUS (17)). -/
  ctOk : BitVec 16 := 0
  /-- STACK_OK (MOD_SL_STATUS (17)). -/
  stackOk : BitVec 8 := 0
  /-- MH_OK (MOD_SL_STATUS (17)). -/
  mhOk : BitVec 2 := 0
  /-- FC_OK (MOD_SL_STATUS (17)). -/
  fcOk : BitVec 8 := 0
  /-- HUB_OK (MOD_SL_STATUS (17)). -/
  hubOk : Bool := false
  /-- HIO_OK (MOD_SL_STATUS (17)). -/
  hioOk : Bool := false
  /-- LK_OK (MOD_SL_STATUS (17)). -/
  lkOk : BitVec 3 := 0
  /-- KIND (MOD_RESET_CAUSE (17)). -/
  kind : Nat := 0
  /-- CAUSE (MOD_RESET_CAUSE (17)). -/
  cause : Nat := 1
  /-- SOURCE (MOD_RESET_CAUSE (17)). -/
  source : BitVec 16 := 0
  /-- instants of the failures to reach SL2 (MOD_RESET_CAUSE.START_FAILS (17)). -/
  fails : List Nat := []
  /-- the one retry of the start has been made (R469 (17)). -/
  retried : Bool := false
  /-- HOLDUP 0 CHARGING 1 READY 2 DISCHARGING 3 FAULT (MOD_POWER_STATUS (17)). -/
  holdup : Nat := 0
  /-- CAPPING (MOD_POWER_STATUS (17)). -/
  capping : Bool := false
  /-- temperature limits acting: sensor, 0 warning 1 throttle 2 critical (R466 (17)). -/
  acting : List (Nat × Nat) := []
  /-- GATE (MOD_POWER_STATUS (17)). -/
  gate : Nat := 8
  /-- PFAIL_COUNT (MOD_POWER_STATUS (17)). -/
  pfails : Nat := 0
  /-- AVG_W (MOD_POWER_STATUS (17)). -/
  avgW : Nat := 0
  /-- sensor whose cooling the start-up waits for (R466 (17)). -/
  restartWait : Option Nat := none
  /-- a start-up of the 54 V domain from step 5 is due once the input has met its threshold (R459 R462 R469 (17)). -/
  startDue : Bool := false
  /-- the coolant inlet lies outside the grade's range and that is logged (R465 (17)). -/
  inletOut : Bool := false
  deriving DecidableEq, Repr

/-- What the instruction register of the test port selects (R423). -/
inductive TapInstr where
  | bypass | idcode | sample | extest
  deriving DecidableEq, Repr

/-- The test port (R423). -/
structure TapSt where
  /-- instruction selected (R423 (15)). -/
  ir : TapInstr := .idcode
  /-- bypass register (R423 (15)). -/
  bypass : Bool := false
  /-- device identification register as captured (R423 (15)). -/
  idcode : BitVec 32 := 1
  /-- boundary cells at the package pins (R423 (15)). -/
  cells : List Bool := []
  /-- preloaded values of the boundary cells, driven under EXTEST (R423 (15)). -/
  latch : List Bool := []
  deriving DecidableEq, Repr

/-- What is fixed at the factory (R1, R16, R201). -/
structure Factory where
  /-- the grade, as the order code in the factory calibration row gives it, is LX-3200-X (R1 (00)). -/
  gradeX : Bool := false
  /-- Revision ID of both functions (R332 (13)). -/
  stepping : BitVec 8 := 0
  /-- factory serial (R455 (16)). -/
  serial : BitVec 128 := 0
  /-- the code that IDCODE captures (R423 (15)). -/
  idcode : BitVec 32 := 1
  /-- MAC addresses of the field ports (R440 (16)). -/
  macs : List (BitVec 48) := []
  /-- energy coefficients by activity kind (R263 (10)). -/
  coeffs : List Nat := []
  deriving DecidableEq, Repr

/-- Why the machine stops with a fault. No command of this hardware has a fault the spec leaves without an effect, so
no meaning raises one; the constructor keeps the type inhabited. -/
inductive Fault where
  /-- Raised by no command. Safe: it is never answered. -/
  | unreachable
  deriving DecidableEq, Repr

/-- Why a command has no meaning in the model. -/
inductive Refusal where
  /-- The arm of a command whose meaning is not written yet, with its mnemonic. Safe: it says nothing of the hardware. -/
  | notModelled (mnemonic : String)
  deriving DecidableEq, Repr


/-- The LX-3200. -/
structure State where
  /-- MODEL's own: commands that wait, first in, first out (the row's cut). -/
  pending : List Instr := []
  /-- MODEL's own: counter behind the free values. -/
  free : Nat := 0
  /-- factory data (R1 (00)). -/
  fac : Factory := {}
  /-- clocks (R32 (02)). -/
  clk : ClkSt := {}
  /-- power and units (R458 (17)). -/
  pwr : PwrSt := {}
  /-- fabric (R40 (02)). -/
  fab : FabricSt := {}
  /-- warp loader (R62 (03)). -/
  warp : WarpSt := {}
  /-- partitions (R54 (03)). -/
  ptns : Tab PtnSt := []
  /-- cores (R13 (01)). -/
  cores : Tab CoreSt := []
  /-- sync store (R84 (04)). -/
  sync : SyncSt := {}
  /-- notice engine (R97 (04)). -/
  notice : NoticeSt := {}
  /-- bytes of stacks, board memory, host IOVA and remote modules by device physical address (R103 (05)). -/
  mem : Memory := []
  /-- coherence directory (R126 (05)). -/
  dir : Directory := {}
  /-- translation (R107 (05)). -/
  xl : XlatSt := {}
  /-- Shuttle (R239 (10)). -/
  sh : ShuttleSt := {}
  /-- model image (R225 (09)). -/
  model : ModelSt := {}
  /-- multicast streams by group (R233 (09)). -/
  mctok : Tab McastTok := []
  /-- PCIe, Weft pages, MSI-X (R331 (13)). -/
  host : HostSt := {}
  /-- NVMe controller (R335 (13)). -/
  nvme : NvmeSt := {}
  /-- flash side (R301 (12)). -/
  flash : FlashSt := {}
  /-- search (R265 (11)). -/
  search : SearchSt := {}
  /-- ingest (R299 (11)). -/
  ingest : IngestSt := {}
  /-- links (R371 (14)). -/
  links : LinksSt := {}
  /-- management die (R391 (15)). -/
  mgt : MgtSt := {}
  /-- field connector (R427 (16)). -/
  field : FieldSt := {}
  /-- time base (R446 (16)). -/
  time : TimeSt := {}
  /-- management chain (R451 (16)). -/
  chain : ChainSt := {}
  /-- test port (R423 (15)). -/
  tap : TapSt := {}
  deriving DecidableEq, Repr

/-- The machine right after power-on reset (R11, R458): every field at its default above, the queue empty. Start-up has
not run: the boot ROM has not chosen a slot, the 54 V domain is down and the field outputs are de-energised. -/
def State.reset : State := {}

/-- The state with `pending` replaced. -/
def State.setPending (s : State) (v : List Instr) : State := { s with pending := v }

/-- The state with `free` replaced. -/
def State.setFree (s : State) (v : Nat) : State := { s with free := v }

/-- The state with `fac` replaced. -/
def State.setFac (s : State) (v : Factory) : State := { s with fac := v }

/-- The state with `clk` replaced. -/
def State.setClk (s : State) (v : ClkSt) : State := { s with clk := v }

/-- The state with `pwr` replaced. -/
def State.setPwr (s : State) (v : PwrSt) : State := { s with pwr := v }

/-- The state with `fab` replaced. -/
def State.setFab (s : State) (v : FabricSt) : State := { s with fab := v }

/-- The state with `warp` replaced. -/
def State.setWarp (s : State) (v : WarpSt) : State := { s with warp := v }

/-- The state with `ptns` replaced. -/
def State.setPtns (s : State) (v : Tab PtnSt) : State := { s with ptns := v }

/-- The state with `cores` replaced. -/
def State.setCores (s : State) (v : Tab CoreSt) : State := { s with cores := v }

/-- The state with `sync` replaced. -/
def State.setSync (s : State) (v : SyncSt) : State := { s with sync := v }

/-- The state with `notice` replaced. -/
def State.setNotice (s : State) (v : NoticeSt) : State := { s with notice := v }

/-- The state with `mem` replaced. -/
def State.setMem (s : State) (v : Memory) : State := { s with mem := v }

/-- The state with `dir` replaced. -/
def State.setDir (s : State) (v : Directory) : State := { s with dir := v }

/-- The state with `xl` replaced. -/
def State.setXl (s : State) (v : XlatSt) : State := { s with xl := v }

/-- The state with `sh` replaced. -/
def State.setSh (s : State) (v : ShuttleSt) : State := { s with sh := v }

/-- The state with `model` replaced. -/
def State.setModel (s : State) (v : ModelSt) : State := { s with model := v }

/-- The state with `mctok` replaced. -/
def State.setMctok (s : State) (v : Tab McastTok) : State := { s with mctok := v }

/-- The state with `host` replaced. -/
def State.setHost (s : State) (v : HostSt) : State := { s with host := v }

/-- The state with `nvme` replaced. -/
def State.setNvme (s : State) (v : NvmeSt) : State := { s with nvme := v }

/-- The state with `flash` replaced. -/
def State.setFlash (s : State) (v : FlashSt) : State := { s with flash := v }

/-- The state with `search` replaced. -/
def State.setSearch (s : State) (v : SearchSt) : State := { s with search := v }

/-- The state with `ingest` replaced. -/
def State.setIngest (s : State) (v : IngestSt) : State := { s with ingest := v }

/-- The state with `links` replaced. -/
def State.setLinks (s : State) (v : LinksSt) : State := { s with links := v }

/-- The state with `mgt` replaced. -/
def State.setMgt (s : State) (v : MgtSt) : State := { s with mgt := v }

/-- The state with `field` replaced. -/
def State.setField (s : State) (v : FieldSt) : State := { s with field := v }

/-- The state with `time` replaced. -/
def State.setTime (s : State) (v : TimeSt) : State := { s with time := v }

/-- The state with `chain` replaced. -/
def State.setChain (s : State) (v : ChainSt) : State := { s with chain := v }

/-- The state with `tap` replaced. -/
def State.setTap (s : State) (v : TapSt) : State := { s with tap := v }

end Sys2Proof.Machine
end

