-- ==== Sys2Proof/Machine/Tab.lean ====
section
/-! DEFINITION. Tables by number: reading and writing, the keys kept strictly rising. -/

namespace Sys2Proof.Machine

/-- The entry of key `k`, if listed. -/
def tfind {α : Type} : Tab α → Nat → Option α
  | [], _ => none
  | (k, v) :: t, i => if k = i then some v else tfind t i

/-- The entry of key `i`, or the table's default. -/
def tget {α : Type} (t : Tab α) (i : Nat) (d : α) : α := (tfind t i).getD d

/-- Writes the entry of key `i`. -/
def tset {α : Type} : Tab α → Nat → α → Tab α
  | [], i, v => [(i, v)]
  | (k, w) :: t, i, v => if i < k then (i, v) :: (k, w) :: t else if i = k then (i, v) :: t else (k, w) :: tset t i v

/-- Removes the entry of key `i`. -/
def tdel {α : Type} (t : Tab α) (i : Nat) : Tab α := t.filter fun e => e.1 != i

/-- Changes the entry of key `i`, starting from the default when it is not listed. -/
def tmod {α : Type} (t : Tab α) (i : Nat) (d : α) (f : α → α) : Tab α := tset t i (f (tget t i d))

/-- Adds to a counter of a table whose default is 0. -/
def tadd (t : Tab Nat) (i n : Nat) : Tab Nat := tset t i (tget t i 0 + n)

/-- Adds to a counter that saturates at `w` bits. -/
def tsat (t : Tab Nat) (i w n : Nat) : Tab Nat := tset t i (satAdd w (tget t i 0) n)

/-- Is the key listed? -/
def thas {α : Type} (t : Tab α) (i : Nat) : Bool := (tfind t i).isSome

/-- Strictly rising keys: the form every operation keeps. -/
def tsorted {α : Type} : Tab α → Bool
  | [] => true
  | [_] => true
  | (a, _) :: (b, v) :: t => decide (a < b) && tsorted ((b, v) :: t)

end Sys2Proof.Machine
end

