-- ==== Sys2Proof/Machine/Mem.lean ====
section
/-! DEFINITION. The bytes of memory by device physical address (R103): one canonical list, what an unlisted address reads
as, and the ranges of the address map. -/

namespace Sys2Proof.Machine

/-- The ranges of R103. -/
inductive PaRange where
  | stack | board | spad (core off : Nat) | host | remote (module off : Nat) | unmapped
  deriving DecidableEq, Repr

/-- The range of a device physical address (R103). -/
def paRange (pa : Nat) : PaRange :=
  if pa < 0x8000000000 then .stack
  else if 0x10000000000 ≤ pa ∧ pa < 0x30000000000 then .board
  else if 0x40000000000 ≤ pa ∧ pa < 0x40000000000 + 64 * 0x80000 then
    (let o := pa - 0x40000000000
     if o % 0x80000 < 0x60000 then .spad (o / 0x80000) (o % 0x80000) else .unmapped)
  else if 0x1000000000000 ≤ pa ∧ pa < 0x2000000000000 then .host
  else if 0x2000000000000 ≤ pa ∧ pa < 0x4000000000000 then .remote (fld pa 38 11) (pa % 2 ^ 38)
  else .unmapped

/-- Coherent memory: stacks and board memory (R103, R125). -/
def paCoherent (pa : Nat) : Bool :=
  match paRange pa with
  | .stack => true
  | .board => true
  | _ => false

/-- What an address that nothing has written reads as: stacks are cleared by start-up step 7 (R135), every other byte is
a free value (log entry 7). `epoch` counts the start-ups. -/
def unlisted (epoch pa : Nat) : Byte := if pa < 0x8000000000 then 0 else Config.freeByte epoch pa

/-- The byte listed at an address. -/
def memFind : Memory → Nat → Option Byte
  | [], _ => none
  | (k, v) :: m, a => if k = a then some v else memFind m a

/-- The byte at an address. -/
def memGet (epoch : Nat) (m : Memory) (a : Nat) : Byte := (memFind m a).getD (unlisted epoch a)

/-- Lists a byte, keeping the addresses rising. -/
def memIns : Memory → Nat → Byte → Memory
  | [], a, v => [(a, v)]
  | (k, w) :: m, a, v => if a < k then (a, v) :: (k, w) :: m else if a = k then (a, v) :: m else (k, w) :: memIns m a v

/-- Takes an address out of the list. -/
def memDel (m : Memory) (a : Nat) : Memory := m.filter fun e => e.1 != a

/-- Writes a byte in canonical form: a stack byte of 0 is what an unlisted address reads as, so it is not listed. -/
def memSet (m : Memory) (a : Nat) (v : Byte) : Memory :=
  if a < 0x8000000000 ∧ v = 0 then memDel m a else memIns m a v

/-- `n` bytes from an address. -/
def memRead (epoch : Nat) (m : Memory) (a n : Nat) : List Byte := (List.range n).map fun i => memGet epoch m (a + i)

/-- Writes bytes from an address up. -/
def memWrite : Memory → Nat → List Byte → Memory
  | m, _, [] => m
  | m, a, b :: bs => memWrite (memSet m a b) (a + 1) bs

/-- Addresses strictly rising from `lo`. -/
def memRising : Nat → Memory → Bool
  | _, [] => true
  | lo, (k, _) :: m => decide (lo ≤ k) && memRising (k + 1) m

/-- The canonical form: addresses strictly rising, no entry equal to what an unlisted address is stated to read as. -/
def Memory.wf (m : Memory) : Bool := memRising 0 m && m.all fun e => !(decide (e.1 < 0x8000000000) && e.2 == 0)

end Sys2Proof.Machine
end

