-- ==== Sys2Proof/Machine/Ops.lean ====
section
/-! DEFINITION. The named operations over the parts of the state: reading and changing one core, thread, partition,
object or ring, raising a vector, the present time. -/

namespace Sys2Proof.Machine

/-- Completion statuses (R355). -/
def stOk : Nat := 0x00
def stPartial : Nat := 0x01
def stAbortFault : Nat := 0x02
def stAbortUncorrectable : Nat := 0x03
def stAbortLink : Nat := 0x04
def stRestart : Nat := 0x05
def stLockViolation : Nat := 0x06
def stVersion : Nat := 0x07
def stNoResource : Nat := 0x08
def stInvalidField : Nat := 0x09
def stHeldMode : Nat := 0x0A
def stPreempted : Nat := 0x0B

/-- The version two sides use: the highest in both ranges (R64, R220, R350, R373). -/
def commonVersion (lo hi myLo myHi : Nat) : Option Nat :=
  let v := min hi myHi
  if lo ≤ v ∧ myLo ≤ v then some v else none

/-- Core `c`. -/
def State.core (s : State) (c : Nat) : CoreSt := tget s.cores c {}

/-- Changes core `c`. -/
def State.modCore (s : State) (c : Nat) (f : CoreSt → CoreSt) : State := s.setCores (tset s.cores c (f (s.core c)))

/-- Thread `t` of a core. -/
def CoreSt.thr (k : CoreSt) (t : Nat) : Thread := tget k.threads t {}

/-- Changes thread `t` of a core. -/
def CoreSt.modThr (k : CoreSt) (t : Nat) (f : Thread → Thread) : CoreSt :=
  { k with threads := tset k.threads t (f (k.thr t)) }

/-- Thread `t` of core `c`. -/
def State.thr (s : State) (c t : Nat) : Thread := (s.core c).thr t

/-- Changes thread `t` of core `c`. -/
def State.modThr (s : State) (c t : Nat) (f : Thread → Thread) : State := s.modCore c fun k => k.modThr t f

/-- Partition `p`. -/
def State.ptn (s : State) (p : Nat) : PtnSt := tget s.ptns p {}

/-- Changes partition `p`. -/
def State.modPtn (s : State) (p : Nat) (f : PtnSt → PtnSt) : State := s.setPtns (tset s.ptns p (f (s.ptn p)))

/-- A change of a part of the state, in the order of reading. -/
def State.modSync (s : State) (f : SyncSt → SyncSt) : State := s.setSync (f s.sync)
def State.modNotice (s : State) (f : NoticeSt → NoticeSt) : State := s.setNotice (f s.notice)
def State.modDir (s : State) (f : Directory → Directory) : State := s.setDir (f s.dir)
def State.modXl (s : State) (f : XlatSt → XlatSt) : State := s.setXl (f s.xl)
def State.modSh (s : State) (f : ShuttleSt → ShuttleSt) : State := s.setSh (f s.sh)
def State.modModel (s : State) (f : ModelSt → ModelSt) : State := s.setModel (f s.model)
def State.modHost (s : State) (f : HostSt → HostSt) : State := s.setHost (f s.host)
def State.modNvme (s : State) (f : NvmeSt → NvmeSt) : State := s.setNvme (f s.nvme)
def State.modFlash (s : State) (f : FlashSt → FlashSt) : State := s.setFlash (f s.flash)
def State.modSearch (s : State) (f : SearchSt → SearchSt) : State := s.setSearch (f s.search)
def State.modIngest (s : State) (f : IngestSt → IngestSt) : State := s.setIngest (f s.ingest)
def State.modLinks (s : State) (f : LinksSt → LinksSt) : State := s.setLinks (f s.links)
def State.modMgt (s : State) (f : MgtSt → MgtSt) : State := s.setMgt (f s.mgt)
def State.modField (s : State) (f : FieldSt → FieldSt) : State := s.setField (f s.field)
def State.modTime (s : State) (f : TimeSt → TimeSt) : State := s.setTime (f s.time)
def State.modChain (s : State) (f : ChainSt → ChainSt) : State := s.setChain (f s.chain)
def State.modFab (s : State) (f : FabricSt → FabricSt) : State := s.setFab (f s.fab)
def State.modWarp (s : State) (f : WarpSt → WarpSt) : State := s.setWarp (f s.warp)
def State.modPwr (s : State) (f : PwrSt → PwrSt) : State := s.setPwr (f s.pwr)
def State.modClk (s : State) (f : ClkSt → ClkSt) : State := s.setClk (f s.clk)
def State.modLog (s : State) (f : LogSt → LogSt) : State := s.modMgt fun m => { m with log := f m.log }

/-- TIME_NOW: seconds in bits 63:30, nanoseconds in bits 29:0 (R446). -/
def State.timeNow (s : State) : BitVec 64 := BitVec.ofNat 64 (s.time.sec * 2 ^ 30 + s.time.ns)

/-- Nanoseconds since power-on reset: the clock of the model's own windows and rate limits. -/
def State.now (s : State) : Nat := s.time.mono

/-- A fresh free value: the counter behind the free values advances. -/
def State.fresh (s : State) : Nat × State := (s.free, s.setFree (s.free + 1))

/-- Raises vector `v` of PF1 (R370): the lines are event lines and merge (R37). -/
def State.raise (s : State) (v : Nat) : State := s.modHost fun h => { h with raised := h.raised ||| BitVec.ofNat 144 (2 ^ v) }

/-- Raises vector `v` of PF0 (R370). -/
def State.raise0 (s : State) (v : Nat) : State := s.modHost fun h => { h with raised0 := h.raised0 ||| BitVec.ofNat 129 (2 ^ v) }

/-- Partition that owns a core, if any (R26). -/
def State.coreOwner (s : State) (c : Nat) : Option Nat :=
  (List.range 32).find? fun p => (s.ptn p).live && bitN (s.ptn p).cores.toNat c

/-- Partition that owns an absolute sync object, if any (R84). -/
def State.objOwner (s : State) (n : Nat) : Option Nat :=
  (List.range 32).find? fun p =>
    let q := s.ptn p
    q.live && decide (q.syncBase ≤ n) && decide (n < q.syncBase + q.syncCount)

/-- An arrival for the sync store waits at its input (R88); SYNC_UPDATE applies it. Objects are absolute. -/
def State.syncArrive (s : State) (input obj : Nat) (op : SyncOp) : State :=
  s.modSync fun q => { q with arrivals := q.arrivals ++ [{ input := input, obj := obj, op := op }] }

/-- An add of a HUB agent to a partition-relative object through input 79; an object outside the partition's range names
none (R85, R114). -/
def State.signalRel (s : State) (input p obj n : Nat) : State :=
  if obj < (s.ptn p).syncCount ∧ n ≠ 0 then s.syncArrive input ((s.ptn p).syncBase + obj) (.add n) else s

/-- The sync-store input of a fabric port (R88). -/
def portInput (port : Nat) : Nat := port + 48

/-- DONE of a record through an input: DONE_OBJ 0xFFFF or DONE_ADD 0 signals nothing (R115). -/
def State.signalDone (s : State) (input p obj n : Nat) : State := if obj = 0xFFFF then s else s.signalRel input p obj n

/-- Left fold over a list of numbers that changes the state. -/
def State.each {α : Type} (s : State) (xs : List α) (f : State → α → State) : State := xs.foldl f s

end Sys2Proof.Machine
end

