-- ==== Sys2Proof/Machine/Acct.lean ====
section
/-! DEFINITION. Charging: the byte counters of the accounts and the regulators' buckets (R260-R262). -/

namespace Sys2Proof.Machine

/-- Ceilings of the regulated resources in MB/s (R261): stacks, board, flash read, flash program, fabric, links. -/
def ceilingOf (r : Nat) : Nat :=
  match r with
  | 0 => 8000000 | 1 => 1090000 | 2 => 204800 | 3 => 40000 | 4 => 9830400 | _ => 4800000

/-- Does a bucket hold anything (R260)? -/
def Regul.regulates (g : Regul) (r : Nat) : Bool := g.rate != 0 && decide (g.rate < ceilingOf r)

/-- The burst in level units of 1/1600 byte; a 0 acts as 1 while the rate regulates (R54). -/
def Regul.burstUnits (g : Regul) : Int := ((max g.burst 1 * 1024 * 1600 : Nat) : Int)

/-- Is a request held at its charging point (R260)? -/
def Regul.holds (g : Regul) (r : Nat) (lc : Bool) : Bool :=
  g.regulates r && (if lc then decide (g.level ≤ -g.burstUnits) else decide (g.level ≤ 0))

/-- Draws bytes from a bucket. -/
def Regul.draw (g : Regul) (n : Nat) : Regul := { g with level := g.level - ((n * 1600 : Nat) : Int) }

/-- Charges bytes to counter `k` of a partition and, where the resource is regulated, to bucket `r` (R261, R262). -/
def State.charge (s : State) (p k : Nat) (r : Option Nat) (n : Nat) : State :=
  if p < 32 then
    s.modPtn p fun q => { q with acct := tset q.acct k ((tget q.acct k 0 + n) % 2 ^ 64),
                                 regs := match r with
                                   | some i => if (tget q.regs i {}).regulates i then tset q.regs i ((tget q.regs i {}).draw n) else q.regs
                                   | none => q.regs }
  else s

/-- Counter and bucket that an access to an address draws on (R261). -/
def chargeOf (pa : Nat) : Option (Nat × Option Nat) :=
  match paRange pa with
  | .stack => some (7, some 0)
  | .board => some (8, some 1)
  | .host => some (11, none)
  | _ => none

/-- Charges the payload of an access by physical address. -/
def State.chargeMem (s : State) (p pa n : Nat) : State :=
  match chargeOf pa with
  | some (k, r) => s.charge p k r n
  | none => s

/-- Charges the partition of a core. -/
def State.chargeCore (s : State) (c pa n : Nat) : State :=
  match s.coreOwner c with
  | some p => s.chargeMem p pa n
  | none => s

/-- Is a request of a partition at an address held by its regulator? -/
def State.heldAt (s : State) (p pa : Nat) (lc : Bool) : Option Nat :=
  match chargeOf pa with
  | some (_, some r) => if decide (p < 32) && (tget (s.ptn p).regs r {}).holds r lc then some r else none
  | _ => none

/-- A request waits at a regulator, once (R260). -/
def State.holdRequest (s : State) (p r : Nat) (lc : Bool) (n : Nat) (e : HeldReq) : State :=
  if (tget (s.ptn p).regs r {}).waiting.any fun w => w.2.2 == e then s
  else s.modPtn p fun q =>
    let g := tget q.regs r {}
    { q with regs := tset q.regs r { g with held := satAdd 32 g.held 1, waiting := g.waiting ++ [(lc, n, e)] } }

/-- A request that waited at a regulator goes on. -/
def State.unheld (s : State) (p r : Nat) (e : HeldReq) : State :=
  if (tget (s.ptn p).regs r {}).waiting.any fun w => w.2.2 == e then
    s.modPtn p fun q =>
      let g := tget q.regs r {}
      { q with regs := tset q.regs r { g with waiting := g.waiting.filter fun w => w.2.2 != e } }
  else s

/-- A request of `n` bytes of a partition at the charging point of a resource: held there while the bucket holds its class,
and else it goes on (R260). Traffic of no partition is never held. -/
def State.atPoint (s : State) (p r : Nat) (lc : Bool) (n : Nat) (e : HeldReq) (go : State → State) : State :=
  if decide (p < 32) && n != 0 && (tget (s.ptn p).regs r {}).holds r lc then s.holdRequest p r lc n e else go (s.unheld p r e)

/-- A memory request at the admission of its hub, charged there (R260, R261). -/
def State.memPoint (s : State) (p pa : Nat) (lc : Bool) (n : Nat) (e : HeldReq) (go : State → State) : State :=
  match chargeOf pa with
  | some (_, some r) => s.atPoint p r lc n e fun s => go (s.chargeMem p pa n)
  | _ => go (s.chargeMem p pa n)

/-! Arbiters (R259). -/

/-- Weight of a partition at an arbiter; module traffic has weight 64. -/
def State.weight (s : State) (p : Nat) : Nat := if p < 32 then max 1 (s.ptn p).beWeight else 64

/-- The turn passes round the waiting partitions, each taking its quantum, until one has something left of it: the one in turn
keeps it while it has (R259). -/
def Arb.turns (quantum : Nat → Nat) (ps : List Nat) : Nat → Arb → Arb
  | 0, a => a
  | fuel + 1, a =>
    if ps.contains a.turn && decide (0 < tget a.credit a.turn 0) then a
    else match ((List.range 33).map fun i => (a.turn + 1 + i) % 33).find? ps.contains with
      | some p => Arb.turns quantum ps fuel { a with turn := p, credit := tset a.credit p (tget a.credit p 0 + (quantum p : Int)) }
      | none => a

/-- The request that an arbiter grants among those that wait, in arrival order, each with its partition (32 the module) and
class: latency-critical ones first, but of every 8 grants one to best-effort requests while they wait; those by deficit
round-robin (R259). -/
def Arb.grant (quantum : Nat → Nat) (reqs : List (Nat × Bool)) (a : Arb) : Option Nat × Arb :=
  let ps := (reqs.filter fun r => !r.2).map (·.1)
  let a1 := { a with credit := a.credit.filter fun e => ps.contains e.1 }
  match reqs.findIdx? (·.2) with
  | some i =>
    if !ps.isEmpty && decide (7 ≤ a.lcRun) then
      let a2 := Arb.turns quantum ps 8192 a1
      (reqs.findIdx? fun r => !r.2 && r.1 == a2.turn, { a2 with lcRun := 0 })
    else (some i, { a1 with lcRun := if ps.isEmpty then 0 else a.lcRun + 1 })
  | none =>
    if ps.isEmpty then (none, a1)
    else
      let a2 := Arb.turns quantum ps 8192 a1
      (reqs.findIdx? fun r => r.1 == a2.turn, { a2 with lcRun := 0 })

/-- A best-effort grant has cost a partition bytes or cycles. -/
def Arb.spend (a : Arb) (p n : Nat) : Arb := { a with credit := tset a.credit p (tget a.credit p 0 - (n : Int)) }

end Sys2Proof.Machine
end

