-- ==== Sys2Proof/Machine/Num.lean ====
section
/-! DEFINITION. Numbers (R139-R149): the exact values behind every format, decoding, exact arithmetic on them, and the sums
of the accumulator within their bound. -/

namespace Sys2Proof.Machine

/-- An exact value: NaN, an infinity, or (-1)^neg × m × 2^e; a zero keeps its sign. -/
inductive Num where
  | nan
  | inf (neg : Bool)
  | fin (neg : Bool) (m : Nat) (e : Int)
  deriving DecidableEq, Repr

/-- +0. -/
def Num.zero : Num := .fin false 0 0

/-- The value of an integer. -/
def Num.ofInt (i : Int) : Num := .fin (decide (i < 0)) i.natAbs 0

/-- Is it a zero? -/
def Num.isZero : Num → Bool
  | .fin _ 0 _ => true
  | _ => false

/-- Is it finite? -/
def Num.isFin : Num → Bool
  | .fin _ _ _ => true
  | _ => false

/-- Is it a NaN? -/
def Num.isNan : Num → Bool
  | .nan => true
  | _ => false

/-- Format codes (R139). -/
def fFp32 : Nat := 0
def fFp16 : Nat := 1
def fBf16 : Nat := 2
def fE4m3 : Nat := 3
def fE5m2 : Nat := 4
def fInt8 : Nat := 5
def fUint8 : Nat := 6
def fInt4 : Nat := 7
def fSsi8 : Nat := 8
def fSsi4 : Nat := 9
def fCif : Nat := 10
def fAcc : Nat := 11

/-- Bits of an element (R139, R141): INT4 and SSI4 take half a byte. -/
def fmtBits (f : Nat) : Nat :=
  match f with
  | 0 => 32 | 1 => 16 | 2 => 16 | 3 => 8 | 4 => 8 | 5 => 8 | 6 => 8 | 7 => 4 | 8 => 8 | 9 => 4 | 10 => 32 | 11 => 48 | _ => 8

/-- Bytes of a run of `n` elements (R141). -/
def runBytes (f n : Nat) : Nat := (fmtBits f * n + 7) / 8

/-- May the format be an operand of a matrix product (R139)? -/
def fmtMatrix (f : Nat) : Bool := (decide (1 ≤ f) && decide (f ≤ 7)) || f == 10

/-- May it be the weight operand (R139)? -/
def fmtWeight (f : Nat) : Bool := fmtMatrix f || f == 8 || f == 9

/-- Is it of the 16-bit rate class (R139)? -/
def fmtWide (f : Nat) : Bool := f == 1 || f == 2 || f == 10

/-- May it be a vector source (R139)? -/
def fmtVector (f : Nat) : Bool := decide (f ≤ 7) || f == 10 || f == 11

/-- May it be a destination (R139)? -/
def fmtDest (f : Nat) : Bool := decide (f ≤ 6) || f == 10 || f == 11

/-- A floating-point storage format (R140): exponent and fraction widths, bias, and whether exponent all ones means
infinities and NaNs (E4M3 has none but its two NaN patterns). -/
structure FpFmt where
  ew : Nat
  fw : Nat
  bias : Nat
  ieee : Bool
  deriving DecidableEq, Repr

/-- The formats of R140. -/
def fpFmt (f : Nat) : Option FpFmt :=
  match f with
  | 0 => some ⟨8, 23, 127, true⟩
  | 1 => some ⟨5, 10, 15, true⟩
  | 2 => some ⟨8, 7, 127, true⟩
  | 3 => some ⟨4, 3, 7, false⟩
  | 4 => some ⟨5, 2, 15, true⟩
  | _ => none

/-- Decodes a floating-point pattern (R140, R143). -/
def decodeFp (q : FpFmt) (x : Nat) : Num :=
  let s := bitN x (q.ew + q.fw)
  let e := fld x q.fw q.ew
  let f := fld x 0 q.fw
  if q.ieee && e == 2 ^ q.ew - 1 then (if f = 0 then .inf s else .nan)
  else if !q.ieee && e == 2 ^ q.ew - 1 && f == 2 ^ q.fw - 1 then .nan
  else if e = 0 then .fin s f (1 - (q.bias : Int) - q.fw)
  else .fin s (2 ^ q.fw + f) ((e : Int) - q.bias - q.fw)

/-- Decodes a CIF pattern (R142, R144). -/
def decodeCif (x : Nat) : Num :=
  let s := bitN x 24
  let e := fld x 14 10
  let m := fld x 0 14
  if e = 0 then (if m = 0 then .zero else .nan)
  else if e = 1023 then (if m = 0 then .inf s else .nan)
  else if bitN m 13 then .fin s m ((e : Int) - 524) else .nan

/-- Decodes an ACC pattern (R144, R146); bit 0 is ignored. -/
def decodeAcc (x : Nat) : Num :=
  let s := bitN x 47
  let e := fld x 35 12
  let m := fld x 1 34
  if e = 0 then (if m = 0 then .zero else .nan)
  else if e = 4095 then (if m = 0 then .inf s else .nan)
  else if bitN m 33 then .fin s m ((e : Int) - 2080) else .nan

/-- Decodes an element of any plain format (R143). -/
def decodeNum (f x : Nat) : Num :=
  match fpFmt f with
  | some q => decodeFp q x
  | none =>
    if f = 5 then .ofInt (sx 8 x) else if f = 6 then .ofInt (x % 256 : Nat) else if f = 7 then .ofInt (sx 4 x)
    else if f = 10 then decodeCif x else if f = 11 then decodeAcc x else .nan

/-- A negative zero becomes +0 on the way into CIF or ACC (R143, R145). -/
def Num.plusZero : Num → Num
  | .fin _ 0 _ => .zero
  | x => x

/-- The negated value. -/
def Num.neg : Num → Num
  | .nan => .nan
  | .inf s => .inf !s
  | .fin s m e => .fin (!s) m e

/-- The absolute value. -/
def Num.abs : Num → Num
  | .nan => .nan
  | .inf _ => .inf false
  | .fin _ m e => .fin false m e

/-- m × 2^e in units of 2^q, for q ≤ e. -/
def scaleTo (m : Nat) (e q : Int) : Nat := m * 2 ^ (e - q).toNat

/-- The signed multiple of 2^q that a finite value is (q at most its exponent). -/
def Num.units (q : Int) : Num → Int
  | .fin s m e => if s then -(scaleTo m e q : Int) else scaleTo m e q
  | _ => 0

/-- The exponent of a value's unit; 0 for a zero takes no part. -/
def Num.unit (d : Int) : Num → Int
  | .fin _ 0 _ => d
  | .fin _ _ e => e
  | _ => d

/-- The value of an integer number of units of 2^q; a zero gets the sign given. -/
def ofUnits (i q : Int) (negZero : Bool) : Num :=
  if i = 0 then .fin negZero 0 0 else .fin (decide (i < 0)) i.natAbs q

/-- The exact sum of two values, and whether it is invalid (∞ − ∞ or a NaN operand, R157). The sign of an exact zero
follows IEEE 754-2019 for round-to-nearest (R150). -/
def addNum (a b : Num) : Num × Bool :=
  match a, b with
  | .nan, _ => (.nan, true)
  | _, .nan => (.nan, true)
  | .inf s, .inf t => if s = t then (.inf s, false) else (.nan, true)
  | .inf s, _ => (.inf s, false)
  | _, .inf t => (.inf t, false)
  | .fin s m e, .fin t n f =>
    let q := min (Num.unit f (.fin s m e)) (Num.unit e (.fin t n f))
    (ofUnits (Num.units q (.fin s m (max e q)) + Num.units q (.fin t n (max f q))) q (s && t), false)

/-- The exact product of two values, and whether it is invalid (0 × ∞ or a NaN operand, R157). -/
def mulNum (a b : Num) : Num × Bool :=
  match a, b with
  | .nan, _ => (.nan, true)
  | _, .nan => (.nan, true)
  | .inf s, .inf t => (.inf (s != t), false)
  | .inf s, .fin t n _ => if n = 0 then (.nan, true) else (.inf (s != t), false)
  | .fin s m _, .inf t => if m = 0 then (.nan, true) else (.inf (s != t), false)
  | .fin s m e, .fin t n f => (.fin (s != t) (m * n) (e + f), false)

/-- Is a < b, for values that are no NaN? Zeros of both signs are equal. -/
def ltNum (a b : Num) : Bool :=
  match a, b with
  | .nan, _ => false
  | _, .nan => false
  | .inf s, .inf t => s && !t
  | .inf s, _ => s
  | _, .inf t => !t
  | .fin s m e, .fin t n f =>
    let q := min e f
    decide (Num.units q (.fin s m e) < Num.units q (.fin t n f))

/-- Are two values equal? -/
def eqNum (a b : Num) : Bool :=
  match a, b with
  | .nan, _ => false
  | _, .nan => false
  | .inf s, .inf t => s == t
  | .fin s m e, .fin t n f =>
    let q := min e f
    decide (Num.units q (.fin s m e) = Num.units q (.fin t n f))
  | _, _ => false

/-- Rounds k × 2^-d to an integer, to nearest; a tie goes as `up` says (R153). -/
def roundShift (k d : Nat) (up : Bool) : Nat :=
  if d = 0 then k
  else
    let q := k / 2 ^ d
    let r := k % 2 ^ d
    let h := 2 ^ (d - 1)
    if r < h then q else if h < r then q + 1 else if up then q + 1 else q

/-- Rounds a magnitude m × 2^e to a multiple of 2^q, in units of 2^q (R153). -/
def roundUnits (m : Nat) (e q : Int) (up : Bool) : Nat :=
  if q ≤ e then scaleTo m e q else roundShift m (q - e).toNat up

/-- Floor of log2 of m × 2^e, m not 0. -/
def leadOf (m : Nat) (e : Int) : Int := (Nat.log2 m : Int) + e

/-- The smallest exponent among values that are not zero. -/
def minUnit (xs : List Num) : Int :=
  (xs.foldl (fun (acc : Option Int) x => match x with
    | .fin _ 0 _ => acc
    | .fin _ _ e => some (match acc with
      | some a => min a e
      | none => e)
    | _ => acc) none).getD 0

/-- An integer rounded to 34 significant bits, the precision of ACC (R146, R153). -/
def round34Int (place : Nat) (ctx : List Int) (v : Int) : Int :=
  if v.natAbs < 2 ^ 34 then v
  else
    let d := Nat.log2 v.natAbs - 33
    let k : Int := roundShift v.natAbs d (Config.tieUp place (v :: ctx)) * 2 ^ d
    if v < 0 then -k else k

/-- The terms of a sum in an order of the hardware's own: neither the grouping nor the order of the groups is promised
(R148), so both are free values (log entry 9). -/
def freeOrder (place : Nat) (ctx : List Int) (us : List Int) : List Int :=
  (sortBy (fun a b => decide (a.1 ≤ b.1)) ((List.range us.length).zip us |>.map fun e =>
    (Config.pick place ((e.1 : Int) :: ctx), e.2))).map (·.2)

/-- A sum in ACC (R147-R149): `start` is the running value and `xs` the terms, added in groups of four; each group is exact and
is added with one rounding to 34 bits, to nearest (R153). So the error of n terms, over any number of passes, stays within the
bound of R148. Where every partial sum is exact the result is exact. The free values depend on the place and on `ctx`
(R151; log entry 9). Second: INV. -/
def accSum (place : Nat) (ctx : List Int) (start : Num) (xs : List Num) : Num × Bool :=
  let all := start :: xs
  if all.any Num.isNan then (.nan, true)
  else
    let pos := all.any fun x => x == .inf false
    let neg := all.any fun x => x == .inf true
    if pos && neg then (.nan, true)
    else if pos then (.inf false, false)
    else if neg then (.inf true, false)
    else
      let q := minUnit all
      let u := fun (x : Num) => Num.units q (match x with
        | .fin s m e => .fin s m (max e q)
        | y => y)
      let us := xs.map u
      let mag := us.foldl (fun a x => a + x.natAbs) (u start).natAbs
      if mag < 2 ^ 34 then ((ofUnits (us.foldl (· + ·) (u start)) q false).plusZero, false)
      else
        let groups := chunks 4 us.length (freeOrder place ctx us)
        let total := groups.foldl (fun r g => round34Int place ctx (r + g.foldl (· + ·) 0)) (u start)
        ((ofUnits total q false).plusZero, false)

/-- A dyadic number as a value. -/
def dyNum (x : Dyadic) : Num := ofUnits x.m x.e false

/-- A finite value as a dyadic number; another is 0. -/
def Num.dyadic : Num → Dyadic
  | .fin s m e => { m := if s then -(m : Int) else m, e := e }
  | _ => {}

/-- The exact sum of two dyadic numbers. -/
def dyAdd (x y : Dyadic) : Dyadic :=
  let q := min x.e y.e
  { m := x.m * 2 ^ (x.e - q).toNat + y.m * 2 ^ (y.e - q).toNat, e := q }

/-- The ACC value that a reduction of many operations delivers for an exact sum `t` of terms with magnitudes `mag` in all, in
`groups` groups of four (R148-R150): a free value within the bound, exact where every partial sum is (log entry 9). It is held a
256th inside the bound, so that what R204 derives from it meets its own bound. -/
def sumWithin (place : Nat) (key : List Int) (groups : Nat) (t mag : Dyadic) : Num :=
  let q := min t.e mag.e
  let total := t.m * 2 ^ (t.e - q).toNat
  let m : Nat := (mag.m * 2 ^ (mag.e - q).toNat).natAbs
  if m < 2 ^ 34 then (ofUnits total q false).plusZero
  else
    let ctx := q :: total :: key
    -- in units of 2^(q - 34) the bound is groups * 2 * m
    let lim := groups * 2 * m * 255 / 256
    let c := round34Int place ctx (total * 2 ^ 34 + Config.pick place ctx)
    let near := round34Int place ctx total * 2 ^ 34
    let r := if (c - total * 2 ^ 34).natAbs ≤ lim then c else near
    (ofUnits r (q - 34) false).plusZero

end Sys2Proof.Machine
end

