-- ==== Sys2Proof/Machine/Flags.lean ====
section
/-! DEFINITION. Conversion to a destination format with its result flags (R150-R157). -/

namespace Sys2Proof.Machine

/-- Result flags (R157, R356). -/
def flInv : Nat := 1
def flOvf : Nat := 2
def flUnf : Nat := 4
def flSat : Nat := 8
def flEmpty : Nat := 16

/-- INV as a flag set. -/
def invIf (b : Bool) : Nat := if b then flInv else 0

/-- The key of a tie: the exact value (R153). -/
def tieKey (f : Nat) (s : Bool) (m : Nat) (e : Int) : List Int := [(f : Int), (b2n s : Int), (m : Int), e]

/-- A floating-point destination of R140: the pattern and the flags of a value (R153-R155). -/
def encodeFp (f : Nat) (q : FpFmt) (ieeeMode : Bool) (x : Num) : Nat × Nat :=
  let p := q.fw + 1
  let sgn := fun (s : Bool) => b2n s * 2 ^ (q.ew + q.fw)
  let maxExp : Nat := 2 ^ q.ew - 1
  let inf := maxExp * 2 ^ q.fw
  let large := if q.ieee then inf - 1 else inf + 2 ^ q.fw - 2
  let nanPat := if q.ieee then inf + 2 ^ (q.fw - 1) else inf + 2 ^ q.fw - 1
  match x with
  | .nan => (nanPat, flInv)
  | .inf s => if q.ieee && ieeeMode then (sgn s + inf, 0) else (sgn s + large, flSat)
  | .fin s m e =>
    if m = 0 then (sgn s, 0)
    else
      let emin : Int := 1 - q.bias
      let lead := leadOf m e
      let u := max (lead - p + 1) (emin - p + 1)
      let k := roundUnits m e u (Config.tieUp 1 (tieKey f s m e))
      let k1 := if k = 2 ^ p then 2 ^ (p - 1) else k
      let u1 := if k = 2 ^ p then u + 1 else u
      let unf := if lead < emin ∧ (if u ≤ e then false else k * 2 ^ (u - e).toNat ≠ m) then flUnf else 0
      if k1 < 2 ^ (p - 1) then (sgn s + k1, unf)
      else
        let pat := (u1 + (p - 1) + q.bias).toNat * 2 ^ q.fw + (k1 - 2 ^ (p - 1))
        if large < pat then
          -- a tie between L and the next value up that went upward is written as L either way (R153)
          let tie := decide (k = 2 ^ p ∧ u1 + (p - 1) + q.bias = maxExp ∧ 2 * scaleTo m e u = scaleTo (2 ^ (p + 1) - 1) u e)
          (if q.ieee && ieeeMode then (sgn s + (if tie then large else inf), flOvf) else (sgn s + large, flSat))
        else (sgn s + pat, unf)

/-- An integer destination: rounded, then clamped (R154). -/
def encodeInt (f : Nat) (lo hi : Int) (x : Num) : Nat × Nat :=
  match x with
  | .nan => (0, flInv)
  | .inf s => (wrapN 8 (if s then lo else hi), flSat)
  | .fin s m e =>
    let k := roundUnits m e 0 (Config.tieUp 1 (tieKey f s m e))
    let v : Int := if s then -(k : Int) else k
    if v < lo then (wrapN 8 lo, flSat) else if hi < v then (wrapN 8 hi, flSat) else (wrapN 8 v, 0)

/-- An ACC pattern of a free number: any canonical one (R144, R146). -/
def freeAcc (n : Nat) : Nat :=
  let e := fld n 35 12
  let m := if e = 0 then 0 else if e = 4095 then b2n (bitN n 33) * 2 ^ 33 else 2 ^ 33 + fld n 0 33
  if e = 4095 ∧ m ≠ 0 then 0x7FFC00000000 else if e = 0 then 0 else fld n 47 1 * 2 ^ 47 + e * 2 ^ 35 + m * 2

/-- The flags of an ACC pattern written for a finite value beyond the range (R157). -/
def freeAccFlags (ieeeMode : Bool) (x : Nat) : Nat :=
  let e := fld x 35 12
  let m := fld x 1 34
  if e = 4095 then (if m ≠ 0 then flInv else if ieeeMode then flOvf else 0)
  else if e = 4094 ∧ m = 2 ^ 34 - 1 then flSat else 0

/-- CIF and ACC destinations (R142, R146, R154, R155): precision, exponent offset, lowest exponent, field places. A finite
value beyond ACC's range, which no sum reaches (R147) and only a function of the SFU can, has no stated result: a free
value in canonical form, with the flags that it raises (log entry 9). -/
def encodeWide (f p : Nat) (eoff : Int) (emax : Nat) (ieeeMode : Bool) (place : Nat × Nat × Nat) (x : Num) : Nat × Nat :=
  let sgn := fun (s : Bool) => b2n s * 2 ^ place.1
  let pat := fun (s : Bool) (e m : Nat) => sgn s + e * 2 ^ place.2.1 + m * 2 ^ place.2.2
  match x with
  | .nan => (pat false emax (2 ^ (p - 1)), flInv)
  | .inf s => (pat s emax 0, 0)
  | .fin s m e =>
    if m = 0 then (0, 0)
    else
      let lead := leadOf m e
      let u := lead - p + 1
      if u + eoff < 1 then (0, flUnf)
      else
        let k := roundUnits m e u (Config.tieUp 1 (tieKey f s m e))
        let k1 := if k = 2 ^ p then 2 ^ (p - 1) else k
        let ef := ((if k = 2 ^ p then u + 1 else u) + eoff).toNat
        if emax ≤ ef then
          (if f = 11 then (let r := freeAcc (Config.freeNat 6 [b2n s, m, e.toNat]); (r, freeAccFlags ieeeMode r))
           else
             -- a tie between L and the next value up that went upward is written as L either way (R153)
             let tie := decide (k = 2 ^ p ∧ ef = emax ∧ 2 * scaleTo m e u = scaleTo (2 ^ (p + 1) - 1) u e)
             if ieeeMode then (if tie then pat s (emax - 1) (2 ^ p - 1) else pat s emax 0, flOvf) else (pat s (emax - 1) (2 ^ p - 1), flSat))
        else (pat s ef k1, 0)

/-- The pattern and flags of a value in a destination format under a conversion mode (R152-R155): CVT 0 SATURATE, 1 IEEE. -/
def encodeNum (f cvt : Nat) (x : Num) : Nat × Nat :=
  match fpFmt f with
  | some q => encodeFp f q (cvt == 1) x
  | none =>
    if f = 5 then encodeInt 5 (-128) 127 x
    else if f = 6 then encodeInt 6 0 255 x
    else if f = 10 then encodeWide 10 14 524 1023 (cvt == 1) (24, 14, 0) x.plusZero
    else encodeWide 11 34 2080 4095 (cvt == 1) (47, 35, 1) x.plusZero

/-- A value on its way into the vector unit: CIF and ACC are converted to FP32 under the mode, with flags (R143). -/
def toFp32 (f cvt x : Nat) : Num × Nat :=
  if f = 10 ∨ f = 11 then
    match decodeNum f x with
    | .nan => (.nan, flInv)
    | v => let r := encodeNum 0 cvt v; (decodeNum 0 r.1, r.2)
  else (decodeNum f x, 0)

end Sys2Proof.Machine
end

