-- ==== Sys2Proof/Machine/Sha.lean ====
section
/-! DEFINITION. SHA-256 and SHA-384 (R50, R220, R223, R401, R409 name them; the spec leaves the algorithms to their
standard: PRESUMED, log entry 12). -/

namespace Sys2Proof.Machine

/-- The primes below 529, of which the hashes' constants are made: no prime below 23 divides them. -/
def shaPrimes (n : Nat) : List Nat :=
  let small := [2, 3, 5, 7, 11, 13, 17, 19]
  ((List.range 410).filter fun p => decide (2 ≤ p) && small.all fun d => p == d || p % d != 0).take n

/-- The largest number with at most `n` more bits set whose power stays within `v`. -/
def rootBits (power v : Nat) : Nat → Nat → Nat
  | 0, x => x
  | n + 1, x => rootBits power v n (if (x + 2 ^ n) ^ power ≤ v then x + 2 ^ n else x)

/-- The first `w` bits of the fraction of a root of `p`. -/
def rootFraction (power w p : Nat) : Nat := rootBits power (p * 2 ^ (power * w)) (w + 4) 0 % 2 ^ w

/-- A hash of the family: word width, rounds, the first word's prime, and what its four sigmas rotate by, those of the schedule with a
shift last. -/
structure ShaKind where
  w : Nat := 32
  rounds : Nat := 64
  skip : Nat := 0
  early : List Nat := [7, 18, 3]
  late : List Nat := [17, 19, 10]
  upper : List Nat := [2, 13, 22]
  lower : List Nat := [6, 11, 25]
  deriving DecidableEq, Repr

/-- The kind of SHA-384. -/
def shaWide : ShaKind :=
  { w := 64, rounds := 80, skip := 8, early := [1, 8, 7], late := [19, 61, 6], upper := [28, 34, 39], lower := [14, 18, 41] }

/-- The constants added in the rounds: cube roots. -/
def ShaKind.adds (k : ShaKind) : List Nat := (shaPrimes k.rounds).map (rootFraction 3 k.w)

/-- The eight words a hash begins with: square roots. -/
def ShaKind.start (k : ShaKind) : List Nat := ((shaPrimes (k.skip + 8)).drop k.skip).map (rootFraction 2 k.w)

/-- A word turned right. -/
def ShaKind.turn (k : ShaKind) (x n : Nat) : Nat := x / 2 ^ n + x % 2 ^ n * 2 ^ (k.w - n)

/-- The exclusive or of a word's turns. -/
def ShaKind.turns (k : ShaKind) (ns : List Nat) (x : Nat) : Nat := ns.foldl (fun a n => a ^^^ k.turn x n) 0

/-- As turns, with the last one a shift. -/
def ShaKind.turnsShift (k : ShaKind) (ns : List Nat) (x : Nat) : Nat := k.turns (ns.take 2) x ^^^ (x / 2 ^ ns.getD 2 0)

/-- The words of a block, newest first, with `n` more made of them. -/
def ShaKind.spread (k : ShaKind) : Nat → List Nat → List Nat
  | 0, ws => ws
  | n + 1, ws =>
    let terms := [ws.getD 6 0, k.turnsShift k.late (ws.getD 1 0), ws.getD 15 0, k.turnsShift k.early (ws.getD 14 0)]
    k.spread n (terms.foldl (· + ·) 0 % 2 ^ k.w :: ws)

/-- One round: the eight words move on by one, the first and the fifth with what the round adds. -/
def ShaKind.round (k : ShaKind) (st : List Nat) (add : Nat) : List Nat :=
  let at_ := fun i => st.getD i 0
  let pick := at_ 6 ^^^ (at_ 4 &&& (at_ 5 ^^^ at_ 6))
  let most := (at_ 0 &&& (at_ 1 ||| at_ 2)) ||| (at_ 1 &&& at_ 2)
  let x := add + at_ 7 + pick + k.turns k.lower (at_ 4)
  ((x + most + k.turns k.upper (at_ 0)) % 2 ^ k.w) :: (st.take 3 ++ (x + at_ 3) % 2 ^ k.w :: (st.drop 4).take 3)

/-- One block of sixteen words into the hash. -/
def ShaKind.block (k : ShaKind) (roots st ws : List Nat) : List Nat :=
  let adds := List.zipWith (· + ·) roots (k.spread (k.rounds - 16) ws.reverse).reverse
  List.zipWith (fun x y => (x + y) % 2 ^ k.w) st (adds.foldl k.round st)

/-- The message, a one bit, zeros, and its length in bits, big end first, up to a whole block. -/
def ShaKind.padded (k : ShaKind) (bs : List Byte) : List Byte :=
  let size := roundUp (bs.length + 1 + k.w / 4) (2 * k.w)
  padTo (size - k.w / 4) (bs ++ [0x80#8]) ++ (bytesLE (k.w / 4) (8 * bs.length)).reverse

/-- The words that a message leaves, as bytes. -/
def ShaKind.digest (k : ShaKind) (bs : List Byte) : List Byte :=
  let m := k.padded bs
  let roots := k.adds
  let blocks := chunks (2 * k.w) (m.length / (2 * k.w)) m
  (blocks.foldl (fun st b => k.block roots st ((chunks (k.w / 8) 16 b).map beNat)) k.start).flatMap fun x => (bytesLE (k.w / 8) x).reverse

/-- SHA-256, 32 bytes. -/
def sha256 (bs : List Byte) : List Byte := ShaKind.digest {} bs

/-- SHA-384, 48 bytes. -/
def sha384 (bs : List Byte) : List Byte := (shaWide.digest bs).take 48

end Sys2Proof.Machine
end

