-- ==== Sys2Proof/Machine/Log.lean ====
section
/-! DEFINITION. The log (R401-R406): accepting an entry, its bytes, its chain, and the rate limits that fold events. -/

namespace Sys2Proof.Machine

/-- SOURCE of a log entry (R402). -/
def Src.code : Src → BitVec 16
  | .bar2 => 0x2FFF#16
  | .weft p => BitVec.ofNat 16 (0x2000 + p)
  | .mailbox => 0x3000#16
  | .chain a => BitVec.ofNat 16 (0x4000 + a)
  | .mgt => 0x0000#16
  | .pf0 => 0x1000#16
  | .button => 0x5000#16
  | .rom => 0x6000#16
  | .hub => 0x0001#16
  | .block n => BitVec.ofNat 16 n

/-- The 64 bytes of an entry as written (R401). -/
def LogEnt.bytes (e : LogEnt) : List Byte :=
  bytesLE 8 e.time.toNat ++ bytesLE 4 e.seq.toNat ++ bytesLE 2 e.source.toNat ++ bytesLE 2 e.code ++
    padTo 24 e.payload ++ (bytesLE 16 e.chain.toNat).reverse ++ [if e.timeInvalid then 1#8 else 0#8] ++ zeros 7

/-- CHAIN of the entry that follows `e`: the first 16 bytes of the SHA-256 over it (R401). -/
def chainAfter (e : LogEnt) : BitVec 128 := BitVec.ofNat 128 (beNat ((sha256 e.bytes).take 16))

/-- Sends a frame of this module up the chain, where the port is UP (R452). -/
def State.chainUp (s : State) (f : ChainFrame) : State :=
  if s.chain.upUp then s.modChain fun c => { c with outUp := c.outUp ++ [f] } else s

/-- The codes whose entries draw an EVENT frame (R456): inhibit FAULT, DO fault, watchdog expiry, held mode, service level. -/
def eventCodes : List Nat := [0x6002, 0x6102, 0x6103, 0x7006, 0x8502]

/-- EVENT for a log entry (R456): at most 10 a second, the others counted. -/
def State.chainEvent (s : State) (e : LogEnt) : State :=
  if !eventCodes.contains e.code then s
  else
    let recent := s.chain.evTimes.filter fun t => decide (s.now < t + 1000000000)
    if 10 ≤ recent.length then s.modChain fun c => { c with evTimes := recent, evDropped := satAdd 16 c.evDropped 1 }
    else (s.modChain fun c => { c with evTimes := recent ++ [s.now] }).chainUp
      { dst := 0x80#8, src := BitVec.ofNat 8 s.chain.addr, type := 4, payload := e.bytes }

/-- TIME_NOW as nanoseconds. -/
def TimeSt.total (t : TimeSt) : Int := (t.sec : Int) * 1000000000 + t.ns

/-- A number of nanoseconds as a time value. -/
def timeOf (n : Int) : BitVec 64 := BitVec.ofNat 64 ((n / 1000000000).toNat % 2 ^ 34 * 2 ^ 30 + (n % 1000000000).toNat)

/-- The time base as the die of a block, by its SOURCE number 1 to 31 (R402), holds it (R38): realigned at each second boundary, and
within one TCLK cycle, 5 ns, of MGT's: a free value (place 101 of log entry 8); after an apply it may still be the old time (R447). -/
def State.copyTime (s : State) (d : Nat) : BitVec 64 :=
  timeOf (max 0 (s.time.total + (tget s.time.copies d (0, 0)).1 + ((Config.freeNat 101 [d, s.time.sec] % 11 : Nat) : Int) - 5))

/-- The time base as CT die `d` holds it. -/
def State.dieTime (s : State) (d : Nat) : BitVec 64 := s.copyTime (2 + d)

/-- TIME of an event that a source reports: its die's copy (R401); MGT's own for MGT, for what reaches MGT from outside, and while the
54 V domain is down. -/
def State.sourceTime (s : State) (src : BitVec 16) : BitVec 64 :=
  if s.pwr.domainUp ∧ 1 ≤ src.toNat ∧ src.toNat ≤ 31 then s.copyTime src.toNat else s.timeNow

/-- MGT accepts an entry with a given TIME, or discards it when all 128 places are taken (R403, R406); an entry of R456
draws its EVENT. -/
def State.logAt (s : State) (time : BitVec 64) (src : BitVec 16) (code : Nat) (payload : List Byte) : State :=
  let l := s.mgt.log
  if l.queue.length + b2n l.progOn < 128 then
    let e : LogEnt := { time := time, seq := l.nextSeq, source := src, code := code, payload := payload.take 24,
                        chain := chainAfter l.last, timeInvalid := s.time.st == 4 }
    (s.modLog fun l => { l with queue := l.queue ++ [e], last := e, nextSeq := l.nextSeq + 1 }).chainEvent e
  else s.modLog fun l => { l with discarded := l.discarded + 1 }

/-- MGT accepts an entry of this instant. While the time base is invalid, TIME counts from power-on reset (R401). -/
def State.log (s : State) (src : BitVec 16) (code : Nat) (payload : List Byte) : State := s.logAt (s.sourceTime src) src code payload

/-- Accepts an entry of an event whose log code is written at most once per `period` nanoseconds and key: an event inside
the period is folded into the next entry, which carries the count and the TIME of the first folded event (R401; log
entry 14). `payload` gives the entry's payload for a count. -/
def State.logFolded (s : State) (key period : Nat) (src : BitVec 16) (code : Nat) (payload : Nat → List Byte) : State :=
  match s.mgt.log.rate.find? (fun r => r.1 == key) with
  | none =>
    (s.log src code (payload 1)).modLog fun l => { l with rate := (key, s.now, 0, 0) :: l.rate }
  | some (_, last, n, t0) =>
    if s.now < last + period then
      s.modLog fun l => { l with rate := (key, last, n + 1, if n = 0 then s.sourceTime src else t0) :: dropFirst (fun r => r.1 == key) l.rate }
    else
      (s.logAt (if n = 0 then s.sourceTime src else t0) src code (payload (n + 1))).modLog fun l =>
        { l with rate := (key, s.now, 0, 0) :: dropFirst (fun r => r.1 == key) l.rate }

/-- The same where the count stands last in the payload. -/
def State.logRated (s : State) (key period : Nat) (src : BitVec 16) (code : Nat) (payload : List Byte) : State :=
  s.logFolded key period src code fun n => payload ++ bytesLE 4 n

/-- The SEQ that the last accepted entry carries: LOG_SEQ of a reply (R393, R426). -/
def State.lastSeq (s : State) : BitVec 32 := s.mgt.log.last.seq

/-- Key of a rate limit: the log code with a source number. -/
def rateKey (code n : Nat) : Nat := code * 2 ^ 32 + n

/-- One second in nanoseconds. -/
def oneSec : Nat := 1000000000

end Sys2Proof.Machine
end

