-- ==== Sys2Proof/Machine/Media.lean ====
section
/-! DEFINITION. The blocks and extents of the medium (R301-R306, R316, R317): pools and their counters, units released,
extent runs and their holds. -/

namespace Sys2Proof.Machine

/-- FC die of a channel (R301). -/
def fcOf (ch : Nat) : Nat := ch / 8

/-- Log source of an FC die (R402). -/
def fcSource (f : Nat) : BitVec 16 := BitVec.ofNat 16 (18 + f)

/-- Block of a unit address: channel, die and number (R302). -/
def unitBlock (u : Nat) : Nat := u / 2 ^ 15

/-- Channel of a block. -/
def blockChan (k : Nat) : Nat := k / 2 ^ 15

/-- Key of a map entry. -/
def mapKey (nsid lba : Nat) : Nat := nsid * 2 ^ 40 + lba

/-- A block. -/
def State.blk (s : State) (k : Nat) : BlockSt := tget s.flash.blocks k {}

/-- Changes a block. -/
def State.modBlk (s : State) (k : Nat) (f : BlockSt → BlockSt) : State :=
  s.modFlash fun q => { q with blocks := tset q.blocks k (f (tget q.blocks k {})) }

/-- An FC die's books. -/
def State.fcd (s : State) (f : Nat) : FcDie := tget s.flash.dies f {}

/-- Changes an FC die's books. -/
def State.modFcd (s : State) (f : Nat) (g : FcDie → FcDie) : State :=
  s.modFlash fun q => { q with dies := tset q.dies f (g (tget q.dies f {})) }

/-- Adds to the counter of a pool. -/
def FcDie.poolAdd (d : FcDie) (p : Pool) (n : Int) : FcDie :=
  match p with
  | .free => { d with free := (d.free + n).toNat }
  | .opened => { d with opened := (d.opened + n).toNat }
  | .full => { d with full := (d.full + n).toNat }
  | .retired => { d with retired := (d.retired + n).toNat }
  | .parity => { d with parity := (d.parity + n).toNat }

/-- A channel whose FC die answers. -/
def State.chanOk (s : State) (ch : Nat) : Bool := bitN s.pwr.fcOk.toNat (fcOf ch)

/-- The programs and erases of an FC die's zone wait: below READY of the hold-up bank, above the zone's critical limit, or
with the domain down (R463, R466). -/
def State.dieWaits (s : State) (f : Nat) : Bool := !s.pwr.domainUp || s.pwr.holdup != 1 || s.pwr.acting.contains (48 + f, 2)

/-- A journal record of an FC die: into its buffer and its partner's, or, without the partner, straight to the system
area (R328). -/
def State.journal (s : State) (f : Nat) (r : JRec) : State :=
  if (s.fcd f).partnerLost then s.modFlash fun q => { q with sys := q.sys ++ [r] }
  else s.modFcd f fun d => { d with jbuf := d.jbuf ++ [r] }

/-- A block moves to a pool; both counters change together (R306). -/
def State.setPool (s : State) (k : Nat) (p : Pool) : State :=
  let old := (s.blk k).pool
  if old = p then s
  else ((s.modBlk k fun b => { b with pool := p }).modFcd (fcOf (blockChan k)) fun d => (d.poolAdd old (-1)).poolAdd p 1).journal
    (fcOf (blockChan k)) (.pool k)

/-- Wordlines of a block by its mode (R301). -/
def BlockSt.lines (b : BlockSt) : Nat := if b.oneBit then 128 else 512

/-- No member stands at this position of a row. -/
def noBlock : Nat := 2097152

/-- Data members of a row (R304). -/
def RowSt.data (r : RowSt) : List Nat :=
  ((List.range 32).filterMap fun i => if i = r.num % 32 then none else r.members[i]?).filter (· != noBlock)

/-- The parity member of a row. -/
def RowSt.parity (r : RowSt) : Nat := r.members.getD (r.num % 32) noBlock

/-- A block is free and awaits its erase (R306). -/
def State.toFree (s : State) (k : Nat) : State :=
  (s.setPool k .free).modBlk k fun b => { b with row := 0, valid := 0, reads := 0, dirty := true }

/-- A row with no data member left closes, and its parity member is free (R306). -/
def State.dropRow (s : State) (r : RowSt) : State :=
  let s1 := s.modFlash fun q => { q with rows := q.rows.filter fun x => x.id != r.id }
  if r.parity = noBlock then s1 else s1.toFree r.parity

/-- A member leaves its row (R306, R315). -/
def State.leaveRow (s : State) (k id : Nat) : State :=
  match s.flash.rows.find? fun r => r.id == id with
  | none => s
  | some r =>
    let r1 := { r with members := r.members.map fun m => if m = k then noBlock else m }
    if r1.data.isEmpty then s.dropRow r1 else s.modFlash fun q => { q with rows := modFirst (fun x => x.id == id) (fun _ => r1) q.rows }

/-- A block has been released wholly: it returns to free, and its row closes with its last data member (R306). -/
def State.freeBlock (s : State) (k : Nat) : State := (s.toFree k).leaveRow k (s.blk k).row

/-- A program of a member's wordline is in flight. -/
def State.progOn (s : State) (k w : Nat) : Bool := s.flash.progs.any fun e => e.2.block == k && e.2.page == 4 * w

/-- Every data member of a row has programmed a wordline (R305). -/
def State.lineWhole (s : State) (r : RowSt) (w : Nat) : Bool := r.data.all fun m => decide (w < (s.blk m).nextPage) && !s.progOn m w

/-- An atomic piece that is not whole names a unit of a block (R324). -/
def State.pendingIn (s : State) (k : Nat) : Bool := s.flash.pieces.any fun e => e.2.2.any fun x => unitBlock x.2.2.unit == k

/-- The stripes that no data member holds open any longer take their parity pages, and a row whose data members are all written
closes: they are full, or free where no unit of theirs is valid (R304-R306). -/
def State.settleRow (s : State) (id : Nat) : State :=
  match s.flash.rows.find? fun r => r.id == id && !r.closed with
  | none => s
  | some r =>
    if r.data.isEmpty then s.dropRow r
    else
      let full := r.data.all fun m => decide ((s.blk m).lines ≤ (s.blk m).nextPage) && !(s.flash.progs.any fun e => e.2.block == m)
      let done := r.xors.filter fun e => s.lineWhole r (e.1 / 16)
      let r1 := { r with closed := full, xors := r.xors.filter fun e => !s.lineWhole r (e.1 / 16)
                         parityDone := done.foldl (fun t e => tset t e.1 e.2) r.parityDone }
      let s1 := s.modFlash fun q => { q with rows := modFirst (fun x => x.id == id) (fun _ => r1) q.rows }
      if full then s1.each r.data fun s m =>
        let s1 := s.setPool m .full
        if (s1.blk m).valid = 0 ∧ !s1.pendingIn m then s1.freeBlock m else s1
      else s1

/-- A block is taken out of service and out of its row, whose stripes go on with one member fewer (R315). -/
def State.retireBlock (s : State) (k : Nat) : State :=
  let id := (s.blk k).row
  (((s.setPool k .retired).modBlk k fun b => { b with row := 0, exRow := id }).leaveRow k id).settleRow id

/-- A unit is released: its block holds one valid unit less (R306). -/
def State.releaseUnit (s : State) (u : Nat) : State :=
  let k := unitBlock u
  let s1 := (s.modFlash fun q => { q with units := tdel q.units u }).modBlk k fun b => { b with valid := b.valid - 1 }
  if (s1.blk k).valid = 0 ∧ (s1.blk k).pool = .full ∧ !s1.pendingIn k then s1.freeBlock k else s1

/-- Unit addresses of a run (R302, R316): page after page, with carry from PAGE into BLOCK. -/
def RunSt.units (r : RunSt) : List Nat := (List.range (4 * r.pages)).map (r.unit + ·)

/-- A run has a unit in a block. -/
def RunSt.inBlock (r : RunSt) (k : Nat) : Bool := r.pages != 0 && decide (unitBlock r.unit ≤ k) && decide (k ≤ unitBlock (r.unit + 4 * r.pages - 1))

/-- An old run is freed once nothing holds it (R317). -/
def State.freeRunAt (s : State) (unit : Nat) : State :=
  match s.flash.runs.find? fun r => r.unit == unit with
  | none => s
  | some r =>
    if r.holds ≠ 0 then s.modFlash fun q => { q with runs := modFirst (fun x => x.unit == unit) (fun x => { x with moved := true }) q.runs }
    else (s.modFlash fun q => { q with runs := dropFirst (fun x => x.unit == unit) q.runs }).each r.units State.releaseUnit

/-- A descriptor or FETCH read names a run, or has ended (R317). -/
def State.holdRun (s : State) (unit : Nat) (up : Bool) : State :=
  let s1 := s.modFlash fun q => { q with runs := modFirst (fun x => x.unit == unit) (fun x => { x with holds := if up then x.holds + 1 else x.holds - 1 }) q.runs }
  match s1.flash.runs.find? fun r => r.unit == unit with
  | some r => if r.holds = 0 ∧ r.moved then s1.freeRunAt unit else s1
  | none => s1

/-- AS of a die (R327). -/
def FcDie.spare (d : FcDie) : Nat := 100 * (128787 - 8 * d.retired) / 128787

/-- Blocks of a die that have been used. -/
def State.dieBlocks (s : State) (f : Nat) : Tab BlockSt := s.flash.blocks.filter fun e => fcOf (blockChan e.1) == f

/-- Mean wear of the blocks in service of a die (R327). -/
def State.meanWear (s : State) (f : Nat) : Nat :=
  (((s.dieBlocks f).filter fun e => e.2.pool != .retired).map fun e => e.2.wear).foldl (· + ·) 0 / max (262144 - (s.fcd f).retired) 1

/-- PU of a die (R327). -/
def State.pctUsed (s : State) (f : Nat) : Nat := min 255 (max (100 * s.meanWear f / 30000) (100 - (s.fcd f).spare))

/-- Is any die short of spare? -/
def State.mediaReadOnly (s : State) : Bool := s.flash.dies.any fun e => e.2.readOnly

/-- A namespace on the medium. -/
def State.nsOf (s : State) (nsid : Nat) : Option NsSt := s.flash.nss.find? fun n => n.nsid == nsid

/-- The partition charged for a namespace's traffic: its OWNER (R261); 0xFF charges none. -/
def State.nsOwner (s : State) (nsid : Nat) : Nat := ((s.nsOf nsid).map (·.owner)).getD 0xFF

end Sys2Proof.Machine
end

