-- ==== Sys2Proof/Machine/Coh.lean ====
section
/-! DEFINITION. What coherent memory holds now and what an uncached agent's access does to it (R103-R106, R125, R132,
R135). An engine's transfer is one net effect of the RD_U and WR_U messages it would send, each whole (log entry 16). -/

namespace Sys2Proof.Machine

/-- Is a unit of the committed image's retire list (R61) listed? -/
def State.retireListed (s : State) (kind index : Nat) : Bool :=
  match s.warp.activeImg with
  | some img => img.retire.contains (kind, index)
  | none => false

/-- A core that does no work: retired by the image, by its tile, by the module itself, or on a lost die (R13, R61, R475). -/
def State.coreRetired (s : State) (c : Nat) : Bool :=
  s.retireListed 1 c || s.retireListed 2 (c / 4) || (s.core c).retired || !bitN s.pwr.ctOk.toNat (c / 4)

/-- An address whose page, bank, channel, stack or core is retired or lost (R104-R106, R473). -/
def State.paRetired (s : State) (pa : Nat) : Bool :=
  match paRange pa with
  | .stack =>
    let st := fld pa 36 3
    s.retireListed 3 st || s.retireListed 7 (st * 64 + fld pa 16 6) || s.retireListed 6 (pa / 65536) ||
      !bitN s.pwr.stackOk.toNat st
  | .board =>
    let o := pa - 0x10000000000
    s.retireListed 4 (fld o 40 1 * 16 + fld o 16 4) || s.retireListed 6 (pa / 65536) || !bitN s.pwr.mhOk.toNat (fld o 40 1)
  | .spad c _ => s.coreRetired c
  | _ => false

/-- A byte of memory as memory holds it. -/
def State.mb (s : State) (a : Nat) : Byte := memGet s.pwr.startUps s.mem a

/-- The 64 bytes of a line as memory holds them. -/
def State.memLine (s : State) (line : Nat) : BitVec 512 := BitVec.ofNat 512 (leNat (memRead s.pwr.startUps s.mem (line * 64) 64))

/-- Writes a line to memory. -/
def State.putLine (s : State) (line : Nat) (d : BitVec 512) : State :=
  s.setMem (memWrite s.mem (line * 64) (bytesLE 64 d.toNat))

/-- Writes the bytes of a line that the mask names (R127). -/
def maskLine (old new : BitVec 512) (mask : BitVec 64) : BitVec 512 :=
  BitVec.ofNat 512 (leNat ((List.range 64).map fun i =>
    BitVec.ofNat 8 (fld (if bitN mask.toNat i then new.toNat else old.toNat) (8 * i) 8)))

/-- The L1 copy of a line in core `c`. -/
def State.l1Line (s : State) (c line : Nat) : Option L1Line := tfind (s.core c).l1 line

/-- Replaces, or takes away, the L1 copy of a line in core `c`. -/
def State.setL1 (s : State) (c line : Nat) (v : Option L1Line) : State :=
  s.modCore c fun k => { k with l1 := match v with
    | some x => tset k.l1 line x
    | none => tdel k.l1 line }

/-- The directory's entry of a line. -/
def State.dirEnt (s : State) (line : Nat) : DirEntry := tget s.dir.entries line {}

/-- Changes the directory's entry of a line. -/
def State.modDirEnt (s : State) (line : Nat) (f : DirEntry → DirEntry) : State :=
  s.modDir fun d => { d with entries := tset d.entries line (f (tget d.entries line {})) }

/-- The cores that hold a line in a state that carries data newer than memory's. -/
def L1Line.holdsDirty (x : L1Line) : Bool := x.st == .M || (x.st == .WB && x.dirty)

/-- Dirty data of a line in flight to the directory. -/
def msgData (line : Nat) : CohMsg → Option (BitVec 512)
  | .evictDirty _ l d => if l = line then some d else none
  | .ackData _ l d => if l = line then some d else none
  | _ => none

/-- Data of a line newer than memory's: the owner's copy, or dirty data in flight. -/
def State.newer (s : State) (line : Nat) : Option (BitVec 512) :=
  match (List.range 64).findSome? (fun c => (s.l1Line c line).bind fun x => if x.holdsDirty then some x.data else none) with
  | some d => some d
  | none => s.dir.msgs.findSome? (msgData line)

/-- The latest value of a line: the owner's copy, dirty data in flight, or memory's (R111, R136). -/
def State.latest (s : State) (line : Nat) : BitVec 512 := (s.newer line).getD (s.memLine line)

/-- Memory's poison record of a line (R135). -/
def State.poisoned (s : State) (line : Nat) : Bool := thas s.xl.poison line

/-- A read of the line returns POISON: memory records it and no newer data is on its way to replace the line (R135). -/
def State.lineBad (s : State) (line : Nat) : Bool := s.poisoned line && (s.newer line).isNone

/-- Ends the poison record of a line that a whole-line write replaces (R135). -/
def State.unpoison (s : State) (line : Nat) : State := s.modXl fun x => { x with poison := tdel x.poison line }

/-- Is the directory serving a request for the line? -/
def State.lineBusy (s : State) (line : Nat) : Bool := (s.dirEnt line).busy.isSome

/-- RD_U of a line, whole: the owner keeps S and its dirty data is written to memory (R132). -/
def State.flushLine (s : State) (line : Nat) : State :=
  if s.lineBusy line then s else
  match (s.dirEnt line).st with
  | .excl o =>
    match s.l1Line o.val line with
    | some x =>
      if x.st == .WB then s
      else ((if x.st == .M then (s.putLine line x.data).unpoison line else s).setL1 o.val line (some { x with st := .S, dirty := false })).modDirEnt
        line fun e => { e with st := .shared (BitVec.ofNat 64 (2 ^ o.val)) }
    | none => s
  | _ => s

/-- Every L1 copy of a line gone, its dirty data written to memory first (R132); an eviction in flight is taken. -/
def State.purgeLine (s : State) (line : Nat) : State :=
  let s0 := s.putLine line (s.latest line)
  let s1 := if (s.newer line).isSome then s0.unpoison line else s0
  let s2 := s1.each (List.range 64) fun s c => if (s.l1Line c line).isSome then s.setL1 c line none else s
  let s3 := if thas s2.dir.entries line then s2.modDirEnt line fun e => { e with st := .inv } else s2
  s3.modDir fun d => { d with msgs := d.msgs.filter fun m => match m with
    | .evictDirty _ l _ => l != line
    | .evictClean _ l => l != line
    | _ => true }

/-- A message with the data of a line changed under a mask. -/
def patchMsg (line : Nat) (new : BitVec 512) (mask : BitVec 64) : CohMsg → CohMsg
  | .evictDirty c l d => .evictDirty c l (if l = line then maskLine d new mask else d)
  | .ackData c l d => .ackData c l (if l = line then maskLine d new mask else d)
  | .dataS c l d p => .dataS c l (if l = line then maskLine d new mask else d) p
  | .dataE c l d p => .dataE c l (if l = line then maskLine d new mask else d) p
  | .dataX c l d p => .dataX c l (if l = line then maskLine d new mask else d) p
  | .doneU a l d p => .doneU a l (if l = line then maskLine d new mask else d) p
  | m => m

/-- WR_U of a line under a mask, whole (R132). On a line the directory is serving, the write is ordered before that
service, in every copy on its way; otherwise every L1 copy goes first. A whole-line write ends the line's poison (R135). -/
def State.writeLine (s : State) (line : Nat) (mask : BitVec 64) (d : BitVec 512) : State :=
  let s1 :=
    if s.lineBusy line then
      let s1 := s.putLine line (maskLine (s.memLine line) d mask)
      let s2 := s1.each (List.range 64) fun s c => match s.l1Line c line with
        | some x => s.setL1 c line (some { x with data := maskLine x.data d mask })
        | none => s
      s2.modDir fun q => { q with msgs := q.msgs.map (patchMsg line d mask) }
    else
      let s1 := s.purgeLine line
      s1.putLine line (maskLine (s1.memLine line) d mask)
  if mask = BitVec.allOnes 64 then s1.unpoison line else s1

/-- Bytes of coherent memory as every agent sees them now. -/
def State.cohBytes (s : State) (pa n : Nat) : List Byte :=
  (((linesOf pa n).flatMap fun l => bytesLE 64 (s.latest l).toNat).drop (pa % 64)).take n

/-- What an access by device physical address finds: bytes and whether a line is poisoned, or no memory there (R106). -/
inductive PaRead where
  | ok (bs : List Byte) (poison : Bool)
  | bad
  deriving DecidableEq, Repr

/-- Every page that `n` bytes from `pa` reach exists, in one range, and is not retired (R106). -/
def State.paUsable (s : State) (pa n : Nat) : Bool :=
  n == 0 ||
    (let lo := paRange pa
     let hi := paRange (pa + n - 1)
     let same := match lo, hi with
       | .stack, .stack => true
       | .board, .board => true
       | .host, .host => true
       | .spad a _, .spad b _ => a == b
       | .remote a _, .remote b _ => a == b
       | _, _ => false
     same && ((List.range ((pa + n - 1) / 65536 - pa / 65536 + 1)).all fun i => !s.paRetired ((pa / 65536 + i) * 65536)))

/-- A read by device physical address: coherent lines at their latest value, other memory as it stands. What another
module's memory holds is a free value at each read (log entry 7). -/
def State.paRead (s : State) (pa n : Nat) : PaRead :=
  if s.paUsable pa n then
    if paCoherent pa then .ok (s.cohBytes pa n) ((linesOf pa n).any s.lineBad)
    else match paRange pa with
      | .spad c o =>
        .ok ((List.range n).map fun i =>
          BitVec.ofNat 8 (fld (tget (s.core c).spad ((o + i) / 64) {}).data.toNat (8 * ((o + i) % 64)) 8))
          ((linesOf o n).any fun l => (tget (s.core c).spad l {}).bad)
      | .remote _ _ => .ok ((List.range n).map fun i => BitVec.ofNat 8 (Config.freeNat 70 [s.free, pa + i])) false
      | _ => .ok (memRead s.pwr.startUps s.mem pa n) false
  else .bad

/-- Is an address in a remote window (R103)? -/
def paRemote (pa : Nat) : Bool :=
  match paRange pa with
  | .remote _ _ => true
  | _ => false

/-- The memory hub that serves an address of either tier (R103-R105). -/
def eccHub (pa : Nat) : Nat :=
  match paRange pa with
  | .board => fld (pa - 0x10000000000) 40 1
  | _ => fld pa 36 3 / 4

/-- PAYLOAD of logs 0x2001 and 0x2002 for an address and a count (R476). -/
def eccPayload (pa n : Nat) : List Byte :=
  bytesLE 8 pa ++ bytesLE 4 n ++
    (match paRange pa with
     | .board => bytesLE 2 0xFFFF ++ bytesLE 2 (16 * eccHub pa + fld (pa - 0x10000000000) 16 4) ++ [1#8]
     | _ => bytesLE 2 (fld pa 36 3 * 1024 + fld pa 8 4 * 64 + fld pa 16 6) ++ bytesLE 2 0xFFFF ++ [0#8]) ++ zeros 7

/-- A read finds a line uncorrectable: MEM_ECC_COUNT counts it and log 0x2002 is written (R135; log entry 45). -/
def State.lineUe (s : State) (line : Nat) : State :=
  if s.lineBad line then
    let pa := line * 64
    let h := eccHub pa
    let s1 := s.modXl fun x => match paRange pa with
      | .board => { x with eccBoardUe := tset x.eccBoardUe h (satAdd 16 (tget x.eccBoardUe h 0) 1) }
      | _ => { x with eccStackUe := tset x.eccStackUe h (satAdd 16 (tget x.eccStackUe h 0) 1) }
    s1.log (Src.code (.block (26 + h))) 0x2002 (eccPayload pa 1)
  else s

/-- The channel whose log limit holds for an address: one of the 128 of the stacks or the 32 of board memory (R135). -/
def eccChannel (pa : Nat) : Nat :=
  match paRange pa with
  | .board => 128 + 16 * eccHub pa + fld (pa - 0x10000000000) 16 4
  | _ => 16 * fld pa 36 3 + fld pa 8 4

/-- A memory hub's decoder finds a line of either tier in error (R135). A correctable error is corrected in flight, counted, and
logged at most once per channel per second; an uncorrectable one puts the line on memory's record, so that every read of
it returns POISON. -/
def State.memHit (x : MemHit) (s : State) : State :=
  let line := x.line.toNat
  let pa := line * 64
  let h := eccHub pa
  if s.paUsable pa 64 && paCoherent pa then
    if x.ue then s.modXl fun m => { m with poison := tset m.poison line () }
    else
      (s.modXl fun m => match paRange pa with
        | .board => { m with eccBoardCe := tset m.eccBoardCe h (satAdd 16 (tget m.eccBoardCe h 0) 1) }
        | _ => { m with eccStackCe := tset m.eccStackCe h (satAdd 16 (tget m.eccStackCe h 0) 1) }).logFolded
          (rateKey 0x2001 (eccChannel pa)) oneSec (Src.code (.block (26 + h))) 0x2001 (eccPayload pa)
  else s

/-- The errors that come with an access, in order. -/
def State.memHits (s : State) (xs : List MemHit) : State := s.each xs fun s x => s.memHit x

/-- Counts and logs the uncorrectable lines of a read that fails for them. -/
def State.linesUe (s : State) (pa n : Nat) : State :=
  if s.paUsable pa n && paCoherent pa then s.each (linesOf pa n) State.lineUe else s

/-- The same over the pieces of a buffer. -/
def State.piecesUe (s : State) (ps : List (Nat × Nat)) : State := s.each ps fun s x => s.linesUe x.1 x.2

/-- The effect of a read on the caches: owners of coherent lines are downgraded (R132), and an uncorrectable line is
counted and logged (R135). After a read of another module's memory the next one is free again. -/
def State.paReadFx (s : State) (pa n : Nat) : State :=
  if s.paUsable pa n && paCoherent pa then s.each (linesOf pa n) fun s l => (s.flushLine l).lineUe l
  else if paRemote pa then s.setFree (s.free + 1) else s

/-- The bytes of a write that fall in a line: mask and data. -/
def lineShare (pa : Nat) (bs : List Byte) (line : Nat) : BitVec 64 × BitVec 512 :=
  let idx := fun i => line * 64 + i
  let inside := fun i => decide (pa ≤ idx i) && decide (idx i < pa + bs.length)
  (BitVec.ofNat 64 (((List.range 64).map fun i => if inside i then 2 ^ i else 0).foldl (· + ·) 0),
   BitVec.ofNat 512 (leNat ((List.range 64).map fun i => if inside i then bs.getD (idx i - pa) 0 else 0)))

/-- A write by device physical address; nothing is written where the range is not usable (R106), and nothing of this module
by a write that leaves for another. -/
def State.paWrite (s : State) (pa : Nat) (bs : List Byte) : State :=
  if s.paUsable pa bs.length then
    if paCoherent pa then
      s.each (linesOf pa bs.length) fun s l => let md := lineShare pa bs l; s.writeLine l md.1 md.2
    else match paRange pa with
      | .spad c o =>
        s.modCore c fun k => { k with spad := (linesOf o bs.length).foldl (fun t l =>
          let md := lineShare o bs l
          let old : Sector := tget t l {}
          tset t l { old with data := maskLine old.data md.2 md.1, bad := old.bad && md.1 != BitVec.allOnes 64 }) k.spad }
      | .remote _ _ => s
      | _ => s.setMem (memWrite s.mem pa bs)
  else s

/-- A write by a module engine that uses physical addresses: outside usable memory it writes log 0x2004 instead (R106). -/
def State.devWrite (s : State) (pa : Nat) (bs : List Byte) : State :=
  if s.paUsable pa bs.length then s.paWrite pa bs else s.log (Src.code .hub) 0x2004 (bytesLE 8 pa)

/-- A read by a module engine that uses physical addresses: outside usable memory it is not performed, and writes log 0x2004
(R106). -/
def State.devUnread (s : State) (pa n : Nat) : State :=
  if s.paUsable pa n then s else s.log (Src.code .hub) 0x2004 (bytesLE 8 pa)

end Sys2Proof.Machine
end

