-- ==== Sys2Proof/Machine/Notice.lean ====
section
/-! DEFINITION. Notices and watermarks (R97-R102): the rings of the notice engine and the monitors. -/

namespace Sys2Proof.Machine

/-- Ring `r` of the notice engine. -/
def State.nring (s : State) (r : Nat) : NoticeRing := tget s.notice.rings r {}

/-- Changes ring `r`. -/
def State.modNring (s : State) (r : Nat) (f : NoticeRing → NoticeRing) : State :=
  s.modNotice fun n => { n with rings := tset n.rings r (f (tget n.rings r {})) }

/-- Slots of a ring: values of SIZE_LOG2 below 6 act as 6 (R98). -/
def NoticeRing.slots (q : NoticeRing) : Nat := 2 ^ max q.size 6

/-- Records written and not consumed. -/
def NoticeRing.occ (q : NoticeRing) : Nat := (q.prod - q.cons).toNat

/-- The 16 bytes of a notice record (R97). -/
def noticeBytes (r : NoticeRec) (phase : Bool) : List Byte :=
  bytesLE 2 r.code ++ bytesLE 2 r.source ++ [if phase then 1#8 else 0#8] ++ zeros 3 ++ bytesLE 8 r.data.toNat

/-- The notice vector of a ring (R100). -/
def State.noticeVec (s : State) (r : Nat) : Nat := if r < 32 then (s.ptn r).msixBase + 3 else 128

/-- Writes one record into its slot, advances PROD and raises the vector (R98-R100). -/
def State.putNotice (s : State) (r : Nat) (rec : NoticeRec) : State :=
  let q := s.nring r
  let i := q.prod.toNat
  let s1 := s.devWrite (q.base.toNat + 16 * (i % q.slots)) (noticeBytes rec (i / q.slots % 2 == 0))
  (s1.modNring r fun q => { q with prod := q.prod + 1 }).raise (s.noticeVec r)

/-- A record reaches ring `r` (R99): it is held behind those held before, or lost; a place marked none is the 0x4104 record
of the first loss since the last report. -/
def State.holdNotice (s : State) (r : Nat) (rec : NoticeRec) : State :=
  let q := s.nring r
  if !q.enable || decide (64 ≤ (q.held.filter Option.isSome).length) then
    s.modNring r fun q => { q with lost := satAdd 32 q.lost 1, lostNow := q.lostNow + 1,
                                   held := if q.held.contains none then q.held else q.held ++ [none] }
  else s.modNring r fun q => { q with held := q.held ++ [some rec] }

/-- Writes the first held record of a ring while a slot is free (R99): a 0x4104 record counts every record lost up to now. -/
def State.writeHeld (s : State) (r : Nat) : Option State :=
  let q := s.nring r
  match q.held with
  | [] => none
  | h :: hs =>
    if q.enable && decide (q.occ < q.slots) then
      let s1 := s.modNring r fun q => { q with held := hs }
      match h with
      | some rec => some (s1.putNotice r rec)
      | none =>
        some ((s1.putNotice r { code := 0x4104, source := r, data := BitVec.ofNat 64 q.lostNow }).modNring r fun q => { q with lostNow := 0 })
    else none

/-- A record reaches ring `r`: it is held, or lost, and the oldest held record is written if a slot is free. -/
def State.sendNotice (s : State) (r : Nat) (rec : NoticeRec) : State :=
  let s1 := s.holdNotice r rec
  (s1.writeHeld r).getD s1

/-- Is a level beyond a monitor's mark (R101)? -/
def WmSt.beyond (w : WmSt) (level : Nat) : Bool := if w.dir then decide (level < w.mark) else decide (w.mark < level)

/-- KIND as it acts: 5-7 act as 0 (R101). -/
def WmSt.watches (w : WmSt) (kind index : Nat) : Bool :=
  kind != 0 && w.enable && w.kind == kind && w.index == index && decide (kind < 5)

/-- The owner's ring of a watched level (R101). DESIGN CHOICE (log entry 17): an INDEX that names no ring or object has no
owner, and its notices go to the module ring. -/
def State.wmRing (s : State) (kind index : Nat) : Nat :=
  match kind with
  | 1 => (s.objOwner index).getD 32
  | 2 => if index < 128 then index / 4 else 32
  | 4 => match tfind s.ingest.binds index with
    | some b => b.ptn
    | none => 32
  | _ => 32

/-- One monitor meets a level: it latches, or its PEAK follows (R102). The flag says that it latched. -/
def WmSt.meet (w : WmSt) (level : Nat) : WmSt × Bool :=
  if w.hit then ({ w with peak := if w.dir then min w.peak level else max w.peak level }, false)
  else if w.beyond level then ({ w with hit := true, peak := level }, true)
  else (w, false)

/-- Every monitor of a level meets it; the numbers of those that latched. -/
def State.meetLevel (s : State) (kind index level : Nat) : State × List Nat :=
  (List.range 256).foldl (fun acc w =>
    let m : WmSt := tget acc.1.notice.wms w {}
    if m.watches kind index then
      let r := m.meet level
      (acc.1.modNotice fun n => { n with wms := tset n.wms w r.1 }, if r.2 then acc.2 ++ [w] else acc.2)
    else acc) (s, [])

/-- Work of the notice engine: a record for a ring, held records of a ring to write, a level that takes a value. -/
inductive NoticeEvt where
  | send (ring : Nat) (rec : NoticeRec)
  | drain (ring : Nat)
  | level (kind index value : Nat)
  deriving DecidableEq, Repr

/-- The present occupancy of a ring as an event: a level that monitors watch (R101). -/
def State.occEvt (s : State) (r : Nat) : NoticeEvt := .level 3 r (s.nring r).occ

/-- One event and what follows from it: a written record changes the ring's occupancy, a latch sends a record (R99-R102). -/
def State.noticeStep (s : State) : NoticeEvt → State × List NoticeEvt
  | .send r rec => let s1 := s.sendNotice r rec; (s1, [s1.occEvt r, .drain r])
  | .drain r => match s.writeHeld r with
    | some s1 => (s1, [s1.occEvt r, .drain r])
    | none => (s, [])
  | .level kind index value =>
    let m := s.meetLevel kind index value
    (m.1, m.2.map fun w => .send (m.1.wmRing kind index) { code := 0x4101, source := w, data := BitVec.ofNat 64 value })

/-- Every event and what follows from it, in order; `fuel` bounds a chain that the 256 latches and the held records bound. -/
def State.noticeRun : Nat → State → List NoticeEvt → State
  | 0, s, _ => s
  | _, s, [] => s
  | fuel + 1, s, e :: es => let r := s.noticeStep e; State.noticeRun fuel r.1 (r.2 ++ es)

/-- Enough for every chain of events. -/
def noticeFuel : Nat := 10000

/-- A level takes a value: the monitors meet it and the latches are notified (R101, R102). -/
def State.evalLevel (s : State) (kind index level : Nat) : State := State.noticeRun noticeFuel s [.level kind index level]

/-- Sends a notice and lets the monitors of the ring meet its occupancy. -/
def State.notify (s : State) (r code source : Nat) (data : BitVec 64) : State :=
  State.noticeRun noticeFuel s [.send r { code := code, source := source, data := data }]

/-- Writes what slots allow of ring `r`'s held records, after its occupancy has changed. -/
def State.drainRing (s : State) (r : Nat) : State := State.noticeRun noticeFuel s [s.occEvt r, .drain r]

/-- Sends a notice on the module ring. -/
def State.notifyModule (s : State) (code source : Nat) (data : BitVec 64) : State := s.notify 32 code source data

end Sys2Proof.Machine
end

