-- ==== Sys2Proof/Machine/Torus.lean ====
section
/-! DEFINITION. The torus (R60, R376, R377): coordinates, the way that a packet takes in each dimension, and whether a
module can be reached past the dead directions. -/

namespace Sys2Proof.Machine

/-- The module's own number (R60). -/
def LinkSet.number (k : LinkSet) : Nat := k.posX + 16 * k.posY + 256 * k.posZ

/-- Size of dimension 0 X, 1 Y, 2 Z. -/
def LinkSet.dim (k : LinkSet) (i : Nat) : Nat := if i = 0 then k.dimX else if i = 1 then k.dimY else k.dimZ

/-- The module's own coordinate in a dimension. -/
def LinkSet.pos (k : LinkSet) (i : Nat) : Nat := if i = 0 then k.posX else if i = 1 then k.posY else k.posZ

/-- Coordinate of a module number in a dimension (R376). -/
def modPos (m i : Nat) : Nat := if i = 0 then m % 16 else if i = 1 then m / 16 % 16 else m / 256

/-- The number of the module at coordinates (R60). -/
def modNumber (x y z : Nat) : Nat := x + 16 * y + 256 * z

/-- Does a module number lie inside the torus (R379)? -/
def LinkSet.inside (k : LinkSet) (m : Nat) : Bool := (List.range 3).all fun i => decide (modPos m i < k.dim i)

/-- d of R376: how far a module lies in the + direction of a dimension. -/
def LinkSet.ahead (k : LinkSet) (i m : Nat) : Nat := (modPos m i + k.dim i - k.pos i) % k.dim i

/-- The direction that R376 chooses in a dimension: + unless the other way is shorter. -/
def LinkSet.plusWay (k : LinkSet) (i m : Nat) : Bool := decide (k.ahead i m ≤ k.dim i - k.ahead i m)

/-- Hops that a direction takes. -/
def LinkSet.hops (k : LinkSet) (i m : Nat) (plus : Bool) : Nat := if plus then k.ahead i m else (k.dim i - k.ahead i m) % k.dim i

/-- The coordinate left at hop `j` of a direction. -/
def LinkSet.leaves (k : LinkSet) (i : Nat) (plus : Bool) (j : Nat) : Nat :=
  if plus then (k.pos i + j) % k.dim i else (k.pos i + k.dim i - j % k.dim i) % k.dim i

/-- Does a direction cross a dead one on its ring (R377)? -/
def LinksSt.blocked (l : LinksSt) (i m : Nat) (plus : Bool) : Bool :=
  (List.range (l.torus.hops i m plus)).any fun j => l.dead.contains (i, plus, l.torus.leaves i plus j)

/-- The direction taken in a dimension (R376, R377): the chosen one, the other way round a dead direction, or none when
both are dead. -/
def LinksSt.way (l : LinksSt) (i m : Nat) : Option Bool :=
  let w := l.torus.plusWay i m
  if !l.blocked i m w then some w else if !l.blocked i m (!w) then some (!w) else none

/-- Can a packet reach a module (R377)? -/
def LinksSt.reaches (l : LinksSt) (m : Nat) : Bool := (List.range 3).all fun i => (l.way i m).isSome

/-- The chosen directions of the three dimensions, as the packet header carries them: a bit for each + (R376). -/
def LinksSt.plusBits (l : LinksSt) (m : Nat) : BitVec 3 :=
  BitVec.ofNat 3 (((List.range 3).map fun i => if l.way i m = some true then 2 ^ i else 0).foldl (· + ·) 0)

/-- The LINK_DIR code of a direction (R60). -/
def dirCode (i : Nat) (plus : Bool) : Nat := 2 * i + (if plus then 1 else 2)

/-- The direction of the first hop to a module: its LINK_DIR code; none for the module itself or one out of reach. -/
def LinksSt.firstDir (l : LinksSt) (m : Nat) : Option Nat :=
  ((List.range 3).find? fun i => l.torus.ahead i m != 0).bind fun i => (l.way i m).map (dirCode i)

end Sys2Proof.Machine
end

