-- ==== Sys2Proof/Machine/Xlat.lean ====
section
/-! DEFINITION. Translation (R107-R113): the aperture, the three-level walk with its checks, the caches, the rights of
the page reached; and the fault queue (R118-R121). -/

namespace Sys2Proof.Machine

/-- What an access needs of the page it reaches (R110), its class, and whether no regulator holds it (log entry 15). -/
structure Need where
  r : Bool := false
  w : Bool := false
  x : Bool := false
  lc : Bool := false
  free : Bool := false
  deriving DecidableEq, Repr

/-- Where a translation ends: an address with its window's tier (4 for the model aperture, 5 for a scratchpad), a fault
kind of R118 with the level of R119, a wait on MOVING (R124), or an uncorrectable walk read (R111). -/
inductive Xl where
  | ok (pa tier : Nat)
  | fault (kind level : Nat)
  | moving
  | uncorrectable
  deriving DecidableEq, Repr

/-- Fault kinds (R118). -/
def kNotPresent : Nat := 1
def kFormat : Nat := 2
def kPermission : Nat := 3
def kWindow : Nat := 4
def kWalkBound : Nat := 5
def kAperture : Nat := 6
def kRetired : Nat := 7
def kUnmapped : Nat := 8

/-- A WINDOW fault whose destination module cannot be reached (R383): its record's KIND byte is WINDOW's, and its job ends
with ABORT_LINK. -/
def kUnreachable : Nat := 0x104

/-- Only NOT_PRESENT and FORMAT can be resolved (R118). -/
def resolvable (kind : Nat) : Bool := kind == 1 || kind == 2

/-- The window of a partition that holds an address. -/
def PtnSt.windowOf (q : PtnSt) (pa : Nat) : Option Window := q.windows.find? fun w => decide (w.pa ≤ pa) && decide (pa < w.pa + w.len)

/-- An entry's PPN as an address. -/
def entPpn (e : Nat) : Nat := fld e 16 34 * 65536

/-- FORMAT check of an entry with V = 1 at a level (R109 step 2). -/
def entBad (level e : Nat) : Bool :=
  let leaf := bitN e 1
  fld e 50 6 != 0 || fld e 6 10 != 0 ||
    (level == 0 && leaf) || (level == 2 && !leaf) ||
    (!leaf && (bitN e 2 || bitN e 3 || bitN e 4 || bitN e 5)) ||
    (leaf && bitN e 3 && !bitN e 2) || (leaf && bitN e 5) ||
    (level == 1 && leaf && fld e 16 13 != 0)

/-- A leaf as a cached translation. -/
def leafOf (p agent va level e : Nat) : Leaf :=
  let span := if level = 1 then 2 ^ 29 else 2 ^ 16
  { ptn := p, agent := agent, va := va / span * span, big := level == 1, pa := entPpn e,
    r := bitN e 2, w := bitN e 3, x := bitN e 4, pinned := false }

/-- Does a cached leaf cover an address? -/
def Leaf.covers (l : Leaf) (p agent va : Nat) : Bool :=
  l.ptn == p && l.agent == agent && decide (l.va ≤ va) && decide (va < l.va + if l.big then 2 ^ 29 else 2 ^ 16)

/-- Does a cached non-leaf entry cover an address at its level? -/
def WalkEnt.covers (w : WalkEnt) (p agent va level : Nat) : Bool :=
  w.ptn == p && w.agent == agent && w.level == level && w.va == va / 2 ^ (if level = 0 then 42 else 29)

/-! The translation caches (R112). A walk is one command's work, so no walker is ever found busy and no walk waits (log
entry 18). -/

/-- A cache of leaves: 0 a core's instruction micro-cache, 1 its data micro-cache, 2 its engine micro-cache, 3 its translation
cache or HUB's I/O translation cache. -/
def microOf (need : Need) (engine : Bool) : Nat := if engine then 2 else if need.x then 0 else 1

/-- Entries of one set of a cache and its number of sets: the micro-caches are one set (R112). -/
def cacheShape (agent cache : Nat) : Nat × Nat :=
  match cache with
  | 0 => (16, 1)
  | 1 => (32, 1)
  | 2 => (32, 1)
  | _ => if agent < 64 then (8, 256) else (8, 512)

/-- The set of a leaf. DESIGN CHOICE (log entry 18): its page number, in units of its own size, modulo the number of sets. -/
def Leaf.set (l : Leaf) : Nat := l.va / (if l.big then 2 ^ 29 else 2 ^ 16) % (cacheShape l.agent l.cache).2

/-- Do two leaves compete for the entries of one set? Pinned ones do not count (R258). -/
def Leaf.rivals (l m : Leaf) : Bool := m.agent == l.agent && m.cache == l.cache && m.set == l.set && !m.pinned

/-- A leaf enters its cache; a full set gives up one entry, which one the spec does not state: a free value (log entry 18). -/
def State.fillLeaf (s : State) (l : Leaf) : State :=
  let rs := s.xl.leaves.filter l.rivals
  if rs.length < (cacheShape l.agent l.cache).1 then s.modXl fun x => { x with leaves := x.leaves ++ [l] }
  else
    let f := s.fresh
    let out := rs[Config.freeNat 102 [f.1, l.agent, l.cache] % rs.length]?
    f.2.modXl fun x => { x with leaves := x.leaves.filter (fun m => some m != out) ++ [l] }

/-- A non-leaf entry enters the walk cache of its agent: 64 entries in a core, 128 in HUB (R112); which one a full cache gives
up is a free value (log entry 18). -/
def State.fillWalk (s : State) (w : WalkEnt) : State :=
  let rs := s.xl.walks.filter fun v => v.agent == w.agent
  if rs.length < (if w.agent < 64 then 64 else 128) then s.modXl fun x => { x with walks := x.walks ++ [w] }
  else
    let f := s.fresh
    let out := rs[Config.freeNat 103 [f.1, w.agent] % rs.length]?
    f.2.modXl fun x => { x with walks := x.walks.filter (fun v => some v != out) ++ [w] }

/-- A cached leaf of one cache that covers an address. -/
def State.cachedLeaf (s : State) (p agent va cache : Nat) : Option Leaf := s.xl.leaves.find? fun l => l.cache == cache && l.covers p agent va

/-- The lookup of an access (R112): the core's micro-cache of its kind, then the translation cache, from which the micro-cache
is filled. -/
def State.lookup (s : State) (p agent va : Nat) (need : Need) (engine : Bool) : Option (Leaf × State) :=
  let m := microOf need engine
  match (if agent < 64 then s.cachedLeaf p agent va m else none), s.cachedLeaf p agent va 3 with
  | some l, _ => some (l, s)
  | none, some l => some (l, if agent < 64 then s.fillLeaf { l with cache := m, pinned := false } else s)
  | none, none => none

/-- A walk's leaf enters the translation cache and, on a core, the micro-cache of the access. -/
def State.cacheWalked (s : State) (l : Leaf) (need : Need) (engine : Bool) : State :=
  let s1 := s.fillLeaf l
  if l.agent < 64 then s1.fillLeaf { l with cache := microOf need engine } else s1

/-- Index of an address at a level (R108). -/
def ptIndex (va level : Nat) : Nat := if level = 0 then fld va 42 6 else if level = 1 then fld va 29 13 else fld va 16 13

/-- The outcome of a walk. -/
inductive Walk where
  | leaf (l : Leaf) (at_ : Nat) (raw : Nat)
  | fault (kind level : Nat)
  | moving
  | uncorrectable
  deriving DecidableEq, Repr

/-- No walk of an agent waits any longer. -/
def State.walkPassed (s : State) (p agent : Nat) : State := (s.unheld p 0 (.walk agent)).unheld p 1 (.walk agent)

/-- The regulator that holds an access of a class at an address, unless nothing holds it. -/
def State.needHeld (s : State) (p pa : Nat) (need : Need) : Option Nat := if need.free then none else s.heldAt p pa need.lc

/-- The walk from a table at a level, at most `fuel` levels (R108, R109). Walk reads are RD_U and return the latest value
of the entry (R111); one that the partition's regulator holds waits, and the access walks again (R260, R261). -/
def walkFrom (p agent va : Nat) (need : Need) : Nat → Nat → Nat → State → Walk × State
  | 0, level, _, s => (.fault kFormat level, s)
  | fuel + 1, level, table, s =>
    let go := fun (next : Nat) (s : State) => walkFrom p agent va need fuel (level + 1) next s
    match s.xl.walks.find? fun w => w.covers p agent va level with
    | some w => go w.table s
    | none =>
      let ea := table + 8 * ptIndex va level
      match s.needHeld p ea need, s.paRead ea 8 with
      | some r, _ => (.moving, s.holdRequest p r need.lc 8 (.walk agent))
      | none, .bad => (.fault kRetired level, s)
      | none, .ok bs poison =>
        let s1 := ((s.walkPassed p agent).paReadFx ea 8).chargeMem p ea 8
        if poison then (.uncorrectable, s1) else
        let e := leNat bs
        if !bitN e 0 then (if level = 2 ∧ bitN e 5 then (.moving, s1) else (.fault kNotPresent level, s1))
        else if entBad level e then (.fault kFormat level, s1)
        else if bitN e 1 then (.leaf (leafOf p agent va level e) ea e, s1)
        else
          match (s.ptn p).windowOf (entPpn e) with
          | some w =>
            if w.tier = 0 ∨ w.tier = 1 then
              go (entPpn e) (s1.fillWalk
                { ptn := p, agent := agent, va := va / 2 ^ (if level = 0 then 42 else 29), level := level, table := entPpn e })
            else (.fault kWalkBound level, s1)
          | none => (.fault kWalkBound level, s1)

/-- A walk of the partition's tables, with no look at cached leaves (R108, PTN_PT_ROOT). -/
def State.walk (s : State) (p agent va : Nat) (need : Need) : Walk × State :=
  let q := s.ptn p
  if !q.ptEn then (.fault kNotPresent 0, s)
  else
    let root := q.ptRoot.toNat * 65536
    match q.windowOf root with
    | some w => if w.tier = 0 ∨ w.tier = 1 then walkFrom p agent va need 3 0 root s else (.fault kWalkBound 0, s)
    | none => (.fault kWalkBound 0, s)

/-- The leaf check (R110): a scratchpad grants READ and W to engines alone; a thread's access to its own core's scratchpad
ends in SPAD_ACCESS at its caller (R76), its fetch and HUB's agents miss the right. The page must exist, be allowed to the partition, not be retired, and carry the rights. A remote
window needs EN and a module of the torus (R379); an engine's access to a module out of reach fails at once (R383). -/
def State.leafCheck (s : State) (l : Leaf) (va : Nat) (need : Need) (engine : Bool) : Xl :=
  let q := s.ptn l.ptn
  let pa := l.pa + (va - l.va)
  let rights := fun (r w x : Bool) (tier : Nat) =>
    if s.paRetired pa then Xl.fault kRetired 3
    else if (need.r && !r) || (need.w && !w) || (need.x && !x) then .fault kPermission 3
    else .ok pa tier
  match paRange pa with
  | .unmapped => .fault kUnmapped 3
  | .spad c _ =>
    if bitN q.cores.toNat c then
      (if engine && l.agent < 64 then rights l.r l.w false 5
       else if l.agent < 64 && !need.x then rights true true false 5
       else rights false false false 5)
    else .fault kWindow 3
  | _ => match q.windowOf pa with
    | none => .fault kWindow 3
    | some w =>
      if w.tier = 3 ∧ !(q.lnkEn && s.links.torus.inside (fld pa 38 11)) then .fault kUnmapped 3
      else
        let x := rights (l.r && w.r) (l.w && w.w) (l.x && w.r && decide (w.tier < 2)) w.tier
        match x with
        | .ok _ _ => if engine && w.tier == 3 && !s.links.reaches (fld pa 38 11) then .fault kUnreachable 3 else x
        | _ => x

/-- The model aperture (R107): read-only, no tables, for a MODEL_USER partition. DESIGN CHOICE (log entry 18): no walk is made,
so LEVEL of an APERTURE fault is 0. -/
def State.aperture (s : State) (p va : Nat) (need : Need) : Xl :=
  match s.warp.activeImg with
  | none => .fault kAperture 0
  | some img =>
    if (s.ptn p).modelUser && decide (0xFF8000000000 ≤ va) && decide (va < 0xFF8000000000 + img.modelLen) then
      let pa := img.modelBase + (va - 0xFF8000000000)
      if need.w || need.x then .fault kPermission 3
      else if s.paRetired pa then .fault kRetired 3
      else .ok pa 4
    else .fault kAperture 0

/-- Translates one address of partition `p` for an agent whose caches bear the tag `agent` (a core, or 64 for HUB). -/
def State.translate (s : State) (p agent va : Nat) (need : Need) (engine : Bool) : Xl × State :=
  if fld va 42 6 = 63 then (s.aperture p va need, s)
  else if !(s.ptn p).ptEn then (.fault kNotPresent 0, s)
  else
    match s.lookup p agent va need engine with
    | some (l, s1) => (s1.leafCheck l va need engine, s1)
    | none =>
      match s.walk p agent va need with
      | (.leaf l _ _, s1) => (s1.leafCheck l va need engine, s1.cacheWalked l need engine)
      | (.fault k lv, s1) => (.fault k lv, s1)
      | (.moving, s1) => (.moving, s1)
      | (.uncorrectable, s1) => (.uncorrectable, s1)

/-- A partition's fault queue: slots (values of SIZE_LOG2 below 4 act as 4). -/
def FaultRing.slots (q : FaultRing) : Nat := 2 ^ max q.size 4

/-- The 32 bytes of a fault record (R119). -/
def faultBytes (h : HaltRec) (phase : Bool) : List Byte :=
  bytesLE 8 h.va.toNat ++ bytesLE 4 h.token.toNat ++ bytesLE 1 h.kind ++ bytesLE 1 h.access ++ bytesLE 1 h.level ++
    bytesLE 1 (b2n phase + 2 * b2n h.mcast + 4 * b2n h.lc) ++ bytesLE 2 h.agent ++ bytesLE 1 h.group ++ zeros 5 ++
    bytesLE 8 h.time.toNat

/-- Room in a partition's fault queue. -/
def PtnSt.faultRoom (q : PtnSt) : Bool := decide ((q.fault.prod - q.fault.cons).toNat < q.fault.slots)

/-- Writes one fault record, advances PROD, raises the vector and signals the object (R120). -/
def State.putFault (s : State) (h : HaltRec) : State :=
  let q := (s.ptn h.ptn).fault
  let i := q.prod.toNat
  let s1 := s.devWrite (q.base.toNat + 32 * (i % q.slots)) (faultBytes h (i / q.slots % 2 == 0))
  let s2 := (s1.modPtn h.ptn fun p => { p with fault := { p.fault with prod := p.fault.prod + 1 } }).raise ((s1.ptn h.ptn).msixBase + 2)
  if q.obj.toNat = 0x1FFF then s2 else s2.signalRel 79 h.ptn q.obj.toNat 1

/-- Gives the next resume token, never 0 (R119). -/
def State.newToken (s : State) : BitVec 32 × State :=
  (s.xl.nextToken, s.modXl fun x => { x with nextToken := if x.nextToken = 0xFFFFFFFF#32 then 1 else x.nextToken + 1 })

/-- What a fault does at once: the agent is halted, or it aborts with the kind of its fault (R118, R120, R121). -/
inductive FaultNow where
  | halted
  | abort
  deriving DecidableEq, Repr

/-- A translation fault of an agent that can halt: its record goes to the queue in the order of the faults; without a
queue the agent aborts at once; an unresolvable fault aborts once its record is written. -/
def State.takeFault (s : State) (h : HaltRec) : FaultNow × State :=
  let q := s.ptn h.ptn
  if !q.fault.enable then (.abort, s)
  else
    let tk := if resolvable h.kind then s.newToken else (0#32, s)
    let earlier := s.xl.halted.any fun x => x.ptn == h.ptn && !x.written
    let rec_ := { h with token := tk.1, time := s.timeNow }
    if q.faultRoom && !earlier then
      let s1 := tk.2.putFault rec_
      if resolvable h.kind then (.halted, s1.modXl fun x => { x with halted := x.halted ++ [{ rec_ with written := true }] })
      else (.abort, s1)
    else (.halted, tk.2.modXl fun x => { x with halted := x.halted ++ [{ rec_ with written := false }] })

/-- A fault of an agent that is never halted (MOVE, checkpoint, restore): its record is written, or waits in HUB for a slot,
since the queue never drops one; at the end of RESUME_WINDOW it is discarded (R119, R120, R122). -/
def State.noteFault (s : State) (h : HaltRec) : State :=
  let q := s.ptn h.ptn
  if !q.fault.enable then s
  else
    let tk := if resolvable h.kind then s.newToken else (0#32, s)
    let rec_ := { h with token := tk.1, time := s.timeNow, note := true }
    if q.faultRoom && !(s.xl.halted.any fun x => x.ptn == h.ptn && !x.written) then tk.2.putFault rec_
    else tk.2.modXl fun x => { x with halted := x.halted ++ [{ rec_ with written := false }] }

end Sys2Proof.Machine
end

