-- ==== Sys2Proof/Machine/Remote.lean ====
section
/-! DEFINITION. Remote memory at its target (R379-R382): the checks of an exported window, the access, the signal page; and
how engines reach a window of their own module. -/

namespace Sys2Proof.Machine

/-- A range of virtual addresses cut at 64 KiB pages. -/
def pagePieces (va n : Nat) : List (Nat × Nat) :=
  if n = 0 then []
  else (List.range ((va + n - 1) / 65536 - va / 65536 + 1)).map fun i =>
    let lo := max va ((va / 65536 + i) * 65536)
    let hi := min (va + n) ((va / 65536 + i + 1) * 65536)
    (lo, hi - lo)

/-- How a buffer's translation ends. -/
inductive BufXl where
  | ok (pas : List (Nat × Nat))
  | stop (va : Nat) (x : Xl)
  deriving DecidableEq, Repr

/-- Translates pieces with a given translation; a scratchpad gives HUB agents no right (R110). -/
def State.mapPieces (xlate : Nat → Nat → State → Xl × State) : List (Nat × Nat) → List (Nat × Nat) → State → BufXl × State
  | [], acc, s => (.ok acc, s)
  | (va, n) :: ps, acc, s =>
    match xlate va n s with
    | (.ok pa tier, s1) =>
      if tier = 5 then (.stop va (.fault kPermission 3), s1) else State.mapPieces xlate ps (acc ++ [(pa, n)]) s1
    | (x, s1) => (.stop va x, s1)

/-- Does a partition's export let an access of `n` bytes at an offset in (R380 steps 1 and 2, PTN_LNK_EXPORT)? -/
def PtnSt.exports (q : PtnSt) (key : BitVec 64) (off n : Nat) (write : Bool) : Bool :=
  q.live && q.lnkEn && q.lnkKey == key && decide (off + n ≤ q.expPages.toNat * 65536) && (if write then q.expWrite else q.expRead)

/-- The memory that an offset of a partition's exported window names (R380 step 3). -/
def State.exportMap (s : State) (p off n : Nat) (need : Need) : BufXl × State :=
  State.mapPieces (fun va _ s => s.translate p 64 va need true) (pagePieces ((s.ptn p).expBase.toNat * 65536 + off) n) [] s

/-- An engine's or HUB agent's translation of a piece within one page (R380): a page of the module's own remote window is
served without leaving the module, and a refusal is a WINDOW fault (R383). -/
def State.engXlate (p agent : Nat) (need : Need) (va n : Nat) (s : State) : Xl × State :=
  match s.translate p agent va need true with
  | (.ok pa tier, s1) =>
    (match paRange pa with
     | .remote m off =>
       if m ≠ s.links.torus.number then (.ok pa tier, s1)
       else if !((s.ptn p).exports (s.ptn p).lnkKey off n need.w) then (.fault kWindow 3, s1)
       else match s1.exportMap p off n need with
         | (.ok ((at_, _) :: _), s2) => (.ok at_ tier, s2)
         | (.stop _ .moving, s2) => (.moving, s2)
         | (_, s2) => (.fault kWindow 3, s2)
     | _ => (.ok pa tier, s1))
  | x => x

/-- Mapped pieces at their charging points: with one that a regulator of the partition holds, the whole access waits as it would
for a page in motion (R260). -/
def State.piecesPoint (s : State) (p : Nat) (need : Need) (ps : List (Nat × Nat)) : BufXl × State :=
  match ps.findSome? fun x => (s.needHeld p x.1 need).map fun r => (r, x) with
  | some (r, x) => (.stop 0 .moving, s.holdRequest p r need.lc x.2 (.buf x.1))
  | none => (.ok ps, s.each ps fun s x => (s.unheld p 0 (.buf x.1)).unheld p 1 (.buf x.1))

/-- Translates the pieces of a buffer for HUB; a held piece makes the agent wait. -/
def State.bufXlate (p : Nat) (need : Need) (ps acc : List (Nat × Nat)) (s : State) : BufXl × State :=
  match State.mapPieces (State.engXlate p 64 need) ps acc s with
  | (.ok qs, s1) => s1.piecesPoint p need qs
  | x => x

/-- Offset of the signal page in an exported window (R382). -/
def signalPage : Nat := 0x3FFFFF0000

/-- Writes bytes under a byte mask; an empty mask writes them all (R381). -/
def State.maskWrite (s : State) (pa : Nat) (bs : List Byte) (mask : List Bool) : State :=
  if mask.isEmpty || mask.all (·) then s.paWrite pa bs
  else s.each (List.range bs.length) fun s i => if mask.getD i false then s.paWrite (pa + i) [bs.getD i 0] else s

/-- Writes the pieces of a remote write. -/
def State.remotePut : List (Nat × Nat) → List Byte → List Bool → State → State
  | [], _, _, s => s
  | (pa, n) :: ps, bs, mask, s => State.remotePut ps (bs.drop n) (mask.drop n) (s.maskWrite pa (bs.take n) (mask.take n))

/-- Reads the pieces of a remote read: bytes and whether any is poisoned; none where memory has gone. -/
def State.remoteGet (s : State) : List (Nat × Nat) → Option (List Byte × Bool)
  | [] => some ([], false)
  | (pa, n) :: ps => match s.paRead pa n, s.remoteGet ps with
    | .ok bs poison, some r => some (bs ++ r.1, poison || r.2)
    | _, _ => none

/-- What an AMO makes of the value it finds (R76, R381). -/
def amoOf (r : RemReq) (old : Nat) : Option Nat :=
  let d := leNat r.data
  if r.op = 2 then some d else if r.op = 3 then some ((old + d) % 2 ^ 64) else if old = r.cmp.toNat then some d else none

/-- The target serves a remote request, or refuses it (R380-R382). `input` is where its signals enter the sync store.
No answer means that the access waits for a page in motion (R124). -/
def State.serveRemote (s : State) (r : RemReq) (input : Nat) : Option RemAns × State :=
  let p := r.ptn
  let q := s.ptn p
  if signalPage ≤ r.off then
    let k := (r.off - signalPage) / 8
    if r.op = 1 ∧ r.len = 8 ∧ r.off % 8 = 0 ∧ (r.mask.isEmpty ∨ r.mask.all (·)) ∧ q.live ∧ q.lnkEn ∧ q.lnkKey = r.key ∧
        k < q.syncCount then
      (some .ack, s.syncArrive input (q.syncBase + k) (.add (leNat r.data % 2 ^ 32)))
    else (some .refused, s)
  else if 512 < r.len ∨ !q.exports r.key r.off r.len (r.op != 0) then (some .refused, s)
  else
    let need : Need := { r := r.op != 1, w := r.op != 0, lc := r.lc }
    match (match s.exportMap p r.off r.len need with
      | (.ok ps, s1) => s1.piecesPoint p need ps
      | x => x) with
    | (.stop _ .moving, s1) => (none, s1)
    | (.stop _ _, s1) => (some .refused, s1)
    | (.ok ps, s1) =>
      match s1.remoteGet ps with
      | none => (some .refused, s1)
      | some (bs, poison) =>
        let s1 := s1.each ps fun s x => s.chargeMem p x.1 x.2
        if r.op = 1 then (some .ack, State.remotePut ps r.data r.mask s1)
        else
          let s2 := s1.each ps fun s x => s.paReadFx x.1 x.2
          if poison then (some .poison, s2)
          else if r.op = 0 then (some (.data bs), s2)
          else (some (.data bs), match amoOf r (leNat bs) with
            | some v => State.remotePut ps (bytesLE 8 v) [] s2
            | none => s2)

/-- Link `l`. -/
def State.link (s : State) (l : Nat) : LinkSt := tget s.links.links l {}

/-- Changes link `l`. -/
def State.modLink (s : State) (l : Nat) (f : LinkSt → LinkSt) : State :=
  s.modLinks fun k => { k with links := tmod k.links l {} f }

/-- The books of a refused request: the count of its arrival link, and log 0x5006 once a second per partition (R380). -/
def State.noteRefusal (s : State) (p : Nat) (link : Option Nat) : State :=
  let s1 := match link with
    | some l => s.modLink l fun x => { x with refused := satAdd 16 x.refused 1 }
    | none => s
  s1.logRated (rateKey 0x5006 p) oneSec (Src.code .hub) 0x5006 (bytesLE 2 p)

/-- Serves a request of this module to itself, without leaving it (R380). -/
def State.serveSelf (s : State) (r : RemReq) : Option RemAns × State :=
  match s.serveRemote r 79 with
  | (some .refused, s1) => (some .refused, s1.noteRefusal r.ptn none)
  | x => x

/-- The links of a direction. -/
def State.dirLinks (s : State) (dir : Nat) : List Nat := (List.range 48).filter fun l => (s.link l).dir == dir && dir != 0

/-- The links of a direction that are UP. -/
def State.upLinks (s : State) (dir : Nat) : List Nat := (s.dirLinks dir).filter fun l => (s.link l).st == 2

/-- The link that a flow takes among those of a direction: by a hash the spec does not give (R376; log entry 31). -/
def State.linkFor (s : State) (dir : Nat) (flow : List Nat) : Option Nat :=
  let ls := if (s.upLinks dir).isEmpty then s.dirLinks dir else s.upLinks dir
  ls[Config.freeNat 71 flow % ls.length]?

/-- The VC of a request that leaves in a direction: the dateline VC where the hop crosses it (R374, R376). -/
def LinksSt.reqVc (l : LinksSt) (dir : Nat) (lc : Bool) : Nat :=
  let i := (dir - 1) / 2
  let cross := if dir % 2 = 1 then decide (l.torus.pos i + 1 = l.torus.dim i) else decide (l.torus.pos i = 0)
  (if lc then 2 else 4) + b2n cross

/-- The flits of a packet: the header, with the payload's length, then the payload (R41, R381). -/
def lkFlits (vc p : Nat) (key : BitVec 64) (lc : Bool) (pay : Nat) : List LkFlit :=
  let n := (pay + 63) / 64
  (List.range (n + 1)).map fun i => { vc := vc, ptn := p, key := key, lc := lc, last := i == n, pay := if i = 0 then pay else 0 }

/-- A packet enters the send queue of the link that its flow takes in a direction. -/
def State.queueDir (s : State) (dir : Nat) (flow : List Nat) (fs : List LkFlit) : State :=
  match s.linkFor dir flow with
  | some l => s.modLink l fun k => { k with sendq := k.sendq ++ fs.map fun f => { f with flow := flow } }
  | none => s

/-- The header of a packet names its module and its chosen directions (R376). -/
def routed (m : Nat) (plus : BitVec 3) (fs : List LkFlit) : List LkFlit := fs.map fun f => { f with dest := m, plus := plus }

/-- The flow of a packet: source module, destination module, source agent and VC (R376). -/
def flowOf (src dest agent vc : Nat) : List Nat := [src, dest, agent, vc]

/-- A packet for a module enters the send queue of its first link. -/
def State.queueTo (s : State) (m agent vc : Nat) (fs : Nat → List LkFlit) : State :=
  match s.links.firstDir m with
  | some d => s.queueDir d (flowOf s.links.torus.number m agent vc) (routed m (s.links.plusBits m) (fs d))
  | none => s

/-- Payload bytes of a request (R381): what a write or an AMO carries. -/
def reqPayload (r : RemReq) : Nat := if r.op = 0 then 0 else if r.op = 1 then r.len else if r.op = 4 then 16 else 8

/-- The agent code of HUB's unit 0, which sends the control messages and the answers (R119; log entry 31). -/
def hubUnit0 : Nat := 0x1000 + 16 * 31

/-- A control message to a module, for a key (R374). -/
def State.queueCtl (s : State) (m : Nat) (key : BitVec 64) : State := s.queueTo m hubUnit0 0 fun _ => lkFlits 0 32 key true 0

/-- A module sends a message to another, or along a ring or to every neighbour; its packet waits in a send queue (R374). -/
def State.sendLink (s : State) (m : LinkMsg) : State :=
  let s1 := s.modLinks fun l => { l with outbox := l.outbox ++ [m] }
  match m with
  | .request d r => s1.queueTo d r.agent (if r.lc then 2 else 4) fun dir => lkFlits (s.links.reqVc dir r.lc) r.ptn r.key r.lc (reqPayload r)
  | .reach dim plus _ => s1.queueDir (dirCode dim plus) (flowOf s.links.torus.number dim hubUnit0 0) (lkFlits 0 32 0 true 0)
  | .jobAbort key _ => s1.each [1, 2, 3, 4, 5, 6] fun s d => s.queueDir d (flowOf s.links.torus.number d hubUnit0 0) (lkFlits 0 32 key true 0)
  | .prepared d key _ => s1.queueCtl d key
  | .commit d key _ => s1.queueCtl d key
  | .abort d key _ _ => s1.queueCtl d key
  | .query d key => s1.queueCtl d key
  | .lastIs d key _ => s1.queueCtl d key
  | .answer _ _ => s1

/-- The answer to a request of another module, on RSP, with what a read or an AMO returns (R374). -/
def State.sendAnswer (s : State) (r : RemReq) (a : RemAns) : State :=
  (s.sendLink (.answer r.srcMod a)).queueTo r.srcMod hubUnit0 1 fun _ => lkFlits 1 r.ptn r.key r.lc (match a with
    | .data bs => bs.length
    | _ => 0)

/-- The VCs that have a guaranteed slot in the frame of 16: CTL 1, RSP 4, LC with LC_DL 4, BE with BE_DL 2 (R374). Which slots
they are is not stated (log entry 31). -/
def lkOwners (slot : Nat) : List Nat :=
  if slot = 0 then [0] else if slot < 5 then [1] else if slot < 9 then [2, 3] else if slot < 11 then [4, 5] else []

/-- The VC that sends in a slot (R374). -/
def lkSlotVc (slot : Nat) (able : Nat → Bool) : Option Nat := (lkOwners slot ++ [0, 2, 3, 1, 4, 5]).find? able

/-- The link regulator of a partition holds the packet of a header flit (R260, R261). -/
def State.lkHeld (s : State) (f : LkFlit) : Bool := f.pay != 0 && decide (f.ptn < 32) && (tget (s.ptn f.ptn).regs 5 {}).holds 5 f.lc

/-- The flit of a VC that a send queue lets go next: the packet that has begun goes on; else latency-critical and control
packets in arrival order, best-effort ones as the arbiter grants (R259, R374). Held packets wait, those behind them in their
flow too. -/
def State.lkNext (s : State) (k : LinkSt) (vc : Nat) : Option LkFlit × Arb :=
  let mine := k.sendq.filter fun f => f.vc == vc
  match tfind k.part vc with
  | some p => (mine.find? fun f => f.ptn == p, k.arb)
  | none =>
    let heads := ((List.range 33).filterMap fun p => mine.find? fun f => f.ptn == p).filter fun f => !s.lkHeld f
    let free := mine.filter heads.contains
    if vc < 4 then (free.head?, k.arb)
    else
      let r := k.arb.grant (fun p => s.weight p * 512) (free.map fun f => (f.ptn, false))
      (r.1.bind fun i => free[i]?, r.2)

/-- One slot of a link's frame: a flit leaves for the replay buffer, which keeps the last 4,096, and its payload is charged
(R261, R374, R375); none when no VC is able to send. -/
def State.lkSlot (s : State) (l : Nat) : Option State :=
  let k := s.link l
  match lkSlotVc k.slot fun v => (s.lkNext k v).1.isSome with
  | none => none
  | some v => match s.lkNext k v with
    | (none, _) => none
    | (some f, arb) =>
      let all := k.replay ++ [f]
      some ((s.modLink l fun k => { k with
        sendq := dropFirst (· == f) k.sendq, replay := all.drop (all.length - 4096), txSeq := k.txSeq + 1, slot := (k.slot + 1) % 16
        arb := if v < 4 then arb else arb.spend f.ptn 64
        part := if f.last then tdel k.part v else tset k.part v f.ptn }).charge f.ptn 12 (some 5) f.pay)

/-- Slots of a link's frame until no VC is able to send. -/
def State.lkSlots (l : Nat) : Nat → State → State
  | 0, s => s
  | fuel + 1, s => match s.lkSlot l with
    | some s1 => State.lkSlots l fuel s1
    | none => s

/-- Packets that their regulator holds are counted once (R260). -/
def State.lkNote (s : State) (l : Nat) : State :=
  let k := s.link l
  let new := k.sendq.filter fun f => s.lkHeld f && !f.held
  if new.isEmpty then s
  else (s.each new fun s f => s.modPtn f.ptn fun q => { q with regs := tmod q.regs 5 {} fun g => { g with held := satAdd 32 g.held 1 } }).modLink l
    fun k => { k with sendq := k.sendq.map fun f => if s.lkHeld f then { f with held := true } else f }

/-- The flits of the send queue of an UP link go out (R374, R375). The far end returns their credits as they go, as a net effect
(log entry 31). -/
def State.lkDrain (s : State) (l : Nat) : State :=
  let k := s.link l
  if k.st = 2 ∧ k.sendq ≠ [] then (State.lkSlots l k.sendq.length s).lkNote l else s

/-- Every link's send queue drains. -/
def State.drainLinks (s : State) : State := s.each s.links.links fun s e => s.lkDrain e.1

/-- The requests of an engine's or HUB agent's access where it leaves for another module: packets of at most 512 bytes, each
a read (no bytes given) or a write (R381). -/
def State.sendRemote (s : State) (p agent pa n : Nat) (bs : List Byte) (lc : Bool) : State :=
  match paRange pa with
  | .remote m off => s.each (List.range ((n + 511) / 512)) fun s i =>
      let d := (bs.drop (512 * i)).take 512
      s.sendLink (.request m { op := if bs.isEmpty then 0 else 1, srcMod := s.links.torus.number, ptn := p,
                               key := (s.ptn p).lnkKey, off := off + 512 * i, len := min 512 (n - 512 * i), data := d, lc := lc
                               agent := agent })
  | _ => s

end Sys2Proof.Machine
end

