-- ==== Sys2Proof/Machine/Ckpt.lean ====
section
/-! DEFINITION. Checkpoints at their module and their coordinator (R388, R389): the slots, the books of a key, and what a
checkpoint that fails sends. -/

namespace Sys2Proof.Machine

/-- Checkpoint slot `i` (R388). -/
def State.ckSlot (s : State) (i : Nat) : CkSlot := tget s.links.slots i {}

/-- A STATE change of a slot is one journal record (R388). -/
def State.setSlotState (s : State) (i st : Nat) : State :=
  (s.modLinks fun l => { l with slots := tmod l.slots i {} fun k => { k with st := st } }).journal 0 (.ckpt i st)

/-- The slot of a key and CKPT_ID in one of the given states. -/
def State.slotOf (s : State) (key : BitVec 64) (id : Nat) (sts : List Nat) : Option Nat :=
  (List.range 2).find? fun i => let k := s.ckSlot i; k.key == key && k.id == id && sts.contains k.st

/-- The last committed CKPT_ID of a key that this module coordinates: its own COMMITTED slots decide (R389 step 4); 0 when
there is none. -/
def State.lastCommitted (s : State) (key : BitVec 64) : Nat :=
  (List.range 2).foldl (fun a i => let k := s.ckSlot i; if k.st = 3 ∧ k.key = key then max a k.id else a) 0

/-- The books of a key at its coordinator. -/
def State.coord (s : State) (key : BitVec 64) : Coord := (s.links.coords.find? fun c => c.key == key).getD { key := key }

/-- Writes the books of a key. -/
def State.setCoord (s : State) (c : Coord) : State :=
  s.modLinks fun l => { l with coords := if l.coords.any fun x => x.key == c.key then modFirst (fun x => x.key == c.key) (fun _ => c) l.coords
                                         else l.coords ++ [c] }

/-- Log 0x5009: a checkpoint has failed here (R389). -/
def State.logCkptFail (s : State) (key : BitVec 64) (id status : Nat) : State :=
  s.log (Src.code .hub) 0x5009 (bytesLE 8 key.toNat ++ bytesLE 8 id ++ bytesLE 1 status)

/-- The coordinator does not decide: ABORT goes to every participant that has reported, and later reports of the checkpoint
meet the same answer (R389). -/
def State.coordAbort (s : State) (key : BitVec 64) (status : Nat) : State :=
  let c := s.coord key
  let own := s.links.torus.number
  let s1 := s.each (c.prepared.filter fun p => p.1 != own) fun s p => s.sendLink (.abort p.1 key p.2 status)
  s1.setCoord { c with cur := 0, prepared := [], aborted := (c.cur, status) }

/-- JOB_KEY of a CHECKPOINT or RESTORE entry (R364). -/
def ckptKey (e : List Byte) : BitVec 64 := BitVec.ofNat 64 (leAt e 0x20 8)

/-- CKPT_ID of a CHECKPOINT or RESTORE entry (R364). -/
def ckptId (e : List Byte) : Nat := leAt e 0x18 8

/-- The coordinator of a partition's entry: the module itself for JOB_KEY 0 (R388). -/
def State.coordOf (s : State) (p : Nat) (e : List Byte) : Nat :=
  if ckptKey e = 0 then s.links.torus.number else (s.ptn p).lnkCoord.toNat

/-- A checkpoint in progress ends here before the decision: the log, and what the other modules are told (R389). -/
def State.ckptStopped (s : State) (j : Job) (status : Nat) : State :=
  let key := ckptKey j.entry
  let s1 := s.logCkptFail key (ckptId j.entry) status
  let m := s.coordOf j.ptn j.entry
  if m = s.links.torus.number then
    if (s1.coord key).cur = ckptId j.entry then s1.coordAbort key stRestart else s1
  else s1.sendLink (.abort m key (ckptId j.entry) stRestart)

end Sys2Proof.Machine
end

