-- ==== Sys2Proof/Machine/Real.lean ====
section
/-! DEFINITION. Rational approximations of the functions that R200-R210 bound, far finer than the bounds: a value is then
any value within the bound of the approximation (log entry 11). Fixed point with 200 fraction bits. -/

namespace Sys2Proof.Machine

/-- One in fixed point. -/
def fxOne : Int := 2 ^ 200

/-- The natural logarithm of 2 in fixed point. -/
def fxLn2 : Int := 0xb17217f7d1cf79abc9e3b39803f2f6af40f343267298b62d8a

/-- 2 over the square root of pi in fixed point. -/
def fxErf : Int := 0x120dd750429b6d11ae3a914fed7fd8688281341d7587cea2e73

/-- 1 over the square root of 2 in fixed point. -/
def fxSqrtHalf : Int := 0xb504f333f9de6484597d89b3754abe9f1d6f60ba893ba84ced

/-- A finite value in fixed point, rounded down; other values are 0. -/
def fxOf : Num → Int
  | .fin s m e =>
    let k : Nat := if 0 ≤ e + 200 then m * 2 ^ (e + 200).toNat else m >>> (-(e + 200)).toNat
    if s then -(k : Int) else k
  | _ => 0

/-- Fixed-point product. -/
def fxMul (a b : Int) : Int := a * b / fxOne

/-- The sum of r^i / i! by Horner's rule. -/
def fxExpSeries (r : Int) : Nat → Int → Int
  | 0, acc => acc
  | k + 1, acc => fxExpSeries r k (fxOne + fxMul r acc / ((k : Int) + 1))

/-- e^x for a finite x of magnitude below 8000. -/
def expApprox (x : Num) : Num :=
  let v := fxOf x
  let n := v / fxLn2
  .fin false (fxExpSeries (v - n * fxLn2) 60 fxOne).toNat (n - 200)

/-- z + z^3/3 + z^5/5 + ... -/
def fxAtanhSeries (z2 : Int) : Nat → Int → Nat → Int → Int
  | 0, _, _, acc => acc
  | f + 1, p, i, acc => fxAtanhSeries z2 f (fxMul p z2) (i + 2) (acc + p / (i : Int))

/-- ln of a positive finite value. -/
def lnApprox (m : Nat) (e : Int) : Num :=
  let l := leadOf m e
  let y := fxOf (.fin false m (e - l))
  let z := (y - fxOne) * fxOne / (y + fxOne)
  ofUnits (2 * fxAtanhSeries (fxMul z z) 80 z 1 0 + l * fxLn2) (-200) false

/-- The terms of the series of erf. -/
def fxErfSeries (x2 : Int) : Nat → Int → Nat → Int → Int
  | 0, _, _, acc => acc
  | f + 1, t, i, acc => fxErfSeries x2 f (-(fxMul t x2) / ((i : Int) + 1)) (i + 1) (acc + t / (2 * (i : Int) + 1))

/-- erf of a fixed-point value of magnitude at most 6. -/
def fxErfOf (x : Int) : Int := fxMul fxErf (fxErfSeries (fxMul x x) 220 x 0 0)

/-- Integer square root from bit `k` down. -/
def isqrtBits (n : Nat) : Nat → Nat → Nat
  | 0, r => r
  | k + 1, r => isqrtBits n k (if (r + 2 ^ k) * (r + 2 ^ k) ≤ n then r + 2 ^ k else r)

/-- Square root of a positive finite value. -/
def sqrtApprox (m : Nat) (e : Int) : Num :=
  let e1 := if e % 2 = 0 then e - 400 else e - 401
  let k := scaleTo m e e1
  .fin false (isqrtBits k (Nat.log2 k / 2 + 1) 0) (e1 / 2)

/-- A quotient of naturals times 2^e, its low bit standing for everything below it, so that rounding it once rounds the
quotient. -/
def ratNum (s : Bool) (n d : Nat) (e : Int) : Num :=
  if d = 0 then .nan
  else
    let g := 200 + Nat.log2 d
    let q := n * 2 ^ g / d
    .fin s (2 * q + (if n * 2 ^ g % d = 0 then 0 else 1)) (e - g - 1)

/-- The quotient of two finite values, the second not zero. -/
def divNum (a b : Num) : Num :=
  match a, b with
  | .fin s m e, .fin t n f => ratNum (s != t) m n (e - f)
  | _, _ => .nan

/-- A value times 2^k. -/
def Num.scale (k : Int) : Num → Num
  | .fin s m e => .fin s m (e + k)
  | x => x

/-- Any value within `bound` of `x` (both finite): a free value of a grid 2^-64 of the bound (log entry 11). -/
def nearNum (place : Nat) (key : List Int) (x bound : Num) : Num :=
  match x, bound with
  | .fin s m e, .fin _ bm be =>
    if bm = 0 then x
    else
      let u := leadOf bm be - 64
      let q := min u (min be (Num.unit u (.fin s m e)))
      let p := Config.pick place key * (2 ^ (u - q).toNat : Nat)
      if p.natAbs ≤ scaleTo bm be q then ofUnits (Num.units q (.fin s m (max e q)) + p) q s else x
  | _, _ => x

/-- Any value within 2^-k of `x`, relative. -/
def nearRel (place : Nat) (key : List Int) (k : Nat) (x : Num) : Num := nearNum place key x (x.abs.scale (-(k : Int)))

/-- Rounds a finite value to a number of significant bits. -/
def roundSig (bits : Nat) (x : Num) : Num :=
  match x with
  | .fin s m e =>
    if m = 0 then x
    else
      let u := leadOf m e - bits + 1
      .fin s (roundUnits m e u (Config.tieUp 3 [(b2n s : Int), (m : Int), e])) u
  | y => y

/-- Floor of a finite value. -/
def Num.floor : Num → Int
  | .fin s m e =>
    if 0 ≤ e then (if s then -(m * 2 ^ e.toNat : Nat) else (m * 2 ^ e.toNat : Nat))
    else (if s then -(m : Int) else (m : Int)) / (2 ^ (-e).toNat : Nat)
  | _ => 0

/-- The parts of a value, as a key. -/
def Num.key : Num → List Int
  | .nan => [2]
  | .inf s => [3, (b2n s : Int)]
  | .fin s m e => [(b2n s : Int), (m : Int), e]

/-- The sum of two values. -/
def Num.plus (a b : Num) : Num := (addNum a b).1

/-- The difference of two values. -/
def Num.minus (a b : Num) : Num := (addNum a b.neg).1

/-- The product of two values. -/
def Num.times (a b : Num) : Num := (mulNum a b).1

/-- The larger of two values, a NaN if either is; +0 is larger than -0 (R192). -/
def maxNum (a b : Num) : Num :=
  if a.isNan || b.isNan then .nan
  else if ltNum a b then b
  else if ltNum b a then a
  else match a with
    | .fin true 0 _ => b
    | _ => a

/-- The smaller of two values; -0 is smaller than +0 (R192). -/
def minNum (a b : Num) : Num :=
  if a.isNan || b.isNan then .nan
  else if ltNum a b then a
  else if ltNum b a then b
  else match a with
    | .fin true 0 _ => a
    | _ => b

end Sys2Proof.Machine
end

