-- ==== Sys2Proof/Machine/Func.lean ====
section
/-! DEFINITION. The function evaluators: tables (R198-R201) and the fixed evaluators of the row operations (R197, R206). -/

namespace Sys2Proof.Machine

/-- An FP32 pattern's value. -/
def f32 (x : BitVec 32) : Num := decodeNum fFp32 x.toNat

/-- A value rounded once to FP32 under a conversion mode (R150): an infinity stays one, and a finite value beyond the range
follows the mode. With the flags. -/
def toF32 (cvt : Nat) (x : Num) : Num × Nat :=
  match x with
  | .inf s => (.inf s, 0)
  | _ => let e := encodeNum fFp32 cvt x; (decodeNum fFp32 e.1, e.2)

/-- A value rounded once to FP32 on the way through a table; its flags are not the operation's (log entry 11). -/
def rnd32 (cvt : Nat) (x : Num) : Num := (toF32 cvt x).1

/-- The built-in defaults of slots 0-10 as tables without segments (R201). -/
def builtinTable (s : Nat) : Option SfTable :=
  let lin := fun (x0 scale low high : BitVec 32) (hm : Nat) =>
    some { builtin := some s, fn := 1, x0 := x0, scale := scale, low := low, high := high, lowMode := 0, highMode := hm : SfTable }
  match s with
  | 0 => some { builtin := some 0, fn := 2, scale := 0x3FB8AA3B#32 }
  | 1 => some { builtin := some 1, fn := 3, expRule := 3, clog := 0x3F317218#32 }
  | 2 => some { builtin := some 2, fn := 3, expRule := 0 }
  | 3 => some { builtin := some 3, fn := 3, expRule := 2 }
  | 4 => some { builtin := some 4, fn := 3, expRule := 1 }
  | 5 => lin 0xC1800000#32 0x41000000#32 0 0x3F800000#32 0
  | 6 => lin 0xC1000000#32 0x41800000#32 0xBF800000#32 0x3F800000#32 0
  | 7 => lin 0xC1000000#32 0x41800000#32 0 0 1
  | 8 => lin 0xC1800000#32 0x41000000#32 0 0 1
  | 9 => lin 0xC1800000#32 0x41000000#32 0 0 1
  | 10 => lin 0xC0800000#32 0x42000000#32 0xBF800000#32 0x3F800000#32 0
  | _ => none

/-- One. -/
def one : Num := .fin false 1 0

/-- The larger of 1 and a magnitude. -/
def max1 (x : Num) : Num := if ltNum one x.abs then x.abs else one

/-- e^x for any finite x, its magnitude held within what every destination tells apart. -/
def expAny (x : Num) : Num :=
  if ltNum (.fin false 6000 0) x then .fin false 1 8000
  else if ltNum x (.fin true 6000 0) then .fin false 1 (-8000)
  else expApprox x

/-- A fixed-point number as a value. -/
def ofFx (v : Int) : Num := ofUnits v (-200) false

/-- e^x, 1/(1 + e^-x), and the like, approximated within a LINEAR domain (R201). -/
def linApprox (slot : Nat) (x : Num) : Num :=
  let v := fxOf x
  match slot with
  | 5 => divNum one (one.plus (expApprox x.neg))
  | 6 => let t := expApprox (x.scale 1); divNum (t.minus one) (t.plus one)
  | 7 => ofFx (fxMul v (fxOne + fxErfOf (fxMul v fxSqrtHalf)) / 2)
  | 8 => divNum x (one.plus (expApprox x.neg))
  | 9 => match one.plus (expApprox x) with
    | .fin _ m e => lnApprox m e
    | y => y
  | _ => ofFx (fxErfOf v)

/-- The bound of a built-in default at an argument and function value (R201). -/
def builtinBound (slot : Nat) (x f : Num) : Num :=
  match slot with
  | 1 => if !ltNum x (.fin false 1 (-1)) && ltNum x (.fin false 2 0) then .fin false 1 (-22) else f.abs.scale (-22)
  | 5 => .fin false 1 (-16)
  | 6 => .fin false 1 (-16)
  | 7 => (max1 x).scale (-16)
  | 8 => (max1 x).scale (-15)
  | 9 => (max1 x).scale (-16)
  | 10 => .fin false 1 (-18)
  | _ => f.abs.scale (-22)

/-- The value of a built-in default away from its special arguments and tails: any value within the bound (R201). -/
def builtinValue (slot : Nat) (x : Num) : Num :=
  let f := match slot, x with
    | 0, _ => expAny x
    | 1, .fin _ m e => lnApprox m e
    | 2, _ => divNum one x
    | 3, .fin _ m e => divNum one (sqrtApprox m e)
    | 4, .fin _ m e => sqrtApprox m e
    | _, _ => linApprox slot x
  nearNum 10 ((slot : Int) :: x.key) f (builtinBound slot x f)

/-- Segment `j` of a table at t: any value within the bound of R200 of P_j(t). -/
def SfTable.poly (tb : SfTable) (j : Nat) (t : Num) : Num :=
  let c := tb.segs.getD j (0, 0, 0)
  let p := (f32 c.1).plus (t.times ((f32 c.2.1).plus (t.times (f32 c.2.2))))
  let b := (((f32 c.1).abs.plus (f32 c.2.1).abs).plus (f32 c.2.2).abs).scale (-22)
  nearNum 11 ((j : Int) :: t.key ++ [(c.1.toNat : Int), (c.2.1.toNat : Int), (c.2.2.toNat : Int)]) p b

/-- A tail (R198, R199): a constant, the argument, or a slope times it, rounded to 24 bits in the exponent range of ACC, which
is 0.5 ulp of FP32 (R200); with INV of 0 × ∞. -/
def tailValue (mode : Nat) (k : BitVec 32) (x : Num) : Num × Nat :=
  if mode = 0 then (f32 k, 0)
  else if mode = 1 then (x, 0)
  else
    let r := mulNum (f32 k) x
    (roundSig 24 r.1, invIf r.2)

/-- The segment and t of a reduced argument g in [0, 256]: on a boundary the segment on either side (R200). -/
def segmentOf (key : List Int) (g : Num) : Nat × Num :=
  let j := g.floor.toNat
  let t := g.minus (.fin false j 0)
  if t.isZero && j != 0 && (j == 256 || Config.tieUp 4 key) then (j - 1, one) else (j, t)

/-- A table at an argument under a conversion mode (R199), with the flags. An exponent n of EXP is held within ±8000, which no
destination tells apart from one beyond. -/
def SfTable.eval (tb : SfTable) (cvt : Nat) (x : Num) : Num × Nat :=
  match x with
  | .nan => (.nan, flInv)
  | _ =>
    match tb.fn with
    | 1 =>
      let u := rnd32 cvt ((rnd32 cvt (x.minus (f32 tb.x0))).times (f32 tb.scale))
      let high := tailValue tb.highMode tb.high x
      if x == .inf false then high
      else if x == .inf true ∨ ltNum u .zero then tailValue tb.lowMode tb.low x
      else
        let c256 : Num := .fin false 256 0
        if !ltNum u c256 && !(tb.builtin.isNone && eqNum u c256 && Config.tieUp 5 u.key) then high
        else match tb.builtin with
          | some b => (builtinValue b x, 0)
          | none => let q := segmentOf u.key u; (tb.poly q.1 q.2, 0)
    | 2 =>
      (match x with
       | .inf s => (if s then .zero else .inf false, 0)
       | _ =>
         if x.isZero then (one, 0)
         else match tb.builtin with
           | some b => (builtinValue b x, 0)
           | none =>
             match rnd32 cvt (x.times (f32 tb.scale)) with
             | .inf s => (if s then .zero else .inf false, 0)
             | w =>
               let n := w.floor
               let f := w.minus (Num.ofInt n)
               let n1 := max (-8000) (min 8000 n)
               if f.isZero && Config.tieUp 4 w.key then ((tb.poly 255 one).scale (n1 - 1), 0)
               else let q := segmentOf w.key (f.scale 8); ((tb.poly q.1 q.2).scale n1, 0))
    | _ =>
      let r := tb.expRule
      (match x with
       | .inf s =>
         if r = 0 then (.fin s 0 0, 0) else if s then (.nan, flInv) else if r = 2 then (.zero, 0) else (.inf false, 0)
       | .fin s m e =>
         if m = 0 then
           (if r = 0 then .inf s else if r = 1 then .zero else if r = 2 then .inf false else .inf true, 0)
         else if s && r != 0 then (.nan, flInv)
         else match tb.builtin with
           | some b => (builtinValue b x, 0)
           | none =>
             let l := leadOf m e
             if r = 0 ∨ r = 3 then
               let y : Num := .fin false m (e - l)
               let q := segmentOf y.key ((y.minus one).scale 8)
               let p := tb.poly q.1 q.2
               if r = 0 then (let v := p.scale (-l); (if s then v.neg else v, 0))
               else (roundSig 24 (p.plus (roundSig 24 ((Num.ofInt l).times (f32 tb.clog)))), 0)
             else
               let ev := if l % 2 = 0 then l else l - 1
               let y : Num := .fin false m (e - ev)
               -- 256(m - 1) is exact; its third is rounded once to FP32
               let q := segmentOf y.key (rnd32 cvt (divNum ((y.minus one).scale 8) (.fin false 3 0)))
               ((tb.poly q.1 q.2).scale (if r = 1 then ev / 2 else -(ev / 2)), 0)
       | .nan => (.nan, flInv))

/-- The fixed exponential evaluator exp_w (R206): 24 significant bits, within 2^-22, +0 below 2^-510. -/
def expW (x : Num) : Num :=
  match x with
  | .nan => .nan
  | .inf s => if s then .zero else .inf false
  | _ =>
    if ltNum x (.fin true 400 0) then .zero
    else
      let f := expAny x
      if ltNum f (.fin false 1 (-510)) then .zero
      else
        let r := roundSig 24 (nearRel 13 x.key 22 f)
        let far := ltNum (f.scale (-22)) (r.minus f).abs
        if far || ltNum r (.fin false 1 (-510)) then roundSig 24 f else r

/-- The fixed reciprocal evaluator (R197): within 2^-22 of 1/x. -/
def recipW (x : Num) : Num :=
  match x with
  | .nan => .nan
  | .inf s => .fin s 0 0
  | .fin s m _ => if m = 0 then .inf s else nearRel 14 x.key 22 (divNum one x)

/-- The fixed reciprocal square root evaluator (R197, R204): within 2^-22; +∞ at 0. -/
def rsqrtW (x : Num) : Num :=
  match x with
  | .nan => .nan
  | .inf s => if s then .nan else .zero
  | .fin s m e => if m = 0 then .inf false else if s then .nan else nearRel 15 x.key 22 (divNum one (sqrtApprox m e))

end Sys2Proof.Machine
end

