-- ==== Sys2Proof/Machine/Store.lean ====
section
/-! DEFINITION. The stores of a core: the scratchpad (R180-R184), the accumulator store (R177-R179), and runs in them (R141,
R164, R188). -/

namespace Sys2Proof.Machine

/-- The bytes of the scratchpad from a byte offset: a sector whose valid bit is clear reads as zeros (R183). -/
def CoreSt.spadBytes (k : CoreSt) (off n : Nat) : List Byte :=
  (((linesOf off n).flatMap fun l => bytesLE 64 (tget k.spad l {}).data.toNat).drop (off % 64)).take n

/-- The first sector of a range that is uncorrectable or carries the poison mark (R184). -/
def CoreSt.spadBad (k : CoreSt) (off n : Nat) : Option Nat := (linesOf off n).find? fun l => (tget k.spad l {}).bad

/-- Writes whole sectors from a byte offset that is a multiple of 64 (R181, R183). -/
def CoreSt.spadWrite (k : CoreSt) (off : Nat) (bs : List Byte) : CoreSt :=
  { k with spad := (List.range ((bs.length + 63) / 64)).foldl (fun t i =>
      tset t (off / 64 + i) { data := BitVec.ofNat 512 (leNat ((bs.drop (64 * i)).take 64)), bad := false }) k.spad }

/-- Element `i` of a run in its bytes (R141). -/
def runElem (f : Nat) (bs : List Byte) (i : Nat) : Nat :=
  let b := fmtBits f * i
  fld (leAt bs (b / 8) ((fmtBits f + 7) / 8)) (b % 8) (fmtBits f)

/-- The first `n` elements of a run. -/
def runElems (f n : Nat) (bs : List Byte) : List Nat := (List.range n).map (runElem f bs)

/-- The bytes of a run of element patterns (R141): INT4 is no destination, so elements are whole bytes. -/
def runOf (f : Nat) (xs : List Nat) : List Byte := xs.flatMap fun x => bytesLE (fmtBits f / 8) x

/-- Writes bytes from any byte offset; the rest of the sectors they stand in keeps its contents (R181, R194). -/
def CoreSt.spadPatch (k : CoreSt) (off : Nat) (bs : List Byte) : CoreSt :=
  let lo := off / 64 * 64
  let n := roundUp (off - lo + bs.length) 64
  k.spadWrite lo (patch (k.spadBytes lo n) (off - lo) bs)

/-- Rows of 512 bytes that `n` bytes occupy. -/
def rowsOf (n : Nat) : Nat := (n + 511) / 512

/-- Two runs of rows overlap. -/
def rowsMeet (a n b m : Nat) : Bool := decide (a < b + m) && decide (b < a + n) && n != 0 && m != 0

/-- An accumulator entry: clear valid bits read as +0 (R177). -/
def CoreSt.accGet (k : CoreSt) (row col : Nat) : BitVec 48 :=
  if thas k.accValid (4 * row + col / 32) then tget k.acc (128 * row + col) 0 else 0

/-- Writes an accumulator entry: its row-and-group becomes valid, and where it was not, the rest of the group reads +0 from
then on; its error mark goes (R177, R179). -/
def CoreSt.accSet (k : CoreSt) (row col : Nat) (v : BitVec 48) : CoreSt :=
  let old := if thas k.accValid (4 * row + col / 32) then k.acc else k.acc.filter fun e => e.1 / 32 != 4 * row + col / 32
  { k with acc := tset old (128 * row + col) v, accValid := tset k.accValid (4 * row + col / 32) (),
           accBad := tdel k.accBad (128 * row + col) }

/-- The first entry of rows and columns that reads as uncorrectable (R179). -/
def CoreSt.accBadIn (k : CoreSt) (row m : Nat) (cols : List Nat) : Option (Nat × Nat) :=
  (List.range m).findSome? fun i => cols.findSome? fun c =>
    if thas k.accBad (128 * (row + i) + c) then some (row + i, c) else none

/-- A run of elements (R188). -/
def runAt (acc : Bool) (row f n : Nat) : RunAt :=
  if acc then { acc := true, start := 128 * row, len := n, bits := 48 }
  else { acc := false, start := 512 * row, len := runBytes f n, bits := fmtBits f }

/-- Does a run pass its last row (R188)? -/
def RunAt.past (r : RunAt) : Bool := if r.acc then decide (128 * 256 < r.start + r.len) else decide (512 * 768 < r.start + r.len)

/-- Do two runs overlap? -/
def RunAt.meets (r q : RunAt) : Bool := r.acc == q.acc && decide (r.start < q.start + q.len) && decide (q.start < r.start + r.len)

/-- The part of a run from element `lo` on, `n` elements. -/
def RunAt.part (r : RunAt) (lo n : Nat) : RunAt :=
  if r.acc then { r with start := r.start + lo, len := n }
  else { r with start := r.start + r.bits * lo / 8, len := (r.bits * n + 7) / 8 }

/-- The first uncorrectable sector or entry of some runs: whether it is an entry, and its number. -/
def CoreSt.runsBad (k : CoreSt) (runs : List RunAt) : Option (Bool × Nat) :=
  runs.findSome? fun r =>
    if r.acc then ((List.range r.len).find? fun i => thas k.accBad (r.start + i)).map fun i => (true, r.start + i)
    else (k.spadBad r.start r.len).map fun x => (false, x)

/-- The patterns of elements `lo` to `lo + n - 1` of a run. -/
def CoreSt.runPats (k : CoreSt) (acc : Bool) (row f lo n : Nat) : List Nat :=
  if acc then (List.range n).map fun i => (k.accGet (row + (lo + i) / 128) ((lo + i) % 128)).toNat
  else runElems f n (k.spadBytes (512 * row + runBytes f lo) (runBytes f n))

/-- Writes the patterns of elements of a run from element `lo` on. -/
def CoreSt.putRun (k : CoreSt) (acc : Bool) (row f lo : Nat) (xs : List Nat) : CoreSt :=
  if acc then (List.range xs.length).foldl (fun k i =>
    k.accSet (row + (lo + i) / 128) ((lo + i) % 128) (BitVec.ofNat 48 (xs.getD i 0))) k
  else k.spadPatch (512 * row + runBytes f lo) (runOf f xs)

/-- What an aborted operation leaves of a place that it names (R179, R194): each sector of 64 bytes, or each entry, as it was
or with a free value by the number `n`. After a matrix operation an entry that reads as uncorrectable stays so. -/
def CoreSt.scramble (k : CoreSt) (n : Nat) (keepBad : Bool) (r : RunAt) : CoreSt :=
  if r.acc then (List.range r.len).foldl (fun k i =>
    let a := r.start + i
    if keepBad && thas k.accBad a || Config.freeNat 8 [n, a] % 2 == 0 then k
    else k.accSet (a / 128) (a % 128) (BitVec.ofNat 48 (freeAcc (Config.freeNat 9 [n, a])))) k
  else (linesOf r.start r.len).foldl (fun k l =>
    let lo := max r.start (64 * l)
    if Config.freeNat 2 [n, l] % 2 = 0 then k
    else k.spadPatch lo (bytesLE (min (r.start + r.len) (64 * l + 64) - lo) (Config.freeNat 3 [n, l]))) k

/-- The places of an aborted operation. -/
def State.scramble (s : State) (c : Nat) (keepBad : Bool) (rs : List RunAt) : State :=
  let f := s.fresh
  f.2.modCore c fun k => rs.foldl (fun k r => k.scramble f.1 keepBad r) k

/-- The row-and-groups that `n` entries from `a` touch. -/
def groupsOf (a n : Nat) : List Nat := if n = 0 then [] else (List.range ((a + n - 1) / 32 - a / 32 + 1)).map fun i => a / 32 + i

/-- Marks the sectors or row-and-groups of a run with the class that writes them (R254; log entry 26). -/
def CoreSt.claim (k : CoreSt) (lc : Bool) (r : RunAt) : CoreSt :=
  let mark := fun (t : Tab Unit) (xs : List Nat) => xs.foldl (fun t x => if lc then tset t x () else tdel t x) t
  if r.acc then { k with lcAcc := mark k.lcAcc (groupsOf r.start r.len) }
  else { k with lcSpad := mark k.lcSpad (linesOf r.start r.len) }

end Sys2Proof.Machine
end

