-- ==== Sys2Proof/Machine/Lanes.lean ====
section
/-! DEFINITION. The lanes of a core: what the vector engine (R188-R194, R203-R211), the SFU engine (R195-R201) and
compare-and-count (R185-R187) do to a run of elements, from one pre-emption point to another (R213, R250). -/

namespace Sys2Proof.Machine

/-- A vector descriptor in its fields (R190). -/
structure VuDesc where
  recSlot : Nat := 0
  rsv : Nat := 0
  first : Bool := false
  aRow : Nat := 0
  bRow : Nat := 0
  oRow : Nat := 0
  maskEn : Bool := false
  bScalar : Bool := false
  aAcc : Bool := false
  oAcc : Bool := false
  afmt : Nat := 0
  bfmt : Nat := 0
  ofmt : Nat := 0
  cvt : Nat := 0
  op : Nat := 0
  scalar : BitVec 32 := 0
  len : Nat := 0
  cRow : Nat := 0
  deriving DecidableEq, Repr

/-- The fields of the 128 bits (R190). -/
def vuDecode (w : Nat) : VuDesc :=
  { recSlot := fld w 0 4, rsv := fld w 4 5 + fld w 126 2, first := bitN w 9, aRow := fld w 10 10, bRow := fld w 20 10,
    oRow := fld w 30 10, maskEn := bitN w 40, bScalar := bitN w 41, aAcc := bitN w 42, oAcc := bitN w 43,
    afmt := fld w 44 4, bfmt := fld w 48 4, ofmt := fld w 52 4, cvt := fld w 56 2, op := fld w 58 6,
    scalar := BitVec.ofNat 32 (fld w 64 32), len := fld w 96 20, cRow := fld w 116 10 }

/-- Does the operation read run B as elements or scalar (R191)? -/
def VuDesc.hasB (d : VuDesc) : Bool := (decide (d.op ≤ 5)) || d.op == 8 || d.op == 9 || d.op == 15 || d.op == 16

/-- Is run B read? -/
def VuDesc.runB (d : VuDesc) : Bool := d.hasB && !d.bScalar

/-- Is run A read? -/
def VuDesc.runA (d : VuDesc) : Bool := d.op != 11

/-- Does it read or write a record? -/
def VuDesc.usesRec (d : VuDesc) : Bool := decide (14 ≤ d.op) && decide (d.op ≤ 18)

/-- Does it write a result run? -/
def VuDesc.hasOut (d : VuDesc) : Bool := d.op != 14 && d.op != 17

/-- Elements of the result run. -/
def VuDesc.outLen (d : VuDesc) : Nat := if d.op = 12 ∨ d.op = 13 then 1 else d.len

/-- A row operation decodes exactly (R189). -/
def VuDesc.rowOp (d : VuDesc) : Bool := decide (14 ≤ d.op)

/-- The input runs of an operation (R191), mask included. -/
def VuDesc.inputs (d : VuDesc) : List RunAt :=
  (if d.runA then [runAt d.aAcc d.aRow d.afmt d.len] else []) ++
    (if d.runB then [runAt false d.bRow d.bfmt d.len] else []) ++
    (if d.op = 3 ∧ !d.oAcc then [runAt false d.cRow d.ofmt d.len] else []) ++
    (if d.maskEn then [{ acc := false, start := 512 * d.bRow, len := (d.len + 7) / 8, bits := 1 }] else [])

/-- The result run. -/
def VuDesc.outRun (d : VuDesc) : RunAt := runAt d.oAcc d.oRow d.ofmt d.outLen

/-- Byte offset of the record slot. -/
def VuDesc.recOff (d : VuDesc) : Nat := 512 * d.cRow + 32 * d.recSlot

/-- The record slot as a run. -/
def VuDesc.recRun (d : VuDesc) : RunAt := { start := d.recOff, len := 32 }

/-- A field that the operation does not use and that is not 0 (R191, R193, R208). -/
def VuDesc.unusedSet (d : VuDesc) : Bool :=
  let mask := d.op == 17 || d.op == 18
  (!d.runA && (d.afmt != 0 || d.aRow != 0 || d.aAcc)) ||
    (!d.runB && d.bfmt != 0) || (!d.runB && !(mask && d.maskEn) && d.bRow != 0) || (!d.hasB && d.bScalar) ||
    (!(d.op == 11 || d.op == 15 || d.op == 16 || (d.hasB && d.bScalar)) && d.scalar != 0) ||
    (!mask && d.maskEn) || (!(d.op == 14 || d.op == 17) && d.first) || (!d.usesRec && d.recSlot != 0) ||
    (!(d.usesRec || (d.op == 3 && !d.oAcc)) && d.cRow != 0) ||
    (!d.hasOut && (d.ofmt != 0 || d.cvt != 0 || d.oRow != 0 || d.oAcc))

/-- The checks of R193 that need only the descriptor. -/
def VuDesc.bad (d : VuDesc) : Bool :=
  decide (18 < d.op) || decide (2 ≤ d.cvt) || d.rsv != 0 || d.unusedSet || d.len == 0 || decide (393216 < d.len) ||
    (d.runA && !fmtVector d.afmt) || (d.runB && !fmtVector d.bfmt) || (d.hasOut && !fmtDest d.ofmt) ||
    (d.aAcc && d.afmt != 11) || (d.oAcc && d.ofmt != 11) ||
    (d.inputs.any RunAt.past) || (d.hasOut && d.outRun.past) || (d.usesRec && d.recRun.past) ||
    (d.hasOut && (d.inputs.any fun r => d.outRun.meets r && !(r.start == d.outRun.start && r.bits == d.outRun.bits))) ||
    (d.usesRec && ((d.inputs.any d.recRun.meets) || (d.hasOut && d.outRun.meets d.recRun))) ||
    ((d.op == 15 || d.op == 16) &&
      (match f32 d.scalar with
       | .fin s m _ => s && m != 0
       | _ => true)) ||
    (d.first && decide (2 ^ 24 < d.len))

/-- A row operation's decoding: exact, but ACC rounded to 24 significant bits (R189). -/
def decodeRow (f x : Nat) : Num := if f = 11 then roundSig 24 (decodeAcc x) else decodeNum f x

/-- Exact result of OP 0-9 for decoded operands, with its flags (R150, R191, R192). -/
def vuScalarOp (op : Nat) (a b c : Num) : Num × Nat :=
  let nan := a.isNan || b.isNan
  let flag := fun (r : Num × Bool) => (r.1, invIf r.2)
  match op with
  | 0 => flag (addNum a b)
  | 1 => flag (addNum a b.neg)
  | 2 => flag (mulNum a b)
  | 3 => let m := mulNum a b; let r := addNum m.1 c; (r.1, invIf (m.2 || r.2))
  | 4 => (minNum a b, invIf nan)
  | 5 => (maxNum a b, invIf nan)
  | 6 => (a.abs, invIf a.isNan)
  | 7 => (a.neg, invIf a.isNan)
  | 8 => (if !nan && ltNum a b then one else .zero, invIf nan)
  | _ => (if !nan && eqNum a b then one else .zero, invIf nan)

/-- OR of flag sets. -/
def orFlags (fs : List Nat) : Nat := fs.foldl (· ||| ·) 0

/-- Pattern of a value in ACC. -/
def accPat (x : Num) : Nat := (encodeNum fAcc 1 x).1

/-- The result patterns and flags of elements `lo` to `lo + n - 1` of OP 0-11 (R191). -/
def CoreSt.vuElems (k : CoreSt) (d : VuDesc) (lo n : Nat) : List Nat × Nat :=
  let pa := if d.runA then k.runPats d.aAcc d.aRow d.afmt lo n else []
  let dec := fun (f x : Nat) => toFp32 f d.cvt x
  let fin := fun (rs : List (Num × Nat)) =>
    let es := rs.map fun r => let e := encodeNum d.ofmt d.cvt r.1; (e.1, r.2 ||| e.2)
    (es.map (·.1), orFlags (es.map (·.2)))
  match d.op with
  | 10 => fin (pa.map fun x => (decodeNum d.afmt x, 0))
  | 11 => fin (List.replicate n (f32 d.scalar, 0))
  | _ =>
    let pb := if d.runB then k.runPats false d.bRow d.bfmt lo n else []
    let pc := if d.op = 3 then k.runPats d.oAcc (if d.oAcc then d.oRow else d.cRow) d.ofmt lo n else []
    fin ((List.range n).map fun i =>
      let a := dec d.afmt (pa.getD i 0)
      let b := if !d.hasB then (Num.zero, 0) else if d.bScalar then (f32 d.scalar, 0) else dec d.bfmt (pb.getD i 0)
      let c := if d.op = 3 then dec d.ofmt (pc.getD i 0) else (Num.zero, 0)
      let r := vuScalarOp d.op a.1 b.1 c.1
      (r.1, r.2 ||| a.2 ||| b.2 ||| c.2))

/-- RSUM and RMAX over elements `lo` to `lo + n - 1`, from what the elements before gave (R191, R213): the sum in ACC, or the
largest element. -/
def CoreSt.vuReduce (k : CoreSt) (desc : BitVec 128) (lo n : Nat) (part : BitVec 48) : Num × Nat :=
  let d := vuDecode desc.toNat
  let xs := (k.runPats d.aAcc d.aRow d.afmt lo n).map (toFp32 d.afmt d.cvt)
  let fl := orFlags (xs.map (·.2))
  if d.op = 12 then
    let r := accSum 3 [(desc.toNat : Int), (k.width : Int), (lo : Int)] (decodeAcc part.toNat) (xs.map (·.1))
    (r.1, fl ||| invIf r.2)
  else ((xs.map (·.1)).foldl maxNum (decodeNum fFp32 part.toNat), fl ||| invIf (xs.any fun x => x.1.isNan))

/-- A record before its row's first element: STATS (R203). -/
def statsEmpty : List Byte := zeros 18 ++ bytesLE 6 (accPat (.inf false)) ++ bytesLE 6 (accPat (.inf true)) ++ zeros 2

/-- The exact sums of a STATS record that nothing follows: its own values, as one term each (R149). -/
def statsBook (rec_ : List Byte) : RowBook :=
  let s := decodeAcc (leAt rec_ 6 6)
  { bytes := BitVec.ofNat 256 (leNat rec_), sum := s.dyadic, mag := s.abs.dyadic, sq := (decodeAcc (leAt rec_ 12 6)).dyadic }

/-- STATS: the record and the exact sums after more elements, and INV for a NaN element (R203). SUM and SUMSQ meet the bound of
R150 for all N elements of the row, whatever the operations that built it. -/
def statsRecord (desc : BitVec 128) (width : Nat) (old : List Byte) (bk : RowBook) (xs : List Num) : List Byte × RowBook × Nat :=
  let n := leAt old 0 4 + xs.length
  let ok := xs.filter fun x => !x.isNan
  let nan := ok.length != xs.length
  let key := [(desc.toNat : Int), (width : Int), (n : Int)]
  let sqs := ok.map fun x => roundSig 34 (x.times x)
  let all := fun (d : Dyadic) (ys : List Num) => ys.foldl (fun a y => dyAdd a y.dyadic) d
  let bk1 := { bk with
    sum := all bk.sum ok
    mag := all bk.mag (ok.map Num.abs)
    sq := all bk.sq sqs }
  let groups := (n + 3) / 4
  let sum := if (decodeAcc (leAt old 6 6)).isFin && ok.all Num.isFin then sumWithin 4 key groups bk1.sum bk1.mag
    else (accSum 4 key (decodeAcc (leAt old 6 6)) ok).1
  let sq := if (decodeAcc (leAt old 12 6)).isFin && sqs.all Num.isFin then sumWithin 5 key groups bk1.sq bk1.sq
    else (accSum 5 key (decodeAcc (leAt old 12 6)) sqs).1
  let mn := ok.foldl (fun a x => if ltNum x a then x else a) (decodeAcc (leAt old 18 6))
  let mx := ok.foldl (fun a x => if ltNum a x then x else a) (decodeAcc (leAt old 24 6))
  let rec1 := bytesLE 4 n ++ bytesLE 2 (leAt old 4 2 % 2 ||| b2n nan) ++ bytesLE 6 (accPat sum) ++ bytesLE 6 (accPat sq) ++
    bytesLE 6 (accPat mn) ++ bytesLE 6 (accPat mx) ++ zeros 2
  (rec1, { bk1 with bytes := BitVec.ofNat 256 (leNat rec1) }, invIf nan)

/-- The quotient of a record's sum by N; infinities and NaNs pass. -/
def recMean (x : Num) (n : Nat) : Num :=
  match x with
  | .fin _ 0 _ => x
  | .fin _ _ _ => divNum x (.fin false n 0)
  | y => y

/-- The larger of a value and 0; a NaN stays. -/
def Num.floor0 (x : Num) : Num := if x.isNan then x else if ltNum x .zero then .zero else x

/-- LNORM and RNORM (R204): every operation that names the record forms the same mean, variance and reciprocal root. The
variance lies within 2^-24 of the record's, which with the mean's 2^-24 and the sums' own bound meets R204. -/
def normResults (layer : Bool) (cvt ofmt : Nat) (eps : Num) (rec_ : List Byte) (as gs : List Num) : List Nat × Nat :=
  let n := leAt rec_ 0 4
  if bitN (leAt rec_ 4 2) 0 ∨ n = 0 then (as.map fun _ => (encodeNum ofmt cvt .nan).1, flInv)
  else
    let key := (n : Int) :: (leAt rec_ 6 6 : Int) :: [(leAt rec_ 12 6 : Int)]
    let m2 := recMean (decodeAcc (leAt rec_ 12 6)) n
    let mu := if layer then nearRel 16 key 24 (recMean (decodeAcc (leAt rec_ 6 6)) n) else .zero
    let v := if layer then (nearNum 17 key (m2.minus (mu.times mu)) (m2.abs.scale (-24))).floor0
      else nearNum 17 key m2 (m2.abs.scale (-24))
    let r := rsqrtW (v.plus eps)
    let es := (List.range as.length).map fun i =>
      let d := addNum (as.getD i .zero) mu.neg
      let d1 := toF32 cvt d.1
      let p := mulNum d1.1 r
      let p1 := toF32 cvt p.1
      let q := mulNum p1.1 (gs.getD i one)
      let q1 := toF32 cvt q.1
      let e := encodeNum ofmt cvt q1.1
      (e.1, orFlags [invIf d.2, d1.2, invIf p.2, p1.2, invIf q.2, q1.2, e.2])
    (es.map (·.1), orFlags (es.map (·.2)))

/-- MASK_NEG, OVF_EDGE and LOW_EDGE (R205). -/
def maskNeg : Num := .fin true 1 400
def ovfEdge : Num := decodeNum fFp32 0x43B16666
def lowEdge : Num := decodeNum fFp32 0xC3A00000

/-- The roles of R205. -/
inductive SmRole where
  | masked | nan | above | ordinary
  deriving DecidableEq, Repr

/-- The role of an element (R205). -/
def smRole (mask : Bool) (v : Num) : SmRole :=
  if mask || (!v.isNan && !ltNum maskNeg v) then .masked
  else if v.isNan then .nan else if ltNum ovfEdge v then .above else .ordinary

/-- The soft-maximum state record in its fields (R207). -/
structure SmRec where
  t : Nat := 0
  u : Nat := 0
  k : Nat := 0
  nan : Bool := false
  sum : Num := .zero
  slow : Num := .zero
  xmax : Num := .inf true
  deriving DecidableEq, Repr

/-- Reads a record. -/
def smRead (b : List Byte) : SmRec :=
  { t := leAt b 0 4, u := leAt b 4 4, k := leAt b 8 4, nan := bitN (leAt b 12 2) 0, sum := decodeAcc (leAt b 14 6),
    slow := decodeAcc (leAt b 20 6), xmax := decodeAcc (leAt b 26 6) }

/-- Writes a record. -/
def SmRec.bytes (r : SmRec) : List Byte :=
  bytesLE 4 r.t ++ bytesLE 4 r.u ++ bytesLE 4 r.k ++ bytesLE 2 (b2n r.nan) ++ bytesLE 6 (accPat r.sum) ++
    bytesLE 6 (accPat r.slow) ++ bytesLE 6 (accPat r.xmax)

/-- Everything of R208 but SUM, element by element; the terms of SUM are gathered for one grouped sum (R148). -/
def smStep (key : List Int) (a : SmRec × List Num) (e : Num × Bool) : SmRec × List Num :=
  let r := { a.1 with t := a.1.t + 1 }
  match smRole e.2 e.1 with
  | .masked => (r, a.2)
  | .nan => ({ r with nan := true }, a.2)
  | .above => ({ r with u := r.u + 1, xmax := maxNum r.xmax e.1, k := r.k + 1 }, a.2)
  | .ordinary =>
    let old := r.xmax
    let mx := maxNum old e.1
    let r1 := { r with u := r.u + 1, xmax := mx }
    let w := expW e.1
    if ltNum mx lowEdge then
      let step := key ++ [(r.t : Int)]
      let slow :=
        if ltNum old e.1 then
          let p := accSum 6 step .zero [r.slow.times (expW (old.minus e.1))]
          (accSum 7 step p.1 [one]).1
        else (accSum 7 step r.slow [expW (e.1.minus mx)]).1
      ({ r1 with slow := slow }, a.2 ++ [w])
    else (r1, a.2 ++ [w])

/-- The exact denominator of a row after one more element, in units of 2^-200: the sum of e^(x - XMAX) (R210). -/
def RowBook.smStep (bk : RowBook) (old mx x : Num) : RowBook :=
  let e := fun (y : Num) => fxOf (expAny y)
  { bk with sum :=
      { m := if ltNum old x then (if old.isFin then fxMul bk.sum.m (e (old.minus x)) else 0) + fxOne else bk.sum.m + e (x.minus mx)
        e := -200 } }

/-- SMAX_SUM: the record and the exact denominator after more elements (R208, R210). -/
def smSum (desc : BitVec 128) (width : Nat) (old : List Byte) (bk : RowBook) (es : List (Num × Bool)) : List Byte × RowBook :=
  let start := smRead old
  let key := [(desc.toNat : Int), (width : Int), (start.t : Int)]
  let a := es.foldl (smStep key) (start, [])
  let rec1 := SmRec.bytes { a.1 with sum := (accSum 8 key start.sum a.2).1 }
  let b := es.foldl (fun (b : RowBook × Num) e =>
    match smRole e.2 e.1 with
    | .ordinary => (b.1.smStep b.2 (maxNum b.2 e.1) e.1, maxNum b.2 e.1)
    | _ => b) (bk, start.xmax)
  (rec1, { b.1 with bytes := BitVec.ofNat 256 (leNat rec1) })

/-- A soft-maximum output before its conversion: the evaluators' product, or where it passes the bound of R210 for the row that
the record was built from, the exact value. -/
def smOutput (bk : Option RowBook) (low : Bool) (r : SmRec) (x p : Num) : Num :=
  match bk with
  | none => p
  | some b =>
    let y := divNum (ofFx (fxOf (expAny (x.minus r.xmax)))) (dyNum b.sum)
    let rel : Num := if low then (Num.fin false 1 (-20)).plus (.fin false r.u (-32)) else (Num.fin false 1 (-20)).plus (.fin false ((r.u + 3) / 4) (-33))
    if p.isFin && !ltNum ((y.times rel).plus (.fin false 1 (-44))) (p.minus y).abs then p else y

/-- SMAX_NORM (R209, R210). -/
def smNorm (cvt ofmt : Nat) (bk : Option RowBook) (r : SmRec) (es : List (Num × Bool)) : List Nat × Nat :=
  let enc := fun (x : Num) => encodeNum ofmt cvt x
  if r.nan then (es.map fun _ => (enc .nan).1, flInv)
  else if r.u = 0 then (es.map fun _ => (enc .zero).1, flEmpty)
  else if r.k ≠ 0 then
    let rs := es.map fun e => enc (if smRole e.2 e.1 = .above then ratNum false 1 r.k 0 else .zero)
    (rs.map (·.1), flOvf ||| orFlags (rs.map (·.2)))
  else
    let low := ltNum r.xmax lowEdge
    let rc := recipW (if low then r.slow else r.sum)
    let rs := es.map fun e =>
      match smRole e.2 e.1 with
      | .masked => enc .zero
      | .nan => enc .nan
      | _ =>
        let p := mulNum (expW (if low then e.1.minus r.xmax else e.1)) rc
        let x := enc (smOutput bk low r e.1 p.1)
        (x.1, x.2 ||| invIf p.2)
    (rs.map (·.1), orFlags (rs.map (·.2)))

/-- Elements `lo` to `lo + n - 1` of run A as a row operation reads them, with their mask bits (R187, R189, R205). -/
def CoreSt.rowElems (k : CoreSt) (d : VuDesc) (lo n : Nat) : List (Num × Bool) :=
  let ms := if d.maskEn then k.spadBytes (512 * d.bRow) ((lo + n + 7) / 8) else []
  ((List.range n).zip (k.runPats d.aAcc d.aRow d.afmt lo n)).map fun e => (decodeRow d.afmt e.2, bitN (leAt ms ((lo + e.1) / 8) 1) ((lo + e.1) % 8))

/-- The exact sums that stand beside the record of a slot, if they are its own. -/
def CoreSt.bookOf (k : CoreSt) (d : VuDesc) : Option RowBook :=
  (tfind k.books (d.recOff / 32)).filter fun b => b.known && b.bytes == BitVec.ofNat 256 (leNat (k.spadBytes d.recOff 32))

/-- An operation as the vector engine begins it (R203, R208, R213). -/
def CoreSt.vuBegin (k : CoreSt) (e : QEntry) : EngOp :=
  let d := vuDecode e.desc.toNat
  let found := k.spadBytes d.recOff 32
  let rec_ := if d.op = 14 then (if d.first then statsEmpty else found)
    else if d.op = 17 then (if d.first then SmRec.bytes {} else found) else []
  let own := if d.op = 14 then statsBook rec_ else { known := d.first }
  { q := e
    record := rec_
    part := if d.op = 13 then 0xFF800000 else 0
    outs := if d.hasOut then [d.outRun] else []
    book := if d.first then own else (k.bookOf d).getD own }

/-- Elements `pos` to `upto - 1` of a vector operation (R191, R203-R209). -/
def CoreSt.vuStep (k : CoreSt) (o : EngOp) (upto : Nat) : CoreSt × EngOp :=
  let d := vuDecode o.q.desc.toNat
  let n := upto - o.pos
  let o1 := { o with
    pos := upto
    done := decide (d.len ≤ upto) }
  let flag := fun (o : EngOp) (f : Nat) => { o with flags := o.flags ||| BitVec.ofNat 8 f }
  let out := fun (r : List Nat × Nat) => (k.putRun d.oAcc d.oRow d.ofmt o.pos r.1, flag o1 r.2)
  match d.op with
  | 14 =>
    let r := statsRecord o.q.desc k.width o.record o.book ((k.rowElems d o.pos n).map (·.1))
    (k, flag { o1 with record := r.1, book := r.2.1 } r.2.2)
  | 17 => let r := smSum o.q.desc k.width o.record o.book (k.rowElems d o.pos n); (k, { o1 with record := r.1, book := r.2 })
  | 18 => out (smNorm d.cvt d.ofmt (k.bookOf d) (smRead (k.spadBytes d.recOff 32)) (k.rowElems d o.pos n))
  | 15 => out (normResults true d.cvt d.ofmt (f32 d.scalar) (k.spadBytes d.recOff 32) ((k.rowElems d o.pos n).map (·.1))
      (if d.runB then (k.runPats false d.bRow d.bfmt o.pos n).map (decodeRow d.bfmt) else []))
  | 16 => out (normResults false d.cvt d.ofmt (f32 d.scalar) (k.spadBytes d.recOff 32) ((k.rowElems d o.pos n).map (·.1))
      (if d.runB then (k.runPats false d.bRow d.bfmt o.pos n).map (decodeRow d.bfmt) else []))
  | op =>
    if op = 12 ∨ op = 13 then
      let r := k.vuReduce o.q.desc o.pos n o.part
      if d.len ≤ upto then
        let e := encodeNum d.ofmt d.cvt r.1
        (k.putRun d.oAcc d.oRow d.ofmt 0 [e.1], flag o1 (r.2 ||| e.2))
      else (k, flag { o1 with part := BitVec.ofNat 48 (if op = 12 then accPat r.1 else (encodeNum fFp32 1 r.1).1) } r.2)
    else out (k.vuElems d o.pos n)

/-- An SFU descriptor in its fields (R196). -/
structure SfuDesc where
  aRow : Nat := 0
  oRow : Nat := 0
  oAcc : Bool := false
  aAcc : Bool := false
  afmt : Nat := 0
  ofmt : Nat := 0
  cvt : Nat := 0
  slot : Nat := 0
  param : BitVec 32 := 0
  len : Nat := 0
  rsv : Nat := 0
  deriving DecidableEq, Repr

/-- The fields of the 128 bits (R196). -/
def sfuDecode (w : Nat) : SfuDesc :=
  { aRow := fld w 10 10, oRow := fld w 30 10, oAcc := bitN w 44, aAcc := bitN w 45, afmt := fld w 46 4, ofmt := fld w 50 4,
    cvt := fld w 54 2, slot := fld w 56 4, param := BitVec.ofNat 32 (fld w 64 32), len := fld w 96 20,
    rsv := fld w 0 10 + fld w 20 10 + fld w 40 4 + fld w 60 4 + fld w 116 12 }

/-- The source run. -/
def SfuDesc.inRun (d : SfuDesc) : RunAt := runAt d.aAcc d.aRow d.afmt d.len

/-- The result run. -/
def SfuDesc.outRun (d : SfuDesc) : RunAt := runAt d.oAcc d.oRow d.ofmt d.len

/-- The table that HUB keeps for a slot: the one apply loaded, or the built-in default (R197). -/
def State.slotTable (s : State) (slot : Nat) : Option SfTable :=
  match tfind s.warp.tables slot with
  | some t => some t
  | none => builtinTable slot

/-- Rejection by R193 and R196. -/
def SfuDesc.bad (d : SfuDesc) (table : Option SfTable) : Bool :=
  decide (2 ≤ d.cvt) || d.rsv != 0 || d.len == 0 || decide (393216 < d.len) || !fmtVector d.afmt || !fmtDest d.ofmt ||
    (d.aAcc && d.afmt != 11) || (d.oAcc && d.ofmt != 11) || d.inRun.past || d.outRun.past ||
    (d.outRun.meets d.inRun && !(d.inRun.start == d.outRun.start && d.inRun.bits == d.outRun.bits)) ||
    !(f32 d.param).isFin || table.isNone

/-- One element: f(p × a), converted (R196, R199); the product of an infinity stays one. -/
def sfuElem (d : SfuDesc) (tb : SfTable) (x : Nat) : Nat × Nat :=
  let a := toFp32 d.afmt d.cvt x
  let p := if d.param = 0 then one else f32 d.param
  let m := mulNum p a.1
  let y := toF32 d.cvt m.1
  let r := tb.eval d.cvt y.1
  let e := encodeNum d.ofmt d.cvt r.1
  (e.1, orFlags [a.2, invIf m.2, y.2, r.2, e.2])

/-- Elements `pos` to `upto - 1` of an SFU operation (R196). -/
def CoreSt.sfuStep (k : CoreSt) (tb : SfTable) (o : EngOp) (upto : Nat) : CoreSt × EngOp :=
  let d := sfuDecode o.q.desc.toNat
  let rs := (k.runPats d.aAcc d.aRow d.afmt o.pos (upto - o.pos)).map (sfuElem d tb)
  (k.putRun d.oAcc d.oRow d.ofmt o.pos (rs.map (·.1)),
    { o with
      pos := upto
      done := decide (d.len ≤ upto)
      flags := o.flags ||| BitVec.ofNat 8 (orFlags (rs.map (·.2))) })

/-- A compare-and-count descriptor in its fields (R185). -/
structure CcDesc where
  op : Nat := 0
  etype : Nat := 0
  srcRow : Nat := 0
  elems : Nat := 0
  dstRow : Nat := 0
  mask : Bool := false
  sig : Bool := false
  rsv : Nat := 0
  key : Nat := 0
  deriving DecidableEq, Repr

/-- The fields of the 128 bits (R185). -/
def ccDecode (w : Nat) : CcDesc :=
  { op := fld w 0 4, etype := fld w 4 4, srcRow := fld w 8 10, elems := fld w 18 20, dstRow := fld w 38 10, mask := bitN w 48,
    sig := bitN w 49, rsv := fld w 50 14, key := fld w 64 64 }

/-- Bytes of an element type. -/
def etypeBytes (t : Nat) : Nat :=
  match t with
  | 0 => 1 | 4 => 1 | 1 => 2 | 5 => 2 | 8 => 2 | 9 => 2 | 3 => 8 | 7 => 8 | _ => 4

/-- Rejection by R185. -/
def CcDesc.bad (d : CcDesc) (add : Nat) : Bool :=
  let src := rowsOf (d.elems * etypeBytes d.etype)
  let dst := rowsOf ((d.elems + 7) / 8)
  decide (5 < d.op) || decide (10 < d.etype) || d.rsv != 0 || d.elems == 0 || decide (768 < d.srcRow + src) ||
    (if d.mask then decide (768 < d.dstRow + dst) || rowsMeet d.srcRow src d.dstRow dst else d.dstRow != 0) ||
    (d.sig && add == 0) || (decide (4 ≤ d.op) && etypeBytes d.etype == 8)

/-- An element or key in its type: an integer, or a floating value (R186). -/
def etypeNum (t x : Nat) : Num :=
  match t with
  | 8 => decodeNum fFp16 x
  | 9 => decodeNum fBf16 x
  | 10 => decodeNum fFp32 x
  | 4 => .ofInt (sx 8 x)
  | 5 => .ofInt (sx 16 x)
  | 6 => .ofInt (sx 32 x)
  | 7 => .ofInt (sx 64 x)
  | _ => .ofInt (x % 2 ^ (8 * etypeBytes t) : Nat)

/-- Does an element match (R186)? -/
def CcDesc.hit (d : CcDesc) (x : Nat) : Bool :=
  let w := 8 * etypeBytes d.etype
  let lo := if w = 64 then d.key else fld d.key 0 w
  let hi := if w = 64 then d.key else fld d.key 32 w
  let a := etypeNum d.etype x
  let l := etypeNum d.etype lo
  let h := etypeNum d.etype hi
  let nan := a.isNan || l.isNan
  match d.op with
  | 0 => eqNum a l
  | 1 => !eqNum a l
  | 2 => ltNum a l
  | 3 => !nan && !ltNum a l
  | 4 => !nan && !h.isNan && !ltNum a l && !ltNum h a
  | _ => x &&& hi == lo

/-- Packs match bits into bytes. -/
def bitBytes (bs : List Bool) : List Byte :=
  (chunks 8 bs.length bs).map fun b => BitVec.ofNat 8 (((List.range b.length).map fun i => if b.getD i false then 2 ^ i else 0).foldl (· + ·) 0)

/-- Where the mask of a compare-and-count operation goes, to the end of its last sector (R187). -/
def CcDesc.maskRun (d : CcDesc) : RunAt := { start := d.dstRow * 512, len := roundUp ((d.elems + 7) / 8) 64 }

/-- Elements `pos` to `upto - 1` of a compare-and-count operation (R186, R187): the mask of the rows tested, and the count so
far. The bits after the last element, to the end of its sector, are 0. -/
def CoreSt.ccStep (k : CoreSt) (o : EngOp) (upto : Nat) : CoreSt × EngOp :=
  let d := ccDecode o.q.desc.toNat
  let size := etypeBytes d.etype
  let n := upto - o.pos
  let hits := (chunks size n (k.spadBytes (d.srcRow * 512 + o.pos * size) (n * size))).map fun x => d.hit (leNat x)
  let count := (hits.filter id).length
  (if d.mask then k.spadWrite (d.dstRow * 512 + o.pos / 8) (padTo (roundUp ((n + 7) / 8) 64) (bitBytes hits)) else k,
    { o with
      pos := upto
      done := decide (d.elems ≤ upto)
      extra := if d.sig then o.extra + count else 0 })

/-- Elements of an operation of engine 1, 2 or 5. -/
def laneLen (eng : Nat) (desc : BitVec 128) : Nat :=
  if eng = 1 then (vuDecode desc.toNat).len else if eng = 2 then (sfuDecode desc.toNat).len else (ccDecode desc.toNat).elems

/-- Elements from one pre-emption point to the next: 4,096, or 64 source rows of compare-and-count (R213, R250). -/
def lanePoint (eng : Nat) (desc : BitVec 128) : Nat :=
  if eng = 5 then 32768 / etypeBytes (ccDecode desc.toNat).etype else 4096

/-- The runs that elements `lo` to `lo + n - 1` of an operation are read from. -/
def laneInputs (eng : Nat) (desc : BitVec 128) (lo n : Nat) : List RunAt :=
  if eng = 1 then
    let d := vuDecode desc.toNat
    ((d.inputs ++ if d.op = 3 ∧ d.oAcc then [d.outRun] else []).map fun r => r.part lo n) ++
      if d.op = 15 ∨ d.op = 16 ∨ d.op = 18 then [d.recRun] else []
  else if eng = 2 then [(sfuDecode desc.toNat).inRun.part lo n]
  else
    let d := ccDecode desc.toNat
    [{ start := d.srcRow * 512 + lo * etypeBytes d.etype, len := n * etypeBytes d.etype }]

/-- An operation of engine 1, 2 or 5 runs up to element `upto`. -/
def State.laneStep (s : State) (c eng : Nat) (o : EngOp) (upto : Nat) : CoreSt × EngOp :=
  let k := s.core c
  if eng = 1 then k.vuStep o upto
  else if eng = 2 then
    match s.slotTable (sfuDecode o.q.desc.toNat).slot with
    | some tb => k.sfuStep tb o upto
    | none => (k, o)
  else k.ccStep o upto

/-- An operation stops at one of the pre-emption points that it has not passed, its end among them (R213, R250): at which one is
a free value (place 104, log entry 16). With an uncorrectable input ahead it stops where it is. -/
def State.laneStop (s : State) (c eng : Nat) (o : EngOp) : EngOp × State :=
  let f := s.fresh
  let len := laneLen eng o.q.desc
  let ch := lanePoint eng o.q.desc
  let left := (len - o.pos + ch - 1) / ch
  let upto := min len (o.pos + ch * (Config.freeNat 104 [f.1] % (left + 1)))
  if o.done || upto == o.pos || ((s.core c).runsBad (laneInputs eng o.q.desc o.pos (upto - o.pos))).isSome then (o, f.2)
  else let r := s.laneStep c eng o upto; (r.2, f.2.modCore c fun _ => r.1)

end Sys2Proof.Machine
end

