-- ==== Sys2Proof/Machine/FlashMap.lean ====
section
/-! DEFINITION. The map (R307-R309) and the Millpond's level (R312): entries, map pages and their cache, the units that entries
name. -/

namespace Sys2Proof.Machine

/-- The map entry of a logical block (R307). -/
def State.mapEnt (s : State) (nsid lba : Nat) : MapEnt := tget s.flash.map (mapKey nsid lba) {}

/-- The 5 bytes of an entry (R307). -/
def MapEnt.bytes (e : MapEnt) : List Byte :=
  bytesLE 5 (b2n e.unreadable * 2 ^ 39 + b2n e.discarded * 2 ^ 38 + b2n e.millpond * 2 ^ 37 + b2n e.valid * 2 ^ 36 +
    if e.valid then e.unit % 2 ^ 36 else 0)

/-- Key of the map page of a logical block (R308). -/
def pageKey (nsid lba : Nat) : Nat := nsid * 2 ^ 40 + lba / 3276

/-- Logical blocks of a map page, by its key. -/
def pageLbas (key : Nat) : List (Nat × Nat) := (List.range 3276).map fun j => (key / 2 ^ 40, 3276 * (key % 2 ^ 40) + j)

/-- The 16 KiB of a map page (R308): its entries, and the CRC-32C over them. -/
def State.mapImage (s : State) (key : Nat) : List Byte :=
  let b := (pageLbas key).flatMap fun l => (s.mapEnt l.1 l.2).bytes
  b ++ bytesLE 4 (crc32c b)

/-- A map page is written to a one-bit block of the system area under the next write sequence number, and the directory names
it; where in the system area it stands is not stated (R308; log entry 25). -/
def State.writeBack (s : State) (key : Nat) : State :=
  let n := s.flash.mapSeq
  let page : MapPage := { ent := { valid := true, millpond := true, unit := Config.freeNat 107 [n] % 2 ^ 34 * 4 }, seq := n
                          image := BitVec.ofNat 131072 (leNat (s.mapImage key)) }
  s.modFlash fun q => { q with mapPages := tset q.mapPages key page, mapSeq := n + 1
                               cache := q.cache.map fun e => if e.1 = key then (e.1, false) else e }

/-- Every dirty page of the cache is written back. -/
def State.writeBackAll (s : State) : State := s.each (s.flash.cache.filter (·.2)) fun s e => s.writeBack e.1

/-- Map pages that the cache holds: MAP_CACHE less the save area and the directory (R309). -/
def State.cacheRoom (s : State) : Nat := max 1 (((s.flash.mapCacheGiB - 2) * 2 ^ 30 - 86 * 2 ^ 20) / 16384)

/-- Beyond its room the cache evicts the least recently used clean page; where every page is dirty, the least recently used is
written back first (R309). -/
def State.evictPage (s : State) : State :=
  if s.flash.cache.length ≤ s.cacheRoom then s
  else
    let old := (s.flash.cache.drop 1).reverse
    let s1 := match old.find? (fun e => !e.2), old with
      | none, e :: _ => s.writeBack e.1
      | _, _ => s
    match (s1.flash.cache.drop 1).reverse.find? fun e => !e.2 with
    | some e => s1.modFlash fun q => { q with cache := q.cache.filter fun x => x.1 != e.1 }
    | none => s1

/-- A lookup or change brings the page of a logical block into the cache; a miss counts at the die, which the model takes as the
page's number modulo 8 (R309; log entry 25). -/
def State.mapTouch (s : State) (nsid lba : Nat) (dirty : Bool) : State :=
  let key := pageKey nsid lba
  let was := tfind s.flash.cache key
  let s1 := if was.isSome then s else s.modFcd (lba / 3276 % 8) fun d => { d with misses := d.misses + 1 }
  (s1.modFlash fun q => { q with cache := (key, dirty || was == some true) :: q.cache.filter fun e => e.1 != key }).evictPage

/-- An entry takes a new value in the cached copy of its page. -/
def State.putEnt (s : State) (nsid lba : Nat) (e : MapEnt) : State :=
  (s.modFlash fun q => { q with map := if e = {} then tdel q.map (mapKey nsid lba) else tset q.map (mapKey nsid lba) e }).mapTouch nsid lba true

/-- An entry takes a new value; the unit it named is released, the unit it names counts in its block (R306, R307). -/
def State.setEnt (s : State) (nsid lba : Nat) (e : MapEnt) : State :=
  let old := s.mapEnt nsid lba
  let s1 := s.putEnt nsid lba e
  let s2 := if e.valid && !(old.valid && old.unit == e.unit) then s1.modBlk (unitBlock e.unit) fun b => { b with valid := b.valid + 1 } else s1
  if old.valid && !(e.valid && old.unit == e.unit) then s2.releaseUnit old.unit else s2

/-- VALID entries of every namespace. -/
def State.validEntries (s : State) : Nat := (s.flash.map.filter fun e => e.2.valid).length

/-- User capacity in logical blocks (R312, R326). -/
def userLbas : Nat := 58593750000

/-- Millpond capacity C by mode and use (R312). -/
def State.millCap (s : State) : Nat :=
  if s.flash.wbMode = 1 then
    (3 * 2 ^ 40 + 11 * 2 ^ 40 * (userLbas - s.validEntries) / userLbas) / 33554432 * 33554432
  else 3 * 2 ^ 40

/-- User bytes held in one-bit blocks (R312). -/
def State.millUsed (s : State) : Nat := (s.flash.map.filter fun e => e.2.valid && e.2.millpond).length * 4096

/-- The Millpond holds C: a write to it waits (R313). -/
def State.millFull (s : State) : Bool := decide (s.flash.capUser ≤ s.millUsed)

/-- The current run of an extent, by its first logical block (R316). -/
def State.runOfLba (s : State) (nsid lba : Nat) : Option RunSt := s.flash.runs.find? fun r => r.nsid == nsid && r.lba == lba && !r.moved

/-- The entries of an extent (R316), each naming its unit, or unmapped. -/
def RunSt.ents (r : RunSt) (mapped : Bool) : List (Nat × Nat × MapEnt) :=
  (List.range (4 * r.pages)).map fun i => (r.nsid, r.lba + i, if mapped then { valid := true, unit := r.unit + i } else {})

/-- The entries of an extent change in one journal record (R314, R317). -/
def State.remap (s : State) (r : RunSt) (mapped : Bool) : State :=
  (s.each (r.ents mapped) fun s e => s.putEnt e.1 e.2.1 e.2.2).journal (fcOf (r.unit / 2 ^ 30)) (.mapPiece (r.ents mapped))

/-- An extent is given back: its entries are unmapped, and its run is free once no descriptor or FETCH holds it (R317). -/
def State.freeExtent (s : State) (nsid lba : Nat) : State :=
  match s.runOfLba nsid lba with
  | some r => (s.remap r false).freeRunAt r.unit
  | none => s

end Sys2Proof.Machine
end

