-- ==== Sys2Proof/Machine/Retain.lean ====
section
/-! DEFINITION. What an index retains (R272-R274) and what a scan batch holds of the Quern engines (R274, R282). -/

namespace Sys2Proof.Machine

/-- Versions of a list, oldest first: an index is written with every list empty at CSN 1 (R296). -/
def IndexSt.versions (ix : IndexSt) (list : Nat) : List Version := tget ix.vers list [{}]

/-- An active snapshot reads a version (R272), or it is current. -/
def Version.needed (snaps : List Nat) (v : Version) : Bool :=
  match v.vend with
  | none => true
  | some e => snaps.any fun x => decide (v.vstart ≤ x) && decide (x < e)

/-- Every active snapshot is at or above a publication (R273). -/
def snapsPast (snaps : List Nat) (p : Nat) : Bool := snaps.all fun x => decide (p ≤ x)

/-- ID of an IDENT (R267). -/
def identId (i : BitVec 64) : Nat := fld i.toNat 0 56

/-- IDENT of a generation of an ID (R267). -/
def identOf (id gen : Nat) : BitVec 64 := BitVec.ofNat 64 (gen % 256 * 2 ^ 56 + id)

/-- Every insert copy retained anywhere: in the side list or in a version. -/
def IndexSt.copies (ix : IndexSt) : List (BitVec 64) :=
  (ix.side.map fun c => c.e.ident) ++ ix.vers.flatMap fun l => l.2.flatMap fun v => v.ents.map fun e => e.ident

/-- Drops what R273 no longer retains; the versions dropped. -/
def IndexSt.trim (ix : IndexSt) : IndexSt × List Version :=
  let snaps := ix.snaps.map (·.2)
  let gone := ix.vers.flatMap fun l => l.2.filter fun v => !v.needed snaps
  let side := ix.side.filter fun c => match c.merged with
    | some p => !snapsPast snaps p
    | none => true
  let tombs := ix.tombs.filter fun t => match t.merged with
    | some p => !snapsPast snaps p || side.any fun c => c.e.ident == t.ident
    | none => true
  let ix1 := { ix with vers := ix.vers.map (fun (l : Nat × List Version) => (l.1, l.2.filter fun v => v.needed snaps))
                       side := side, tombs := tombs }
  let ids := ix1.copies.map identId
  ({ ix1 with known := ix1.known.filter fun e => ids.contains e.1 }, gone)

/-- The extents of a version are given back (R274, R317). -/
def State.freeVersion (s : State) (nsid : Nat) (v : Version) : State :=
  s.each v.runs fun s r => (s.freeExtent nsid r.2.1).freeExtent nsid r.2.2

/-- Changes an index. -/
def State.modIndex (s : State) (h : Nat) (f : IndexSt → IndexSt) : State :=
  s.modSearch fun q => { q with indexes := modFirst (fun i => i.handle == h) f q.indexes }

/-- An index by its handle. -/
def State.index (s : State) (h : Nat) : Option IndexSt := s.search.indexes.find? fun i => i.handle == h

/-- Every index drops what it no longer retains. -/
def State.retain (s : State) : State :=
  s.each s.search.indexes fun s ix =>
    let r := ix.trim
    s.each r.2 (fun s v => s.freeVersion (ix.handle / 16) v) |>.modIndex ix.handle fun i => i.trim.1

/-- An index is freed with all its extents. -/
def State.freeIndex (s : State) (h : Nat) : State :=
  match s.index h with
  | none => s
  | some ix =>
    let s1 := s.each ix.vers fun s l => s.each l.2 fun s v => s.freeVersion (h / 16) v
    s1.modSearch fun q => { q with indexes := q.indexes.filter fun i => i.handle != h }

/-- Snapshot pins of a holder end (R271). -/
def State.unpin (s : State) (holder : Nat) : State :=
  (s.modSearch fun q => { q with indexes := q.indexes.map fun i => { i with snaps := i.snaps.filter fun e => e.1 != holder } }).retain

/-- The holder of a snapshot that a scan record pinned itself. -/
def batchHolder (tag : Nat) : Nat := 2 ^ 40 + tag

/-- NSID of a handle (R265). -/
def handleNs (h : Nat) : Nat := h / 16

/-- The namespace of a handle is a search namespace of a partition (R265). -/
def State.handleOk (s : State) (p h : Nat) : Bool :=
  match s.nsOf (handleNs h) with
  | some n => n.purpose == 2 && n.owner == p && n.attached && decide (h < 528)
  | none => false

/-- The index that a partition names (R265); one that is being dropped refuses new jobs (R296). -/
def State.indexFor (s : State) (p h : Nat) : Option IndexSt :=
  if s.handleOk p h then (s.index h).bind fun ix => if ix.dropping = 0 then some ix else none else none

/-- As indexFor, for the uses that need it open (R296). -/
def State.openIndex (s : State) (p h : Nat) : Option IndexSt :=
  (s.indexFor p h).bind fun ix => if ix.opened.isSome then some ix else none

/-- A SEARCH takes S = F of its index at admission and pins it (R271). -/
def State.pinSearch (s : State) (p id h : Nat) : State :=
  match s.openIndex p h with
  | some _ => s.modIndex h fun i => { i with snaps := i.snaps ++ [(id, i.csn)] }
  | none => s

/-- The snapshot that a holder pins. -/
def IndexSt.pinOf (ix : IndexSt) (holder : Nat) : Option Nat := (ix.snaps.find? fun e => e.1 == holder).map (·.2)

/-- A Quern engine. -/
def State.eng (s : State) (ch : Nat) : QuernEng := tget s.search.engs ch {}

/-- Changes a Quern engine. -/
def State.modEng (s : State) (ch : Nat) (f : QuernEng → QuernEng) : State :=
  s.modSearch fun q => { q with engs := tset q.engs ch (f (tget q.engs ch {})) }

/-- A scan batch. -/
def State.batch (s : State) (tag : Nat) : Option Batch := s.search.batches.find? fun b => b.tag == tag

/-- Changes a batch. -/
def State.modBatch (s : State) (tag : Nat) (f : Batch → Batch) : State :=
  s.modSearch fun q => { q with batches := modFirst (fun b => b.tag == tag) f q.batches }

/-- A batch is resident on the engine of a channel (R282). -/
def Batch.resident (b : Batch) (ch : Nat) : Bool := b.placed && !b.fetch && b.chans.contains ch && !b.reported.contains ch

/-- A batch leaves an engine: its slots are free, and a tombstone set that no other resident batch uses (R282). -/
def State.leaveEngine (s : State) (b : Batch) (ch : Nat) : State :=
  let used := s.search.batches.any fun x => x.tag != b.tag && x.index == b.index && x.resident ch
  (s.modEng ch fun g => { g with
    beFree := if b.lc then g.beFree else g.beFree + b.nq
    lcFree := if b.lc then g.lcFree + b.nq else g.lcFree
    slots := g.slots.filter fun x => x.1 != b.tag
    sets := if used then g.sets else g.sets.filter fun x => x.1 != b.index }).modBatch b.tag fun b => { b with reported := b.reported ++ [ch] }

/-- The runs of a descriptor are named no longer (R317). -/
def State.dropDesc (s : State) (d : ExtDesc) : State := (s.holdRun d.entryUnit false).holdRun d.recUnit false

/-- Descriptors of a batch leave an engine unscanned. -/
def State.dropDescs (s : State) (tag ch : Nat) : State :=
  let g := s.eng ch
  let s1 := s.modEng ch fun g => { g with queue := g.queue.filter fun d => d.tag != tag, pend := g.pend.filter fun d => d.tag != tag }
  s1.each ((g.queue ++ g.pend).filter fun d => d.tag == tag) fun s d => s.dropDesc d

/-- A batch ends: it leaves every engine, the runs it reads are held no more, its own pin ends, and nothing halts for it. -/
def State.dropBatch (s : State) (b : Batch) : State :=
  let s0 := s.each b.heldRuns fun s u => s.holdRun u false
  let s1 := s0.each (b.chans.filter b.resident) fun s ch => (s.dropDescs b.tag ch).leaveEngine b ch
  let s2 := s1.modSearch fun q => { q with batches := q.batches.filter fun x => x.tag != b.tag }
  let s3 := s2.modXl fun x => { x with halted := x.halted.filter fun h => h.batch != b.tag || h.batch == 0 }
  if b.ownPin then s3.unpin (batchHolder b.tag) else s3

end Sys2Proof.Machine
end

