-- ==== Sys2Proof/Machine/Job.lean ====
section
/-! DEFINITION. Jobs, tasks and completions (R82, R83, R96, R242-R248, R351-R356, R370): a completion entry, the end and
the stop of a job, the end and the abort of a task. -/

namespace Sys2Proof.Machine

/-- Program-fault causes (R79). -/
def cIllegal : Nat := 0x01
def cRsvField : Nat := 0x02
def cMisaligned : Nat := 0x03
def cSyncRange : Nat := 0x04
def cEngine : Nat := 0x05
def cDescriptor : Nat := 0x06
def cTrap : Nat := 0x07
def cTranslation : Nat := 0x08
def cPermission : Nat := 0x09
def cSpadAccess : Nat := 0x0A

/-- Thread states (R73). -/
def tFree : BitVec 4 := 0
def tReady : BitVec 4 := 1
def tExec : BitVec 4 := 2
def tEngine : BitVec 4 := 3
def tSync : BitVec 4 := 4
def tHalted : BitVec 4 := 5
def tSaved : BitVec 4 := 6

/-- The session page of a partition. -/
def State.page (s : State) (p : Nat) : WeftPage := tget s.host.pages p {}

/-- Changes the session page of a partition. -/
def State.modPage (s : State) (p : Nat) (f : WeftPage → WeftPage) : State :=
  s.modHost fun h => { h with pages := tset h.pages p (f (tget h.pages p {})) }

/-- Ring `r` of a page. -/
def WeftPage.ring (g : WeftPage) (r : Nat) : WeftRing := tget g.rings r {}

/-- Ring `r` of a partition. -/
def State.wring (s : State) (p r : Nat) : WeftRing := (s.page p).ring r

/-- Changes ring `r` of a partition. -/
def State.modWring (s : State) (p r : Nat) (f : WeftRing → WeftRing) : State :=
  s.modPage p fun g => { g with rings := tset g.rings r (f (g.ring r)) }

/-- Slots of a partition's rings. -/
def State.ringSlots (s : State) (p : Nat) : Nat := 2 ^ (s.ptn p).depthLog2

/-- Entries posted and not fetched: the level of a KIND 2 watermark (R101). -/
def State.ringOcc (s : State) (p r : Nat) : Nat :=
  let q := s.wring p r
  (q.sqTail + s.ringSlots p - q.sqHead) % s.ringSlots p

/-- The completion vector of a ring (R370). -/
def State.complVec (s : State) (p r : Nat) : Nat :=
  (s.ptn p).msixBase + (if r = 0 ∧ (s.ptn p).lcPermit then 0 else 1)

/-- The 16 bytes of a completion entry (R354). -/
def complBytes (tag sqHead status rflags : Nat) (phase : Bool) (downgrades result jobId : Nat) : List Byte :=
  bytesLE 2 tag ++ bytesLE 2 sqHead ++ bytesLE 1 status ++ bytesLE 1 rflags ++ bytesLE 1 (b2n phase) ++
    bytesLE 1 downgrades ++ bytesLE 4 result ++ bytesLE 4 jobId

/-- Writes a completion entry and raises its message as DB_CQ_IRQ of the ring says (R354, R370). Without an active
session no entry of the partition is completed (R240). -/
def State.complete (s : State) (p r tag status rflags downgrades result jobId : Nat) (noIrq : Bool) : State :=
  if !(s.page p).active then s else
  let q := s.wring p r
  let a := q.cqBase.toNat + 16 * q.cqTail
  let s1 := (s.paWrite a (complBytes tag q.sqHead status rflags q.phase downgrades result jobId)).chargeMem p a 16
  let next := (q.cqTail + 1) % s.ringSlots p
  let n := q.unsig + 1
  let fire := !noIrq && decide (max q.thresh.toNat 1 ≤ n)
  let s2 := s1.modWring p r fun q => { q with cqTail := next, phase := if next = 0 then !q.phase else q.phase,
                                              inflight := q.inflight - 1,
                                              unsig := if noIrq then q.unsig else if fire then 0 else n }
  if fire then s2.raise (s2.complVec p r) else s2

/-- Opcode of a job's entry (R357). -/
def Job.op (j : Job) : Nat := leAt j.entry 0 1

/-- A job of the table. -/
def State.job (s : State) (id : Nat) : Option Job := s.sh.jobs.find? fun j => j.id == id

/-- Changes a job of the table. -/
def State.modJob (s : State) (id : Nat) (f : Job → Job) : State :=
  s.modSh fun h => { h with jobs := modFirst (fun j => j.id == id) f h.jobs }

/-- A thread that holds a task: neither FREE nor SAVED, whose task stands in a frame (R73, R254). -/
def Thread.held (th : Thread) : Bool := th.st != tFree && th.st != tSaved

/-- Threads of a core that hold a task. -/
def CoreSt.busyThreads (k : CoreSt) : List Nat := (k.threads.filter fun e => e.2.held).map (·.1)

/-- Does any engine of a core hold an operation or an entry of a job? -/
def CoreSt.jobInEngines (k : CoreSt) (id : Nat) : Bool :=
  (k.queues.any fun e => e.2.any fun q => q.job == id) || (k.running.any fun e => e.2.q.job == id) ||
    (k.preempted.any fun e => e.2.q.job == id) || (k.streams.any fun e => e.2.busy && e.2.q.job == id) ||
    (k.strmPre.any fun e => e.2.busy && e.2.q.job == id) || (k.bobs.any fun b => b.q.job == id) ||
    ((k.rmd ++ k.rmdPre).any fun e => e.q.job == id)

/-- Entries of each engine queue (R81). -/
def queueCap (eng : Nat) : Nat := if eng = 3 ∨ eng = 4 ∨ eng = 5 then 8 else 16

/-- A best-effort descriptor leaves the last two entries to latency-critical ones (R249). -/
def CoreSt.queueRoom (k : CoreSt) (eng : Nat) (lc : Bool) : Bool :=
  let n := (tget k.queues eng []).length
  if lc then decide (n < queueCap eng) else decide (n < queueCap eng - 2)

/-- Threads that wait in ENGINE for space in an engine queue and now have it execute their ISSUE again (R81). -/
def CoreSt.roomWakes (k : CoreSt) : CoreSt :=
  { k with threads := k.threads.map fun e => match e.2.pend with
      | .queueSpace eng =>
        if e.2.st = tEngine ∧ k.queueRoom eng e.2.lc then (e.1, { e.2 with st := tReady, pend := .none }) else e
      | _ => e }

/-- Does a core hold best-effort work of a job? -/
def CoreSt.holdsJob (k : CoreSt) (id : Nat) : Bool :=
  (k.threads.any fun e => e.2.held && e.2.job == id && !e.2.lc) || k.jobInEngines id

/-- A core loses its holder when the holder's last task on it has ended and no operation of it is outstanding (R248). -/
def State.releaseCore (s : State) (c : Nat) : State :=
  let k := s.core c
  if k.holder ≠ 0 ∧ !k.holdsJob k.holder ∧ !k.saving then s.modCore c fun k => { k with holder := 0 } else s

/-- Removes a waiter from an object's FIFO and from the arrivals, with nothing consumed (R96). -/
def State.dropWaiter (s : State) (w : Waiter) : State :=
  s.modSync fun q => { q with
    objs := q.objs.map fun e => (e.1, { e.2 with fifo := e.2.fifo.filter (· != w) })
    arrivals := q.arrivals.filter fun a => match a.op with
      | .wait x => x != w
      | .test x => x != w
      | .cancel x => x != w
      | _ => true }

/-- A thread becomes FREE: no task, PC 0 (R73, R96); its flag word goes into the job's (R158) and stays in the register until
the next task starts (R159). -/
def State.freeThread (s : State) (c t : Nat) : State :=
  let th := s.thr c t
  let s1 := (s.dropWaiter (.thread c t)).modJob th.job fun j => { j with flags := j.flags ||| th.flags }
  let s2 := s1.modThr c t fun x => { flags := x.flags, opsFlagged := x.opsFlagged }
  (s2.modXl fun x => { x with halted := x.halted.filter fun h => h.agent != 64 * c + t }).modSync fun q =>
    { q with wakes := q.wakes.filter fun w => !(w.1 == c && w.2.1 == t) }

/-- MODE of a stream's descriptor (R227). -/
def strmMode (st : StreamSt) : Nat := fld st.q.desc.toNat 113 3

/-- The number by which a stream waits in the store: a latency-critical stream and a pre-empted best-effort one of the same
engine are told apart. -/
def strmWaiter (e : Nat) (lc : Bool) : Nat := e + 3 + if lc then 2 else 0

/-- GROUP of a stream's descriptor (R227). -/
def strmGroup (st : StreamSt) : Nat := fld st.q.desc.toNat 108 5

/-- Discards a job's entries that have not started and ends its operations at their next point, saving nothing and
signalling nothing (R83, R250). Bobbin transfers in flight complete unsignalled. -/
def CoreSt.dropJob (k : CoreSt) (id : Nat) : CoreSt :=
  { k with
    queues := k.queues.map fun e => (e.1, e.2.filter fun q => q.job != id)
    running := k.running.filter fun e => e.2.q.job != id
    preempted := k.preempted.filter fun e => e.2.q.job != id
    streams := k.streams.map fun e => (e.1, if e.2.q.job = id then {} else e.2)
    strmPre := k.strmPre.filter fun e => e.2.q.job != id
    rmd := k.rmd.filter fun e => e.q.job != id
    rmdPre := k.rmdPre.filter fun e => e.q.job != id
    rmdFirst := k.rmdFirst && k.rmd.any fun e => e.q.job != id
    bobs := (k.bobs.filter fun b => !(b.halted && b.q.job == id)).map fun b =>
      if b.q.job = id then { b with q := { b.q with job := 0, add := 0 } } else b }

/-- The operations of a stopped job end at their next points (R250), and what its matrix operations name is undefined (R179). -/
def State.endOps (s : State) (c id : Nat) : State :=
  let k := s.core c
  let mx := (((k.running ++ k.preempted).filter fun e => e.1 == 0 && e.2.q.job == id).flatMap fun e => e.2.outs) ++
    ((k.rmd ++ k.rmdPre).filter fun p => p.q.job == id).flatMap fun p => p.outs
  let s1 := if mx.isEmpty then s else s.scramble c true mx
  s1.each (k.running.filter fun e => e.1 != 0 && e.2.q.job == id) fun s e => (s.laneStop c e.1 e.2).2

/-- A partition's waiting objects a job's streams stand in. -/
def State.dropStreamWaiters (s : State) (id : Nat) : State :=
  s.each (List.range 64) fun s c => s.each ((s.core c).streams ++ (s.core c).strmPre) fun s e =>
    if e.2.busy && e.2.q.job == id then s.dropWaiter (.stream c (strmWaiter e.1 e.2.q.lc)) else s

/-- The threads of a core that show SAVED for a job are FREE: its image there is gone or restored (R73, R254, R255). -/
def State.unsave (s : State) (c job : Nat) : State :=
  s.modCore c fun k => { k with threads := k.threads.map fun e => (e.1, if e.2.st = tSaved ∧ e.2.job = job then {} else e.2) }

/-- Frees a job's entry and posts its completion (R245, R354). -/
def State.finishJob (s : State) (id status result : Nat) : State :=
  match s.job id with
  | none => s
  | some j =>
    let s0 := s.each (s.sh.frames.filter fun f => f.job == id) fun s f => s.unsave f.core id
    let s1 := s0.each (s.sh.tasks.filter fun t => t.job == id) fun s t => s.dropWaiter (.task t.handle)
    let s2 := s1.modSh fun h => { h with
      jobs := dropFirst (fun x => x.id == id) h.jobs
      tasks := h.tasks.filter fun t => t.job != id
      readyLc := h.readyLc.filter fun n => !(h.tasks.any fun t => t.handle == n && t.job == id)
      readyBe := h.readyBe.filter fun n => !(h.tasks.any fun t => t.handle == n && t.job == id)
      frames := h.frames.filter fun f => f.job != id }
    let s3 := s2.unpin id
    s3.complete j.ptn j.ring j.tag.toNat status j.flags.toNat j.downgrades result id j.noIrq

/-- A DROP whose index has no snapshot and no merge left frees the index and completes (R296). -/
def State.dropCheck (s : State) : State :=
  s.each s.search.indexes fun s ix =>
    if ix.dropping ≠ 0 ∧ ix.snaps.isEmpty ∧ ix.merging = 0 then (s.freeIndex ix.handle).finishJob ix.dropping stOk 0 else s

/-- A job ends: its completion is posted and what it alone held is let go. -/
def State.endJob (s : State) (id status result : Nat) : State :=
  let s1 := s.finishJob id status result
  let s2 := s1.each (List.range 64) fun s c => if (s.core c).holder = id then s.releaseCore c else s
  s2.dropCheck

/-- The multicast groups whose streams a job runs (R232). -/
def State.mcGroupsOf (s : State) (id : Nat) : List Nat :=
  (List.range 64).flatMap fun c =>
    (((s.core c).streams ++ (s.core c).strmPre).filter fun e => e.2.busy && e.2.q.job == id && (strmMode e.2 == 3 || strmMode e.2 == 4)).map
      fun e => strmGroup e.2

/-- The jobs with a stream of a multicast group. -/
def State.jobsInGroup (s : State) (g : Nat) : List Nat :=
  (List.range 64).flatMap fun c =>
    (((s.core c).streams ++ (s.core c).strmPre).filter fun e => e.2.busy && (strmMode e.2 == 3 || strmMode e.2 == 4) && strmGroup e.2 == g).map
      fun e => e.2.q.job

/-- The jobs that end with a job because they share multicast streams (R234): one round of the closure. -/
def State.mcSpread (s : State) (ids : List Nat) : List Nat :=
  ids.foldl (fun acc id => (s.mcGroupsOf id).foldl (fun acc g => (s.jobsInGroup g).foldl (fun acc j =>
    if acc.contains j then acc else acc ++ [j]) acc) acc) ids

/-- The resident image is unloaded: log and module notice 0x4404 with the cause (R477). -/
def State.unloadModel (s : State) (cause : Nat) : State :=
  if s.model.resident then
    let id := s.model.id
    ((s.modModel fun m => { m with resident := false, id := 0, len := 0, fmt := 0, mismatch := false, tables := [],
                                   st := if m.st = 1 then 0 else m.st }).log (Src.code .hub) 0x4404
      (bytesLE 8 id.toNat ++ bytesLE 2 cause)).notifyModule 0x4404 cause id
  else s

/-- RUN jobs that wait for a load go on once an image is resident, or complete with the load's status (R27). -/
def State.loadEnded (s : State) (status : Nat) : State :=
  if status = stOk then
    s.modSh fun h => { h with jobs := h.jobs.map fun j => if j.stage == .waitLoad then { j with stage := .running } else j }
  else s.each (s.sh.jobs.filter fun j => j.stage == .waitLoad) fun s j => s.finishJob j.id status 0

/-- A load ends with nothing newly resident (R226, R477): log 0x4402, STATE as the image that stays resident says. -/
def State.loadFailed (s : State) (status offset : Nat) : State :=
  let s1 := s.modModel fun m => { m with st := if m.resident then 1 else 0, loadJob := 0, loadImg := [], loadFmt := 0, loadUnload := false }
  (s1.log (Src.code (.weft (s.model.loadJob / 2 ^ 27))) 0x4402 (bytesLE 1 status ++ bytesLE 8 offset)).loadEnded status

/-- The entry a halted engine of a core works on (R119: STREAM0, STREAM1, Bobbin, compare-and-count). -/
def State.haltEntry (s : State) (h : HaltRec) : Option QEntry :=
  let k := s.core (h.agent / 64)
  let u := h.agent % 64
  if u < 34 then some (tget k.streams (u - 32) {}).q
  else if u = 34 then (k.bobs.find? (·.halted)).map (·.q)
  else (tget k.queues 5 []).head?

/-- Does a halted agent act for a job, as one of its core engines or for it in HUB (R119, R121)? -/
def State.haltOfJob (s : State) (id : Nat) (h : HaltRec) : Bool :=
  if h.agent < 0x1000 then decide (32 ≤ h.agent % 64) && (s.haltEntry h).any (·.job == id) else h.job == id

/-- One job is stopped (R96, R245): its threads become FREE with their waits cancelled, its operations end, it completes
with the status. -/
def State.stopOne (s : State) (id status : Nat) : State :=
  match s.job id with
  | none => s
  | some j =>
    let sh := s.modXl fun x => { x with halted := x.halted.filter fun h => !s.haltOfJob id h }
    let s0 := if j.stage != .admitted && leAt j.entry 0 1 == 0x08 then sh.ckptStopped j status else sh
    let s1 := s0.dropStreamWaiters id
    let s2 := s1.each (List.range 64) fun s c =>
      let k := s.core c
      if k.jobInEngines id || k.threads.any (fun e => e.2.held && e.2.job == id) then
        let s1 := s.each k.threads fun s e => if e.2.held && e.2.job == id then s.freeThread c e.1 else s
        ((s1.endOps c id).modCore c fun k => (k.dropJob id).roomWakes)
      else s
    let sb := s2.each (s2.search.batches.filter fun b => b.job == id && id != 0) fun s b => s.dropBatch b
    let s3 := sb.modSearch fun q => { q with
      indexes := q.indexes.map fun i => if i.merging = id then { i with merging := 0, mergeNew := [] }
        else { i with mergeWait := i.mergeWait.filter (· != id), dropping := if i.dropping = id then 0 else i.dropping } }
    let s4 := s3.each (s.search.indexes.filter fun i => i.merging == id || i.mergeWait.contains id) fun s i =>
      s.log (Src.code .hub) 0x3408 (bytesLE 2 i.handle)
    let s6 := if s.model.loadJob = id then s4.loadFailed status 0 else s4
    s6.endJob id status 0

/-- A job is stopped, and with it every job whose streams share a multicast group with its own, with the cause of the
first (R234). -/
def State.stopJob (s : State) (id status : Nat) : State :=
  if (s.mcGroupsOf id).isEmpty then s.stopOne id status
  else
    let ids := (List.range 32).foldl (fun ids _ => s.mcSpread ids) [id]
    let gs := ids.flatMap s.mcGroupsOf
    let s1 := s.each ids fun s j => s.stopOne j status
    s1.setMctok (s1.mctok.filter fun e => !gs.contains e.1)

/-- Status with which a job completes whose first abort carries `status` (R245). -/
def jobStatus (status : Nat) : Nat := if status = stAbortUncorrectable then stRestart else status

/-- A task of a job aborts, and with it the job (R245). -/
def State.abortJob (s : State) (id status : Nat) : State := s.stopJob id (jobStatus status)

/-- A program fault of a thread (R79, R96): notice and log 0x4103, and the job ends with a status. -/
def State.programFaultAs (s : State) (c t cause status : Nat) : State :=
  let th := s.thr c t
  let p := (s.coreOwner c).getD 32
  let d := BitVec.ofNat 64 (th.pc.toNat + cause * 2 ^ 48)
  let s1 := s.notify p 0x4103 (32 * c + t) d
  let s2 := s1.logRated (rateKey 0x4103 p) oneSec (BitVec.ofNat 16 (2 + c / 4)) 0x4103 (bytesLE 8 d.toNat ++ bytesLE 2 (32 * c + t))
  s2.abortJob th.job status

/-- A program fault ends the job with ABORT_FAULT. -/
def State.programFault (s : State) (c t cause : Nat) : State := s.programFaultAs c t cause stAbortFault

/-- An uncorrectable error aborts a thread's task (R135). -/
def State.threadUncorrectable (s : State) (c t : Nat) : State := s.abortJob (s.thr c t).job stAbortUncorrectable

/-- Is any work of a job left (R245)? -/
def State.jobBusy (s : State) (id : Nat) : Bool :=
  (s.sh.tasks.any fun t => t.job == id && t.st != 0) || (s.sh.frames.any fun f => f.job == id) ||
    ((List.range 64).any fun c => (s.core c).jobInEngines id) || (s.search.batches.any fun b => b.job == id)

/-- The normal end of a job with a root task, when nothing of it is left (R245). -/
def State.checkJobEnd (s : State) (id : Nat) : State :=
  match s.job id with
  | none => s
  | some j => match j.rootEnded with
    | none => s
    | some code => if s.jobBusy id then s else s.endJob id stOk (if j.count ≠ 0 then j.count else code.toNat)

/-- A task ends by EXIT (R96): its code is reported, its thread becomes FREE. -/
def State.endTask (s : State) (c t : Nat) (code : BitVec 16) : State :=
  let th := s.thr c t
  let s1 := (s.freeThread c t).modSh fun h => { h with tasks := h.tasks.filter fun k => k.handle != th.task }
  let s2 := s1.modJob th.job fun j => if j.root = th.task then { j with rootEnded := some code } else j
  (s2.releaseCore c).checkJobEnd th.job

/-- An operation of a thread has completed or been dropped: FENCE ENGINES and EXIT that waited for it go on (R76, R96). -/
def State.descDone (s : State) (c t : Nat) : State :=
  let s1 := s.modThr c t fun th => { th with outst := th.outst - 1 }
  let th := s1.thr c t
  if th.outst = 0 then
    match th.pend with
    | .engines => s1.modThr c t fun th => { th with st := tReady, pend := .none, pc := th.pc + 8 }
    | .exit code => s1.endTask c t code
    | _ => s1
  else s1

/-- The fault cause of an agent that aborts with a translation kind (R118). -/
def kindCause (kind : Nat) : Nat := if resolvable kind then cTranslation else cPermission

/-- Status of a job whose agent aborts with a translation kind (R122, R383). -/
def kindStatus (kind : Nat) : Nat := if kind = kUnreachable then stAbortLink else stAbortFault

/-- A thread aborts with a translation kind (R118, R122, R383). -/
def State.kindFault (s : State) (c t kind : Nat) : State := s.programFaultAs c t (kindCause kind) (kindStatus kind)

/-- A translation fault of a thread: it is HALTED, or aborts (R80, R118-R121). -/
def State.threadFault (s : State) (c t va kind access level : Nat) : State :=
  let p := (s.coreOwner c).getD 32
  let h : HaltRec := { ptn := p, agent := 64 * c + t, va := BitVec.ofNat 64 va, kind := kind, access := access,
                       level := level, lc := (s.thr c t).lc }
  match s.takeFault h with
  | (.halted, s1) => s1.modThr c t fun th => { th with st := tHalted, pend := .none }
  | (.abort, s1) => s1.kindFault c t kind

end Sys2Proof.Machine
end

