-- ==== Sys2Proof/Machine/Operands.lean ====
section
/-! DEFINITION. The fields of a task instruction (R75), registers, instruction fetch, and the operand forms of the
thread instructions. -/

namespace Sys2Proof.Machine

/-- The fields of a 64-bit instruction word (R75). -/
def tdecode (w : Nat) : TInstr :=
  { op := fld w 56 8, rd := fld w 51 5, ra := fld w 46 5, rb := fld w 41 5, fn := fld w 32 9, imm := fld w 0 32 }

/-- IMM sign-extended to 64 bits (R75). -/
def TInstr.simm (i : TInstr) : BitVec 64 := BitVec.signExtend 64 (BitVec.ofNat 32 i.imm)

/-- Reads a register: g0 is always 0 (R71). -/
def Thread.g (th : Thread) (r : Nat) : BitVec 64 := if r = 0 then 0 else tget th.regs r 0

/-- Writes a register: a write to g0 is discarded (R71). -/
def Thread.setG (th : Thread) (r : Nat) (v : BitVec 64) : Thread :=
  if r = 0 then th else { th with regs := tset th.regs r v }

/-- a = g[RA] (R76). -/
def Thread.a (th : Thread) (i : TInstr) : BitVec 64 := th.g i.ra

/-- b = g[RB] + sext(IMM) (R76). -/
def Thread.b (th : Thread) (i : TInstr) : BitVec 64 := th.g i.rb + i.simm

/-- The virtual address of an access at a + sext(IMM): 48 bits of the sum (R71, R76). -/
def Thread.va (th : Thread) (i : TInstr) : Nat := (th.a i + i.simm).toNat % 2 ^ 48

/-- The OP values of R76. -/
def opKnown (op : Nat) : Bool :=
  [0x01, 0x02, 0x08, 0x09, 0x0A, 0x10, 0x11, 0x12, 0x13, 0x14, 0x15, 0x18, 0x20, 0x30, 0x31, 0x32, 0x33, 0x34, 0x38, 0x3C].contains op

/-- Which of RD, RA, RB, FN and IMM the row of R76 uses (R75), in that order. -/
def opUses (i : TInstr) : Bool × Bool × Bool × Bool × Bool :=
  match i.op with
  | 0x01 => (true, true, true, true, true)
  | 0x02 => (true, true, false, false, true)
  | 0x08 => (true, true, false, true, true)
  | 0x09 => (false, true, true, true, true)
  | 0x0A => (true, true, true, true, true)
  | 0x10 => (false, true, true, true, true)
  | 0x11 => (true, false, false, false, true)
  | 0x12 => (true, true, false, false, true)
  | 0x13 => (false, false, false, false, true)
  | 0x14 => (false, false, false, false, false)
  | 0x15 => (false, false, false, false, true)
  | 0x18 => (true, false, false, false, true)
  | 0x20 => (true, true, true, true, true)
  | 0x30 => (false, true, true, true, true)
  | 0x31 => (true, true, true, true, true)
  | 0x32 => (false, true, true, false, true)
  | 0x33 => (false, true, true, true, true)
  | 0x34 => (true, true, false, true, true)
  | 0x38 => (true, true, false, false, true)
  | 0x3C => (false, false, false, true, false)
  | _ => (false, false, false, false, false)

/-- A defined part that holds a value with no meaning (R76-R78, R91): ILLEGAL_OP. -/
def opIllegal (i : TInstr) : Bool :=
  !opKnown i.op ||
    (match i.op with
     | 0x01 => decide (16 ≤ i.fn)
     | 0x0A => decide (2 < i.fn)
     | 0x10 => decide (6 < i.fn)
     | 0x18 => decide (9 ≤ i.imm)
     | 0x31 => decide (1 < i.fn)
     | 0x33 => bitN i.fn 3 && decide (3 ≤ fld i.fn 0 3)
     | 0x34 => decide (1 < i.fn)
     | 0x3C => i.fn == 0 || decide (4 < i.fn)
     | _ => false)

/-- A field, or a part of one, that the row does not use and that is not 0 (R75, R76, R81, R91): RSV_FIELD. -/
def opRsv (i : TInstr) : Bool :=
  let u := opUses i
  (!u.1 && i.rd != 0) || (!u.2.1 && i.ra != 0) || (!u.2.2.1 && i.rb != 0) || (!u.2.2.2.1 && i.fn != 0) ||
    (!u.2.2.2.2 && i.imm != 0) ||
    (match i.op with
     | 0x08 => fld i.fn 3 6 != 0
     | 0x09 => fld i.fn 2 7 != 0
     | 0x33 => fld i.fn 4 5 != 0 || (!bitN i.fn 3 && fld i.fn 0 3 != 0)
     | 0x13 => fld i.imm 16 16 != 0
     | 0x20 => fld i.fn 4 4 != 0 || (if bitN i.fn 8 then i.rb != 0 else i.imm != 0)
     | 0x31 => i.fn == 0 && i.rb != 0
     | _ => false)

/-- The partition that owns a core, by number; 32 when none does. -/
def State.partOf (s : State) (c : Nat) : Nat := (s.coreOwner c).getD 32

/-- The instruction word that the thread's PC names, if the instruction cache holds its line; with PTN_PT_ROOT.EN = 0 no
address is reached. -/
def State.fetchWord (s : State) (c t : Nat) : Option Nat :=
  let pc := (s.thr c t).pc.toNat
  if !(s.ptn (s.partOf c)).ptEn then none
  else (tfind (s.core c).icache (pc / 64)).map fun l => fld l.toNat (8 * (pc % 64)) 64

/-- Sends a coherence message (R127). -/
def State.send (s : State) (m : CohMsg) : State := s.modDir fun d => { d with msgs := d.msgs ++ [m] }

/-- The core has a request outstanding for a line, or evicts it: another request for the line waits (R126). -/
def State.lineWaits (s : State) (c line : Nat) : Bool :=
  thas (s.core c).l1Req line || (match s.l1Line c line with
    | some x => x.st == .WB
    | none => false)

/-- A thread's uncached request for a line, sent unless another of its core is outstanding (R126, R127); one that waits is sent
when its LOAD_DATA_RETURN finds the line free. -/
def State.sendUncached (s : State) (c t line : Nat) (kind : DirReqKind) : State :=
  if s.lineWaits c line then s
  else (s.modCore c fun k => { k with l1Req := tset k.l1Req line (.uncached line none) }).send (.req kind (64 * c + t) line)

/-- A fetch that misses the instruction cache (R80, R110, R134): the thread is in EXEC until the line comes by RD_U. -/
def State.startFetch (s : State) (c t : Nat) : State :=
  let pc := (s.thr c t).pc.toNat
  match s.translate (s.partOf c) c pc { x := true, lc := (s.thr c t).lc } false with
  | (.ok pa _, s1) =>
    (s1.modThr c t fun th => { th with st := tExec, pend := .fetch (pa / 64) none }).sendUncached c t (pa / 64) .rdU
  | (.fault k lv, s1) => s1.threadFault c t pc k 0 lv
  | (.moving, s1) => s1
  | (.uncorrectable, s1) => s1.threadUncorrectable c t

/-- Threads that the issue stage may not pick yet because the yielding thread's turn comes after them (R76 YIELD). -/
def CoreSt.yieldHolds (k : CoreSt) (t : Nat) : Bool :=
  (List.range 32).any fun u => bitN (k.thr t).yieldMask.toNat u && (k.thr u).st == tReady && u != t

/-- May the issue stage pick thread `t` now: READY, not yielding to another, and no thread of a holder being saved (R72, R76,
R254 step 1)? -/
def CoreSt.mayPick (k : CoreSt) (t : Nat) : Bool :=
  (k.thr t).st == tReady && !k.yieldHolds t && !(k.saving && !(k.thr t).lc)

/-- The next thread of a class, in turn after the one last picked in it (R72). -/
def CoreSt.nextOf (k : CoreSt) (lc : Bool) : Option Nat :=
  let last := if lc then k.rrLc else k.rrBe
  ((List.range 32).map fun n => (last + 1 + n) % 32).find? fun t => (k.thr t).lc == lc && k.mayPick t

/-- The thread that the issue stage picks: latency-critical threads before best-effort ones, round-robin in a class (R72). -/
def CoreSt.turn (k : CoreSt) : Option Nat :=
  match k.nextOf true with
  | some t => some t
  | none => k.nextOf false

/-- The issue stage picks thread `t` (R72, R76): it was the last picked of its class, and threads that yielded to it have
had their wait for it. -/
def CoreSt.picked (k : CoreSt) (t : Nat) : CoreSt :=
  let k1 := if (k.thr t).lc then { k with rrLc := t } else { k with rrBe := t }
  { k1 with threads := k1.threads.map fun e =>
      (e.1, { e.2 with yieldMask := e.2.yieldMask &&& ~~~(BitVec.ofNat 32 (2 ^ t)) }) }

/-- Starts the next instruction of the thread whose turn it is when its row is the command's (R72; log entries 3, 20): a
missing line is fetched; an unknown OP, a meaningless value and a non-zero unused part fault, in the order of R79; otherwise `run` acts.
`mine` says whether the word belongs to the command's row. -/
def State.issueInstr (s : State) (c t : Nat) (mine : TInstr → Bool) (run : TInstr → State → State) : State :=
  if (s.coreOwner c).isNone ∨ (s.core c).turn ≠ some t then s
  else match s.fetchWord c t with
    | none => (s.modCore c fun k => k.picked t).startFetch c t
    | some w =>
      let i := tdecode w
      if opKnown i.op && !mine i then s
      else
        let s1 := s.modCore c fun k => k.picked t
        if opIllegal i then s1.programFault c t cIllegal
        else if opRsv i then s1.programFault c t cRsvField
        else run i s1

/-- Completes an instruction: PC to the next one (R72). -/
def Thread.done (th : Thread) : Thread := { th with st := tReady, pend := .none, pc := th.pc + 8 }

/-- Completes an instruction that writes RD. -/
def Thread.doneRd (th : Thread) (rd : Nat) (v : BitVec 64) : Thread := (th.setG rd v).done

/-- A relative object number within the partition's range (R84). -/
def PtnSt.objOk (q : PtnSt) (n : Nat) : Bool := decide (n < q.syncCount)

/-- The object a sync instruction names: g[RA] + sext(IMM), relative (R76). -/
def Thread.relObj (th : Thread) (i : TInstr) : Nat := (th.a i + i.simm).toNat

end Sys2Proof.Machine
end

