-- ==== Sys2Proof/Machine/Engine.lean ====
section
/-! DEFINITION. What every engine of a core shares: the entry taken next (R249, R251), rejection, an uncorrectable error,
completion (R82, R83, R158), the scratchpad (R180-R184) and the runs in it (R141, R164). -/

namespace Sys2Proof.Machine

/-- The entries of a queue that are the oldest of their thread (R249). -/
def oldestOfThread : List Nat → List QEntry → List QEntry
  | _, [] => []
  | seen, e :: q => if seen.contains e.thr then oldestOfThread seen q else e :: oldestOfThread (e.thr :: seen) q

/-- The next job in rising order of identifier after `last`, wrapping (R249). -/
def nextJob (last : Nat) (jobs : List Nat) : Option Nat :=
  let up := jobs.filter fun j => decide (last < j)
  let least := fun (xs : List Nat) => xs.foldl (fun (a : Option Nat) x => some (match a with
    | some y => min x y
    | none => x)) none
  match least up with
  | some j => some j
  | none => least jobs

/-- The latency-critical entry an engine takes next (R249). -/
def CoreSt.lcHead (k : CoreSt) (eng : Nat) : Option QEntry := (oldestOfThread [] (tget k.queues eng [])).find? (·.lc)

/-- Does an engine hold a pre-empted context, or is the core being saved (R251, R254)? -/
def CoreSt.heldBack (k : CoreSt) (eng : Nat) : Bool :=
  k.saving || if eng = 3 ∨ eng = 4 then thas k.strmPre (eng - 3) else thas k.preempted eng

/-- The entry a free engine takes next (R249, R251): best-effort entries wait behind a pre-empted context. -/
def CoreSt.engHead (k : CoreSt) (eng : Nat) : Option QEntry :=
  match k.lcHead eng with
  | some e => some e
  | none =>
    if k.heldBack eng then none
    else
      let be := (oldestOfThread [] (tget k.queues eng [])).filter fun e => !e.lc
      match nextJob (tget k.lastJob eng 0) (be.map (·.job)) with
      | some j => be.find? fun e => e.job == j
      | none => none

/-- The entry leaves the queue: the job is the one last served, and a waiting ISSUE may take its place (R81, R249). -/
def State.takeEntry (s : State) (c eng : Nat) (e : QEntry) : State :=
  s.modCore c fun k => CoreSt.roomWakes { k with
    queues := tset k.queues eng (dropFirst (· == e) (tget k.queues eng []))
    lastJob := tset k.lastJob eng e.job }

/-- The four bytes of a core's registers that a log source names: the CT block (R402). -/
def ctSource (c : Nat) : BitVec 16 := BitVec.ofNat 16 (2 + c / 4)

/-- Core reset (R459): threads, valid bits, queues, engines and translation caches. The bypass map, CT_CORE_WIDTH and
the ECC counters stay. L1 lines are written back first, so that no data of memory is lost. -/
def State.coreReset (s : State) (c : Nat) : State :=
  let s1 := s.each (s.core c).l1 fun s e =>
    let s1 := if e.2.holdsDirty then s.putLine e.1 e.2.data else s
    if thas s1.dir.entries e.1 then
      s1.modDirEnt e.1 fun d => match d.st with
        | .excl o => if o.val = c then { d with st := .inv } else d
        | .shared m => let m1 := m &&& ~~~(BitVec.ofNat 64 (2 ^ c)); { d with st := if m1 = 0 then .inv else .shared m1 }
        | .inv => d
    else s1
  let s2 := s1.modXl fun x => { x with
    leaves := x.leaves.filter fun l => l.agent != c
    walks := x.walks.filter fun w => w.agent != c
    halted := x.halted.filter fun h => h.agent / 64 != c || decide (0x1000 ≤ h.agent) }
  s2.modCore c fun k =>
    { width := k.width, stripOk := k.stripOk, colMap := k.colMap, eccCe := k.eccCe, eccSpadUe := k.eccSpadUe,
      eccAccUe := k.eccAccUe, eccLastRow := k.eccLastRow, eccLastSector := k.eccLastSector, eccLastAcc := k.eccLastAcc,
      ueTimes := k.ueTimes, sfuCe := k.sfuCe, sfuUe := k.sfuUe, sfuLastSeg := k.sfuLastSeg, sfuUeTime := k.sfuUeTime,
      sfuValid := k.sfuValid, sfuLastSlot := k.sfuLastSlot, sfuReloading := k.sfuReloading, sfuBad := k.sfuBad, retired := k.retired }

/-- The jobs that have work on a core. -/
def State.jobsOn (s : State) (c : Nat) : List Nat :=
  (s.sh.jobs.map (·.id)).filter fun id => (s.core c).jobInEngines id || (s.core c).threads.any fun e => e.2.held && e.2.job == id

/-- A core that counts toward SL3 (R470). -/
def State.coreCounts (s : State) (c : Nat) : Bool := !s.coreRetired c && decide (64 ≤ (s.core c).width)

/-- Opcodes that go on when the level falls to SL2 (R471). -/
def fallKeeps (op : Nat) : Bool := op == 7 || op == 0x0A || op == 0x0C || op == 6

/-- The effects of a fall to SL2 (R471). -/
def State.fallToSl2 (s : State) : State :=
  let s1 := s.each (s.sh.jobs.filter fun j => !fallKeeps j.op) fun s j => s.stopJob j.id stRestart
  (s1.each (List.range 64) fun s c => s.coreReset c).unloadModel 3

/-- The last core of SL3 is gone: the level falls to SL2 at that instant (R470, R471). -/
def State.coreFall (s : State) : State :=
  if 2 < s.pwr.level ∧ !(List.range 64).any s.coreCounts then
    ((s.modPwr fun p => { p with level := 2 }).log Src.mgt.code 0x8502 (bytesLE 1 s.pwr.level ++ bytesLE 1 2)).fallToSl2
  else s

/-- The module retires a core by itself (R475): its jobs restart, the core goes into core reset, log 0x8505 records it, and the
level falls where it was the last that counted (R470). -/
def State.retireCore (s : State) (c : Nat) : State :=
  let s1 := s.each (s.jobsOn c) fun s id => s.stopJob id stRestart
  (((s1.modCore c fun k => { k with retired := true }).coreReset c).log (ctSource c) 0x8505 (bytesLE 2 c)).coreFall

/-- An uncorrectable event of the scratchpad or the accumulator store enters the core's history; the fourth within an
hour retires the core (R475). -/
def State.ueEvent (s : State) (c : Nat) : State :=
  let recent := s.now :: (s.core c).ueTimes.filter fun t => decide (s.now < t + 3600 * oneSec)
  let s1 := s.modCore c fun k => { k with ueTimes := recent }
  if 4 ≤ recent.length ∧ !(s.core c).retired then s1.retireCore c else s1

/-- Counts and logs an uncorrectable scratchpad read of a sector (R184). -/
def State.spadUe (s : State) (c sec : Nat) : State :=
  (s.modCore c fun k => { k with eccSpadUe := satAdd 8 k.eccSpadUe 1, eccLastRow := sec / 8, eccLastSector := sec % 8,
                                 eccLastAcc := false }).log (ctSource c) 0x4202 (bytesLE 2 c ++ bytesLE 2 sec)

/-- Counts and logs an uncorrectable accumulator read (R179). -/
def State.accUe (s : State) (c row grp : Nat) : State :=
  (s.modCore c fun k => { k with eccAccUe := satAdd 8 k.eccAccUe 1, eccLastRow := row, eccLastSector := grp,
                                 eccLastAcc := true }).log (ctSource c) 0x4203 (bytesLE 2 c ++ bytesLE 2 (row * 4 + grp))

/-- A decoder of the core finds an error in a sector, an accumulator entry or a table segment that holds data (R179, R184, R202):
a correctable one is corrected in flight, counted, and logged at most once per core per second; an uncorrectable one is marked,
and the operation that reads it aborts. A sector or entry with its valid bit clear has no error. -/
def State.coreHit (c : Nat) (x : CoreHit) (s : State) : State :=
  let n := x.idx.toNat
  let k := s.core c
  let note := fun (acc : Bool) (row sec : Nat) =>
    (s.modCore c fun k => { k with eccCe := satAdd 16 k.eccCe 1, eccLastRow := row, eccLastSector := sec, eccLastAcc := acc }).logRated
      (rateKey 0x4201 c) oneSec (ctSource c) 0x4201 (bytesLE 2 c ++ bytesLE 2 (row * 8 + sec))
  match x.store with
  | 0 =>
    if !thas k.spad n then s
    else if x.ue then s.modCore c fun k => { k with spad := tset k.spad n { tget k.spad n {} with bad := true } }
    else note false (n / 8) (n % 8)
  | 1 =>
    if !thas k.accValid (n / 32) then s
    else if x.ue then s.modCore c fun k => { k with accBad := tset k.accBad n () }
    else note true (n / 128) (n % 128 / 32)
  | 2 =>
    let slot := n / 256
    if (s.slotTable slot).isNone || k.sfuReloading.contains slot then s
    else if x.ue then s.modCore c fun k => { k with sfuBad := tset k.sfuBad slot (n % 256) }
    else (s.modCore c fun k => { k with sfuCe := satAdd 16 k.sfuCe 1, sfuLastSlot := slot, sfuLastSeg := n % 256 }).logRated
      (rateKey 0x4301 c) oneSec (ctSource c) 0x4301 (bytesLE 2 c ++ [BitVec.ofNat 8 slot])

/-- The errors that come with an operation, in order. -/
def State.coreHits (s : State) (c : Nat) (xs : List CoreHit) : State := s.each xs fun s x => s.coreHit c x

/-- Counts an uncorrectable input: an entry of the accumulator store or a sector of the scratchpad. -/
def State.runUe (s : State) (c : Nat) (b : Bool × Nat) : State :=
  if b.1 then s.accUe c (b.2 / 128) (b.2 % 128 / 32) else s.spadUe c b.2

/-- How an operation that an engine takes turns out: rejected with nothing changed, stopped by an uncorrectable error
(with the state it leaves), or run up to its first pre-emption point or its end (R158, R213). -/
inductive EngRes where
  | reject
  | uncorrectable (s : State)
  | ok (s : State) (o : EngOp)

/-- A free engine takes the entry at its head when it is of the command's row, and runs it to its first pre-emption point or its
end (R174, R249, R250); at its end the completion is due (log entry 16). What it writes is of its thread's class (R254). -/
def State.engineRun (s : State) (c eng : Nat) (mine : QEntry → Bool) (run : QEntry → State → EngRes) : State :=
  let k := s.core c
  match k.engHead eng with
  | none => s
  | some e =>
    if thas k.running eng || !mine e then s
    else
      let s1 := s.takeEntry c eng e
      match run e s1 with
      | .reject => s1.programFault c e.thr cDescriptor
      | .uncorrectable s2 => (s2.ueEvent c).threadUncorrectable c e.thr
      | .ok s2 o =>
        s2.modCore c fun k => o.outs.foldl (fun k r => k.claim e.lc r) { k with running := tset k.running eng o }

/-- The flag set goes into the thread's word, then the completion signal is sent (R82, R158); the thread's fences and the
job go on. -/
def State.completeOp (s : State) (c : Nat) (q : QEntry) (flags : BitVec 8) (extra : Nat) : State :=
  let s1 := s.modThr c q.thr fun th => { th with flags := th.flags ||| flags,
                                                 opsFlagged := if flags = 0 then th.opsFlagged else satAdd 16 th.opsFlagged 1 }
  let s2 := if q.add = 0 then s1 else s1.syncArrive c ((s1.ptn (s1.partOf c)).syncBase + q.obj) (.add (q.add + extra))
  ((s2.descDone c q.thr).releaseCore c).checkJobEnd q.job

/-- An operation of engine 1, 2 or 5 runs up to an element, or meets an uncorrectable input, which aborts it (R194). -/
def State.laneRun (s : State) (c eng : Nat) (o : EngOp) (upto : Nat) : EngRes :=
  match (s.core c).runsBad (laneInputs eng o.q.desc o.pos (upto - o.pos)) with
  | some b => .uncorrectable ((s.runUe c b).scramble c false o.outs)
  | none => let r := s.laneStep c eng o upto; .ok (s.modCore c fun _ => r.1) r.2

/-- An operation that a free engine takes: its elements up to the first pre-emption point, or all of them (R213). -/
def State.laneStart (s : State) (c eng : Nat) (o : EngOp) : EngRes :=
  s.laneRun c eng o (min (laneLen eng o.q.desc) (lanePoint eng o.q.desc))

/-- Completes the operation an engine runs, after what is left of it (R82, R158, R213). -/
def State.engineDone (s : State) (c eng : Nat) (count : EngOp → CoreSt → CoreSt) : State :=
  match tfind (s.core c).running eng with
  | none => s
  | some o =>
    match (if o.done then EngRes.ok s o else s.laneRun c eng o (laneLen eng o.q.desc)) with
    | .reject => s
    | .uncorrectable s1 =>
      ((s1.modCore c fun k => { k with running := tdel k.running eng }).ueEvent c).threadUncorrectable c o.q.thr
    | .ok s1 o1 =>
      (s1.modCore c fun k => count o1 { k with running := tdel k.running eng }).completeOp c o1.q o1.flags o1.extra

end Sys2Proof.Machine
end

