-- ==== Sys2Proof/Machine/Ident.lean ====
section
/-! DEFINITION. What names the module: its order code, the configuration space of its PCIe functions (R1, R332, R333), and the
test port (R423), which no command of the table reaches. -/

namespace Sys2Proof.Machine

/-- ASCII bytes of a name, padded with spaces. -/
def ascii (n : Nat) (t : String) : List Byte :=
  let bs := t.toList.map fun c => BitVec.ofNat 8 c.toNat
  bs.take n ++ List.replicate (n - bs.length) 0x20

/-- The order code that the factory calibration row holds (R1). -/
def Factory.orderCode (f : Factory) : String := if f.gradeX then "LX-3200-X" else "LX-3200-C"

/-- A base address register pair: its first BAR and its size; each is 64-bit and non-prefetchable (R333). -/
structure BarPair where
  bar : Nat := 0
  size : Nat := 0
  deriving DecidableEq, Repr

/-- The identification of a function in its configuration space (R332, R333). -/
structure ConfigSpace where
  vendor : Nat := 0x1F9E
  device : Nat := 0
  classCode : Nat := 0
  subVendor : Nat := 0x1F9E
  subsystem : Nat := 0
  revision : Nat := 0
  bars : List BarPair := []
  deriving DecidableEq, Repr

/-- The Subsystem ID, which names the grade (R1, R332). -/
def Factory.subsystem (f : Factory) : Nat := if f.gradeX then 0x0002 else 0x0001

/-- The configuration space of PF0, the NVMe controller, or of PF1, the accelerator (R332, R333). -/
def State.configSpace (s : State) (pf : Fin 2) : ConfigSpace :=
  if pf = 0 then
    { device := 0x3200, classCode := 0x010802, subsystem := s.fac.subsystem, revision := s.fac.stepping.toNat
      bars := [{ bar := 0, size := 32 * 1024 }] }
  else
    { device := 0x3201, classCode := 0x120000, subsystem := s.fac.subsystem, revision := s.fac.stepping.toNat
      bars := [{ bar := 0, size := 2 * 2 ^ 20 }, { bar := 2, size := 256 * 2 ^ 20 }, { bar := 4, size := 64 * 1024 }] }

/-! The test port (R423). -/

/-- The code of an instruction, which the spec does not state: a free value (place 110, log entry 52). -/
def TapInstr.code (i : TapInstr) : Nat :=
  match i with
  | .bypass => Config.freeNat 110 [0]
  | .idcode => Config.freeNat 110 [1]
  | .sample => Config.freeNat 110 [2]
  | .extest => Config.freeNat 110 [3]

/-- What a code selects: every code but those of IDCODE, SAMPLE/PRELOAD and EXTEST selects BYPASS. -/
def tapSelects (code : Nat) : TapInstr :=
  if code = TapInstr.idcode.code then .idcode
  else if code = TapInstr.sample.code then .sample
  else if code = TapInstr.extest.code then .extest
  else .bypass

/-- A code is loaded into the instruction register. -/
def TapSt.load (t : TapSt) (code : Nat) : TapSt := { t with ir := tapSelects code }

/-- The selected data register captures: BYPASS a 0, IDCODE the identification, the boundary cells the package pins. -/
def TapSt.capture (t : TapSt) (idcode : BitVec 32) (pins : List Bool) : TapSt :=
  match t.ir with
  | .bypass => { t with bypass := false }
  | .idcode => { t with idcode := idcode }
  | .sample => { t with cells := pins }
  | .extest => { t with cells := pins }

/-- The selected data register shifts by one bit: what leaves at its end, and the port after. -/
def TapSt.shift (t : TapSt) (tdi : Bool) : Bool × TapSt :=
  match t.ir with
  | .bypass => (t.bypass, { t with bypass := tdi })
  | .idcode => (t.idcode.getLsbD 0, { t with idcode := (t.idcode >>> 1) ||| (BitVec.ofNat 32 (b2n tdi) <<< 31) })
  | .sample => (t.cells.headD false, { t with cells := t.cells.drop 1 ++ [tdi] })
  | .extest => (t.cells.headD false, { t with cells := t.cells.drop 1 ++ [tdi] })

/-- The boundary cells are latched: SAMPLE/PRELOAD preloads them, EXTEST drives them. -/
def TapSt.update (t : TapSt) : TapSt :=
  match t.ir with
  | .bypass => t
  | .idcode => t
  | .sample => { t with latch := t.cells }
  | .extest => { t with latch := t.cells }

/-- What the test port drives at the package pins: its latched cells under EXTEST, and nothing else. -/
def TapSt.drives (t : TapSt) : Option (List Bool) := if t.ir = .extest then some t.latch else none

/-- Whatever the test port does changes the port alone: no scan chain and no debug access port is reached through it. -/
def State.tapDoes (s : State) (f : TapSt → TapSt) : State := s.setTap (f s.tap)

end Sys2Proof.Machine
end

