-- ==== Sys2Proof/Machine/Dist.lean ====
section
/-! DEFINITION. The numbers of a search (R266-R269, R278-R280, R292): vectors and their distances, tables and scores,
filters, the runs and locators of a list version. -/

namespace Sys2Proof.Machine

/-- A value as FP32 delivers it (R150). -/
def fp32 (x : Num) : Num := decodeNum fFp32 (encodeNum fFp32 1 x).1

/-- Bytes of a record (R269). -/
def recSizeOf (dim vfmt : Nat) : Nat := 64 * ((dim * (fmtBits vfmt / 8) + 63) / 64)

/-- RECSIZE of an index. -/
def IndexSt.recSize (ix : IndexSt) : Nat := recSizeOf ix.dim ix.vfmt

/-- Elements of a vector in VFMT. -/
def IndexSt.elems (ix : IndexSt) (bs : List Byte) : List Num :=
  let w := fmtBits ix.vfmt / 8
  (List.range ix.dim).map fun i => decodeNum ix.vfmt (leAt bs (w * i) w)

/-- A vector with a NaN or an infinite element. -/
def IndexSt.badVec (ix : IndexSt) (bs : List Byte) : Bool := (ix.elems bs).any fun x => !x.isFin

/-- Subquantisers M and codewords of each (R266). -/
def IndexSt.subs (ix : IndexSt) : Nat := if ix.code = 0 then 32 else 64
def IndexSt.words (ix : IndexSt) : Nat := if ix.code = 0 then 256 else 16

/-- The format in which the kernel compares centroids (R266). -/
def IndexSt.cmpFmt (ix : IndexSt) : Nat := if ix.vfmt = fFp32 then fCif else if ix.vfmt = fBf16 then fBf16 else fFp16

/-- A value in the kernel's comparing format. -/
def IndexSt.cmpNum (ix : IndexSt) (x : Num) : Num := decodeNum ix.cmpFmt (encodeNum ix.cmpFmt 0 x).1

/-- The dot product of two vectors in ACC (R147-R149), converted to FP32. -/
def dotAcc (place : Nat) (a b : List Num) : Num := fp32 (accSum place [] .zero (List.zipWith Num.times a b)).1

/-- The distance of a query to a centroid as the kernel forms it (R266, R291 step 3). -/
def IndexSt.centDist (ix : IndexSt) (q : List Num) (list : Nat) : Num :=
  let c := ((ix.centroids.drop (list * ix.dim)).take ix.dim).map fun x => ix.cmpNum (decodeNum fFp32 x.toNat)
  let q1 := q.map ix.cmpNum
  let dot := dotAcc 50 q1 c
  if ix.metric = 1 then dot.neg
  else fp32 ((fp32 ((dotAcc 51 q1 q1).minus (dot.scale 1))).plus (dotAcc 52 c c))

/-- Lists by the distance of their centroid, ties to the lower number. -/
def IndexSt.nearLists (ix : IndexSt) (q : List Num) (n : Nat) : List Nat :=
  let ds := (List.range ix.lists).map fun l => (l, ix.centDist q l)
  ((sortBy (fun (a b : Nat × Num) => !ltNum b.2 a.2) ds).take n).map (·.1)

/-- The distance contribution of codeword `j` to subspace `m`, in FP32 within the bounds of R150 (R279). -/
def IndexSt.contrib (ix : IndexSt) (q : List Num) (m j : Nat) : Num :=
  let n := ix.dim / ix.subs
  let w := ((ix.books.drop ((m * ix.words + j) * n)).take n).map fun x => decodeNum fFp32 x.toNat
  let qs := (q.drop (m * n)).take n
  let ts := List.zipWith (fun a b => if ix.metric = 1 then fp32 (a.times b)
    else (let d := fp32 (a.minus b); fp32 (d.times d))) qs w
  let sum := fp32 (accSum 53 [] .zero ts).1
  if ix.metric = 1 then sum.neg else sum

/-- The nearest codeword of a subspace, ties to the lower index (R293). -/
def IndexSt.nearWord (ix : IndexSt) (v : List Num) (m : Nat) : Nat :=
  ((List.range ix.words).foldl (fun (acc : Nat × Num) j =>
    let d := ix.contrib v m j
    if ltNum d acc.2 then (j, d) else acc) (0, ix.contrib v m 0)).1

/-- CODES of a vector (R267, R293). -/
def IndexSt.encode (ix : IndexSt) (v : List Num) : BitVec 256 :=
  let w := if ix.code = 0 then 8 else 4
  BitVec.ofNat 256 ((List.range ix.subs).foldl (fun a m => a + (ix.nearWord v m) * 2 ^ (w * m)) 0)

/-- Code `m` of an entry (R267). -/
def IndexSt.codeAt (ix : IndexSt) (e : Entry) (m : Nat) : Nat :=
  if ix.code = 0 then fld e.codes.toNat (8 * m) 8 else fld e.codes.toNat (4 * m) 4

/-- The smallest and the largest of a list of values. -/
def minOf (xs : List Num) : Num := xs.foldl (fun a x => if ltNum x a then x else a) (xs.headD .zero)
def maxOf (xs : List Num) : Num := xs.foldl (fun a x => if ltNum a x then x else a) (xs.headD .zero)

/-- round(a × 65,535 ÷ r), ties in either direction (R279, R153); r is positive. -/
def tableEntry (a r : Num) : Nat :=
  let q := min (Num.unit 0 a) (Num.unit 0 r)
  let n := (Num.units q (match a with
    | .fin s m e => .fin s m (max e q)
    | x => x)).toNat * 65535
  let d := (Num.units q (match r with
    | .fin s m e => .fin s m (max e q)
    | x => x)).toNat
  if d = 0 then 0
  else
    let k := n / d
    let twice := 2 * (n % d)
    min 65535 (if twice < d then k else if d < twice then k + 1 else if Config.tieUp 4 [(n : Int), (d : Int)] then k + 1 else k)

/-- The table of a query (R278, R279), padded to 16 KiB. -/
def IndexSt.table (ix : IndexSt) (q : List Num) : List Byte :=
  let rows := (List.range ix.subs).map fun m => (List.range ix.words).map fun j => ix.contrib q m j
  let spans := rows.map fun r => (maxOf r).minus (minOf r)
  let range := maxOf spans
  padTo 16384 (rows.flatMap fun r => r.flatMap fun t => bytesLE 2 (tableEntry (t.minus (minOf r)) range))

/-- The score of an entry under a table (R278). -/
def IndexSt.score (ix : IndexSt) (tables : List Byte) (q : Nat) (e : Entry) : Nat :=
  ((List.range ix.subs).map fun m => leAt tables (16384 * q + 2 * (ix.words * m + ix.codeAt e m)) 2).foldl (· + ·) 0

/-- A term of a filter in its fields (R280). -/
def termBit (t : List Byte) (attr : BitVec 64) : Bool :=
  let ctl := leAt t 0 8
  let w := fld ctl 6 6 + 1
  let f := fld attr.toNat (fld ctl 0 6) w
  let a := leAt t 8 8 % 2 ^ w
  let b := leAt t 16 8 % 2 ^ w
  let le := fun (x y : Nat) => if bitN ctl 16 then decide (sx w x ≤ sx w y) else decide (x ≤ y)
  match fld ctl 12 4 with
  | 0 => f == a
  | 1 => f != a
  | 2 => !le a f
  | 3 => le a f
  | 4 => le a f && le f b
  | 5 => f &&& b == a
  | 6 => f &&& a != 0
  | _ => false

/-- Does an entry with these attributes pass a filter (R280)? -/
def filterPass (f : List Byte) (attr : BitVec 64) : Bool :=
  let t := (List.range 8).foldl (fun a i => a + b2n (termBit ((f.drop (24 * i)).take 24) attr) * 2 ^ i) 0
  bitN (leAt f (0xC0 + t / 8) 1) (t % 8)

/-- A filter out of R280's ranges. -/
def filterBad (f : List Byte) : Bool :=
  ((List.range 8).any fun i =>
    let ctl := leAt f (24 * i) 8
    decide (7 < fld ctl 12 4) || fld ctl 17 47 != 0 || decide (64 < fld ctl 0 6 + fld ctl 6 6 + 1)) || leAt f 0xE0 32 != 0

/-- Does a query's filter pass an entry? No filters pass everything. -/
def passes (filters : List Byte) (q : Nat) (attr : BitVec 64) : Bool :=
  filters.isEmpty || filterPass ((filters.drop (256 * q)).take 256) attr

/-- A tombstone of an IDENT applies under a snapshot (R271). -/
def dead (tombs : List Tomb) (i : BitVec 64) (snap : Nat) : Bool := tombs.any fun t => t.ident == i && decide (t.csn ≤ snap)

/-- The version of a list that a search under S reads (R272). -/
def IndexSt.versionAt (ix : IndexSt) (list snap : Nat) : Option Version :=
  (ix.versions list).find? fun v => decide (v.vstart ≤ snap) && (match v.vend with
    | none => true
    | some e => decide (snap < e))

/-- The entries of run `j` of a version (R268). -/
def IndexSt.runEnts (ix : IndexSt) (v : Version) (j : Nat) : List Entry :=
  let n := v.ents.length
  (v.ents.drop (j * n / ix.stripe)).take ((j + 1) * n / ix.stripe - j * n / ix.stripe)

/-- The channel of run `j` of a list (R268). -/
def IndexSt.runChan (ix : IndexSt) (list j : Nat) : Nat := (list + j * (64 / ix.stripe)) % 64

/-- Records that fit a page (R269). -/
def IndexSt.rpp (ix : IndexSt) : Nat := 16384 / ix.recSize

/-- Bytes of an entry (R267). -/
def Entry.bytes (e : Entry) : List Byte := bytesLE 32 e.codes.toNat ++ bytesLE 8 e.attr.toNat ++ bytesLE 8 e.ident.toNat

/-- Entry `i` of a page (R268). -/
def pageEntry (page : List Byte) (i : Nat) : Entry :=
  let b := (page.drop (48 * i)).take 48
  { codes := BitVec.ofNat 256 (leAt b 0 32), attr := BitVec.ofNat 64 (leAt b 32 8), ident := BitVec.ofNat 64 (leAt b 40 8) }

/-- An entry page: its entries, then the trailer at offset 16,368 (R268). -/
def entryPage (list run vstart : Nat) (es : List Entry) : List Byte :=
  padTo 16368 (es.flatMap Entry.bytes) ++ bytesLE 4 list ++ bytesLE 1 run ++ [0] ++ bytesLE 2 es.length ++ bytesLE 8 vstart

/-- The entry pages of run `j` of a version, every one but the last full (R268). -/
def IndexSt.entryPages (ix : IndexSt) (list : Nat) (v : Version) (j : Nat) : List (List Byte) :=
  let es := ix.runEnts v j
  (chunks 341 es.length es).map (entryPage list j v.vstart)

/-- The record pages of run `j` of a version (R269). -/
def IndexSt.recPages (ix : IndexSt) (v : Version) (j : Nat) : List (List Byte) :=
  let es := ix.runEnts v j
  (chunks ix.rpp es.length es).map fun g => g.flatMap fun e => padTo ix.recSize e.vec

/-- The bytes of a page of the medium, by the address of its first unit. -/
def State.pageBytes (s : State) (unit : Nat) : List Byte :=
  (List.range 4).flatMap fun i => bytesLE 4096 (tget s.flash.units (unit + i) ({} : UnitData)).data.toNat

/-- The records on a channel under a snapshot, in the order of list, run and entry: each with the first logical block of its
page and its slot there (R269). -/
def IndexSt.chanRecs (ix : IndexSt) (snap ch : Nat) : List (BitVec 64 × Nat × Nat) :=
  ix.vers.flatMap fun l => match ix.versionAt l.1 snap with
    | none => []
    | some v => v.runs.flatMap fun r =>
      if ix.runChan l.1 r.1 = ch then
        let es := ix.runEnts v r.1
        ((List.range es.length).zip es).map fun e => (e.2.ident, r.2.2 + 4 * (e.1 / ix.rpp), e.1 % ix.rpp)
      else []

/-- What turns a record's rank on its channel into its locator: LOC has no stated value (log entry 27). -/
def locMask (h : Nat) : Nat := Config.freeNat 43 [h] % 2 ^ 30

/-- LOC of the record of an IDENT on a channel under a snapshot (R269). -/
def IndexSt.locOf (ix : IndexSt) (snap ch : Nat) (i : BitVec 64) : Nat :=
  ((ix.chanRecs snap ch).findIdx fun e => e.1 == i) ^^^ locMask ix.handle

/-- The record that a locator names under a snapshot: the first logical block of its page, and its slot (R289). -/
def IndexSt.recAt (ix : IndexSt) (snap ch loc : Nat) : Option (Nat × Nat) :=
  if loc < 2 ^ 30 then ((ix.chanRecs snap ch)[loc ^^^ locMask ix.handle]?).map (·.2) else none

/-- The first unit of the page of an index namespace's logical block, through the map (R316). -/
def State.pageUnit (s : State) (h lba : Nat) : Nat := (s.mapEnt (h / 16) lba).unit

/-- A page is lost when a unit of it is (R286, R319), or its die does not answer. -/
def State.pageLost (s : State) (unit : Nat) : Bool :=
  !s.chanOk (unit / 2 ^ 30) || (List.range 4).any fun i => thas s.flash.lostUnits (unit + i)

/-- The exact distance of a query and a record, and the bound of its FP32 result before rounding (R292). -/
def exactDist (metric dim : Nat) (q x : List Num) : Num × Num :=
  let sum := fun (xs : List Num) => xs.foldl Num.plus .zero
  let dot := List.zipWith Num.times q x
  let mag := sum (dot.map Num.abs)
  let n : Nat := (dim + 3) / 4
  if metric = 1 then ((sum dot).neg, (mag.times (Num.ofInt n)).scale (-33))
  else
    let qq := sum (List.zipWith Num.times q q)
    let xx := sum (List.zipWith Num.times x x)
    ((qq.minus ((sum dot).scale 1)).plus xx, (((qq.plus (mag.scale 1)).plus xx).times (Num.ofInt (n + 1))).scale (-33))

/-- DIST of a query and a record (R292): a value within the bound, in FP32; beyond its range the conversion mode is open
(log entry 27). -/
def IndexSt.dist (ix : IndexSt) (qb xb : List Byte) : Nat :=
  let d := exactDist ix.metric ix.dim (ix.elems qb) (ix.elems xb)
  (encodeNum fFp32 (Config.freeNat 42 [] % 2) (nearNum 54 [(leNat qb : Int), (leNat xb : Int), (ix.metric : Int)] d.1 d.2)).1

end Sys2Proof.Machine
end

