-- ==== Sys2Proof/Machine/Time.lean ====
section
/-! DEFINITION. The time base (R446-R450): applies, the servo, PPS_IN and the latches of 32-bit reads. -/

namespace Sys2Proof.Machine

/-- Nanoseconds of a time value. -/
def timeNs (v : BitVec 64) : Nat := fld v.toNat 0 30

/-- The copies of the time base that the other dies hold, by SOURCE number (R402), go on with the old time until the new one reaches them, within 1 us:
a free value (R447, place 100 of log entry 8). -/
def TimeSt.lagging (t : TimeSt) (new : Int) : Tab (Int × Nat) :=
  (List.range 31).map fun i => let d := i + 1; (d, (tget t.copies d (0, 0)).1 + (t.total - new), Config.freeNat 100 [d, t.mono] % 1001)

/-- TIME_NOW takes a value exactly; VALID becomes 1 except while the state is INVALID (R447). -/
def TimeSt.put (t : TimeSt) (v : BitVec 64) : TimeSt :=
  { t with sec := fld v.toNat 30 34, ns := timeNs v, valid := t.valid || t.st != 4,
           copies := t.lagging ((fld v.toNat 30 34 : Int) * 1000000000 + timeNs v) }

/-- The payload of log 0x6301 (R447): old time, new time, source. -/
def applyBytes (old new : BitVec 64) (src : BitVec 16) : List Byte := bytesLE 8 old.toNat ++ bytesLE 8 new.toNat ++ bytesLE 2 src.toNat

/-- An apply of the staged value now, or its refusal (R447). -/
def State.timeApply (s : State) (src : BitVec 16) : State :=
  let v := s.time.setVal
  if 1000000000 ≤ timeNs v then s.modTime fun t => { t with setErr := true }
  else
    let old := s.timeNow
    (s.modTime fun t => t.put v).log src 0x6301 (applyBytes old v src)

/-- A write to TIME_APPLY (R447). -/
def State.timeApplyWrite (s : State) (src : BitVec 16) (now atSec : Bool) : State :=
  if now && atSec then s.modTime fun t => { t with setErr := true }
  else if now then s.timeApply src
  else if atSec then
    if 1000000000 ≤ timeNs s.time.setVal then s.modTime fun t => { t with setErr := true }
    else s.modTime fun t => { t with pending := true, pendSrc := src }
  else s

/-- TIME_APPLY_NOW (R447), through PF1 BAR2. -/
def execTimeApplyNow (s : State) : Host.Outcome State Fault Refusal := .next (if s.pwr.domainUp then s.timeApplyWrite Src.bar2.code true false else s)

/-- TIME_APPLY_AT_SECOND (R447), through PF1 BAR2. -/
def execTimeApplyAtSecond (s : State) : Host.Outcome State Fault Refusal := .next (if s.pwr.domainUp then s.timeApplyWrite Src.bar2.code false true else s)

/-- SECOND_BOUNDARY_APPLY (R447): the boundary of a pending apply. -/
def execSecondBoundaryApply (s : State) : Host.Outcome State Fault Refusal :=
  .next (if s.time.pending then (s.modTime fun t => { t with pending := false }).timeApply s.time.pendSrc else s)

/-- A signed value saturated to 32 bits. -/
def sat32 (i : Int) : Int := max (-(2 ^ 31)) (min i (2 ^ 31 - 1))

/-- One offset measurement θ (R449): a step, or a slew to a rate of at most 200 ppm. -/
def State.servo (s : State) (theta rate : Int) : State :=
  let t := s.time
  if !t.measured || decide (100000 < theta.natAbs) then
    let v := timeOf (t.total - theta)
    let old := s.timeNow
    let s1 := s.modTime fun t => { t.put v with measured := true, goodRun := 0, st := 1, offset := sat32 theta }
    (s1.log Src.mgt.code 0x6301 (applyBytes old v Src.mgt.code)).log Src.mgt.code 0x6302 (bytesLE 8 (wrapN 64 theta))
  else
    let run := if theta.natAbs ≤ 1000 then min (t.goodRun + 1) 16 else 0
    s.modTime fun t => { t with offset := sat32 theta, rate := max (-200000) (min rate 200000), goodRun := run
                                st := if run = 16 then 2 else if t.st = 2 then 2 else 1 }

/-- PTP_MESSAGE (R448, R449): a measurement of the selected PTP source; the rate the slew reaches comes with it. -/
def execPtpMessage (m : PtpMeas) (s : State) : Host.Outcome State Fault Refusal :=
  .next (
    if (s.time.source ≠ 1 ∧ s.time.source ≠ 2) ∨ !m.valid ∨ s.time.st = 4 then s
    else
      let s1 := s.servo m.offsetNs m.ratePpb
      s1.modTime fun t => { t with utcOffset := if t.st = 2 then some m.utcOffset else t.utcOffset })

/-- PTP_HOLDOVER (R449): 3 s without a valid measurement; the rate is kept and VALID stays. -/
def execPtpHoldover (s : State) : Host.Outcome State Fault Refusal :=
  .next (if s.time.source ≠ 0 ∧ s.time.st < 3 then
      s.modTime fun t => { t with st := 3, goodRun := 0, utcOffset := none }
    else s)

/-- PPS_IN_EDGE (R448): the edge is stamped and, under SOURCE 3, taken as the nearest second boundary. The rate its slew
reaches is a free value (log entry 28). -/
def execPpsInEdge (s : State) : Host.Outcome State Fault Refusal :=
  .next (
    let s1 := s.modTime fun t => { t with pps := s.timeNow }
    if s.time.source ≠ 3 ∨ s.time.st = 4 then s1
    else
      let theta : Int := if s.time.ns < 500000000 then s.time.ns else (s.time.ns : Int) - 1000000000
      s1.servo theta (Config.pick 61 [s.time.rate, theta]))

/-- A 32-bit read of the low half of TIME_NOW latches the high half for its interface (R446). -/
def State.timeLowRead (s : State) (iface : Nat) : BitVec 32 × State :=
  let v := s.timeNow.toNat
  (BitVec.ofNat 32 v, s.modTime fun t => { t with latches := tset t.latches iface (BitVec.ofNat 32 (v / 2 ^ 32)) })

/-- A 32-bit read of the high half returns the latched value, once (R446). -/
def State.timeHighRead (s : State) (iface : Nat) : BitVec 32 × State :=
  match tfind s.time.latches iface with
  | some v => (v, s.modTime fun t => { t with latches := tdel t.latches iface })
  | none => (BitVec.ofNat 32 (s.timeNow.toNat / 2 ^ 32), s)

/-- TIME_NOW_LOW_READ (R446). -/
def execTimeNowLowRead (iface : Fin 36) (s : State) : Host.Outcome State Fault Refusal := .next (s.timeLowRead iface).2

/-- UTC_OFFSET in seconds (R447). -/
def State.utcOffset (s : State) : Nat := s.time.utcOffset.getD 37

/-- The NVMe timestamp: UTC in milliseconds (R447). -/
def State.timestampMs (s : State) : Nat := (s.time.total - (s.utcOffset : Int) * 1000000000).toNat / 1000000

/-- A Set of the NVMe timestamp stages the time and applies it NOW (R447). -/
def State.setTimestamp (s : State) (ms : Nat) : State :=
  (s.modTime fun t => { t with setVal := timeOf ((ms : Int) * 1000000 + (s.utcOffset : Int) * 1000000000) }).timeApplyWrite Src.pf0.code true false

end Sys2Proof.Machine
end

