-- ==== Sys2Proof/Machine/NvmeBase.lean ====
section
/-! DEFINITION. The NVMe controller's completions and asynchronous events (R341, R342, R370; the base specification's
formats, log entry 6). -/

namespace Sys2Proof.Machine

/-- Status codes (R341 and the base specification): SCT × 256 + SC. -/
def nvOk : Nat := 0x000
def nvInvalidOpcode : Nat := 0x001
def nvInvalidField : Nat := 0x002
def nvInternal : Nat := 0x006
def nvAborted : Nat := 0x007
def nvSqDeleted : Nat := 0x008
def nvInvalidNs : Nat := 0x00B
def nvSequence : Nat := 0x00C
def nvPrpOffset : Nat := 0x013
def nvProtected : Nat := 0x020
def nvLbaRange : Nat := 0x080
def nvCqInvalid : Nat := 0x100
def nvQueueId : Nat := 0x101
def nvQueueSize : Nat := 0x102
def nvTooManyEvents : Nat := 0x105
def nvFwSlot : Nat := 0x106
def nvFwImage : Nat := 0x107
def nvVector : Nat := 0x108
def nvLogPage : Nat := 0x109
def nvFwReset : Nat := 0x10B
def nvQueueDelete : Nat := 0x10C
def nvNotSaveable : Nat := 0x10D
def nvWriteFault : Nat := 0x280
def nvReadError : Nat := 0x281

/-- A submission queue and a completion queue by number. -/
def State.sq (s : State) (q : Nat) : Option NvmeSq := tfind s.nvme.sqs q
def State.cq (s : State) (q : Nat) : Option NvmeCq := tfind s.nvme.cqs q

/-- The host address of an NVMe pointer as a device physical address (R103). -/
def hostPa (a : Nat) : Nat := 0x1000000000000 + a % 2 ^ 48

/-- The 16 bytes of a completion queue entry. -/
def nvEntry (dw0 head sq cid status : Nat) (phase : Bool) : List Byte :=
  bytesLE 4 dw0 ++ zeros 4 ++ bytesLE 2 head ++ bytesLE 2 sq ++ bytesLE 2 cid ++ bytesLE 2 (b2n phase + 2 * status)

/-- Writes a completion of a command of queue `q` and raises the vector of its completion queue (R370); an error enters
the error log (R339). -/
def State.nvComplete (s : State) (q : Nat) (cmd : NvmeCmd) (status dw0 : Nat) : State :=
  match s.sq q with
  | none => s
  | some x => match s.cq x.cq with
    | none => s
    | some c =>
      let s1 := s.paWrite (hostPa (c.base + 16 * c.tail)) (nvEntry dw0 x.head q cmd.cid.toNat status c.phase)
      let next := (c.tail + 1) % c.size
      let s2 := s1.modNvme fun n => { n with
        cqs := tset n.cqs x.cq { c with tail := next, phase := if next = 0 then !c.phase else c.phase }
        errLog := if status = nvOk then n.errLog
          else (BitVec.ofNat 80 (status + q * 2 ^ 16 + cmd.cid.toNat * 2 ^ 32 + cmd.nsid.toNat * 2 ^ 48) :: n.errLog).take 64
        errCount := if status = nvOk then n.errCount else n.errCount + 1 }
      if c.ien then s2.raise0 c.vector else s2

/-- Posts the events whose type is armed while requests are outstanding (R342). -/
def postEvents : List (Nat × Nat × Nat) → State → State
  | [], s => s
  | e :: es, s =>
    if s.nvme.eventMasked.contains e.1 then postEvents es s
    else match s.nvme.aers with
      | [] => s
      | cid :: rest =>
        let s1 := s.modNvme fun n => { n with aers := rest, events := dropFirst (· == e) n.events, eventMasked := n.eventMasked ++ [e.1] }
        postEvents es (s1.nvComplete 0 { cid := cid } nvOk (e.1 + e.2.1 * 2 ^ 8 + e.2.2 * 2 ^ 16))

/-- An event occurs (R342): type, information, log page. Two of one type while it is masked are one. -/
def State.nvEvent (s : State) (type info page : Nat) : State :=
  if s.nvme.rdy then
    let s1 := s.modNvme fun n =>
      let old := n.events.any fun e => e == (type, info, page) || (e.1 == type && n.eventMasked.contains type)
      { n with events := if old then n.events else n.events ++ [(type, info, page)] }
    postEvents s1.nvme.events s1
  else s

/-- The bits of Asynchronous Event Configuration that enable an event (R338, R342). -/
def State.eventOn (s : State) (bit : Nat) : Bool := bitN (tget s.nvme.feats 0x0B 0).toNat bit

/-- The composite temperature in kelvins: MGT supplies it, by a rule not stated (log entry 29). -/
def State.composite (s : State) : Nat := Config.freeNat 60 (s.mgt.sensors.map fun e => e.2.value.toNat) % 2 ^ 16

/-- SMART critical warning bits (R339). -/
def State.warnNow (s : State) : BitVec 8 :=
  let spare := s.flash.dies.any fun e => decide (e.2.spare ≤ 6)
  let hiTh := (tget s.nvme.feats 0x04 0).toNat % 2 ^ 16
  let under := (tget s.nvme.feats 0x104 0).toNat % 2 ^ 16
  let temp := (hiTh != 0 && decide (hiTh ≤ s.composite)) || (under != 0 && decide (s.composite ≤ under))
  BitVec.ofNat 8 (b2n spare + 2 * b2n temp + 4 * b2n s.nvme.lostSincePor + 8 * b2n (s.mediaReadOnly || s.mgt.held || s.pwr.holdup == 3))

/-- A change of any critical warning bit raises an event (R342). -/
def State.checkWarn (s : State) : State :=
  let w := s.warnNow
  if w = s.nvme.warn then s
  else
    let d := w ^^^ s.nvme.warn
    let s1 := s.modNvme fun n => { n with warn := w }
    (List.range 4).foldl (fun s i => if bitN d.toNat i && s.eventOn i then s.nvEvent 1 (if i = 0 then 2 else if i = 1 then 1 else 0) 2 else s) s1

/-- Work that reads or programs flash arrives (R345, R346): an entry to a power state is abandoned, and in PS2 the exit to
the operational state held last begins. -/
def State.flashWake (s : State) : State :=
  s.modNvme fun n => { n with psTarget := if n.ps = 2 then (if n.psTarget = 2 then n.psOper else n.psTarget) else n.ps }

/-- Runs work on the flash side; in PS2 it waits for the exit and is never refused (R345). -/
def State.flashWork (s : State) (go : State → State) : State :=
  let s1 := s.flashWake
  if s1.nvme.ps = 2 then s1 else go s1

/-- As flashWork, for a job of the table. -/
def State.flashJob (s : State) (id : Nat) (go : State → State) : State := if (s.job id).isSome then s.flashWork go else s

end Sys2Proof.Machine
end

