-- ==== Sys2Proof/Machine/Extent.lean ====
section
/-! DEFINITION. Writing to the medium (R303-R306, R311-R317): rows and stripes, the programs of one-bit and QLC wordlines,
relocations, and the extents of search namespaces. -/

namespace Sys2Proof.Machine

/-! Rows. -/

/-- The lowest-numbered erased free block of an NAND die outside the blocks `keep` names (R303, R304; log entry 25). -/
def State.freeOf (s : State) (ch die : Nat) (keep : Nat → Bool) : Option Nat :=
  (List.range 2048).findSome? fun n =>
    let k := ch * 2 ^ 15 + die * 2 ^ 11 + n
    let b := s.blk k
    if b.pool == .free && !b.dirty && !keep k then some k else none

/-- A block joins a row in a mode: erased again when its mode changes (R303). -/
def State.joinRow (s : State) (k row : Nat) (oneBit parity : Bool) : State :=
  (s.modBlk k fun b => { b with oneBit := oneBit, row := row, nextPage := 0, valid := 0, reads := 0, opened := s.flash.openSeq,
                                wear := if b.oneBit = oneBit then b.wear else b.wear + if oneBit then 1 else 20 }).setPool k
    (if parity then .parity else .opened)

/-- Opens the next row of a group (R304): one block of each die of the group, at the position of `fix` that block unless the
row has its parity there; C is computed anew for a one-bit row (R312). -/
def State.openRow (s : State) (h die : Nat) (oneBit : Bool) (fix : Option Nat) (keep : Nat → Bool) : State :=
  let g := 16 * h + die
  let num := tget s.flash.groupRows g 0
  let id := s.flash.rowNext
  let ms := (List.range 32).map fun i =>
    if !s.chanOk (32 * h + i) then noBlock
    else match fix.filter fun k => blockChan k == 32 * h + i && i != num % 32 with
      | some k => k
      | none => (s.freeOf (32 * h + i) die keep).getD noBlock
  let s1 := s.each ((List.range 32).zip ms) fun s e => if e.2 = noBlock then s else s.joinRow e.2 id oneBit (e.1 == num % 32)
  s1.modFlash fun q => { q with
    rows := q.rows ++ [{ id := id, group := g, num := num, oneBit := oneBit, members := ms }]
    rowNext := id + 1, groupRows := tset q.groupRows g (num + 1), openSeq := q.openSeq + 1
    capUser := if oneBit then s.millCap else q.capUser }

/-- May a data member take its next wordline: within two wordlines, 32 stripes, of the slowest (R305)? -/
def State.memberRoom (s : State) (r : RowSt) (k : Nat) : Bool :=
  let b := s.blk k
  decide (b.nextPage < b.lines) && r.data.all fun m => decide (b.nextPage < (s.blk m).nextPage + 2)

/-- The block of a channel that takes the next wordline in a mode. -/
def State.openMember (s : State) (ch : Nat) (oneBit : Bool) : Option Nat :=
  (s.flash.rows.filter fun r => r.oneBit == oneBit && !r.closed && r.group / 16 == ch / 32).findSome? fun r =>
    (r.data.find? fun k => blockChan k == ch).bind fun k => if s.memberRoom r k then some k else none

/-- Open rows of a group. -/
def State.openRows (s : State) (g : Nat) : Nat := (s.flash.rows.filter fun r => r.group == g && !r.closed).length

/-- As openMember, opening rows (at most 4 a group, in the group with the fewest) until one serves the channel. -/
def State.needMember (ch : Nat) (oneBit : Bool) : Nat → State → Option Nat × State
  | 0, s => (none, s)
  | fuel + 1, s =>
    match s.openMember ch oneBit with
    | some k => (some k, s)
    | none =>
      let h := ch / 32
      let least := ((List.range 16).map fun d => s.openRows (16 * h + d)).foldl min 4
      match (List.range 16).find? fun d => s.openRows (16 * h + d) == least with
      | some d => if least < 4 then State.needMember ch oneBit fuel (s.openRow h d oneBit none fun _ => false) else (none, s)
      | none => (none, s)

/-- The channel has a block that can take a wordline now. -/
def State.memberReady (s : State) (ch : Nat) (oneBit : Bool) : Bool := (State.needMember ch oneBit 4 s).1.isSome

/-- The data members of a row behind the foremost by more than 32 stripes are padded, with pages that change no exclusive-or
(R305, R316; log entry 25). -/
def State.padRow (s : State) (id : Nat) (upTo : Nat → Nat) : State :=
  match s.flash.rows.find? fun r => r.id == id && !r.closed with
  | none => s
  | some r =>
    let top := (r.data.map fun m => (s.blk m).nextPage).foldl max 0
    (s.each r.data fun s m => s.modBlk m fun b => { b with nextPage := max b.nextPage (min b.lines (upTo top)) }).settleRow id

/-- Room for a fifth open row of a group: the row furthest on, with no program in flight, is padded to its end and closes
(R305; log entry 25). -/
def State.closeOne (s : State) (g : Nat) : State :=
  let rs := s.flash.rows.filter fun r => r.group == g && !r.closed && !(s.flash.progs.any fun e => r.data.contains e.2.block)
  let far := fun (r : RowSt) => (r.data.map fun m => (s.blk m).nextPage).foldl max 0
  let most := (rs.map far).foldl max 0
  match rs.find? fun r => far r == most with
  | some r => s.padRow r.id fun _ => 512
  | none => s

/-! Programs. -/

/-- Address of the i-th unit of a wordline (R301, R302): through UNIT, PLANE and PAGE. -/
def lineUnit (k page i : Nat) : Nat := k * 2 ^ 15 + (page + i / 16) * 16 + i % 16

/-- The tweak of a unit (R311): LBA in bits 63:0, NSID in bits 71:64. -/
def UnitData.tweak (u : UnitData) : BitVec 128 := BitVec.ofNat 128 (u.lba % 2 ^ 64 + u.nsid % 2 ^ 8 * 2 ^ 64)

/-- The ciphertext of a unit (R311). -/
def UnitData.cipher (u : UnitData) : BitVec 32768 := Config.xts u.nsid u.keyGen u.tweak u.data

/-- Data of a page by the units in it, 0 where padded. -/
def pageData (us : List UnitData) : BitVec 131072 :=
  BitVec.ofNat 131072 (((List.range 4).zip us).foldl (fun a e => a + (e.2.cipher.toNat <<< (32768 * e.1))) 0)

/-- The pages of a wordline enter the running exclusive-ors of their stripes (R304, R305). -/
def RowSt.mix (r : RowSt) (page : Nat) (us : List UnitData) : RowSt :=
  { r with xors := (List.range 16).foldl (fun x i =>
      let key := 4 * page + i
      tset x key (tget x key 0 ^^^ pageData ((us.drop (4 * i)).take 4))) r.xors }

/-- Units stand on the medium at the places of a wordline, and in its stripes. -/
def State.putUnits (s : State) (k page : Nat) (us : List UnitData) : State :=
  let id := (s.blk k).row
  s.modFlash fun q => { q with
    units := ((List.range us.length).zip us).foldl (fun t e => tset t (lineUnit k page e.1) e.2) q.units
    rows := modFirst (fun r => r.id == id) (fun r => r.mix page us) q.rows }

/-- The next wordline of a block is programmed whole: its first page, and the state. -/
def State.nextLine (s : State) (k : Nat) (us : List UnitData) : Nat × State :=
  let page := 4 * (s.blk k).nextPage
  (page, (s.modBlk k fun b => { b with nextPage := b.nextPage + 1, reads := 0 }).putUnits k page us)

/-- Entries of a set that stand recorded: each is applied, and one journal record names them (R314, R324, R328). -/
def State.applyEnts (s : State) (f : Nat) (es : List (Nat × Nat × MapEnt)) : State :=
  (s.each es fun s e => s.setEnt e.1 e.2.1 e.2.2).journal f (.mapPiece es)

/-- The entry a programmed unit gives its logical block. -/
def unitEnt (addr : Nat) (oneBit : Bool) : MapEnt := { valid := true, millpond := oneBit, unit := addr }

/-- A gathered wordline starts to program: not before the hold-up bank is READY, nor during the power-loss sequence, nor
while the channel programs (R311, R329, R463). -/
def State.startProg (s : State) (ch : Nat) : State :=
  let g := tget s.flash.gather ch []
  if g.isEmpty || thas s.flash.progs ch || s.dieWaits (fcOf ch) || s.pwr.lossRunning || !s.chanOk ch then s
  else match State.needMember ch true 4 s with
    | (none, s1) => s1
    | (some k, s1) =>
      let p : ProgSt := { block := k, page := 4 * (s1.blk k).nextPage, units := g.take 64 }
      (s1.modBlk k fun b => { b with nextPage := b.nextPage + 1, reads := 0 }).modFlash fun q =>
        { q with gather := tset q.gather ch (g.drop 64), progs := tset q.progs ch p
                 nextChan := if q.nextChan = ch then (ch + 1) % 64 else q.nextChan }

/-- Writes that waited for the Millpond join their wordlines once it holds less than C (R313). -/
def State.millFreed (s : State) : State :=
  if s.millFull || s.flash.waitMill.isEmpty then s
  else (s.modFlash fun q => { q with waitMill := [] }).each s.flash.waitMill fun s e =>
    (s.modFlash fun q => { q with gather := tset q.gather e.1 (tget q.gather e.1 [] ++ e.2) }).startProg e.1

/-- A wait of a write for the Millpond is logged, at most once a second a channel (R313). -/
def State.noteWait (s : State) (ch : Nat) : State :=
  s.logRated (rateKey 0x300A ch) oneSec (fcSource (fcOf ch)) 0x300A (bytesLE 1 ch)

/-- Recorded entries; what they release may let waiting writes go on (R313). -/
def State.recordEnts (s : State) (f : Nat) (es : List (Nat × Nat × MapEnt)) : State := (s.applyEnts f es).millFreed

/-- Units that a block holds and the map still names outside extents, in rising address. -/
def State.liveUnits (s : State) (k : Nat) : List Nat :=
  (s.flash.units.filter fun e => unitBlock e.1 == k && (let m := s.mapEnt e.2.nsid e.2.lba; m.valid && m.unit == e.1) &&
    !(s.flash.runs.any fun r => decide (r.unit ≤ e.1) && decide (e.1 < r.unit + 4 * r.pages))).map (·.1)

/-- Fewer than 2,048 spare blocks left on a die: every namespace becomes read-only (R327). -/
def State.checkSpare (s : State) (f : Nat) : State :=
  let d := s.fcd f
  if 128787 < 8 * d.retired + 8 * 2048 ∧ !d.readOnly then
    ((s.modFcd f fun d => { d with readOnly := true }).log (fcSource f) 0x300B (bytesLE 1 f)).checkWarn
  else s

/-- A block is retired after a failure, whose log entry stands before that of the retirement (R315, R475). -/
def State.lostBlock (s : State) (k code : Nat) : State :=
  let f := fcOf (blockChan k)
  (((s.retireBlock k).log (fcSource f) code (bytesLE 4 k)).log (fcSource f) 0x8505 (bytesLE 4 k)).checkSpare f

/-- A program of a block has failed (R315). -/
def State.badBlock (s : State) (k : Nat) : State := s.lostBlock k 0x3001

/-- One wordline of units, each with the source it replaces, if any, is programmed in a block: the map follows wherever an entry
still names its source (R314). -/
def State.programIn (s : State) (k : Nat) (oneBit : Bool) (us : List (UnitData × Option Nat)) : State :=
  let r := s.nextLine k (us.map (·.1))
  let es := ((List.range us.length).zip us).filterMap fun e =>
    let u := e.2.1
    let cur := r.2.mapEnt u.nsid u.lba
    let ok := match e.2.2 with
      | some src => cur.valid && cur.unit == src
      | none => true
    if ok then some (u.nsid, u.lba, { unitEnt (lineUnit k r.1 e.1) oneBit with discarded := e.2.2.isSome && cur.discarded }) else none
  (r.2.recordEnts (fcOf (blockChan k)) es).settleRow (s.blk k).row

/-- A wordline is programmed as one net effect: relocations, and writes of the module's own agents (log entry 16). `bad` names
the blocks whose program fails: such a block is retired, its valid units are relocated, and the wordline goes to another
(R315). With no block to take it nothing is written. -/
def State.programNow (ch : Nat) (oneBit : Bool) (us : List (UnitData × Option Nat)) : Nat → List Nat → State → State
  | 0, _, s => s
  | fuel + 1, bad, s =>
    match State.needMember ch oneBit 4 s with
    | (none, s1) => s1
    | (some k, s1) =>
      if bad.contains k then
        let rest := bad.filter (· != k)
        let live := s1.liveUnits k
        let s2 := (s1.badBlock k).each (chunks 64 live.length live) fun s part =>
          State.programNow (blockChan k) (s.blk k).oneBit (part.map fun u => (tget s.flash.units u {}, some u)) fuel rest s
        State.programNow ch oneBit us fuel rest s2
      else s1.programIn k oneBit us

/-- Relocates units, wordline by wordline, into a mode on a channel (R314). -/
def State.relocate (s : State) (ch : Nat) (oneBit : Bool) (us bad : List Nat) : State :=
  s.each (chunks 64 us.length us) fun s part =>
    State.programNow ch oneBit (part.map fun u => (tget s.flash.units u {}, some u)) (bad.length + 1) bad s

/-! Extents of search namespaces. -/

/-- Consecutive erased free blocks of an NAND die, the lowest (R316). -/
def State.freeRun (s : State) (ch die n : Nat) : Option Nat :=
  (List.range (2049 - n)).findSome? fun b =>
    let k := ch * 2 ^ 15 + die * 2 ^ 11 + b
    if (List.range n).all fun i => (s.blk (k + i)).pool == .free && !(s.blk (k + i)).dirty then some k else none

/-- Mean wear of the blocks in service of an NAND die, in 1/65,536 of a wear unit (R316). -/
def State.nandWear (s : State) (ch die : Nat) : Nat :=
  let bs := s.flash.blocks.filter fun e => e.1 / 2048 == ch * 16 + die
  65536 * ((bs.filter fun e => e.2.pool != .retired).map fun e => e.2.wear).sum / max 1 (2048 - (bs.filter fun e => e.2.pool == .retired).length)

/-- A data block of an open QLC row on an NAND die with room for `w` more wordlines. -/
def State.extentBlock (s : State) (ch die w : Nat) : Option Nat :=
  (s.flash.rows.filter fun r => !r.oneBit && !r.closed && r.group == 16 * (ch / 32) + die).findSome? fun r =>
    r.data.find? fun k => blockChan k == ch && decide ((s.blk k).nextPage + w ≤ 512)

/-- A block joins a QLC row of its group as a data member: rows open in their order until one has its parity elsewhere (R304,
R316). -/
def State.joinExtent (k : Nat) (keep : Nat → Bool) : Nat → State → State
  | 0, s => s
  | fuel + 1, s =>
    let h := blockChan k / 32
    let die := k / 2 ^ 11 % 16
    let g := 16 * h + die
    let s1 := if 4 ≤ s.openRows g then s.closeOne g else s
    let num := tget s1.flash.groupRows g 0
    let s2 := s1.openRow h die false (some k) keep
    if num % 32 = blockChan k % 32 then State.joinExtent k keep fuel s2 else s2

/-- Wordlines of an extent are programmed one after another, into the next block where one is full (R316). The other members of
the row are padded behind them (R305). -/
def State.putExtent (keep : Nat → Bool) : List (List UnitData) → Nat → State → State
  | [], _, s => s
  | us :: rest, k, s =>
    let s1 := if (s.blk k).pool = .free then State.joinExtent k keep 2 s else s
    let r := (s1.modBlk k fun b => { b with valid := b.valid + us.length }).nextLine k us
    let s2 := (r.2.settleRow (s1.blk k).row).padRow (s1.blk k).row fun top => top - 2
    State.putExtent keep rest (if (s2.blk k).nextPage < 512 then k else k + 1) s2

/-- The dies of a channel that have room for an extent of `w` wordlines, each with the block it starts in. -/
def State.extentRoom (s : State) (ch w : Nat) : List (Nat × Nat) :=
  (List.range 16).filterMap fun d =>
    match s.extentBlock ch d w with
    | some k => some (d, k)
    | none => (s.freeRun ch d ((w + 511) / 512)).map fun k => (d, k)

/-- Places the units of an extent on a channel: on the die of the lowest mean wear that has room, from a wordline boundary, in
consecutive good data blocks (R316); its entries name them from then on, in one journal record. A block whose program fails is
retired, and another run is taken (R315). None: no die has room. -/
def State.placeUnits (nsid lba ch : Nat) (us : List UnitData) : Nat → List Nat → State → Option State
  | 0, _, _ => none
  | fuel + 1, bad, s =>
    let w := max 1 ((us.length + 63) / 64)
    let room := s.extentRoom ch w
    let least := (room.map fun e => s.nandWear ch e.1).foldl min ((room.head?.map fun e => s.nandWear ch e.1).getD 0)
    match room.find? fun e => s.nandWear ch e.1 == least with
    | none => none
    | some (_, k) =>
      let at_ := if (s.blk k).pool = .free then 0 else (s.blk k).nextPage
      let n := (at_ + w + 511) / 512
      match (List.range n).find? fun i => bad.contains (k + i) with
      | some i =>
        let live := s.liveUnits (k + i)
        let s1 := (s.badBlock (k + i)).relocate ch false live (bad.filter (· != k + i))
        State.placeUnits nsid lba ch us fuel (bad.filter (· != k + i)) s1
      | none =>
        let r : RunSt := { nsid := nsid, lba := lba, unit := k * 2 ^ 15 + at_ * 64, pages := us.length / 4 }
        let s1 := State.putExtent (fun b => decide (k ≤ b) && decide (b < k + n)) (chunks 64 us.length us) k s
        some ((s1.modFlash fun q => { q with runs := q.runs ++ [r] }).remap r true)

/-- A run moves as a whole: a new run is written with the ciphertext unchanged, every entry of the extent switches in one
record, and the old run is freed once nothing holds it. One that cannot be placed stays, and log 0x3008 records it (R317). -/
def State.moveRun (s : State) (r : RunSt) (bad : List Nat) : State :=
  let ch := r.unit / 2 ^ 30
  let s1 := s.modFlash fun q => { q with runs := modFirst (fun x => x.unit == r.unit) (fun x => { x with moved := true }) q.runs }
  match State.placeUnits r.nsid r.lba ch (r.units.map fun u => tget s.flash.units u {}) (bad.length + 1) bad s1 with
  | some s2 => s2.freeRunAt r.unit
  | none => s.log (fcSource (fcOf ch)) 0x3008 (bytesLE 1 r.nsid ++ bytesLE 8 r.lba)

/-- Every current run with a unit in a block moves. -/
def State.moveRunsOf (s : State) (k : Nat) (bad : List Nat) : State :=
  s.each (s.flash.runs.filter fun r => !r.moved && r.inBlock k) fun s r => s.moveRun r bad

/-- The data of a block leaves it: units under R314, in the block's own mode, and runs under R317. -/
def State.relocateBlock (s : State) (k : Nat) (bad : List Nat) : State :=
  (s.relocate (blockChan k) (s.blk k).oneBit (s.liveUnits k) bad).moveRunsOf k bad

/-- Runs in blocks that failed programs have retired move too (R317). -/
def State.moveRetired (s : State) (bad : List Nat) : State :=
  s.each (bad.filter fun k => (s.blk k).pool == .retired) fun s k => s.moveRunsOf k []

/-- The images of an extent's pages as units of its namespace, four to a page. -/
def pageUnits (nsid lba gen : Nat) (pages : List (List Byte)) : List UnitData :=
  ((List.range pages.length).zip pages).flatMap fun e => (List.range 4).map fun i =>
    { nsid := nsid, lba := lba + 4 * e.1 + i, keyGen := gen, data := BitVec.ofNat 32768 (leNat ((padTo 16384 e.2).drop (4096 * i) |>.take 4096)) }

end Sys2Proof.Machine
end

