-- ==== Sys2Proof/Machine/Flash.lean ====
section
/-! DEFINITION. The flash side's commands (R305, R306, R309-R330): gathering and programs of writes, reads and their ladder,
folding, collection, wear levelling and refresh, discards, and the journal. -/

namespace Sys2Proof.Machine

/-- Key generation of a namespace (R418, R420). -/
def State.keyGen (s : State) (nsid : Nat) : Nat := tget s.mgt.keyRegs nsid 0

/-- The channel whose wordline takes the next write: the one gathering, or the next in turn whose die answers (log entry 25). -/
def State.writeChan (s : State) : Nat :=
  ((List.range 64).map fun i => (s.flash.nextChan + i) % 64).find? s.chanOk |>.getD s.flash.nextChan

/-- Units of one atomic piece join a wordline, or wait for the Millpond (R311, R313, R324). -/
def State.gatherPiece (s : State) (order : Nat) (us : List UnitData) : State :=
  let ch := s.writeChan
  let id := s.flash.pieceNext
  let gs : List GUnit := us.map fun u => { u := u, order := order, journal := id }
  let s1 := s.modFlash fun q => { q with pieceNext := id + 1, pieces := tset q.pieces id (us.length, []) }
  if s.millFull then
    (s1.modFlash fun q => { q with waitMill := tset q.waitMill ch (tget q.waitMill ch [] ++ gs) }).noteWait ch
  else
    let s2 := s1.modFlash fun q => { q with gather := tset q.gather ch (tget q.gather ch [] ++ gs) }
    if 64 ≤ (tget s2.flash.gather ch []).length then s2.startProg ch else s2

/-- The atomic pieces of a write: whole up to 64 blocks, else the parts cut at 256 KiB (R324). -/
def atomicPieces (lba n : Nat) : List (Nat × Nat) :=
  if n ≤ 64 then [(lba, n)]
  else (List.range ((lba + n - 1) / 64 - lba / 64 + 1)).map fun i =>
    let lo := max lba ((lba / 64 + i) * 64)
    let hi := min (lba + n) ((lba / 64 + i + 1) * 64)
    (lo, hi - lo)

/-- A unit to be written. -/
def State.unitFor (s : State) (nsid lba : Nat) (bs : List Byte) : UnitData :=
  { nsid := nsid, lba := lba, keyGen := s.keyGen nsid, data := BitVec.ofNat 32768 (leNat (bs.take 4096)) }

/-- A write of a module agent to a device namespace, as one net effect, piece by piece, charged to a partition (R261, R324; log
entry 16). None: the Millpond holds C, or no block can take the wordline now, and the write waits (R313). -/
def State.nsWriteFor (s : State) (p nsid lba : Nat) (bs : List Byte) : Option State :=
  let r := (atomicPieces lba (bs.length / 4096)).foldl (fun (acc : Option State) pc => acc.bind fun s =>
    if s.millFull || !s.memberReady s.writeChan true then none
    else
      let us := (List.range pc.2).map fun i => (s.unitFor nsid (pc.1 + i) ((bs.drop ((pc.1 + i - lba) * 4096)).take 4096), (none : Option Nat))
      let s1 := State.programNow s.writeChan true us 1 [] s
      some (s1.modFlash fun q => { q with nextChan := (q.nextChan + 1) % 64 })) (some s)
  r.map fun s1 => s1.charge p 10 (some 3) bs.length

/-- What a read of one logical block returns (R310). -/
inductive LbRead where
  | data (d : BitVec 32768)
  | lost
  deriving DecidableEq, Repr

/-- Reads a logical block (R310); a namespace without a key reads as unmapped (R418). A discarded block gives its data or
zeros: a free choice. -/
def State.readLb (s : State) (nsid lba : Nat) : LbRead :=
  let e := s.mapEnt nsid lba
  if e.unreadable then .lost
  else if !e.valid || !thas s.mgt.keyRegs nsid then .data 0
  else if thas s.flash.lostUnits e.unit then .lost
  else
    let u : UnitData := tget s.flash.units e.unit {}
    if u.nsid ≠ nsid ∨ u.lba ≠ lba then .lost
    else if e.discarded && Config.freeNat 30 [s.free, nsid, lba] % 2 == 0 then .data 0
    else .data u.data

/-- The logical block whose entry names a unit. -/
def State.unitOwner (s : State) (u : Nat) : Option (Nat × Nat) :=
  (s.flash.map.find? fun e => e.2.valid && e.2.unit == u).map fun e => (e.1 / 2 ^ 40, e.1 % 2 ^ 40)

/-- Is a unit part of an index extent (R316)? -/
def State.unitRun (s : State) (u : Nat) : Option RunSt := s.flash.runs.find? fun r => decide (r.unit ≤ u) && decide (u < r.unit + 4 * r.pages)

/-- The data of a logical block is lost: UNREADABLE and log 0x3005 (R319). -/
def State.loseLba (s : State) (f n lba : Nat) : State :=
  let host := ((s.nsOf n).map fun x => x.purpose == 0).getD false
  let s2 := (s.setEnt n lba { unreadable := true }).log (fcSource f) 0x3005 (bytesLE 1 n ++ bytesLE 8 lba)
  if host then ((s2.modFlash fun q => { q with hostLost := q.hostLost + 1 }).modNvme fun q => { q with lostSincePor := true }).checkWarn else s2

/-- The page header of the unit that an entry names agrees with the entry (R310, R319). -/
def State.headerOk (s : State) (nsid lba : Nat) : Bool :=
  let e := s.mapEnt nsid lba
  let u : UnitData := tget s.flash.units e.unit {}
  u.nsid == nsid && u.lba == lba && !thas s.flash.lostUnits e.unit

/-- A map page is lost (R308, R319): its blocks are rebuilt from the page headers of their units, those that cannot be become
UNREADABLE, and the page is written anew. -/
def State.loseMapPage (s : State) (f key : Nat) : State :=
  let bad := ((pageLbas key).filter fun l => (s.mapEnt l.1 l.2).valid && !s.headerOk l.1 l.2)
  (s.each bad fun s l => s.loseLba f l.1 l.2).writeBack key

/-- A unit is lost (R319): UNREADABLE on the entry, the page of an extent, or a map page. -/
def State.loseUnit (s : State) (f u : Nat) : State :=
  let s1 := (s.modFcd f fun d => { d with lost := satAdd 16 d.lost 1 }).modFlash fun q => { q with lostUnits := tset q.lostUnits u () }
  if (s1.unitRun u).isSome then s1
  else match s1.unitOwner u with
    | some (n, lba) => s1.loseLba f n lba
    | none => match s1.flash.mapPages.find? fun e => e.2.ent.unit / 4 == u / 4 with
      | some (key, _) => (s1.modFlash fun q => { q with lostUnits := tdel q.lostUnits u }).loseMapPage f key
      | none => s1

/-- What reading a logical block does to the books: the map lookup, the reads its block has served, and the loss of a unit whose
header names another block (R309, R310, R320). -/
def State.readLbFx (s : State) (nsid lba : Nat) : State :=
  let e := s.mapEnt nsid lba
  let s1 := s.mapTouch nsid lba false
  let s2 := if e.valid && thas s.mgt.keyRegs nsid then
      let s2 := s1.modBlk (unitBlock e.unit) fun b => { b with reads := b.reads + 1 }
      if s.headerOk nsid lba then s2 else s2.loseUnit (fcOf (e.unit / 2 ^ 30)) e.unit
    else s1
  s2.setFree (s2.free + 1)

/-- Reads `n` logical blocks, each with its outcome, charged to a partition (R261). -/
def State.nsReadFor (s : State) (p nsid lba n : Nat) : List LbRead × State :=
  let r := (List.range n).foldl (fun acc i => (acc.1 ++ [acc.2.readLb nsid (lba + i)], acc.2.readLbFx nsid (lba + i))) (([] : List LbRead), s)
  (r.1, r.2.charge p 9 (some 2) (4096 * n))

/-- A read charged to the namespace's owner. -/
def State.nsRead (s : State) (nsid lba n : Nat) : List LbRead × State := s.nsReadFor (s.nsOwner nsid) nsid lba n

/-- Unmaps a range, as one atomic record (R337, R347). -/
def State.unmapRange (s : State) (nsid lba n : Nat) : State :=
  let es : List (Nat × Nat × MapEnt) := ((s.flash.map.filter fun e => decide (mapKey nsid lba ≤ e.1) && decide (e.1 < mapKey nsid lba + n)).map
    fun e => (nsid, e.1 - mapKey nsid 0, ({} : MapEnt)))
  s.recordEnts (lba / 3276 % 8) es

/-- Unmaps a whole namespace, its extents with it (R347, R421). -/
def State.unmapAll (s : State) (nsid : Nat) : State :=
  let s0 := s.each (s.flash.runs.filter fun r => r.nsid == nsid && !r.moved) fun s r => s.freeExtent nsid r.lba
  let s1 := s0.each (s0.flash.map.filter fun e => e.1 / 2 ^ 40 == nsid) fun s e => s.setEnt nsid (e.1 % 2 ^ 40) {}
  (s1.journal 0 (.unmapAll nsid)).millFreed

/-- Discards a range: the entries are marked in the cached copies of their pages, and the journal records it (R309, R323). -/
def State.discardRange (s : State) (nsid lba n : Nat) : State :=
  let ks := (s.flash.map.filter fun e => decide (mapKey nsid lba ≤ e.1) && decide (e.1 < mapKey nsid lba + n) && e.2.valid).map (·.1)
  let s1 := s.each ks fun s k => s.putEnt nsid (k - mapKey nsid 0) { tget s.flash.map k {} with discarded := true }
  s1.journal (lba / 3276 % 8) (.discard nsid lba n)

/-- WORDLINE_GATHER_EXPIRY (R311): the 8 µs end; the unused units are padded and the wordline is programmed. -/
def execWordlineGatherExpiry (ch : Fin 64) (s : State) : Host.Outcome State Fault Refusal := .next (s.startProg ch)

/-- One unit of a wordline stands: its atomic piece waits for its other units, or is recorded whole (R324). The answer
lists the NVMe commands whose units are recorded, with their number. -/
def State.unitDone (s : State) (f addr : Nat) (g : GUnit) : List (Nat × Nat) × State :=
  let pc := tget s.flash.pieces g.journal (1, [])
  let es := pc.2 ++ [(g.u.nsid, g.u.lba, unitEnt addr true)]
  if pc.1 ≤ 1 then
    ([(g.order, es.length)], (s.modFlash fun q => { q with pieces := tdel q.pieces g.journal }).recordEnts f es)
  else ([], s.modFlash fun q => { q with pieces := tset q.pieces g.journal (pc.1 - 1, es) })

/-- A page program has ended well (R311 step 3): the units stand, the stripes and the map follow. -/
def State.progDone (s : State) (ch : Nat) (p : ProgSt) : List (Nat × Nat) × State :=
  let s1 := (s.modFlash fun q => { q with progs := tdel q.progs ch }).putUnits p.block p.page (p.units.map (·.u))
  let r := ((List.range p.units.length).zip p.units).foldl (fun acc e =>
    let r := acc.2.unitDone (fcOf ch) (lineUnit p.block p.page e.1) e.2
    (acc.1 ++ r.1, r.2)) ([], s1)
  (r.1, r.2.settleRow (s.blk p.block).row)

/-- A page program has failed (R315): the block is retired, its units are relocated, and the write is programmed elsewhere: on its
channel, or on the next that has a block for it. The NVMe commands whose write no block can take end with an error (R20). -/
def State.progFailed (s : State) (ch : Nat) (p : ProgSt) : List Nat × State :=
  let s1 := s.modFlash fun q => { q with progs := tdel q.progs ch }
  let live := s1.liveUnits p.block
  let s2 := ((s1.badBlock p.block).relocate ch true live []).moveRunsOf p.block []
  match ((List.range 64).map fun i => (ch + i) % 64).find? fun c => s2.chanOk c && s2.memberReady c true with
  | some c => ([], (s2.modFlash fun q => { q with gather := tset q.gather c (p.units ++ tget q.gather c []) }).startProg c)
  | none =>
    let ids := p.units.map (·.journal)
    (p.units.map (·.order), s2.modFlash fun q => { q with pieces := q.pieces.filter fun e => !ids.contains e.1 })

/-- Wear in QLC erases (R322). -/
def BlockSt.erases (b : BlockSt) : Nat := b.wear / 20

/-- Moves the data of a block into another of the same NAND die, place by place, which takes its place in the row (R314, R322; log
entry 25). The target is erased again when its mode is another (R303). -/
def State.swapBlock (s : State) (k k2 : Nat) : State :=
  let us := s.flash.units.filter fun e => unitBlock e.1 == k
  let b := s.blk k
  let s1 := (s.setPool k2 b.pool).modBlk k2 fun x => { x with
    oneBit := b.oneBit, row := b.row, nextPage := b.nextPage, reads := 0, opened := b.opened
    wear := if x.oneBit = b.oneBit then x.wear else x.wear + if b.oneBit then 1 else 20 }
  let s2 := s1.modFlash fun q => { q with
    rows := q.rows.map fun r => { r with members := r.members.map fun m => if m = k then k2 else m }
    units := us.foldl (fun t e => tset t (e.1 + k2 * 2 ^ 15 - k * 2 ^ 15) e.2) q.units }
  let es := us.filterMap fun e =>
    let m := s.mapEnt e.2.nsid e.2.lba
    if m.valid ∧ m.unit = e.1 then some (e.2.nsid, e.2.lba, { m with unit := e.1 + k2 * 2 ^ 15 - k * 2 ^ 15 }) else none
  let s3 := s2.recordEnts (fcOf (blockChan k)) es
  s3.toFree k

/-- The data of a full block moves for wear levelling (R322): into the free block `k2`, or, where it holds a run, run by run and
unit by unit (R314, R317). -/
def State.levelBlock (s : State) (k k2 : Nat) : State :=
  if s.flash.runs.any fun r => r.inBlock k then s.relocateBlock k [] else s.swapBlock k k2

/-- The trigger of static wear levelling on a die, tested after every erase (R322). -/
def State.wearLevel (s : State) (f : Nat) : State :=
  if s.nvme.ps = 2 then s else
  let bs := (s.dieBlocks f).filter fun e => e.2.pool != .retired
  let hi := (bs.map fun e => e.2.erases).foldl max 0
  let lo := if bs.length + (s.fcd f).retired < 262144 then 0 else (bs.map fun e => e.2.erases).foldl min hi
  if s.flash.wlSpread < hi - lo then
    let full := bs.filter fun e => e.2.pool == .full
    let least := (full.map fun e => e.2.erases).foldl min hi
    match full.find? fun e => e.2.erases == least with
    | none => s
    | some (k, _) =>
      let fr := (List.range 2048).filterMap fun n =>
        let k2 := k / 2048 * 2048 + n
        if (s.blk k2).pool == .free && !(s.blk k2).dirty then some (k2, (s.blk k2).erases) else none
      let most := (fr.map (·.2)).foldl max 0
      match fr.find? fun e => e.2 == most with
      | none => s
      | some (k2, _) => (s.levelBlock k k2).logRated (rateKey 0x3007 f) (60 * oneSec) (fcSource f) 0x3007 (bytesLE 1 f)
  else s

/-- ERASE_COMPLETE (R303, R315, R322): a free block that awaited its erase is erased in its mode, or, where the erase
failed, retired. -/
def execEraseComplete (block : BitVec 21) (ok : Bool) (s : State) : Host.Outcome State Fault Refusal :=
  .next (
    let k := block.toNat
    let f := fcOf (blockChan k)
    let b := s.blk k
    if b.pool ≠ .free ∨ !s.pwr.domainUp then s
    else if ok then (s.modBlk k fun b => { b with nextPage := 0, dirty := false, reads := 0, wear := b.wear + if b.oneBit then 1 else 20 }).wearLevel f
    else s.lostBlock k 0x3002)

/-- The stripe of a page is complete, so that it can be rebuilt (R305): its parity page is programmed, in the row of its block or
in the row that a retired block stood in. -/
def State.stripeDone (s : State) (u : Nat) : Bool :=
  let b := s.blk (unitBlock u)
  let id := if b.pool = .retired then b.exRow else b.row
  match s.flash.rows.find? fun r => r.id == id with
  | some r => thas r.parityDone (u / 4 % 2 ^ 13)
  | none => false

/-- A rebuilt page is written back as a refresh (R314, R318): its valid units, or the run it belongs to. -/
def State.refreshPage (s : State) (u : Nat) : State :=
  match s.unitRun u with
  | some r => if r.moved then s else s.moveRun r []
  | none =>
    let page := ((List.range 4).map fun i => u / 4 * 4 + i).filter fun v => (s.unitOwner v).isSome
    s.relocate (u / 2 ^ 30) (s.blk (unitBlock u)).oneBit page []

/-! Ingest stores. -/

/-- An ingest store is a circular log: before an append of `n` bytes at a position, the oldest 16 KiB units are reclaimed until
it holds them (R300). Whether any was reclaimed, and the state. -/
def State.reclaim (s : State) (nsid pos n : Nat) : Bool × State :=
  let size := ((s.nsOf nsid).map fun x => x.size).getD 0
  let base := tget s.ingest.storeBase nsid 0
  let k := (pos + n - (base + size * 4096) + 16383) / 16384
  if k = 0 then (false, s)
  else (true, (s.each (List.range k) fun s i =>
    s.each (List.range 4) fun s j => s.unmapRange nsid ((base / 4096 + 4 * i + j) % max size 1) 1).modIngest fun g =>
      { g with storeBase := tset g.storeBase nsid (base + 16384 * k) })

/-- Bytes of a store that wait are written, whole blocks with the first completed from the medium; they wait on where the write
does (R300, R313). -/
def State.flushStore (s : State) (p nsid : Nat) : State :=
  let rec_ := tget s.ingest.storeWait nsid []
  let pos := tget s.ingest.storePos nsid 0 - rec_.length
  match s.nsOf nsid with
  | none => s
  | some n =>
    let cap := max n.size 1
    let first := pos / 4096
    let old := if pos % 4096 = 0 then [] else match s.readLb nsid (first % cap) with
      | .data d => (bytesLE 4096 d.toNat).take (pos % 4096)
      | .lost => zeros (pos % 4096)
    let bs := old ++ rec_
    if rec_.isEmpty then s
    else s.atPoint p 3 false bs.length (.store nsid) fun s =>
      let r := (List.range ((bs.length + 4095) / 4096)).foldl (fun (acc : Option State) i => acc.bind fun s =>
        s.nsWriteFor p nsid ((first + i) % cap) (padTo 4096 ((bs.drop (4096 * i)).take 4096))) (some s)
      match r with
      | some s1 => s1.modIngest fun g => { g with storeWait := tdel g.storeWait nsid }
      | none => s.noteWait s.writeChan

/-- An ingest record is appended to its store (R300). -/
def State.appendStore (s : State) (p nsid pos : Nat) (rec_ : List Byte) : State :=
  (s.modIngest fun g => { g with storePos := tset g.storePos nsid (pos + rec_.length)
                                 storeWait := tset g.storeWait nsid (tget g.storeWait nsid [] ++ rec_) }).flushStore p nsid

/-- Stores whose bytes wait try again. -/
def State.flushStores (s : State) : State := s.each s.ingest.storeWait fun s e => s.flushStore (s.nsOwner e.1) e.1

/-- FOLD (R313): from a tenth of C on, a wordline of the oldest one-bit data of a die moves into QLC. `bad` names the blocks whose
program fails (R315). -/
def execFold (die : Fin 8) (bad : List (BitVec 21)) (s : State) : Host.Outcome State Fault Refusal :=
  .next (
    if s.dieWaits die || decide (s.millUsed * 10 < s.flash.capUser) then s
    else s.flashWork fun s =>
      let bs := (s.dieBlocks die).filter fun e => e.2.oneBit && (e.2.pool == .full || e.2.pool == .opened) && e.2.valid != 0
      let least := (bs.map fun e => e.2.opened).foldl min s.flash.openSeq
      let fails := bad.map (·.toNat)
      match bs.find? fun e => e.2.opened == least with
      | none => s
      | some (k, _) => ((s.relocate (blockChan k) false ((s.liveUnits k).take 64) fails).moveRetired fails).millFreed.flushStores)

/-- GARBAGE_COLLECTION (R321). -/
def execGarbageCollection (die : Fin 8) (bad : List (BitVec 21)) (s : State) : Host.Outcome State Fault Refusal :=
  .next (
    let d := s.fcd die
    let fails := bad.map (·.toNat)
    if s.nvme.ps = 2 ∨ s.dieWaits die then s
    else if d.free < 4096 ∨ (d.gc ∧ d.free < 8192) then
      let bs := (s.dieBlocks die).filter fun e => !e.2.oneBit && e.2.pool == .full && !(s.flash.runs.any fun r => r.inBlock e.1)
      let worse := fun (a b : BlockSt) => decide (a.valid < b.valid) || (a.valid == b.valid && decide (a.wear < b.wear))
      let pick := bs.foldl (fun acc e => match acc with
        | none => some e
        | some a => if worse e.2 a.2 then some e else some a) none
      let s1 := s.modFcd die fun d => { d with gc := true }
      match pick with
      | none => s1
      | some (k, _) => (s1.relocateBlock k fails).moveRetired fails
    else s.modFcd die fun d => { d with gc := false })

/-- REFRESH (R317, R320): the block has met one of the conditions; its valid units are relocated and its runs move. -/
def execRefresh (block : BitVec 21) (bad : List (BitVec 21)) (s : State) : Host.Outcome State Fault Refusal :=
  .next (
    let k := block.toNat
    let b := s.blk k
    let fails := bad.map (·.toNat)
    if !s.dieWaits (fcOf (blockChan k)) ∧ (b.pool = .full ∨ b.pool = .opened) then
      ((s.relocateBlock k fails).moveRetired fails).modBlk k fun b => { b with reads := 0 }
    else s)

/-- The records of a die's buffer reach the system area (R328). -/
def State.flushJournal (s : State) (f : Nat) : State :=
  let r := (s.fcd f).jbuf
  (s.modFcd f fun d => { d with jbuf := [] }).modFlash fun q => { q with sys := q.sys ++ r }

/-- JOURNAL_FLUSH (R328): the map pages that the records concern are written back with them. -/
def execJournalFlush (die : Fin 8) (s : State) : Host.Outcome State Fault Refusal :=
  .next (if s.dieWaits die then s else (s.flushJournal die).writeBackAll)

/-- A write of GO to FC_POOL_CTL captures the pool books of all eight dies at once (R306). -/
def State.poolGo (s : State) : State :=
  if s.flash.poolBusy then s
  else
    (s.each (List.range 8) fun s f => s.modFcd f fun d => { d with snap := [d.free, d.opened, d.full, d.retired, d.parity] }).modFlash
      fun q => { q with poolBusy := true }

/-- POOL_SNAPSHOT_GO (R306). -/
def execPoolSnapshotGo (s : State) : Host.Outcome State Fault Refusal := .next (if s.pwr.domainUp then s.poolGo else s)

end Sys2Proof.Machine
end

