-- ==== Sys2Proof/Machine/Frame.lean ====
section
/-! DEFINITION. Save frames in board memory (R253) and in-place pre-emption (R250-R252). -/

namespace Sys2Proof.Machine

/-- Does a core hold latency-critical work (R247)? -/
def CoreSt.holdsLc (k : CoreSt) : Bool :=
  (k.threads.any fun e => e.2.held && e.2.lc) || (k.queues.any fun e => e.2.any (·.lc)) ||
    (k.running.any fun e => e.2.q.lc) || (k.streams.any fun e => e.2.busy && e.2.q.lc) || (k.bobs.any fun b => b.q.lc)

/-- A thread context record (R74). -/
def threadRecord (th : Thread) : List Byte :=
  (List.range 32).flatMap (fun r => bytesLE 8 (th.g r).toNat) ++ bytesLE 8 th.pc.toNat ++ bytesLE 2 th.task ++
    bytesLE 1 (b2n th.lc + 2 * b2n th.faultPending) ++ zeros 5

/-- A stream context record (R236). -/
def streamRecord (st : StreamSt) : List Byte :=
  bytesLE 16 st.q.desc.toNat ++ bytesLE 4 (st.q.obj + st.q.add * 2 ^ 16) ++ bytesLE 4 st.nextTile ++ bytesLE 4 st.landed ++
    bytesLE 4 st.taken ++ bytesLE 1 st.row ++ bytesLE 1 (b2n (st.pendKind != 0) + 2 * b2n (strmMode st == 3 || strmMode st == 4)) ++ zeros 6 ++
    bytesLE 8 (if st.pendKind = 0 then 0 else st.faultVa.toNat) ++ zeros 16

/-- Writes `n` bytes whose contents are private to the module: free values (R253; place 105, log entry 26). -/
def State.fillPrivate (s : State) (pa n : Nat) : State := let f := s.fresh; f.2.paWrite pa (bytesLE n (Config.freeNat 105 [f.1, pa]))

/-- Where the context of an engine lies in a frame, and its size (R253). -/
def frameContext (eng : Nat) : Nat × Nat := if eng = 0 then (0x6000, 40960) else (0x5080, 3968)

/-- The first byte of a save frame (R253). -/
def State.frameAt (s : State) (idx : Nat) : Nat := s.sh.saveBase.toNat + idx * 2 ^ 20

/-- A captured context goes to the core's in-place save frame, charged to the partition (R251, R253, R260). -/
def State.saveInPlace (s : State) (c eng : Nat) (strm : Option StreamSt) : State :=
  let base := s.frameAt c
  let p := s.partOf c
  let s1 := s.fillPrivate base 4096
  match strm with
  | some st => (s1.paWrite (base + 0x5000 + 64 * (eng - 3)) (streamRecord st)).charge p 8 (some 1) (4096 + 64)
  | none => let x := frameContext eng; (s1.fillPrivate (base + x.1) x.2).charge p 8 (some 1) (4096 + x.2)

/-- A stream's context as it is saved: a fault that halts it stays pending (R236, R252). -/
def State.captureStream (s : State) (c e : Nat) (st : StreamSt) : StreamSt :=
  match s.xl.halted.find? fun h => h.agent == 64 * c + 32 + e with
  | some h => { st with halted := false, pendKind := h.kind, pendLevel := h.level }
  | none => { st with halted := false, pendKind := if st.halted && st.pendKind == 0 && st.faultVa != 0 then kNotPresent else st.pendKind }

/-- In-place pre-emption of a best-effort operation by a latency-critical descriptor (R250-R252): the operation stops at its next
point, and where that is not its end its context is captured; the remainder set is the context of the matrix engine (R171);
Bobbin transfers are not pre-empted; a halted stream gives its token up, and its record is written once the last row that it
requested has landed. -/
def State.preempt (s : State) (c eng : Nat) : State :=
  let k := s.core c
  let count := fun (s : State) => s.modSh fun h => { h with lcPreempts := h.lcPreempts + 1 }
  if eng = 3 ∨ eng = 4 then
    let st := tget k.streams (eng - 3) {}
    if st.busy && !st.q.lc && !thas k.strmPre (eng - 3) then
      let st1 := s.captureStream c (eng - 3) st
      let s1 := (s.modCore c fun k =>
        { k with strmPre := tset k.strmPre (eng - 3) st1, streams := tset k.streams (eng - 3) {} }).modXl fun x =>
          { x with halted := x.halted.filter fun h => h.agent != 64 * c + 29 + eng }
      count (if st1.fly.isEmpty then s1.saveInPlace c eng (some st1) else s1)
    else s
  else if eng = 6 then s
  else if eng = 0 then
    if !k.rmd.isEmpty && (k.rmd.all fun p => !p.q.lc && !p.done) && k.rmdPre.isEmpty then
      count ((s.modCore c fun k => { k with rmdPre := k.rmd, rmd := [], rmdFirst := false }).saveInPlace c 0 none)
    else s
  else match tfind k.running eng with
    | none => s
    | some o =>
      if o.q.lc || o.done || thas k.preempted eng then s
      else
        let r := s.laneStop c eng o
        if r.1.done then r.2.modCore c fun k => { k with running := tset k.running eng r.1 }
        else count ((r.2.modCore c fun k =>
          { k with preempted := tset k.preempted eng r.1, running := tdel k.running eng }).saveInPlace c eng none)

end Sys2Proof.Machine
end

