-- ==== Sys2Proof/Machine/Thread.lean ====
section
/-! DEFINITION. The thread instructions of R76: arithmetic, control flow, special values, YIELD, TRAP, EXIT, loads,
stores and atomics, fences, ISSUE, and what completes them. -/

namespace Sys2Proof.Machine

/-- The ALU functions (R77). -/
def aluFn (fn : Nat) (a b : BitVec 64) : BitVec 64 :=
  match fn with
  | 0 => a + b
  | 1 => a - b
  | 2 => a &&& b
  | 3 => a ||| b
  | 4 => a ^^^ b
  | 5 => a <<< (b.toNat % 64)
  | 6 => a >>> (b.toNat % 64)
  | 7 => a.sshiftRight (b.toNat % 64)
  | 8 => a * b
  | 9 => BitVec.ofNat 64 (a.toNat * b.toNat / 2 ^ 64)
  | 10 => if a.slt b then a else b
  | 11 => if a.slt b then b else a
  | 12 => if a.ult b then a else b
  | 13 => if a.ult b then b else a
  | 14 => if a.slt b then 1 else 0
  | _ => if a.ult b then 1 else 0

/-- ALU: g[RD] gets FN(a, b) (R76, R77). -/
def aluEffect (c t : Nat) (i : TInstr) (s : State) : State :=
  s.modThr c t fun th => th.doneRd i.rd (aluFn i.fn (th.a i) (th.b i))

/-- ALU (R77). -/
def execAlu (c : Fin 64) (t : Fin 32) (s : State) : Host.Outcome State Fault Refusal :=
  .next (s.issueInstr c t (fun i => i.op == 0x01) (aluEffect c t))

/-- LUI: g[RD] gets IMM above the low half of a (R76). -/
def luiEffect (c t : Nat) (i : TInstr) (s : State) : State :=
  s.modThr c t fun th => th.doneRd i.rd (BitVec.ofNat 64 (i.imm * 2 ^ 32 + (th.a i).toNat % 2 ^ 32))

/-- LUI (R76). -/
def execLui (c : Fin 64) (t : Fin 32) (s : State) : Host.Outcome State Fault Refusal :=
  .next (s.issueInstr c t (fun i => i.op == 0x02) (luiEffect c t))

/-- The condition of a branch (R76). -/
def brCond (fn : Nat) (a b : BitVec 64) : Bool :=
  match fn with
  | 0 => a == b
  | 1 => a != b
  | 2 => a.slt b
  | 3 => !a.slt b
  | 4 => a.ult b
  | 5 => !a.ult b
  | _ => true

/-- PC + 8 × sext(IMM) (R76). -/
def brTarget (pc : BitVec 48) (i : TInstr) : BitVec 48 := pc + BitVec.truncate 48 (8 * i.simm)

/-- BR: the branch, taken or not (R76). -/
def brEffect (c t : Nat) (i : TInstr) (s : State) : State :=
  s.modThr c t fun th =>
    if brCond i.fn (th.g i.ra) (th.g i.rb) then { th with st := tReady, pend := .none, pc := brTarget th.pc i } else th.done

/-- BR (R76). -/
def execBr (c : Fin 64) (t : Fin 32) (s : State) : Host.Outcome State Fault Refusal :=
  .next (s.issueInstr c t (fun i => i.op == 0x10) (brEffect c t))

/-- JAL: g[RD] gets PC + 8 (R76). -/
def jalEffect (c t : Nat) (i : TInstr) (s : State) : State :=
  s.modThr c t fun th => { (th.setG i.rd (BitVec.zeroExtend 64 (th.pc + 8))) with
    st := tReady, pend := .none, pc := brTarget th.pc i }

/-- JAL (R76). -/
def execJal (c : Fin 64) (t : Fin 32) (s : State) : Host.Outcome State Fault Refusal :=
  .next (s.issueInstr c t (fun i => i.op == 0x11) (jalEffect c t))

/-- JALR: a target that is not a multiple of 8 is MISALIGNED (R76). -/
def jalrEffect (c t : Nat) (i : TInstr) (s : State) : State :=
  let target := (s.thr c t).va i
  if target % 8 ≠ 0 then s.programFault c t cMisaligned
  else s.modThr c t fun th => { (th.setG i.rd (BitVec.zeroExtend 64 (th.pc + 8))) with
    st := tReady, pend := .none, pc := BitVec.ofNat 48 target }

/-- JALR (R76). -/
def execJalr (c : Fin 64) (t : Fin 32) (s : State) : Host.Outcome State Fault Refusal :=
  .next (s.issueInstr c t (fun i => i.op == 0x12) (jalrEffect c t))

/-- EXIT: the task ends once every descriptor the thread issued has completed (R96). -/
def exitEffect (c t : Nat) (i : TInstr) (s : State) : State :=
  let code := BitVec.ofNat 16 i.imm
  if (s.thr c t).outst = 0 then s.endTask c t code
  else s.modThr c t fun th => { th with st := tEngine, pend := .exit code }

/-- EXIT (R96). -/
def execExitTask (c : Fin 64) (t : Fin 32) (s : State) : Host.Outcome State Fault Refusal :=
  .next (s.issueInstr c t (fun i => i.op == 0x13) (exitEffect c t))

/-- YIELD: every other READY thread of the class is picked once first (R76). -/
def yieldEffect (c t : Nat) (_ : TInstr) (s : State) : State :=
  s.modCore c fun k =>
    let others := (List.range 32).filter fun u => u != t && (k.thr u).st == tReady && (k.thr u).lc == (k.thr t).lc
    k.modThr t fun th => { th.done with yieldMask := BitVec.ofNat 32 ((others.map (2 ^ ·)).foldl (· + ·) 0) }

/-- YIELD (R76). -/
def execYieldTurn (c : Fin 64) (t : Fin 32) (s : State) : Host.Outcome State Fault Refusal :=
  .next (s.issueInstr c t (fun i => i.op == 0x14) (yieldEffect c t))

/-- TRAP: a program fault that carries IMM, which the core keeps by thread (R76, R79; log entry 20). -/
def trapEffect (c t : Nat) (i : TInstr) (s : State) : State :=
  (s.modCore c fun k => { k with trapImm := tset k.trapImm t (BitVec.ofNat 32 i.imm) }).programFault c t cTrap

/-- TRAP (R76, R79). -/
def execTrap (c : Fin 64) (t : Fin 32) (s : State) : Host.Outcome State Fault Refusal :=
  .next (s.issueInstr c t (fun i => i.op == 0x15) (trapEffect c t))

/-- The special values (R78). -/
def State.sprValue (s : State) (c t imm : Nat) : BitVec 64 :=
  let th := s.thr c t
  match imm with
  | 0 => BitVec.ofNat 64 t
  | 1 => BitVec.ofNat 64 c
  | 2 => BitVec.ofNat 64 (s.partOf c)
  | 3 => BitVec.ofNat 64 th.task
  | 4 => BitVec.ofNat 64 th.job
  | 5 => BitVec.ofNat 64 (s.ptn (s.partOf c)).syncCount
  | 6 => BitVec.ofNat 64 (s.core c).aclk
  | 7 => s.dieTime (c / 4)
  | _ => if th.lc then 1 else 0

/-- SPR (R78). -/
def execSpr (c : Fin 64) (t : Fin 32) (s : State) : Host.Outcome State Fault Refusal :=
  .next (s.issueInstr c t (fun i => i.op == 0x18) fun i s =>
    let v := s.sprValue c t i.imm
    s.modThr c t fun th => th.doneRd i.rd v)

/-! Loads, stores and atomics. -/

/-- Bytes that an access moves (R76): an AMO always 8. -/
def accSize (i : TInstr) : Nat := if i.op = 0x0A then 8 else 2 ^ fld i.fn 0 2

/-- What the page must grant (R110). -/
def accNeed (i : TInstr) : Need :=
  if i.op = 0x08 then { r := true } else if i.op = 0x09 then { w := true } else { r := true, w := true }

/-- ACCESS of the fault record (R119). -/
def accCode (i : TInstr) : Nat := if i.op = 0x08 then 1 else if i.op = 0x09 then 2 else 3

/-- The value a load delivers: zero- or sign-extended (R76). -/
def loadExt (i : TInstr) (v : Nat) : BitVec 64 :=
  let w := 8 * accSize i
  if bitN i.fn 2 && w != 64 then BitVec.ofNat 64 (wrapN 64 (sx w v)) else BitVec.ofNat 64 v

/-- What memory and g[RD] become (R76): the new bytes, if any are written, and the new register value, if any. -/
def accResult (i : TInstr) (th : Thread) (old : Nat) : Option Nat × Option (BitVec 64) :=
  let o64 := BitVec.ofNat 64 old
  match i.op with
  | 0x08 => (none, some (loadExt i old))
  | 0x09 => (some ((th.g i.rb).toNat % 2 ^ (8 * accSize i)), none)
  | _ => match i.fn with
    | 0 => (some (th.g i.rb).toNat, some o64)
    | 1 => (some (o64 + th.g i.rb).toNat, some o64)
    | _ => (if o64 = th.g i.rd then some (th.g i.rb).toNat else none, some o64)

/-- Replaces `n` bytes at offset `o` of a line. -/
def lineSet (d : BitVec 512) (o n v : Nat) : BitVec 512 :=
  BitVec.ofNat 512 (leNat (patch (bytesLE 64 d.toNat) o (bytesLE n v)))

/-- Completes an access in the L1: the line is in S, E or M for a load, in E or M otherwise, and becomes M when written. -/
def State.l1Access (s : State) (c t : Nat) (i : TInstr) (pa : Nat) (x : L1Line) : State :=
  let o := pa % 64
  let n := accSize i
  let r := accResult i (s.thr c t) (fld x.data.toNat (8 * o) (8 * n))
  let s1 := match r.1 with
    | some v => s.setL1 c (pa / 64) (some { x with st := .M, data := lineSet x.data o n v })
    | none => s
  s1.modThr c t fun th => match r.2 with
    | some v => th.doneRd i.rd v
    | none => th.done

/-- The thread waits in EXEC for a line; a request is sent unless the core has one outstanding (R126) or the line is
being evicted. -/
def State.l1Miss (s : State) (c t pa : Nat) (i : TInstr) (kind : DirReqKind) : State :=
  let line := pa / 64
  let s1 := s.modThr c t fun th => { th with st := tExec, pend := .access line, insn := i }
  if s.lineWaits c line then s1
  else (s1.modCore c fun k => { k with l1Req := tset k.l1Req line (.access line) }).send (.req kind c line)

/-- An access to a cacheable coherent line (R125, R126, R131). -/
def State.cachedAccess (s : State) (c t : Nat) (i : TInstr) (pa : Nat) : State :=
  let load := i.op = 0x08
  match s.l1Line c (pa / 64) with
  | some x =>
    if x.st = .WB then s.l1Miss c t pa i (if load then .rdS else .rdX)
    else if load ∨ x.st = .M ∨ x.st = .E then s.l1Access c t i pa x
    else s.l1Miss c t pa i .upgr
  | none => s.l1Miss c t pa i (if load then .rdS else .rdX)

/-- The bytes and mask of an uncached store within its line. -/
def storeMask (pa n : Nat) : BitVec 64 := BitVec.ofNat 64 ((2 ^ n - 1) * 2 ^ (pa % 64))

/-- The request of a thread's access to another module (R381). -/
def State.threadRemote (s : State) (c t : Nat) (i : TInstr) (off : Nat) : RemReq :=
  let th := s.thr c t
  { op := if i.op = 0x08 then 0 else if i.op = 0x09 then 1 else 2 + i.fn, srcMod := s.links.torus.number,
    ptn := s.partOf c, key := (s.ptn (s.partOf c)).lnkKey, off := off, len := accSize i,
    data := if i.op = 0x08 then [] else bytesLE (accSize i) (th.g i.rb).toNat, cmp := th.g i.rd, lc := th.lc, agent := 64 * c + t }

/-- A remote write of a thread leaves and is acknowledged later (R381). -/
def Thread.posts (th : Thread) (va : Nat) : Thread := { th with remoteW := th.remoteW + 1, remoteVas := th.remoteVas ++ [va] }

/-- The oldest remote write of a thread is acknowledged or refused (R381). -/
def Thread.acked (th : Thread) : Thread := { th with remoteW := th.remoteW - 1, remoteVas := th.remoteVas.drop 1 }

/-- A thread's access to a remote window (R380, R381, R383): a store goes on at once and is acknowledged later; a window of
the module itself is served without leaving it; a module out of reach fails a load at once and a store at its fence. -/
def State.remoteAccess (s : State) (c t : Nat) (i : TInstr) (pa m off : Nat) : State :=
  let r := s.threadRemote c t i off
  let wait := fun (s : State) => s.modThr c t fun th => { th with st := tExec, pend := .uncached pa none, insn := i }
  let gone := fun (f : Thread → Thread) (s : State) => (s.chargeCore c pa (accSize i)).modThr c t fun th => f th.done
  if i.op = 0x09 then
    if m = s.links.torus.number then
      match s.serveSelf r with
      | (none, s1) => s1
      | (some .refused, s1) => gone (fun th => { th with remoteBad := true }) s1
      | (some _, s1) => gone (fun th => th.posts (th.va i)) s1
    else if !s.links.reaches m then gone (fun th => { th with remoteGone := true }) s
    else gone (fun th => th.posts (th.va i)) (s.sendLink (.request m r))
  else if m = s.links.torus.number then wait s
  else if !s.links.reaches m then s.threadFault c t ((s.thr c t).va i) kUnreachable (accCode i) 3
  else wait (s.sendLink (.request m r))

/-- The request of an uncached load or store of coherent memory (R125, R127). -/
def uncachedKind (i : TInstr) (th : Thread) (pa : Nat) : DirReqKind :=
  if i.op = 0x08 then .rdU else .wrU (storeMask pa (accSize i)) (lineSet 0 (pa % 64) (accSize i) (th.g i.rb).toNat)

/-- An access to an uncached target (R125): coherent memory of tier 2 or 3 by RD_U and WR_U, host memory and remote
modules by their own requests. -/
def State.uncachedAccess (s : State) (c t : Nat) (i : TInstr) (pa : Nat) : State :=
  let wait := fun (s : State) => s.modThr c t fun th => { th with st := tExec, pend := .uncached pa none, insn := i }
  match paRange pa with
  | .remote m off => s.remoteAccess c t i pa m off
  | .host => wait s
  | _ => if i.op = 0x0A then wait s else (wait s).sendUncached c t (pa / 64) (uncachedKind i (s.thr c t) pa)

/-- A memory access by its translation (R76, R79, R80, R110). -/
def memEffect (c t : Nat) (i : TInstr) (s : State) : State :=
  let th := s.thr c t
  let va := th.va i
  if va % accSize i ≠ 0 then s.programFault c t cMisaligned
  else match s.translate (s.partOf c) c va { accNeed i with lc := th.lc } false with
    | (.ok pa tier, s1) =>
      (match paRange pa with
       | .spad _ _ => s1.programFault c t cSpadAccess
       | .unmapped => s1.threadFault c t va kUnmapped (accCode i) 3
       | _ => if paCoherent pa ∧ tier ≠ 2 ∧ tier ≠ 3 then s1.cachedAccess c t i pa else s1.uncachedAccess c t i pa)
    | (.fault k lv, s1) => s1.threadFault c t va k (accCode i) lv
    | (.moving, s1) => s1
    | (.uncorrectable, s1) => s1.threadUncorrectable c t

/-- LD (R76). -/
def execLd (c : Fin 64) (t : Fin 32) (s : State) : Host.Outcome State Fault Refusal :=
  .next (s.issueInstr c t (fun i => i.op == 0x08) (memEffect c t))

/-- ST (R76). -/
def execSt (c : Fin 64) (t : Fin 32) (s : State) : Host.Outcome State Fault Refusal :=
  .next (s.issueInstr c t (fun i => i.op == 0x09) (memEffect c t))

/-- AMO (R76). -/
def execAmo (c : Fin 64) (t : Fin 32) (s : State) : Host.Outcome State Fault Refusal :=
  .next (s.issueInstr c t (fun i => i.op == 0x0A) (memEffect c t))

/-- The instruction a thread has in execution (R72). -/
def State.inFlight (s : State) (c t : Nat) : TInstr := (s.thr c t).insn

/-- Completes an uncached access with what its target gives: memory by physical address, whole (R76, R125). -/
def State.finishUncached (s : State) (c t : Nat) (i : TInstr) (pa : Nat) : State :=
  match s.paRead pa (accSize i) with
  | .bad => s.threadFault c t ((s.thr c t).va i) kRetired (accCode i) 3
  | .ok bs poison =>
    if poison && i.op != 0x09 then (s.linesUe pa (accSize i)).threadUncorrectable c t
    else
      let r := accResult i (s.thr c t) (leNat bs)
      let s1 := match r.1 with
        | some v => (s.paReadFx pa (accSize i)).paWrite pa (bytesLE (accSize i) v)
        | none => s.paReadFx pa (accSize i)
      (s1.chargeCore c pa (accSize i)).modThr c t fun th => match r.2 with
        | some v => th.doneRd i.rd v
        | none => th.done

/-- Completes an access to the module's own remote window with what the window answers (R380, R383). -/
def State.finishSelf (s : State) (c t : Nat) (i : TInstr) (pa off : Nat) : State :=
  match s.serveSelf (s.threadRemote c t i off) with
  | (none, s1) => s1
  | (some (.data bs), s1) =>
    (s1.chargeCore c pa (accSize i)).modThr c t fun th =>
      th.doneRd i.rd (if i.op = 0x08 then loadExt i (leNat bs) else BitVec.ofNat 64 (leNat bs))
  | (some .poison, s1) => s1.threadUncorrectable c t
  | (some .ack, s1) => s1.modThr c t Thread.done
  | (some .refused, s1) => s1.threadFault c t ((s1.thr c t).va i) kWindow (accCode i) 3

/-- The fault of a remote write that failed, met at the fence or release that waits on it (R383). -/
def State.remoteFault (s : State) (c t : Nat) : State :=
  let th := s.thr c t
  (s.modThr c t fun th => { th with remoteBad := false, remoteGone := false }).threadFault c t th.pc.toNat
    (if th.remoteBad then kWindow else kUnreachable) 2 3

/-- The data of an access or a fetch has returned (R72): an access completes when its line stands in the L1 in the state it
needs, or asks again; an uncached access completes with its target's answer; a fetched line enters the instruction cache
and the thread is READY; a fence or release that waits is met by one acknowledgement of a remote write (R381). -/
def loadReturn (c t : Nat) (s : State) : State :=
  let th := s.thr c t
  match th.pend with
  | .access line =>
    let i := s.inFlight c t
    let pa := line * 64 + th.va i % 64
    if i.op = 0x08 ∨ i.op = 0x09 ∨ i.op = 0x0A then s.cachedAccess c t i pa else s
  | .uncached pa done =>
    let i := s.inFlight c t
    (match paRange pa, done with
     | .host, _ => s.finishUncached c t i pa
     | .remote m off, _ => if m = s.links.torus.number then s.finishSelf c t i pa off else s.finishUncached c t i pa
     | _, some (d, poison) =>
       if i.op = 0x0A then s.finishUncached c t i pa
       else if poison && i.op == 0x08 then s.threadUncorrectable c t
       else s.modThr c t fun th =>
         if i.op = 0x08 then th.doneRd i.rd (loadExt i (fld d.toNat (8 * (pa % 64)) (8 * accSize i))) else th.done
     | _, none => if i.op = 0x0A then s.finishUncached c t i pa else s.sendUncached c t (pa / 64) (uncachedKind i th pa))
  | .fetch _ (some (d, poison)) =>
    if poison then s.threadUncorrectable c t
    else (s.modCore c fun k => { k with icache := tset k.icache ((k.thr t).pc.toNat / 64) d }).modThr c t fun th =>
      { th with st := tReady, pend := .none }
  | .fetch line none => s.sendUncached c t line .rdU
  | .fenceMem =>
    if th.remoteBad || th.remoteGone then s.remoteFault c t
    else s.modThr c t fun th =>
      if th.remoteW ≤ 1 then { th.acked with st := tReady, pend := .none } else th.acked
  | .none => s.modThr c t Thread.acked
  | _ => s

/-- LOAD_DATA_RETURN (R72), with the errors that memory's decoders find (R135). -/
def execLoadDataReturn (c : Fin 64) (t : Fin 32) (hits : List MemHit) (s : State) : Host.Outcome State Fault Refusal :=
  .next (loadReturn c t (s.memHits hits))

/-- An instruction that acts as a release waits until every earlier remote write of its thread is acknowledged, and then
starts again; everything earlier of one thread is visible already (R136-R138, R381). -/
def releaseThen (c t : Nat) (go : State → State) (s : State) : State :=
  let th := s.thr c t
  if th.remoteBad || th.remoteGone then s.remoteFault c t
  else if th.remoteW = 0 then go s
  else s.modThr c t fun th => { th with st := tExec, pend := .fenceMem }

/-- FENCE ACQUIRE, RELEASE and FULL (R137): one core's own accesses are in order already; the release forms wait for
remote acknowledgements. -/
def fenceEffect (c t : Nat) (i : TInstr) (s : State) : State :=
  let go := fun (s : State) => s.modThr c t Thread.done
  if i.fn = 1 then go s else releaseThen c t go s

/-- FENCE (R137). -/
def execFence (c : Fin 64) (t : Fin 32) (s : State) : Host.Outcome State Fault Refusal :=
  .next (s.issueInstr c t (fun i => i.op == 0x3C && i.fn != 4) (fenceEffect c t))

/-- FENCE ENGINES: waits until every descriptor the thread issued has completed (R76). -/
def fenceEnginesEffect (c t : Nat) (_ : TInstr) (s : State) : State :=
  s.modThr c t fun th => if th.outst = 0 then th.done else { th with st := tEngine, pend := .engines }

/-- FENCE_ENGINES (R76). -/
def execFenceEngines (c : Fin 64) (t : Fin 32) (s : State) : Host.Outcome State Fault Refusal :=
  .next (s.issueInstr c t (fun i => i.op == 0x3C && i.fn == 4) (fenceEnginesEffect c t))

/-! ISSUE. -/

/-- Hands a descriptor to an engine queue, or waits in ENGINE for an entry (R81). -/
def State.enqueue (s : State) (c t eng : Nat) (desc : BitVec 128) (obj add : Nat) : State :=
  let th := s.thr c t
  if (s.core c).queueRoom eng th.lc then
    let q : QEntry := { desc := desc, thr := t, job := th.job, lc := th.lc, obj := obj, add := add }
    (s.modCore c fun k => { k with queues := tset k.queues eng (tget k.queues eng [] ++ [q]) }).modThr c t fun th =>
      { th.done with outst := th.outst + 1 }
  else s.modThr c t fun th => { th with st := tEngine, pend := .queueSpace eng }

/-- ISSUE after its operands are known (R81, R84, R138): the completion signal's fields, the engine, the object and the
alignment, in the order of R79; then the descriptor, from registers or memory. -/
def issueEffect (c t : Nat) (i : TInstr) (s : State) : State :=
  let th := s.thr c t
  let p := s.partOf c
  let g := (th.g i.rd).toNat
  let obj := fld g 0 13
  let add := fld g 16 16
  let eng := fld i.fn 0 4
  let hand := fun (desc : BitVec 128) => releaseThen c t fun s =>
    let s1 := s.enqueue c t eng desc obj add
    if (s.thr c t).lc && (s.core c).queueRoom eng true then s1.preempt c eng else s1
  if fld g 13 3 ≠ 0 ∨ fld g 32 32 ≠ 0 then s.programFault c t cRsvField
  else if 7 ≤ eng then s.programFault c t cEngine
  else if add ≠ 0 ∧ !(s.ptn p).objOk obj then s.programFault c t cSyncRange
  else if !bitN i.fn 8 then hand (BitVec.ofNat 128 ((th.g i.ra).toNat + (th.g i.rb).toNat * 2 ^ 64)) s
  else
    let va := th.va i
    if va % 16 ≠ 0 then s.programFault c t cMisaligned
    else match s.translate p c va { r := true, lc := th.lc } false with
      | (.ok pa _, s1) =>
        (match paRange pa, s1.paRead pa 16 with
         | .spad _ _, _ => s1.programFault c t cSpadAccess
         | _, .bad => s1.threadFault c t va kUnmapped 4 3
         | _, .ok bs poison =>
           if poison then (s1.linesUe pa 16).threadUncorrectable c t else hand (BitVec.ofNat 128 (leNat bs)) ((s1.paReadFx pa 16).chargeMem p pa 16))
      | (.fault k lv, s1) => s1.threadFault c t va k 4 lv
      | (.moving, s1) => s1
      | (.uncorrectable, s1) => s1.threadUncorrectable c t

/-- ISSUE (R81). -/
def execIssue (c : Fin 64) (t : Fin 32) (s : State) : Host.Outcome State Fault Refusal :=
  .next (s.issueInstr c t (fun i => i.op == 0x20) (issueEffect c t))

end Sys2Proof.Machine
end

