-- ==== Sys2Proof/Machine/Sync.lean ====
section
/-! DEFINITION. The sync store (R84-R93), the sync instructions, posted tasks and their dispatch (R94-R96, R246-R248). -/

namespace Sys2Proof.Machine

/-- An object of the store. -/
def State.obj (s : State) (n : Nat) : SyncObj := tget s.sync.objs n {}

/-- Replaces an object. -/
def State.setObj (s : State) (n : Nat) (o : SyncObj) : State := s.modSync fun q => { q with objs := tset q.objs n o }

/-- The object is satisfied while COUNT ≥ THRESHOLD (R87). -/
def SyncObj.satisfied (o : SyncObj) : Bool := decide (o.thresh ≤ o.count)

/-- A set of an arrival (R89 step 1). -/
def applySet (o : SyncObj) : SyncOp → SyncObj
  | .setC n => { o with count := n }
  | .setT n m => { o with thresh := n, mode := m.getD o.mode }
  | .setAll c t m => { o with count := c, thresh := t, mode := m }
  | .setCT c t => { o with count := c, thresh := t }
  | .setCtl m clear => { o with mode := m.getD o.mode, ovf := o.ovf && !clear }
  | _ => o

/-- What an arrival adds (R89 step 2); an add above 0xFFFF_FFFF acts as 0xFFFF_FFFF (R90). -/
def addOf : SyncOp → Nat
  | .add n => min n 0xFFFFFFFF
  | _ => 0

/-- The waiter that an arrival cancels. -/
def cancelOf : SyncOp → Option Waiter
  | .cancel w => some w
  | _ => none

/-- The waiter that an arrival brings: WAIT, or a WAIT with a limit of 0, which stays for one evaluation (R91). -/
def waiterOf : SyncOp → Option Waiter
  | .wait w => some w
  | .test w => some w
  | _ => none

/-- Releases under CONSUME (R87): the oldest waiter for each THRESHOLD taken. The first list is the FIFO. -/
def consume (thresh : Nat) : List Waiter → Nat → List Waiter × List Waiter × Nat
  | [], count => ([], [], count)
  | w :: ws, count =>
    if thresh ≤ count then
      let r := consume thresh ws (count - thresh)
      (w :: r.1, r.2.1, r.2.2)
    else ([], w :: ws, count)

/-- One evaluation (R87): the waiters released and the object after it. -/
def SyncObj.eval (o : SyncObj) : List Waiter × SyncObj :=
  if !o.satisfied then ([], o)
  else if o.mode = 0 then (o.fifo, { o with fifo := [] })
  else if o.mode = 1 then
    let r := consume o.thresh o.fifo o.count
    (r.1, { o with fifo := r.2.1, count := r.2.2 })
  else if o.fifo.isEmpty then ([], o)
  else (o.fifo, { o with fifo := [], count := 0 })

/-- The arrivals that stand at the inputs: the first of each input (R88). -/
def atInputs (as : List Arrival) : List Arrival :=
  as.foldl (fun acc a => if acc.any (fun b => b.input == a.input) then acc else acc ++ [a]) []

/-- The object that a bank takes: that of its oldest waiting arrival (R88). An arrival is as old as its stay at its input:
the list holds those at the inputs in that order, and afterUpdate puts one that moves up behind them. -/
def bankObject (bank : Nat) (as : List Arrival) : Option Nat :=
  ((atInputs as).find? fun a => a.obj % 32 == bank).map (·.obj)

/-- The arrivals of one update, in rising input number (R88, R89). -/
def updateSet (n : Nat) (as : List Arrival) : List Arrival :=
  sortBy (fun a b => decide (a.input ≤ b.input)) ((atInputs as).filter fun a => a.obj == n)

/-- The arrivals left after the update of object `n`: the next arrival of each input that was served reaches its input now,
behind those that stand at the others, and in rising input number (R88). -/
def afterUpdate (n : Nat) (as : List Arrival) : List Arrival :=
  (updateSet n as).foldl (fun rest a =>
    let left := dropFirst (fun b => b == a) rest
    left.filter (fun b => b.input != a.input) ++ left.filter fun b => b.input == a.input) as

/-- The counts of one update: the object after sets and adds, and the sum that could not be applied (R89, R90). -/
def applyCounts (o : SyncObj) (us : List Arrival) : SyncObj × Nat :=
  let o1 := us.foldl (fun o a => applySet o a.op) o
  let total := o1.count + (us.map fun a => addOf a.op).foldl (· + ·) 0
  if 0xFFFFFFFF < total then ({ o1 with count := 0xFFFFFFFF, ovf := true }, total - 0xFFFFFFFF)
  else ({ o1 with count := total }, 0)

/-- Waits with a limit of 0, which take part in this one evaluation and never join the FIFO (R91). -/
def testOf : SyncOp → Option Waiter
  | .test w => some w
  | _ => none

/-- The FIFO without the tests of an update. -/
def SyncObj.untested (o : SyncObj) (us : List Arrival) : SyncObj :=
  let ts := us.filterMap fun a => testOf a.op
  { o with fifo := o.fifo.filter fun w => !ts.contains w }

/-- The values that COUNT takes in an evaluation: under CONSUME one for each THRESHOLD taken (R87, R101). -/
def evalCounts (before : SyncObj) (released : Nat) (after : SyncObj) : List Nat :=
  if before.mode = 1 then (List.range released).map fun k => before.count - (k + 1) * before.thresh
  else if after.count = before.count then [] else [after.count]

/-- The waiters of one update: cancelled waits leave, new ones join behind (R89 steps 3 and 4). -/
def applyWaiters (o : SyncObj) (us : List Arrival) : SyncObj :=
  let cs := us.filterMap fun a => cancelOf a.op
  { o with fifo := o.fifo.filter (fun w => !cs.contains w) ++ us.filterMap fun a => waiterOf a.op }

/-- The class queue a ready task waits in (R246). -/
def State.makeReady (s : State) (handle : Nat) : State :=
  match s.sh.tasks.find? fun t => t.handle == handle with
  | none => s
  | some k => s.modSh fun h =>
    let h1 := { h with tasks := modFirst (fun t => t.handle == handle) (fun t => { t with st := 1 }) h.tasks }
    if k.lc then { h1 with readyLc := h1.readyLc ++ [handle] } else { h1 with readyBe := h1.readyBe ++ [handle] }

/-- The record rings served as R114 lays down. -/
def PtnSt.recRing (q : PtnSt) (kind : Nat) : RingSt :=
  if kind = 0 then q.xreq else if kind = 1 then q.scan else if kind = 2 then q.coll else q.fring

/-- Changes a record ring. -/
def PtnSt.modRec (q : PtnSt) (kind : Nat) (f : RingSt → RingSt) : PtnSt :=
  if kind = 0 then { q with xreq := f q.xreq } else if kind = 1 then { q with scan := f q.scan }
  else if kind = 2 then { q with coll := f q.coll } else { q with fring := f q.fring }

/-- A waiter is released (R87, R92, R114, R229). A ring's server, and a stream, enrol again at once: each release takes one
record, or returns one slot; a member's slot return sends a token (R233). -/
def State.release (s : State) (n : Nat) : Waiter → State
  | .thread c t => s.modSync fun q => { q with wakes := q.wakes ++ [(c, t, 0)] }
  | .task h => s.makeReady h
  | .ring p kind =>
    (s.modPtn p fun q => q.modRec kind fun r => { r with avail := r.avail + 1 }).syncArrive 79 n (.wait (.ring p kind))
  | .stream c e =>
    let i := (e - 3) % 2
    let pre := decide (e < 5) && thas (s.core c).strmPre i
    let st := tget (if pre then (s.core c).strmPre else (s.core c).streams) i {}
    let st1 := { st with taken := st.taken + 1 }
    let s1 := (s.modCore c fun k =>
      if pre then { k with strmPre := tset k.strmPre i st1 } else { k with streams := tset k.streams i st1 }).syncArrive c n
        (.wait (.stream c e))
    let g := strmGroup st
    let m := tget s1.mctok g {}
    if strmMode st = 4 ∧ m.joined.any (fun j => j.1 == c) then s1.setMctok (tset s1.mctok g { m with flying := tadd m.flying c 1 })
    else s1

/-- SYNC_CTL of an object (R86). -/
def State.syncCtl (s : State) (n : Nat) : BitVec 64 :=
  let o := s.obj n
  let own := s.objOwner n
  let thr := (o.fifo.filter fun w => match w with
    | .thread _ _ => true
    | _ => false).length
  let tasks := (o.fifo.filter fun w => match w with
    | .task _ => true
    | _ => false).length
  BitVec.ofNat 64 (b2n o.ovf * 2 ^ 63 + b2n own.isSome * 2 ^ 47 + own.getD 0 * 2 ^ 40 + o.mode * 2 ^ 32 +
    thr % 4096 * 2 ^ 16 + tasks % 32768)

/-- What the store sends back for one arrival after the evaluation: a cancelled wait or a failed test answers 1, SREAD its
value (R76, R91). `left` is what the evaluation left, tests among it; `after` is the object. -/
def State.answer (s : State) (n : Nat) (before left after : SyncObj) : SyncOp → State
  | .cancel (.thread c t) =>
    if before.fifo.contains (.thread c t) then s.modSync fun q => { q with wakes := q.wakes ++ [(c, t, 1)] } else s
  | .test (.thread c t) =>
    if left.fifo.contains (.thread c t) then s.modSync fun q => { q with wakes := q.wakes ++ [(c, t, 1)] } else s
  | .read c t ctl =>
    let v := if ctl then (s.syncCtl n).toNat else after.thresh * 2 ^ 32 + after.count
    s.modSync fun q => { q with wakes := q.wakes ++ [(c, t, v)] }
  | _ => s

/-- One update of one object (R88-R90); every value of COUNT is a level that the monitors meet (R101). -/
def State.syncUpdate (s : State) (n : Nat) : State :=
  let us := updateSet n s.sync.arrivals
  let o := s.obj n
  let cnt := applyCounts o us
  let o1 := applyWaiters cnt.1 us
  let ev := o1.eval
  let o2 := ev.2.untested us
  let s1 := (s.modSync fun q => { q with arrivals := afterUpdate n q.arrivals }).setObj n o2
  let s2 := s1.each ev.1 fun s w => s.release n w
  let s3 := s2.each us fun s a => s.answer n o ev.2 o2 a.op
  let s4 := if cnt.2 ≠ 0 ∧ !(us.foldl (fun o a => applySet o a.op) o).ovf then
      s3.notify ((s.objOwner n).getD 32) 0x4102 n (BitVec.ofNat 64 cnt.2)
    else s3
  let s5 := if cnt.1.count ≠ o.count then s4.evalLevel 1 n cnt.1.count else s4
  s5.each (evalCounts cnt.1 ev.1.length ev.2) fun s v => s.evalLevel 1 n v

/-- SYNC_UPDATE (R88): the bank takes the object of its oldest waiting arrival. -/
def execSyncUpdate (bank : Fin 32) (s : State) : Host.Outcome State Fault Refusal :=
  .next (match bankObject bank s.sync.arrivals with
    | some n => s.syncUpdate n
    | none => s)

/-- A sync instruction after its range check (R84): the absolute object it names. -/
def syncInstr (c t : Nat) (i : TInstr) (s : State) (go : Nat → State → State) : State :=
  let q := s.ptn (s.partOf c)
  let n := (s.thr c t).relObj i
  if q.objOk n then go (q.syncBase + n) s else s.programFault c t cSyncRange

/-- SIGNAL: adds g[RB] + FN, as a release (R76, R138). -/
def execSignal (c : Fin 64) (t : Fin 32) (s : State) : Host.Outcome State Fault Refusal :=
  .next (s.issueInstr c t (fun i => i.op == 0x30) fun i s => syncInstr c t i s fun n => releaseThen c t fun s =>
    (s.syncArrive c n (.add ((s.thr c t).g i.rb + BitVec.ofNat 64 i.fn).toNat)).modThr c t Thread.done)

/-- WAIT: the wait is outstanding at HUB, the thread in SYNC (R91). -/
def execWaitObj (c : Fin 64) (t : Fin 32) (s : State) : Host.Outcome State Fault Refusal :=
  .next (s.issueInstr c t (fun i => i.op == 0x31) fun i s => syncInstr c t i s fun n s =>
    let timed := i.fn == 1
    let op : SyncOp := if timed && (s.thr c t).g i.rb == 0 then .test (.thread c t) else .wait (.thread c t)
    (s.syncArrive c n op).modThr c t fun th => { th with st := tSync, pend := .sync n timed, insn := i })

/-- SETC: COUNT gets g[RB][31:0] (R76). -/
def execSetc (c : Fin 64) (t : Fin 32) (s : State) : Host.Outcome State Fault Refusal :=
  .next (s.issueInstr c t (fun i => i.op == 0x32) fun i s => syncInstr c t i s fun n s =>
    (s.syncArrive c n (.setC (fld ((s.thr c t).g i.rb).toNat 0 32))).modThr c t Thread.done)

/-- SETT: THRESHOLD gets g[RB][31:0], and MODE FN[2:0] with FN[3] = 1 (R76). -/
def execSett (c : Fin 64) (t : Fin 32) (s : State) : Host.Outcome State Fault Refusal :=
  .next (s.issueInstr c t (fun i => i.op == 0x33) fun i s => syncInstr c t i s fun n s =>
    (s.syncArrive c n (.setT (fld ((s.thr c t).g i.rb).toNat 0 32) (if bitN i.fn 3 then some (fld i.fn 0 3) else none))).modThr
      c t Thread.done)

/-- SREAD: the thread waits for HUB's answer (R72, R76). -/
def execSread (c : Fin 64) (t : Fin 32) (s : State) : Host.Outcome State Fault Refusal :=
  .next (s.issueInstr c t (fun i => i.op == 0x34) fun i s => syncInstr c t i s fun n s =>
    (s.syncArrive c n (.read c t (i.fn == 1))).modThr c t fun th => { th with st := tExec, pend := .sread n, insn := i })

/-- The timer of a timed WAIT expires: the core sends a cancel, and the store decides (R91). -/
def execWaitTimeout (c : Fin 64) (t : Fin 32) (s : State) : Host.Outcome State Fault Refusal :=
  .next (match (s.thr c t).pend with
    | .sync n true => s.syncArrive c n (.cancel (.thread c t))
    | _ => s)

/-- A wake message reaches its core: the WAIT completes with g[RD] = 0 or 1, or an SREAD with its value (R87, R91, R92). -/
def execWakeDelivery (c : Fin 64) (t : Fin 32) (s : State) : Host.Outcome State Fault Refusal :=
  .next (match s.sync.wakes.find? fun w => w.1 == c.val && w.2.1 == t.val with
    | none => s
    | some w =>
      let i := s.inFlight c t
      let s1 := s.modSync fun q => { q with wakes := dropFirst (fun x => x == w) q.wakes }
      match (s.thr c t).pend with
      | .sync _ _ => s1.modThr c t fun th => th.doneRd i.rd (BitVec.ofNat 64 w.2.2)
      | .sread _ => s1.modThr c t fun th => th.doneRd i.rd (BitVec.ofNat 64 w.2.2)
      | _ => s1)

/-- A CSR write to COUNT or THRESHOLD acts as SETC or SETT; a 64-bit one at offset 0 sets both (R86). -/
def syncCsrWriteFx (obj off : Nat) (wide : Bool) (v : Nat) (s : State) : State :=
  if off = 0 then s.syncArrive 79 obj (if wide then .setCT (fld v 0 32) (fld v 32 32) else .setC (fld v 0 32))
  else if wide then s
  else s.syncArrive 79 obj (.setT (fld v 0 32) none)

/-- SYNC_CSR_WRITE (R86). -/
def execSyncCsrWrite (obj : BitVec 13) (off : Fin 2) (wide : Bool) (v : BitVec 64) (s : State) :
    Host.Outcome State Fault Refusal := .next (if s.pwr.domainUp then syncCsrWriteFx obj.toNat off wide v.toNat s else s)

/-- A 64-bit write to HUB_SYNC_SIGNAL adds ADD to OBJECT through input 79 (R93). -/
def hubSyncSignalFx (v : Nat) (s : State) : State :=
  (s.modSync fun q => { q with sigAdd := BitVec.ofNat 32 (fld v 32 32), sigObj := BitVec.ofNat 13 (fld v 0 13) }).syncArrive
    79 (fld v 0 13) (.add (fld v 32 32))

/-- HUB_SYNC_SIGNAL_WRITE (R93). -/
def execHubSyncSignalWrite (v : BitVec 64) (s : State) : Host.Outcome State Fault Refusal := .next (if s.pwr.domainUp then hubSyncSignalFx v.toNat s else s)

/-! Tasks. -/

/-- A free task handle from a number up, 1-0xFFFF (R95). -/
def freeHandle (used : List Nat) : Nat → Nat → Nat
  | 0, n => n
  | f + 1, n => if used.contains n then freeHandle used f (if 0xFFFF ≤ n then 1 else n + 1) else n

/-- Shuttle accepts a task (R95): ready at once, or bound to its input object. -/
def State.postTask (s : State) (k : Task) (input : Option Nat) : Nat × State :=
  let h := freeHandle (s.sh.tasks.map (·.handle)) 0xFFFF s.sh.nextHandle
  let s1 := s.modSh fun q => { q with tasks := q.tasks ++ [{ k with handle := h, st := 0 }],
                                      nextHandle := if 0xFFFF ≤ h then 1 else h + 1 }
  (h, match input with
    | none => s1.makeReady h
    | some obj => s1.syncArrive 79 ((s.ptn k.ptn).syncBase + obj) (.wait (.task h)))

/-- A task record in its fields (R94). -/
structure TaskRec where
  entry : Nat := 0
  input : Nat := 0
  core : Nat := 0
  class_ : Nat := 0
  rsv : Nat := 0
  args : List (BitVec 64) := []
  deriving DecidableEq, Repr

/-- Reads a task record (R94). -/
def taskRecOf (bs : List Byte) : TaskRec :=
  { entry := leAt bs 0 8, input := leAt bs 8 2, core := leAt bs 10 1, class_ := leAt bs 11 1, rsv := leAt bs 12 4,
    args := (List.range 6).map fun k => BitVec.ofNat 64 (leAt bs (16 + 8 * k) 8) }

/-- Why Shuttle refuses a task record (R95), if it does. -/
def State.taskRefusal (s : State) (p : Nat) (r : TaskRec) : Option Nat :=
  let q := s.ptn p
  if r.entry % 8 ≠ 0 ∨ r.rsv ≠ 0 ∨ 1 < r.class_ ∨ (r.input ≠ 0xFFFF ∧ !q.objOk r.input) ∨
      (r.core ≠ 0xFF ∧ !bitN q.cores.toNat r.core) ∨ (r.class_ = 1 ∧ !q.lcPermit) ∨ (r.class_ = 0 ∧ !q.bePermit) then
    some stInvalidField
  else if 16384 ≤ (s.sh.tasks.filter fun t => t.st == 0).length ∨ (r.core ≠ 0xFF ∧ s.coreRetired r.core) then some stNoResource
  else none

/-- The task that a record asks for, in the lower of its class and the job's (R244). -/
def taskOf (p job : Nat) (jobLc : Bool) (r : TaskRec) : Task :=
  { job := job, ptn := p, pc := BitVec.ofNat 48 r.entry, core := r.core, lc := r.class_ == 1 && jobLc, args := r.args }

/-- TASK_POST: the record at a + sext(IMM) goes to Shuttle (R95, R138). -/
def taskPostEffect (c t : Nat) (i : TInstr) (s : State) : State :=
  let p := s.partOf c
  let va := (s.thr c t).va i
  if va % 64 ≠ 0 then s.programFault c t cMisaligned
  else releaseThen c t (fun s => match s.translate p c va { r := true, lc := (s.thr c t).lc } false with
    | (.ok pa _, s1) =>
      (match paRange pa, s1.paRead pa 64 with
       | .spad _ _, _ => s1.programFault c t cSpadAccess
       | _, .bad => s1.threadFault c t va kUnmapped 4 3
       | _, .ok bs poison =>
         if poison then (s1.linesUe pa 64).threadUncorrectable c t
         else
           let s2 := (s1.paReadFx pa 64).chargeMem p pa 64
           let r := taskRecOf bs
           match s2.taskRefusal p r with
           | some st => s2.modThr c t fun th => th.doneRd i.rd (BitVec.ofNat 64 (2 ^ 63 + st))
           | none =>
             let id := (s2.thr c t).job
             let jobLc := ((s2.job id).map (·.lc)).getD false
             let ph := s2.postTask (taskOf p id jobLc r) (if r.input = 0xFFFF then none else some r.input)
             let s3 := if r.class_ = 1 ∧ !jobLc then ph.2.modJob id fun j => { j with downgrades := satAdd 8 j.downgrades 1 } else ph.2
             s3.modThr c t fun th => th.doneRd i.rd (BitVec.ofNat 64 ph.1))
    | (.fault k lv, s1) => s1.threadFault c t va k 4 lv
    | (.moving, s1) => s1
    | (.uncorrectable, s1) => s1.threadUncorrectable c t) s

/-- TASK_POST (R95). -/
def execTaskPost (c : Fin 64) (t : Fin 32) (s : State) : Host.Outcome State Fault Refusal :=
  .next (s.issueInstr c t (fun i => i.op == 0x38) (taskPostEffect c t))

/-- Threads of a class on a core of a partition (R246). -/
def PtnSt.classThreads (q : PtnSt) (lc : Bool) : List Nat :=
  if q.lcPermit then (if lc then [28, 29, 30, 31] else List.range 28) else if lc then [] else List.range 32

/-- A FREE thread of a class on a core. -/
def State.freeThreadOf (s : State) (p c : Nat) (lc : Bool) : Option Nat :=
  ((s.ptn p).classThreads lc).find? fun t => !(s.thr c t).held

/-- Working cores of a partition in rising number. -/
def State.coresOf (s : State) (p : Nat) : List Nat := (bitsOf 64 (s.ptn p).cores.toNat).filter fun c => !s.coreRetired c

/-- The core on which Shuttle starts a ready latency-critical task (R247). -/
def State.lcCore (s : State) (k : Task) : Option Nat :=
  let cs := s.coresOf k.ptn
  let holding := cs.filter fun c => (s.core c).holdsLc
  let room := decide (holding.length < (s.ptn k.ptn).lcLimit)
  let free := fun c => (s.freeThreadOf k.ptn c true).isSome
  if k.core ≠ 0xFF then
    (if cs.contains k.core && free k.core && (holding.contains k.core || room) then some k.core else none)
  else match holding.find? free with
    | some c => some c
    | none => if room then cs.find? fun c => !holding.contains c && free c else none

/-- The core on which Shuttle starts a ready best-effort task (R248). -/
def State.beCore (s : State) (k : Task) : Option Nat :=
  let cs := s.coresOf k.ptn
  let free := fun c => (s.freeThreadOf k.ptn c false).isSome && !(s.core c).saving
  let mine := fun c => (s.core c).holder == k.job
  let nobody := fun c => (s.core c).holder == 0
  if k.core ≠ 0xFF then
    (if cs.contains k.core && free k.core && (mine k.core || nobody k.core) then some k.core else none)
  else match cs.find? fun c => mine c && free c with
    | some c => some c
    | none => cs.find? fun c => nobody c && free c

/-- The context a task starts with (R96). -/
def startThread (k : Task) : Thread :=
  let th : Thread := { st := tReady, lc := k.lc, pc := k.pc, task := k.handle, job := k.job }
  let th1 := (List.range 6).foldl (fun th i => th.setG (i + 1) (k.args.getD i 0)) th
  th1.setG 7 (BitVec.ofNat 64 k.handle)

/-- A job waits for a core from the moment it has a ready task and none can be started (R256). -/
def State.updateWaits (s : State) : State :=
  s.modSh fun h => { h with jobs := h.jobs.map fun j =>
    let waiting := (!j.lc) && j.stage != .waitLoad && ((h.readyBe.any fun n => h.tasks.any fun t => t.handle == n && t.job == j.id && (s.beCore t).isNone) ||
      (h.frames.any fun f => f.job == j.id))
    if waiting then (if j.waitSince = 0 then { j with waitSince := s.now + 1 } else j) else { j with waitSince := 0 } }

/-- May a ready task start now: its job does not wait for a model load (R27), and no load drains the inference jobs or copies
(R226)? -/
def State.taskMayStart (s : State) (k : Task) : Bool :=
  match s.job k.job with
  | some j => j.stage != .waitLoad && !(j.op == 0x01 && (s.model.st == 2 || s.model.st == 3))
  | none => false

/-- Starts a ready task on a thread of a core (R96, R248). -/
def State.startTask (s : State) (k : Task) (c : Nat) : State :=
  match s.freeThreadOf k.ptn c k.lc with
  | none => s
  | some t =>
    let s1 := s.modThr c t fun _ => startThread k
    let s2 := if k.lc then s1 else s1.modCore c fun q =>
      if q.holder = k.job then q else { q with holder := k.job, heldSince := s.now }
    s2.modSh fun h => { h with
      tasks := modFirst (fun t => t.handle == k.handle) (fun t => { t with st := 2 }) h.tasks
      readyLc := h.readyLc.filter (· != k.handle)
      readyBe := h.readyBe.filter (· != k.handle) }

/-- TASK_DISPATCH (R96, R246-R248): the oldest ready task of the class that a core can take starts. -/
def execTaskDispatch (lc : Bool) (s : State) : Host.Outcome State Fault Refusal :=
  .next (
    let ready := (if lc then s.sh.readyLc else s.sh.readyBe).filterMap fun n => s.sh.tasks.find? fun t => t.handle == n
    let pick := ready.findSome? fun k =>
      if s.taskMayStart k then ((if lc then s.lcCore k else s.beCore k).map fun c => (k, c)) else none
    match pick with
    | none => s.updateWaits
    | some (k, c) => (s.startTask k c).updateWaits)

end Sys2Proof.Machine
end

