-- ==== Sys2Proof/Machine/Ring.lean ====
section
/-! DEFINITION. The record rings (R114): enabling, taking a record, skipping one; the write rules of the consumer
counters; halted agents that resume or abort (R118-R122). -/

namespace Sys2Proof.Machine

/-- The agent code of the collective engine: a unit of HUB of its own (log entry 33). -/
def collAgent : Nat := 0x1000 + 16 * 31 + 3

/-- A collective of a partition is halted on a fault: the record that HUB is taking from the ring (R384, R385). -/
def State.collHalted (s : State) (p : Nat) : Bool := s.xl.halted.any fun h => h.ptn == p && h.agent == collAgent

/-- A write to the CFG register of a record ring (R114): a write that sets ENABLE with an object of the partition makes HUB
set the trigger object and enrol; clearing it takes HUB out of the FIFO, and no record but the one it is taking is taken.
While ENABLE = 1, SIZE_LOG2 and OBJ stay (spec/05, Registers). -/
def State.ringCfg (s : State) (p kind v : Nat) : State :=
  let r := (s.ptn p).recRing kind
  let en := bitN v 31
  let obj := fld v 16 13
  if r.enable then
    if en then s
    else (s.dropWaiter (.ring p kind)).modPtn p fun q => q.modRec kind fun r =>
      { r with enable := false, avail := if kind = 2 ∧ s.collHalted p then min r.avail 1 else 0 }
  else
    let serve := en && obj != 0x1FFF && (s.ptn p).objOk obj
    let s1 := s.modPtn p fun q => q.modRec kind fun r =>
      { r with obj := BitVec.ofNat 13 obj, size := fld v 0 4, enable := en, next := 0, avail := 0 }
    if serve then
      let n := (s.ptn p).syncBase + obj
      (s1.syncArrive 79 n (.setAll 0 1 1)).syncArrive 79 n (.wait (.ring p kind))
    else s1

/-- A write to the BASE register of a ring: it takes effect while ENABLE = 0 (spec/05, Registers; R114). -/
def State.ringBase (s : State) (p kind v : Nat) : State :=
  if ((s.ptn p).recRing kind).enable then s
  else s.modPtn p fun q => q.modRec kind fun r => { r with base := BitVec.ofNat 50 (fld v 6 44 * 64) }

/-- A record at the front of a ring: its slot and its bytes; none while no release is left. -/
def State.ringFront (s : State) (p kind size : Nat) : Option (Nat × List Byte) :=
  let r := (s.ptn p).recRing kind
  if r.avail = 0 then none
  else
    let slot := r.next % 2 ^ max r.size 4
    match s.paRead (r.base.toNat + size * slot) size with
    | .ok bs false => some (slot, bs)
    | _ => some (slot, zeros size)

/-- Address of the record at the front of a ring. -/
def State.recAt (s : State) (p kind size : Nat) : Nat :=
  let r := (s.ptn p).recRing kind
  r.base.toNat + size * (r.next % 2 ^ max r.size 4)

/-- HUB has taken the record. -/
def State.ringTaken (s : State) (p kind : Nat) : State :=
  s.modPtn p fun q => q.modRec kind fun r => { r with avail := r.avail - 1, next := r.next + 1, taken := (r.taken + 1) % 2 ^ 16 }

/-- A record that is uncorrectable counts and is logged (R135), one outside usable memory is logged (R106); it reads as one of
no operation. -/
def State.ringUe (s : State) (p kind : Nat) : State :=
  let size := if kind = 0 then 32 else 64
  (s.linesUe (s.recAt p kind size) size).devUnread (s.recAt p kind size) size

/-- A record is skipped: taken, counted in ERRORS and notified (R115, R277, R384, R431). -/
def State.ringSkip (s : State) (p kind code slot data : Nat) : State :=
  (((s.ringUe p kind).ringTaken p kind).modPtn p fun q => q.modRec kind fun r => { r with errors := satAdd 16 r.errors 1 }).notify p code slot
    (BitVec.ofNat 64 data)

/-- HUB's read of the record at the front of a ring passes the admission of its memory hub: charged to the partition, or held, and
the record stays (R260, R261). DESIGN CHOICE (log entry 15): its class is best-effort. -/
def State.recPoint (s : State) (p kind size : Nat) (go : State → State) : State :=
  s.memPoint p (s.recAt p kind size) false size (.record kind) go

/-- A collective whose records are all there goes on, past the admission of its own record (R260); the record is charged when the
collective ends and the record is taken (R261). -/
def State.collPoint (s : State) (p : Nat) (go : State → State) : State :=
  match s.heldAt p (s.recAt p 2 64) false with
  | some r => s.holdRequest p r false 64 (.record 2)
  | none => go ((s.unheld p 0 (.record 2)).unheld p 1 (.record 2))

/-- HUB has taken the record of a collective. -/
def State.collTaken (s : State) (p : Nat) : State := (s.chargeMem p (s.recAt p 2 64) 64).ringTaken p 2

/-- A collective ends without DONE (R385); the notice is the model's (log entry 33). -/
def State.collEnd (s : State) (p : Nat) : State := (s.collTaken p).notify p 0x5010 0 0

/-- The jobs of a partition are aborted: the collective that its engine has in hand ends without DONE (R385). -/
def State.abortColl (s : State) (p : Nat) : State :=
  let s1 := s.modXl fun x => { x with halted := x.halted.filter fun h => !(h.agent == collAgent && h.ptn == p) }
  if ((s.ptn p).recRing 2).avail = 0 then s1 else s1.collEnd p

/-- Takes the record at the front of a ring when it belongs to the command's row (log entry 3): a record that `bad` refuses
is skipped whichever row is commanded; a record of another row stays. -/
def State.takeRec (s : State) (p kind size : Nat) (bad : List Byte → Bool) (skip : Nat → List Byte → State → State)
    (mine : List Byte → Bool) (run : Nat → List Byte → State → State) : State :=
  match s.ringFront p kind size with
  | none => s
  | some (slot, bs) =>
    if bad bs then s.recPoint p kind size (skip slot bs)
    else if mine bs then s.recPoint p kind size fun s => run slot bs (s.ringTaken p kind)
    else s

/-- The value of a consumer counter that a write may give (R98): from the present one up to PROD, with no more than the
ring's slots between it and PROD. -/
def consOk (slots : Nat) (prod cons v : BitVec 32) : Bool :=
  decide ((v - cons).toNat ≤ (prod - cons).toNat) && decide ((prod - v).toNat ≤ slots)

/-- A halted agent, by its code. -/
def State.haltOf (s : State) (agent : Nat) : Option HaltRec := s.xl.halted.find? fun h => h.agent == agent && !h.note

/-- Takes a halted agent out of the list. -/
def State.unhalt (s : State) (h : HaltRec) : State :=
  s.modXl fun x => { x with halted := dropFirst (· == h) x.halted }

/-- Every stream of a multicast group goes on or stays halted together (R235). -/
def State.mcHalt (s : State) (g : Nat) (halted : Bool) : State :=
  s.setMctok (tset s.mctok g { tget s.mctok g {} with halted := halted })

/-- The agent walks afresh (R121): a thread is READY at its faulting instruction, a stream goes on, any other agent starts
its operation again. -/
def State.resumeAgent (s : State) (h : HaltRec) : State :=
  let s1 := s.unhalt h
  if h.agent < 0x1000 then
    let c := h.agent / 64
    let u := h.agent % 64
    if u < 32 then s1.modThr c u fun th => { th with st := tReady, pend := .none }
    else if u < 34 then
      let s2 := s1.modCore c fun k => { k with streams := tset k.streams (u - 32) { tget k.streams (u - 32) {} with halted := false } }
      if h.mcast then s2.mcHalt h.group false else s2
    else s1
  else s1

/-- A halted agent aborts (R122): its task, or the batch (R288) or job it acts for, ends with ABORT_FAULT; a collective
ends without DONE (R385). -/
def State.abortHalted (s : State) (h : HaltRec) : State :=
  let s1 := s.unhalt h
  if h.agent < 0x1000 then
    let c := h.agent / 64
    let u := h.agent % 64
    if u < 32 then s1.kindFault c u h.kind
    else
      let s2 := if h.mcast then s1.mcHalt h.group false else s1
      match s1.haltEntry h with
      | some q => s2.kindFault c q.thr h.kind
      | none => s2
  else if h.agent = collAgent then s1.collEnd h.ptn
  else if h.batch ≠ 0 then s1.modBatch h.batch fun b => { b with status := kindStatus h.kind }
  else s1.abortJob h.job (kindStatus h.kind)

/-- Writes the fault records that wait for slots, in the order of the faults; an unresolvable one then aborts its agent
(R118, R120). -/
def drainFaults (p : Nat) : List HaltRec → State → State
  | [], s => s
  | h :: hs, s =>
    if h.ptn = p ∧ !h.written then
      if (s.ptn p).faultRoom then
        let s1 := s.putFault h
        if h.note then drainFaults p hs (s1.unhalt h)
        else if resolvable h.kind then
          drainFaults p hs (s1.modXl fun x => { x with halted := modFirst (· == h) (fun y => { y with written := true }) x.halted })
        else drainFaults p hs (s1.abortHalted h)
      else s
    else drainFaults p hs s

/-- A write to PTN_FAULT_CONS (R120). -/
def State.faultCons (s : State) (p : Nat) (v : BitVec 32) : State :=
  let q := (s.ptn p).fault
  if consOk q.slots q.prod q.cons v then
    let s1 := s.modPtn p fun q => { q with fault := { q.fault with cons := v } }
    drainFaults p s1.xl.halted s1
  else s

/-- FAULT_QUEUE_CONS_WRITE (R120). -/
def execFaultQueueConsWrite (p : Fin 32) (v : BitVec 32) (s : State) : Host.Outcome State Fault Refusal :=
  .next (if s.pwr.domainUp then s.faultCons p v else s)

/-- A record that RESUME_WINDOW's end finds unwritten is discarded and counted in LATE (R118, R121). -/
def State.lateRecord (s : State) (h : HaltRec) : State :=
  if h.written then s else s.modPtn h.ptn fun q => { q with xLate := satAdd 16 q.xLate 1 }

/-- RESUME_WINDOW_EXPIRY (R121): the agent aborts; a record not yet written is discarded and counted in LATE, that of an agent
that did not halt among them (R120). -/
def execResumeWindowExpiry (agent : BitVec 16) (s : State) : Host.Outcome State Fault Refusal :=
  .next (match s.haltOf agent.toNat with
    | some h => (s.lateRecord h).abortHalted h
    | none => match s.xl.halted.find? fun h => h.agent == agent.toNat with
      | some h => (s.lateRecord h).unhalt h
      | none => s)

/-- A write to NOTICE_RING_CONS (R98, R99): slots are freed and held records written. -/
def State.noticeCons (s : State) (r : Nat) (v : BitVec 32) : State :=
  let q := s.nring r
  if consOk q.slots q.prod q.cons v then (s.modNring r fun q => { q with cons := v }).drainRing r else s

/-- NOTICE_RING_CONS_WRITE (R98). -/
def execNoticeRingConsWrite (ring : Fin 33) (v : BitVec 32) (s : State) : Host.Outcome State Fault Refusal :=
  .next (if s.pwr.domainUp then s.noticeCons ring v else s)

/-- PROD − CONS of an ingest binding in units of 4 KiB; CONS stands in the binding's buffer (R299). -/
def State.ingestFill (s : State) (b : Nat) : Nat :=
  match tfind s.ingest.binds b with
  | none => 0
  | some x =>
    match (s.translate x.ptn 64 (x.buf + 8) { r := true, free := true } false).1 with
    | .ok pa _ => match s.paRead pa 8 with
      | .ok bs _ => (x.prod - leNat bs) / 4096
      | .bad => x.prod / 4096
    | _ => x.prod / 4096

/-- The level that a monitor's KIND and INDEX name (R101). DESIGN CHOICE (log entry 17): an INDEX that names none has level 0. -/
def State.levelOf (s : State) (kind index : Nat) : Nat :=
  match kind with
  | 1 => if index < 8192 then (s.obj index).count else 0
  | 2 => if index < 128 then s.ringOcc (index / 4) (index % 4) else 0
  | 3 => if index < 33 then (s.nring index).occ else 0
  | 4 => if index < 64 then s.ingestFill index else 0
  | _ => 0

/-- A monitor with its level evaluated once (R102). -/
def State.evalMonitor (s : State) (w : Nat) : State :=
  let m : WmSt := tget s.notice.wms w {}
  if m.enable && m.kind != 0 && decide (m.kind < 5) then
    let lv := s.levelOf m.kind m.index
    let r := m.meet lv
    let s1 := s.modNotice fun n => { n with wms := tset n.wms w r.1 }
    if r.2 then
      State.noticeRun noticeFuel s1 [.send (s1.wmRing m.kind m.index) { code := 0x4101, source := w, data := BitVec.ofNat 64 lv }]
    else s1
  else s

/-- Levels have taken new values at once, as a reset, an unbinding or the end of a session gives them: every monitor meets
its own (R101). A level that did not change latches nothing new. -/
def State.meetLevels (s : State) : State :=
  s.each (s.notice.wms.filter fun e => e.2.enable && e.2.kind != 0 && decide (e.2.kind < 5)) fun s e =>
    s.evalLevel e.2.kind e.2.index (s.levelOf e.2.kind e.2.index)

/-- A write of 1 to WM_HIT re-arms the monitor, which latches again at once while its level is beyond (R102). -/
def State.wmClear (s : State) (w : Nat) : State :=
  (s.modNotice fun n => { n with wms := tset n.wms w { tget n.wms w {} with hit := false } }).evalMonitor w

/-- WM_HIT_CLEAR (R102). -/
def execWmHitClear (w : Fin 256) (s : State) : Host.Outcome State Fault Refusal := .next (if s.pwr.domainUp then s.wmClear w else s)

/-- A write to NOTICE_WM_CFG leaves WM_HIT and PEAK; an enabled monitor that is not latched latches at once when its level
is beyond (R102). -/
def State.wmCfg (s : State) (w v : Nat) : State :=
  let s1 := s.modNotice fun n => { n with wms := tset n.wms w { tget n.wms w {} with
    enable := bitN v 63, dir := bitN v 62, kind := fld v 56 3, index := fld v 32 13, mark := fld v 0 32 } }
  if (tget s.notice.wms w {}).hit then s1 else s1.evalMonitor w

/-- WM_CFG_WRITE (R102). -/
def execWmCfgWrite (w : Fin 256) (v : BitVec 64) (s : State) : Host.Outcome State Fault Refusal := .next (if s.pwr.domainUp then s.wmCfg w v.toNat else s)

end Sys2Proof.Machine
end

