-- ==== Sys2Proof/Machine/Buf.lean ====
section
/-! DEFINITION. Buffers named by Weft entries (R369): a HUB agent translates them under the partition's tables, page by
page, and reads or writes them whole; a fault halts the agent of the job or ends the job. -/

namespace Sys2Proof.Machine

/-- The code of a HUB agent by its unit (R119). -/
def hubAgent (unit : Nat) : Nat := 0x1000 + 16 * 31 + unit

/-- Is the HUB agent that acts for a job halted? -/
def State.jobHalted (s : State) (id : Nat) : Bool := s.xl.halted.any fun h => decide (0x1000 ≤ h.agent) && h.job == id

/-- Maps a buffer for a job: its pieces by physical address, or none, when the agent waits or the job has ended (R369). A
regulator can hold the first buffer of a command; with `free` the access goes with one that has passed (log entry 15). -/
def State.bufMapAs (s : State) (j : Job) (free : Bool) (unit va n : Nat) (write : Bool) : Option (List (Nat × Nat)) × State :=
  if s.jobHalted j.id then (none, s)
  else
    match State.bufXlate j.ptn { r := !write, w := write, lc := j.lc, free := free } (pagePieces va n) [] s with
    | (.ok ps, s1) => (some ps, s1)
    | (.stop at_ (.fault k lv), s1) =>
      let h : HaltRec := { ptn := j.ptn, agent := hubAgent unit, va := BitVec.ofNat 64 at_, job := j.id, kind := k,
                           access := if write then 14 else 13, level := lv, lc := j.lc }
      (match s1.takeFault h with
       | (.halted, s2) => (none, s2)
       | (.abort, s2) => (none, s2.abortJob j.id (kindStatus k)))
    | (.stop _ .uncorrectable, s1) => (none, s1.abortJob j.id stAbortUncorrectable)
    | (.stop _ _, s1) => (none, s1)

/-- Maps the first buffer of a command. -/
def State.bufMap (s : State) (j : Job) (unit va n : Nat) (write : Bool) : Option (List (Nat × Nat)) × State :=
  s.bufMapAs j false unit va n write

/-- Reads the pieces of a mapped buffer; none where a byte is poisoned or has no memory. -/
def State.readPieces (s : State) : List (Nat × Nat) → Option (List Byte)
  | [] => some []
  | (pa, n) :: ps => match s.paRead pa n with
    | .ok bs false => (s.readPieces ps).map fun r => bs ++ r
    | _ => none

/-- The first byte of a mapped buffer that cannot be read, as an offset in the buffer. -/
def State.badPiece (s : State) : Nat → List (Nat × Nat) → Nat
  | o, [] => o
  | o, (pa, n) :: ps => match s.paRead pa n with
    | .ok _ false => s.badPiece (o + n) ps
    | .ok _ true => o + (((linesOf pa n).find? s.lineBad).map fun l => l * 64 - pa).getD 0
    | .bad => o

/-- What reading mapped pieces does to caches and accounts. -/
def State.piecesFx (s : State) (p : Nat) (ps : List (Nat × Nat)) : State :=
  s.each ps fun s x => ((s.sendRemote p hubUnit0 x.1 x.2 [] false).paReadFx x.1 x.2).chargeMem p x.1 x.2

/-- Writes bytes over mapped pieces, charged to the partition. -/
def State.writePieces (p : Nat) : List (Nat × Nat) → List Byte → State → State
  | [], _, s => s
  | (pa, n) :: ps, bs, s =>
    State.writePieces p ps (bs.drop n) (((s.sendRemote p hubUnit0 pa n (bs.take n) false).paWrite pa (bs.take n)).chargeMem p pa n)

/-- Physical address of byte `o` of the pieces of a range; none outside them. -/
def pieceAt (o : Nat) : List (Nat × Nat) → Option Nat
  | [] => none
  | (pa, n) :: ps => if o < n then some (pa + o) else pieceAt (o - n) ps

/-- A byte that came from the host with an error: its offset and why, 1 a read that PCIe completed with an error, 2 POISON
(R62, R226). None where that byte does not come from host memory. -/
def hostBad (pieces : List (Nat × Nat)) (h : Option HostErr) : Option (Nat × Nat) :=
  h.bind fun e => (pieceAt e.off.toNat pieces).bind fun pa =>
    match paRange pa with
    | .host => some (e.off.toNat, if e.poison then 2 else 1)
    | _ => none

/-- The earlier of two bytes that could not be read. -/
def firstUnread (a b : Option (Nat × Nat)) : Option (Nat × Nat) :=
  match a, b with
  | some x, some y => if y.1 < x.1 then some y else some x
  | some x, none => some x
  | none, y => y

/-- Reads a buffer for a job: none when the job waits or has ended. Poison ends it (R135, R245). -/
def State.bufReadAs (s : State) (j : Job) (free : Bool) (unit va n : Nat) : Option (List Byte) × State :=
  match s.bufMapAs j free unit va n false with
  | (none, s1) => (none, s1)
  | (some ps, s1) => match s1.readPieces ps with
    | some bs => (some bs, s1.piecesFx j.ptn ps)
    | none => (none, (s1.piecesUe ps).abortJob j.id stAbortUncorrectable)

/-- Reads the first buffer of a command. -/
def State.bufRead (s : State) (j : Job) (unit va n : Nat) : Option (List Byte) × State := s.bufReadAs j false unit va n

/-- Writes a buffer for a job and goes on; nothing more happens where the job waits or has ended. -/
def State.bufWrite (s : State) (j : Job) (unit va : Nat) (bs : List Byte) (go : State → State) : State :=
  match s.bufMap j unit va bs.length true with
  | (none, s1) => s1
  | (some ps, s1) => go (State.writePieces j.ptn ps bs s1)

end Sys2Proof.Machine
end

