-- ==== Sys2Proof/Machine/Weft.lean ====
section
/-! DEFINITION. Weft (R239-R243, R349-R370): doorbells, hello, fetching and admitting entries, completion messages, and the
opcodes that act in Shuttle alone: RUN, FENCE, QUERY_ACCOUNTS, CANCEL. -/

namespace Sys2Proof.Machine

/-- Rings that the committed image gives a partition (DB_INFO). -/
def State.ringCount (s : State) (p : Nat) : Nat := if (s.ptn p).live then (s.ptn p).ringCount else 0

/-- A write to a doorbell page is dropped with a sticky bit: it is counted, and the bit's rise is notified (R349). -/
def State.badWrite (s : State) (p bit v : Nat) : State :=
  let g := s.page p
  let s1 := s.modPage p fun g => { g with badWrites := satAdd 32 g.badWrites 1,
                                          sticky := BitVec.ofNat 4 (setBitN g.sticky.toNat bit true) }
  if bitN g.sticky.toNat bit then s1 else s1.notify p 0x1010 bit (BitVec.ofNat 64 v)

/-- The level that a KIND 2 monitor of a ring sees has changed (R101). -/
def State.ringLevel (s : State) (p r : Nat) : State := s.evalLevel 2 (4 * p + r) (s.ringOcc p r)

/-- A write of TAIL (R351). -/
def State.sqTailWrite (s : State) (p r v : Nat) : State :=
  let t' := v % 4096
  let n := s.ringSlots p
  let q := s.wring p r
  if s.ringCount p ≤ r then s
  else if !(s.page p).active then s.badWrite p 3 v
  else if n ≤ t' then s.badWrite p 0 v
  else if n - 1 - s.ringOcc p r < (t' + n - q.sqTail) % n then s.badWrite p 0 v
  else if t' = q.sqTail then s
  else
    let s1 := s.modWring p r fun q => { q with sqTail := t' }
    let s2 := if r = 0 ∧ (s.ptn p).lcPermit ∧ !s.sh.lcDoorbells.contains (p, r) then
        s1.modSh fun h => { h with lcDoorbells := h.lcDoorbells ++ [(p, r)] }
      else s1
    s2.ringLevel p r

/-- DB_SQ_TAIL_WRITE (R351). -/
def execDbSqTailWrite (p : Fin 32) (r : Fin 4) (v : BitVec 32) (s : State) : Host.Outcome State Fault Refusal :=
  .next (if s.pwr.domainUp then s.sqTailWrite p r v.toNat else s)

/-- A write of HEAD (R351): completion slots are released. -/
def State.cqHeadWrite (s : State) (p r v : Nat) : State :=
  let h' := v % 4096
  let n := s.ringSlots p
  let q := s.wring p r
  if s.ringCount p ≤ r then s
  else if !(s.page p).active then s.badWrite p 3 v
  else if n ≤ h' then s.badWrite p 1 v
  else if (q.cqTail + n - q.cqHead) % n < (h' + n - q.cqHead) % n then s.badWrite p 1 v
  else s.modWring p r fun q => { q with cqHead := h' }

/-- DB_CQ_HEAD_WRITE (R351). -/
def execDbCqHeadWrite (p : Fin 32) (r : Fin 4) (v : BitVec 32) (s : State) : Host.Outcome State Fault Refusal :=
  .next (if s.pwr.domainUp then s.cqHeadWrite p r v.toNat else s)

/-- A write to a ring's bases or DB_CQ_IRQ, given as the new ring (R349): dropped while the session is active. -/
def State.ringConfig (s : State) (p r v : Nat) (f : WeftRing → WeftRing) : State :=
  if s.ringCount p ≤ r then s
  else if (s.page p).active then s.badWrite p 2 v
  else s.modWring p r f

/-- May a ring lie at an address: host IOVA or board memory, not 0 (R350)? -/
def ringBaseOk (a : Nat) : Bool :=
  a != 0 && (match paRange a with
    | .host => true
    | .board => true
    | _ => false)

/-- The version of a hello: the highest in both ranges, if any (R350 step 1); the module's range is 1.0 alone. -/
def helloVersion (lo hi : Nat) : Option Nat := if lo ≤ 0x0100 ∧ 0x0100 ≤ hi then some 0x0100 else none

/-- Jobs of a partition in the job table. -/
def State.jobsOf (s : State) (p : Nat) : List Job := s.sh.jobs.filter fun j => j.ptn == p

/-- STATUS of a hello (R350). -/
def State.helloStatus (s : State) (p lo hi : Nat) : Nat :=
  if s.mgt.held then stHeldMode
  else if !(s.ptn p).live then stNoResource
  else if (helloVersion lo hi).isNone then stVersion
  else if !((List.range (s.ringCount p)).all fun r =>
      ringBaseOk (s.wring p r).sqBase.toNat && ringBaseOk (s.wring p r).cqBase.toNat) then stInvalidField
  else if (s.page p).active ∧ !(s.jobsOf p).isEmpty then stInvalidField
  else stOk

/-- A 64-bit write to DB_HELLO (R350): the four steps, with BUSY set only within them. -/
def State.helloWrite (s : State) (p : Nat) (v : BitVec 64) : State :=
  if (s.page p).busy then s.modPage p fun g => { g with badWrites := satAdd 32 g.badWrites 1 }
  else
    let lo := fld v.toNat 0 16
    let hi := fld v.toNat 16 16
    let tag := BitVec.ofNat 32 (fld v.toNat 32 32)
    let st := s.helloStatus p lo hi
    let ver := (helloVersion lo hi).getD 0
    let s1 := s.modPage p fun g => { g with hostTag := tag, verMax := BitVec.ofNat 16 hi, verMin := BitVec.ofNat 16 lo, status := st }
    let s2 := if st = stOk then
        (s1.modPage p fun g => { g with
          rings := g.rings.map fun e => (e.1, { e.2 with sqTail := 0, sqHead := 0, cqTail := 0, cqHead := 0, phase := true,
                                                         inflight := 0, unsig := 0 })
          gen := s.warp.gen, version := ver, active := true, sessTag := tag }).modSh fun h =>
            { h with lcDoorbells := h.lcDoorbells.filter fun d => d.1 != p }
      else s1
    s2.log (Src.code (.weft p)) 0x1011 (bytesLE 4 tag.toNat ++ bytesLE 2 ver ++ bytesLE 1 st)

/-- HELLO (R350). -/
def execHello (p : Fin 32) (v : BitVec 64) (s : State) : Host.Outcome State Fault Refusal := .next (if s.pwr.domainUp then s.helloWrite p v else s)

/-- A fence of a partition covers a ring (R363). -/
def State.fenced (s : State) (p r : Nat) : Bool :=
  s.sh.jobs.any fun j => j.ptn == p && j.op == 0x07 && (leAt j.entry 4 1 == 1 || j.ring == r)

/-- May Shuttle fetch the next entry of a ring now (R240, R352, R363, R66)? -/
def State.fetchable (s : State) (p r : Nat) : Bool :=
  let q := s.wring p r
  let n := s.ringSlots p
  (s.page p).active && decide (r < s.ringCount p) && s.warp.active == 1 && q.sqTail != q.sqHead &&
    decide (q.inflight + (q.cqTail + n - q.cqHead) % n < n - 1) &&
    decide ((s.jobsOf p).length < 1024) && decide (s.sh.jobs.length < 4096) && !s.fenced p r

/-- Numbers of a circle of `n` from the one after `last`, the last one itself at the end. -/
def circleFrom (n last : Nat) : List Nat := (List.range n).map fun i => (last + 1 + i) % n

/-- Best-effort rings of a partition (R239). -/
def State.beRing (s : State) (p r : Nat) : Bool := !(r == 0 && (s.ptn p).lcPermit)

/-- The ring that Shuttle fetches from next (R240). -/
def State.nextFetch (s : State) : Option (Nat × Nat) :=
  match s.sh.lcDoorbells.find? fun d => s.fetchable d.1 d.2 with
  | some d => some d
  | none =>
    let ok := fun (p r : Nat) => s.beRing p r && s.fetchable p r
    let cur := (s.sh.fetchRr, tget s.sh.lastRing s.sh.fetchRr 0)
    if decide (0 < s.sh.fetchBurst) && decide (s.sh.fetchBurst < 8) && ok cur.1 cur.2 then some cur
    else (circleFrom 32 s.sh.fetchRr).findSome? fun p =>
      ((circleFrom 4 (tget s.sh.lastRing p 0)).find? (ok p)).map fun r => (p, r)

/-- Shuttle takes a turn at a ring: the books of the order of R240. -/
def State.fetchTurn (s : State) (p r : Nat) : State :=
  if s.beRing p r then
    s.modSh fun h => { h with
      fetchBurst := if h.fetchRr = p ∧ tget h.lastRing p 0 = r ∧ h.fetchBurst < 8 then h.fetchBurst + 1 else 1
      fetchRr := p, lastRing := tset h.lastRing p r }
  else if s.ringOcc p r = 0 then s.modSh fun h => { h with lcDoorbells := h.lcDoorbells.filter (· != (p, r)) }
  else s

/-- Service level that an opcode needs (R357). -/
def opLevel (op : Nat) : Nat := if op ∈ [0x01, 0x02, 0x03, 0x04, 0x05, 0x08, 0x09] then 3 else 2

/-- Opcodes served in held mode (R357). -/
def opHeldOk (op : Nat) : Bool := decide (op ∈ [0x07, 0x0A, 0x0C, 0x0D])

/-- The stacks of the model region are there (R357, LOAD_IMAGE). -/
def State.modelStacks (s : State) : Bool :=
  match s.warp.activeImg with
  | none => true
  | some img => img.modelLen == 0 || (List.range 8).all fun st =>
      !(decide (img.modelBase / 2 ^ 36 ≤ st) && decide (st ≤ (img.modelBase + img.modelLen - 1) / 2 ^ 36)) || bitN s.pwr.stackOk.toNat st

/-- A VA operand: 48 bits in 8 bytes (R353). -/
def vaBad (e : List Byte) (o : Nat) : Bool := leAt e o 8 != leAt e o 6

/-- Bytes of an entry that must be 0. -/
def rsvBad (e : List Byte) (o n : Nat) : Bool := leAt e o n != 0

/-- The fields that a MERGE sub-operation does not use are 0 (R361), and its range (R296). -/
def mergeBad (e : List Byte) : Bool :=
  let sub := leAt e 6 1
  decide (4 < sub) || rsvBad e 7 1 || rsvBad e 0xE 2 || rsvBad e 0x2C 20 || vaBad e 0x18 || vaBad e 0x20 ||
    (sub != 0 && (rsvBad e 8 6 || rsvBad e 0x10 8 || rsvBad e 0x20 8)) ||
    (sub != 1 && rsvBad e 0x28 4) || ((sub == 2 || sub == 3) && rsvBad e 0x18 8)

/-- An INGEST_BIND entry out of its fields' ranges (R299, R362). -/
def bindBad (q : PtnSt) (e : List Byte) : Bool :=
  let un := bitN (leAt e 6 1) 0
  let len := leAt e 0x18 8
  decide (1 < leAt e 6 1) || rsvBad e 0xE 2 || rsvBad e 0x20 32 || decide (63 < leAt e 4 1) ||
    (if un then rsvBad e 5 1 || rsvBad e 7 1 || rsvBad e 8 6 || rsvBad e 0x10 16
     else decide (1 < leAt e 5 1) || vaBad e 0x10 || decide (len < 65536) || decide (2 ^ 30 < len) || len % 65536 != 0 ||
       !q.objOk (leAt e 0xC 2))

/-- An MGMT entry out of its fields' ranges (R367). -/
def mgmtBad (e : List Byte) : Bool :=
  let code := leAt e 4 2
  let csr := code == 1 || code == 2
  rsvBad e 6 2 || vaBad e 8 || vaBad e 0x18 || rsvBad e 0x20 4 || rsvBad e 0x29 7 || rsvBad e 0x38 8 ||
    !(csr || (decide (0x10 ≤ code) && decide (code ≤ 0x13)) || (decide (0x100 ≤ code) && decide (code ≤ 0x7FFF))) ||
    (csr && !(leAt e 0x28 1 == 4 && leAt e 0x24 4 % 4 == 0 || leAt e 0x28 1 == 8 && leAt e 0x24 4 % 8 == 0))

/-- A submission entry breaks the reserved bytes, operand ranges or field rules of R353 and of its opcode (R358-R368). -/
def entryFieldsBad (q : PtnSt) (e : List Byte) : Bool :=
  let op := leAt e 0 1
  decide (3 < leAt e 1 1) ||
    (if op = 0x01 then leAt e 4 6 % 8 != 0 || rsvBad e 0xD 3 || (leAt e 0xA 2 != 0xFFFF && !q.objOk (leAt e 0xA 2))
     else if op = 0x02 then
       let nq := leAt e 8 1
       let r := leAt e 9 1 + 1
       decide (1 < leAt e 0xB 1) || rsvBad e 0xE 2 || rsvBad e 0x30 16 || vaBad e 0x10 || vaBad e 0x18 || vaBad e 0x20 ||
         vaBad e 0x28 || nq == 0 || decide (32 < nq) || (bitN (leAt e 1 1) 0 && decide (8 < nq)) ||
         decide (r < leAt e 0xA 1 + 1) || decide (r < leAt e 0xC 2) || leAt e 6 2 == 0 || decide (4096 < leAt e 6 2)
     else if op = 0x03 ∨ op = 0x04 then
       rsvBad e 6 2 || rsvBad e 0xC 4 || rsvBad e 0x20 32 || vaBad e 0x10 || vaBad e 0x18 || leAt e 8 4 == 0 ||
         decide (65536 < leAt e 8 4)
     else if op = 0x05 then mergeBad e
     else if op = 0x06 then bindBad q e
     else if op = 0x07 then decide (1 < leAt e 4 1) || rsvBad e 5 59
     else if op = 0x08 ∨ op = 0x09 then
       rsvBad e 4 4 || vaBad e 8 || rsvBad e 0x16 2 || rsvBad e 0x28 24 || leAt e 0x10 4 == 0 || decide (65536 < leAt e 0x10 4) ||
         leAt e 0x14 2 == 0 || decide (2048 < leAt e 0x14 2)
     else if op = 0x0A then rsvBad e 4 4 || vaBad e 8 || rsvBad e 0x10 48
     else if op = 0x0B then
       let kind := leAt e 4 1
       decide (2 < kind) || rsvBad e 5 3 || rsvBad e 0x18 40 || leAt e 0x10 8 % 512 != 0 || (kind == 0 && vaBad e 8) ||
         (kind == 2 && rsvBad e 8 16)
     else if op = 0x0C then mgmtBad e
     else rsvBad e 4 4 || rsvBad e 0xC 52)

/-- The class of an entry is permitted, by its partition, its ring and its opcode (R239, R241, R357). -/
def classOk (q : PtnSt) (r op : Nat) (lc : Bool) : Bool :=
  (if lc then q.lcPermit && r == 0 else q.bePermit && !(r == 0 && q.lcPermit)) &&
    !(lc && decide (op ∈ [0x05, 0x06, 0x08, 0x09, 0x0B]))

/-- Why an entry is refused, if it is (R241). -/
def State.admission (s : State) (p r : Nat) (e : List Byte) : Option Nat :=
  let q := s.ptn p
  let op := leAt e 0 1
  let lc := bitN (leAt e 1 1) 0
  let core := leAt e 0xC 1
  if op = 0 ∨ 0x0D < op then some stInvalidField
  else if (s.mgt.held ∧ !opHeldOk op) ∨ s.pwr.level < opLevel op ∨ (op = 0x0B ∧ !s.modelStacks) then some stHeldMode
  else if !classOk q r op lc then some stInvalidField
  else if entryFieldsBad q e then some stInvalidField
  else if lc ∧ q.lcLimit = 0 then some stNoResource
  else if op = 0x01 then
    (if core ≠ 0xFF ∧ !bitN q.cores.toNat core then some stInvalidField
     else if core ≠ 0xFF ∧ s.coreRetired core then some stNoResource
     else if !q.modelUser ∨ (!s.model.resident ∧ s.model.st < 2) then some stNoResource
     else if s.model.mismatch then some stInvalidField
     else none)
  else none

/-- Identifier of a partition's next job, and the number after it (R242). -/
def State.newJobId (s : State) (p : Nat) : Nat × State :=
  let n := (s.ptn p).jobSeq
  (p * 2 ^ 27 + n, s.modPtn p fun q => { q with jobSeq := if n = 0x7FFFFFF then 1 else n + 1 })

/-- An entry's bytes arrive: it is refused with a completion, or becomes a job (R241, R242); a SEARCH takes its snapshot (R271). -/
def State.judgeEntry (s : State) (p r order : Nat) (e : List Byte) : State :=
  let noIrq := bitN (leAt e 1 1) 1
  match s.admission p r e with
  | some st => s.complete p r (leAt e 2 2) st 0 0 0 0 noIrq
  | none =>
    let n := s.newJobId p
    let s1 := n.2.modSh fun h => { h with jobs := h.jobs ++
      [{ id := n.1, ptn := p, ring := r, tag := BitVec.ofNat 16 (leAt e 2 2), lc := bitN (leAt e 1 1) 0, noIrq := noIrq,
         entry := e, order := order }] }
    if leAt e 0 1 = 0x02 then s1.pinSearch p n.1 (leAt e 4 2) else s1

/-- ENTRY_FETCH (R240, R241, R352): the next entry in Shuttle's order is read and judged. -/
def execEntryFetch (p : Fin 32) (r : Fin 4) (s : State) : Host.Outcome State Fault Refusal :=
  .next (
    if s.nextFetch ≠ some (p.val, r.val) then s
    else
      let q := s.wring p r
      let slot := q.sqHead
      s.memPoint p (q.sqBase.toNat + 64 * slot) false 64 (.entry r) fun s =>
      let s1 := s.modWring p r fun q => { q with sqHead := (q.sqHead + 1) % s.ringSlots p, inflight := q.inflight + 1 }
      let s2 := (s1.modSh fun h => { h with fetchOrder := h.fetchOrder + 1 }).fetchTurn p r
      let a := q.sqBase.toNat + 64 * slot
      let s3 := s2.ringLevel p r
      match s2.paRead a 64 with
      | .ok e false => s3.judgeEntry p r s.sh.fetchOrder e
      | _ => (((s3.linesUe a 64).devUnread a 64).complete p r 0 stAbortFault 0 0 0 0 false).notify p 0x1013 r (BitVec.ofNat 64 slot))

/-- CQ_IRQ_TIMER (R370): TIME has passed since the first unsignalled completion. -/
def execCqIrqTimer (p : Fin 32) (r : Fin 4) (s : State) : Host.Outcome State Fault Refusal :=
  .next (
    if (s.wring p r).unsig = 0 ∨ (s.wring p r).time = 0#8 then s
    else (s.modWring p r fun q => { q with unsig := 0 }).raise (s.complVec p r))

/-- The admitted job of an identifier, when its entry has the opcode of the command's row and that row has not run. -/
def State.admitted (s : State) (id op : Nat) : Option Job :=
  match s.job id with
  | some j => if j.stage == .admitted && j.op == op && !s.jobHalted id then some j else none
  | none => none

/-- RUN (R243, R358): the root task is built; during a model load it waits (R27). -/
def execRunTask (job : BitVec 32) (s : State) : Host.Outcome State Fault Refusal :=
  .next (match s.admitted job.toNat 0x01 with
    | none => s
    | some j =>
      let r := { taskRecOf (padTo 16 ((j.entry.drop 4).take 6 ++ zeros 2 ++ (j.entry.drop 0xA).take 3) ++ j.entry.drop 0x10) with
                 class_ := b2n j.lc, rsv := 0 }
      match s.taskRefusal j.ptn r with
      | some st => s.endJob j.id st 0
      | none =>
        let ph := s.postTask (taskOf j.ptn j.id j.lc r) (if r.input = 0xFFFF then none else some r.input)
        ph.2.modJob j.id fun j => { j with root := ph.1, stage := if 2 ≤ s.model.st then .waitLoad else .running })

/-- WEFT_FENCE (R363): completes once every entry fetched earlier from its scope has. -/
def execWeftFence (job : BitVec 32) (s : State) : Host.Outcome State Fault Refusal :=
  .next (match s.admitted job.toNat 0x07 with
    | none => s
    | some j =>
      let all := leAt j.entry 4 1 = 1
      if s.sh.jobs.any fun k => k.ptn == j.ptn && decide (k.order < j.order) && (decide all || k.ring == j.ring) then s
      else s.endJob j.id stOk 0)

/-- Captures every counter of a partition with the instant (R264). -/
def State.acctSnapshot (s : State) (p : Nat) : State :=
  s.modPtn p fun q => { q with acctSnap := ((List.range 14).map fun k => (k, tget q.acct k 0)) ++ [(14, s.timeNow.toNat)] }

/-- QUERY_ACCOUNTS (R365). -/
def execQueryAccounts (job : BitVec 32) (s : State) : Host.Outcome State Fault Refusal :=
  .next (match s.admitted job.toNat 0x0A with
    | none => s
    | some j =>
      match s.bufMap j 0 (leAt j.entry 8 8) 120 true with
      | (none, s1) => s1
      | (some ps, s1) =>
        let s2 := s1.acctSnapshot j.ptn
        (State.writePieces j.ptn ps ((List.range 15).flatMap fun k => bytesLE 8 (tget (s2.ptn j.ptn).acctSnap k 0)) s2).endJob j.id stOk 0)

/-- ACCT_SNAPSHOT_GO (R264): a write of GO to PTN_ACCT_CTL; one while BUSY is 1 is ignored. -/
def State.acctGo (s : State) (p : Nat) : State :=
  if (s.ptn p).acctBusy then s else (s.acctSnapshot p).modPtn p fun q => { q with acctBusy := true }

/-- ACCT_SNAPSHOT_GO (R264). -/
def execAcctSnapshotGo (p : Fin 32) (s : State) : Host.Outcome State Fault Refusal := .next (if s.pwr.domainUp then s.acctGo p else s)

/-- CANCEL (R368). -/
def execCancelJob (job : BitVec 32) (s : State) : Host.Outcome State Fault Refusal :=
  .next (match s.admitted job.toNat 0x0D with
    | none => s
    | some j => match s.job (leAt j.entry 8 4) with
      | some k => if k.ptn = j.ptn then (s.stopJob k.id stPreempted).endJob j.id stOk 0 else s.endJob j.id stInvalidField 0
      | none => s.endJob j.id stInvalidField 0)

/-- A session ends and the page's registers take their reset values (R349, R350). -/
def State.endSession (s : State) (p : Nat) : State :=
  ((s.modHost fun h => { h with pages := tset h.pages p {} }).modSh fun h =>
    { h with lcDoorbells := h.lcDoorbells.filter fun d => d.1 != p }).meetLevels

end Sys2Proof.Machine
end

