-- ==== Sys2Proof/Machine/Search.lean ====
section
/-! DEFINITION. Search jobs (R265-R274, R290-R298): SEARCH and its end, inserts and deletes, merges and the life of an
index, and the bindings of ingest (R299, R362). The kernel's own steps are net effects (log entry 27). -/

namespace Sys2Proof.Machine

/-- A buffer whose mapping is wrong: a page outside tiers 0 and 1, or an unresolvable fault (R290, R296). -/
def State.mapWrong (s : State) (p va n : Nat) (need : Need) : Bool :=
  (pagePieces va n).any fun x => match (s.translate p 64 x.1 need true).1 with
    | .ok _ tier => decide (1 < tier)
    | .fault k _ => !resolvable k
    | _ => false

/-- `n` bytes that nothing states, from a place of the model. -/
def State.openBytes (s : State) (place n : Nat) : List Byte := (List.range n).map fun i => BitVec.ofNat 8 (Config.freeNat place [s.free, i])

/-- CODE_LEN and CTX_LEN of an index: the spec gives the kernel no size (R296, R298; log entry 27). A context has to be
mapped to be opened, so it fits below the model aperture (R107, R296). -/
def IndexSt.codeLen (_ix : IndexSt) : Nat := Config.freeNat 40 [] % 2 ^ 32
def IndexSt.ctxLen (ix : IndexSt) : Nat := Config.freeNat 41 [ix.dim, ix.vfmt, ix.code, ix.lists, ix.sideMax] % (63 * 2 ^ 26)

/-- The mirror of the side list in the context follows a commit (R296): the context has no stated layout, so what lies
behind the code takes bytes that nothing states. -/
def State.mirror (s : State) (p : Nat) (ix : IndexSt) : State :=
  match ix.opened with
  | none => s
  | some va =>
    let n := ix.ctxLen * 65536 - ix.codeLen
    match State.bufXlate p { w := true } (pagePieces (va + ix.codeLen) n) [] s with
    | (.ok ps, s1) => State.writePieces p ps (s1.openBytes 45 n) (s1.setFree (s1.free + 1))
    | (_, s1) => s1

/-! Inserts and deletes. -/

/-- What becomes of an insert or delete record (R294, R295). -/
structure Verdict where
  csn : Nat := 0
  status : Nat := 0
  gen : Nat := 0
  flags : Nat := 0
  deriving DecidableEq, Repr

/-- A status entry (R295). -/
def Verdict.bytes (v : Verdict) : List Byte := bytesLE 8 v.csn ++ bytesLE 1 v.status ++ bytesLE 1 v.gen ++ bytesLE 2 v.flags ++ zeros 4

/-- GEN of a record that gets none has no stated value (log entry 27). -/
def openGen (id : Nat) : Nat := Config.freeNat 44 [id] % 256

/-- A record refused. -/
def refusedRec (id status : Nat) : Verdict := { status := status, gen := openGen id }

/-- Bytes of an insert record (R293). -/
def IndexSt.insLen (ix : IndexSt) : Nat := 64 + ix.recSize

/-- An insert record with a bad field, a NaN or an infinite element (R293, R294); `enc` when it comes from a Weft INSERT. -/
def IndexSt.insertBad (ix : IndexSt) (enc : Bool) (r : List Byte) : Bool :=
  let v := r.drop 64
  let n := ix.dim * (fmtBits ix.vfmt / 8)
  leAt r 7 1 != 0 || decide (1 < leAt r 0x14 4) || leAt r 0x18 8 != 0 || !allZero (v.drop n) || ix.badVec v ||
    (!enc && (leAt r 0x14 4 != 0 || decide (ix.lists ≤ leAt r 0x10 4)))

/-- One insert record is judged, and accepted or refused (R294). -/
def IndexSt.insertOne (ix : IndexSt) (enc : Bool) (r : List Byte) : IndexSt × Verdict :=
  let id := leAt r 0 7
  if ix.insertBad enc r then (ix, refusedRec id stInvalidField)
  else
    let old := tfind ix.live id
    let gen := match tfind ix.known id with
      | some g => (g + 1) % 256
      | none => 0
    let i := identOf id gen
    if ix.copies.contains i then (ix, refusedRec id stNoResource)
    else if ix.sideMax ≤ ix.side.length ∨ (old.isSome ∧ 2048 ≤ ix.tombs.length) then (ix, refusedRec id stNoResource)
    else
      let csn := ix.csn + 1
      let vec := (r.drop 64).take ix.recSize
      let v := ix.elems vec
      let list := if enc then (ix.nearLists v 1).headD 0 else leAt r 0x10 4
      let codes := if enc then ix.encode v else BitVec.ofNat 256 (leAt r 0x20 32)
      let e : Entry := { codes := codes, attr := BitVec.ofNat 64 (leAt r 8 8), ident := i, vec := vec }
      ({ ix with csn := csn
                 side := ix.side ++ [{ e := e, list := list, csn := csn }]
                 tombs := match old with
                   | some g => ix.tombs ++ [{ ident := identOf id g, csn := csn }]
                   | none => ix.tombs
                 live := tset ix.live id gen, known := tset ix.known id gen },
       { csn := csn, gen := gen, flags := b2n old.isSome })

/-- One ID is deleted (R294). -/
def IndexSt.deleteOne (ix : IndexSt) (id : Nat) : IndexSt × Verdict :=
  match tfind ix.live id with
  | none => (ix, { gen := openGen id, flags := 2 })
  | some g =>
    if 2048 ≤ ix.tombs.length then (ix, refusedRec id stNoResource)
    else
      let csn := ix.csn + 1
      ({ ix with csn := csn, tombs := ix.tombs ++ [{ ident := identOf id g, csn := csn }], live := tdel ix.live id },
       { csn := csn, gen := g })

/-- Records judged one at a time, in array order (R294). -/
def IndexSt.judge (ix : IndexSt) (one : IndexSt → List Byte → IndexSt × Verdict) (rs : List (List Byte)) : IndexSt × List Verdict :=
  rs.foldl (fun acc r => let x := one acc.1 r; (x.1, acc.2 ++ [x.2])) (ix, [])

/-- The index after its commits: journaled, and the mirror follows (R270, R296). -/
def State.commitIndex (s : State) (p : Nat) (ix ix' : IndexSt) : State :=
  let s1 := s.modIndex ix.handle fun _ => ix'
  if ix'.csn = ix.csn then s1
  else ((s1.journal (ix.handle % 8) (.index ix.handle ix'.csn)).mirror p ix').retain

/-- The records of an array of `n`-byte records. -/
def recsOf (n count : Nat) (bs : List Byte) : List (List Byte) := (List.range count).map fun i => (bs.drop (n * i)).take n

/-- A Weft INSERT or DELETE (R290, R294, R360): reads its records, judges them, writes the status array and completes. -/
def State.changeJob (s : State) (j : Job) (len : IndexSt → Nat) (one : IndexSt → List Byte → IndexSt × Verdict) : State :=
  let n := leAt j.entry 8 4
  match s.openIndex j.ptn (leAt j.entry 4 2) with
  | none => s.endJob j.id stInvalidField 0
  | some ix =>
    match s.bufMap j 0 (leAt j.entry 0x18 8) (16 * n) true with
    | (none, s1) => s1
    | (some st, s1) => match s1.bufReadAs j true 0 (leAt j.entry 0x10 8) (len ix * n) with
      | (none, s2) => s2
      | (some bs, s2) =>
        let r := ix.judge one (recsOf (len ix) n bs)
        let s3 := s2.commitIndex j.ptn ix r.1
        let s4 := State.writePieces j.ptn st (r.2.flatMap Verdict.bytes) s3
        let good := (r.2.filter fun v => v.status == stOk).length
        s4.endJob j.id (if good = n then stOk else stPartial) good

/-- INSERT (R293, R294): every record carries ENCODE. -/
def execInsertJob (job : BitVec 32) (s : State) : Host.Outcome State Fault Refusal :=
  .next (s.flashJob job.toNat fun s => match s.admitted job.toNat 0x03 with
    | none => s
    | some j => s.changeJob j IndexSt.insLen fun ix r => ix.insertOne true r)

/-- DELETE (R294). -/
def execDeleteJob (job : BitVec 32) (s : State) : Host.Outcome State Fault Refusal :=
  .next (s.flashJob job.toNat fun s => match s.admitted job.toNat 0x04 with
    | none => s
    | some j => s.changeJob j (fun _ => 8) fun ix r => ix.deleteOne (leNat r))

/-! SEARCH. -/

/-- A candidate of the assembly (R292). -/
structure Found where
  ident : BitVec 64
  dist : Nat
  side : Bool
  deriving DecidableEq, Repr

/-- Order of results: distance, then IDENT (R292). -/
def Found.le (a b : Found) : Bool :=
  let x := decodeNum fFp32 a.dist
  let y := decodeNum fFp32 b.dist
  ltNum x y || (!ltNum y x && decide (a.ident.toNat ≤ b.ident.toNat))

/-- Order of candidates: score, then IDENT (R278). -/
def Cand.le (a b : Cand) : Bool := decide (a.score < b.score) || (a.score == b.score && decide (a.ident.toNat ≤ b.ident.toNat))

/-- The global top-R of a query over the 64 channels (R291 step 7). -/
def Batch.globalTop (b : Batch) (q : Nat) : List Cand :=
  (sortBy Cand.le ((List.range 64).flatMap fun c => tget b.tops (64 * q + c) [])).take b.r

/-- The record that a locator names, as bytes, and whether its page is lost (R286, R289). -/
def State.recBytes (s : State) (ix : IndexSt) (snap ch loc : Nat) : Option (List Byte × Bool) :=
  (ix.recAt snap ch loc).map fun x =>
    let unit := s.pageUnit ix.handle x.1
    (((s.pageBytes unit).drop (ix.recSize * x.2)).take ix.recSize, s.pageLost unit)

/-- Charges and counts the record pages read (R285, R320). -/
def State.recFx (s : State) (p : Nat) (ix : IndexSt) (snap : Nat) (ls : List (Nat × Nat)) : State :=
  let us := ls.filterMap fun l => (ix.recAt snap l.1 l.2).map fun x => s.pageUnit ix.handle x.1
  let once := us.foldl (fun acc u => if acc.contains u then acc else acc ++ [u]) []
  (s.each once fun s u => s.modBlk (unitBlock u) fun b => { b with reads := b.reads + 1 }).charge p 9 (some 2) (16384 * once.length)

/-- A query's cluster candidates with their distances; a record on a lost page has no stated distance (log entry 27). -/
def State.clusterFound (s : State) (b : Batch) (ix : IndexSt) (qb : List Byte) (q : Nat) : List Found × Bool :=
  (b.globalTop q).foldl (fun acc c =>
    match s.recBytes ix b.snap c.chan c.loc with
    | none => acc
    | some (_, true) =>
      (acc.1 ++ [{ ident := c.ident, dist := Config.freeNat 46 [s.free, c.ident.toNat] % 2 ^ 31 % 0x7F800000, side := false }], true)
    | some (bs, false) => (acc.1 ++ [{ ident := c.ident, dist := ix.dist qb bs, side := false }], acc.2)) ([], false)

/-- The exact side scan of a query (R273, R291 step 6). -/
def IndexSt.sideFound (ix : IndexSt) (b : Batch) (qb : List Byte) (q : Nat) : List Found :=
  let cs := ix.side.filter fun c => decide (c.csn ≤ b.snap) && !dead ix.tombs c.e.ident b.snap && passes b.filters q c.e.attr
  (sortBy Found.le (cs.map fun c => { ident := c.e.ident, dist := ix.dist qb c.e.vec, side := true })).take b.r

/-- The assembly (R292): tombstones win, one candidate a key with the smaller distance, the first K by distance and IDENT. -/
def assemble (tombs : List Tomb) (snap k : Nat) (cands : List Found) : List Found :=
  let live := sortBy Found.le (cands.filter fun c => !dead tombs c.ident snap)
  let once := live.foldl (fun (acc : List Found) c => if acc.any (fun x => x.ident == c.ident) then acc else acc ++ [c]) []
  once.take k

/-- The result block of a query (R292), and whether it is PARTIAL or INVALID. -/
def State.resultBlock (s : State) (j : Job) (b : Batch) (ix : IndexSt) (q : Nat) : List Byte × Bool :=
  let k := leAt j.entry 0xA 1 + 1
  let inv := bitN b.invalid.toNat q
  let qb := (b.queries.drop (q * ix.recSize)).take ix.recSize
  let cl := if inv then ([], false) else s.clusterFound b ix qb q
  let side := if inv || bitN (leAt j.entry 0xB 1) 0 then [] else ix.sideFound b qb q
  let rs := assemble ix.tombs b.snap k (cl.1 ++ side)
  let part := cl.2 || (List.range 64).any fun c => thas b.lostQ (64 * q + c)
  (padTo (16 + 16 * k) (bytesLE 4 rs.length ++ bytesLE 4 (b2n part + 2 * b2n inv + 4 * b2n (decide (rs.length < k))) ++ bytesLE 8 b.snap ++
    rs.flatMap fun r => bytesLE 8 r.ident.toNat ++ bytesLE 4 r.dist ++ bytesLE 4 (b2n r.side)), part || inv)

/-- The candidates of the global top-R whose records no engine has prefetched (R291 step 7), by channel and locator. -/
def Batch.unfetched (b : Batch) : List (Nat × Nat) :=
  (List.range b.nq).flatMap fun q => ((b.globalTop q).filter fun c =>
    !((tget b.tops (64 * q + c.chan) []).take b.prefetch).contains c).map fun c => (c.chan, c.loc)

/-- Step 7 of R291: the records not prefetched are read, once. -/
def State.fetchRest (s : State) (b : Batch) (ix : IndexSt) : State :=
  if b.fetched.contains 64 then s
  else (s.recFx b.ptn ix b.snap b.unfetched).modBatch b.tag fun b => { b with fetched := b.fetched ++ [64] }

/-- The end of a SEARCH (R291 steps 6 to 9): assembly, results, completion. -/
def State.searchEnd (s : State) (j : Job) (b : Batch) : State :=
  match s.index b.index with
  | none => s.endJob j.id stInvalidField 0
  | some ix =>
    let rs := (List.range b.nq).map fun q => s.resultBlock j b ix q
    let st := if b.status ≠ 0 ∧ b.status ≠ stPartial then jobStatus b.status else if rs.any (·.2) then stPartial else stOk
    if st ≠ stOk ∧ st ≠ stPartial then (s.dropBatch b).endJob j.id st b.pagesLost
    else s.atPoint j.ptn 2 b.lc (if b.fetched.contains 64 then 0 else 16384 * b.unfetched.length) (.job j.id) fun s =>
      (s.fetchRest b ix).bufWrite j 0 (leAt j.entry 0x28 8) (rs.flatMap (·.1)) fun s =>
      ((s.setFree (s.free + 1)).dropBatch b).endJob j.id st b.pagesLost

/-- A page of a range is in motion, so that its access waits (R124). -/
def State.movesAt (s : State) (p va n : Nat) (need : Need) : Bool :=
  match (State.bufXlate p { need with free := true } (pagePieces va n) [] s).1 with
  | .stop _ .moving => true
  | _ => false

/-- The dispatcher's own writes, where the range translates. -/
def State.poke (s : State) (p va : Nat) (bs : List Byte) : State :=
  match State.bufXlate p { w := true, free := true } (pagePieces va bs.length) [] s with
  | (.ok ps, s1) => State.writePieces p ps bs s1
  | (.stop _ _, s1) => s1

/-- The buffer header, and the count words of the channels that a batch does not use (R287, R288). -/
def State.writeHeader (s : State) (b : Batch) : State :=
  let st := if b.status ≠ 0 then b.status else if b.lostQ.isEmpty then stOk else stPartial
  let zero := ((List.range 64).filter fun c => !b.chans.contains c).flatMap fun c => (List.range b.nq).map fun q => 64 * q + c
  let s1 := s.each zero fun s i => s.poke b.ptn (b.dVa + 0x40 + 4 * i) (zeros 4)
  (s1.poke b.ptn b.dVa (bytesLE 1 st ++ zeros 7 ++ bytesLE 8 b.snap ++ bytesLE 4 b.pagesLost ++ zeros 44)).modBatch b.tag fun b => { b with headed := true }

/-- Every engine of a placed batch has reported. -/
def Batch.allReported (b : Batch) : Bool := b.placed && !b.fetch && b.chans.all fun c => b.reported.contains c

/-- The end of a batch, once every engine has reported (R288): its header is written, once no page of it is in motion (R124);
then a SEARCH goes on with its assembly, and a record's DONE is signalled. -/
def State.finishBatch (s : State) (b : Batch) : State :=
  if !b.headed && s.movesAt b.ptn b.dVa 0x2040 { w := true } then s
  else
    let s1 := if b.headed then s else s.writeHeader b
    if b.job ≠ 0 then
      match s1.job b.job with
      | some j => s1.searchEnd j b
      | none => s1.dropBatch b
    else (s1.dropBatch b).signalDone 79 b.ptn b.doneObj b.doneAdd

/-- SCRATCH_VA's least length (R290). -/
def scratchLen (nq nprobe r prefetch recSize : Nat) : Nat :=
  8256 + nq * (16896 + 8 * nprobe + 1024 * r + 64 * prefetch * recSize + 2 * r * recSize)

/-- Scan records of a partition taken and not yet dispatched (R275). -/
def State.scanPending (s : State) (p : Nat) : Nat := (s.search.batches.filter fun b => b.ptn == p && !b.placed).length

/-- The list set of a search (R276, R291 step 3): each probed list with the queries that probe it. -/
def IndexSt.listSet (ix : IndexSt) (qs : List (Nat × List Num)) (nprobe : Nat) : List (Nat × BitVec 32) :=
  let t := qs.foldl (fun (t : Tab Nat) q => (ix.nearLists q.2 nprobe).foldl (fun t l => tadd t l (2 ^ q.1)) t) []
  t.map fun e => (e.1, BitVec.ofNat 32 e.2)

/-- Where in SCRATCH the kernel places the candidate buffer and the record buffer of its scan is not stated: anywhere in it, at
64-byte boundaries, the one before the other (R290; log entry 27). -/
def scratchPlan (tag sv n d e : Nat) : Nat × Nat :=
  let a := 64 * (Config.freeNat 108 [tag] % ((n - d - e) / 64 + 1))
  (sv + a, sv + a + d + 64 * (Config.freeNat 109 [tag] % ((n - a - d - e) / 64 + 1)))

/-- The kernel's work up to the submission of the scan (R291 steps 2 to 5); its scratch memory lies at `sv`. -/
def State.searchGo (s : State) (j : Job) (ix : IndexSt) (snap : Nat) (qb fb : List Byte) (sv n : Nat) : State :=
  let e := j.entry
  let nq := leAt e 8 1
  let vecs := recsOf ix.recSize nq qb
  let bad := (List.range nq).filter fun q => ix.badVec (vecs.getD q [])
  let good := ((List.range nq).filter fun q => !bad.contains q).map fun q => (q, ix.elems (vecs.getD q []))
  let tag := s.search.nextTag
  let plan := scratchPlan tag sv n (8256 + 1024 * nq * (leAt e 9 1 + 1)) (64 * nq * leAt e 0xC 2 * ix.recSize)
  let b : Batch :=
    { tag := tag, ptn := j.ptn, index := ix.handle, snap := snap, lc := j.lc, nq := nq, r := leAt e 9 1 + 1, prefetch := leAt e 0xC 2,
      lists := ix.listSet good (leAt e 6 2)
      tables := (List.range nq).flatMap fun q => if bad.contains q then zeros 16384 else ix.table (ix.elems (vecs.getD q []))
      filters := fb, dVa := plan.1, eVa := plan.2, job := j.id, queries := qb
      invalid := BitVec.ofNat 32 (bad.foldl (fun a q => a + 2 ^ q) 0) }
  (s.modSearch fun q => { q with batches := q.batches ++ [b], nextTag := tag + 1 }).modJob j.id fun j => { j with stage := .running }

/-- A SEARCH begins, under the snapshot it took at admission (R271, R290, R291). It stays admitted while a buffer's agent is
halted, or while 64 records of its partition are pending (R275). -/
def State.searchStart (s : State) (j : Job) : State :=
  let e := j.entry
  let nq := leAt e 8 1
  match (s.openIndex j.ptn (leAt e 4 2)).bind fun ix => (ix.pinOf j.id).map fun snap => (ix, snap) with
  | none => s.endJob j.id stInvalidField 0
  | some (ix, snap) =>
    let n := scratchLen nq (leAt e 6 2) (leAt e 9 1 + 1) (leAt e 0xC 2) ix.recSize
    let sv := leAt e 0x20 8
    let fv := leAt e 0x18 8
    if ix.lists < leAt e 6 2 then s.endJob j.id stInvalidField 0
    else if s.mapWrong j.ptn sv n { r := true, w := true } then s.endJob j.id stInvalidField 0
    else if 64 ≤ s.scanPending j.ptn then s
    else match s.bufRead j 0 (leAt e 0x10 8) (nq * ix.recSize) with
      | (none, s1) => s1
      | (some qb, s1) =>
        match (if fv = 0 then (some ([] : List Byte), s1) else s1.bufReadAs j true 0 fv (256 * nq)) with
        | (none, s2) => s2
        | (some fb, s2) =>
          if (recsOf 256 (fb.length / 256) fb).any filterBad then s2.endJob j.id stInvalidField 0
          else match s2.bufMapAs j true 0 sv n true with
            | (none, s3) => s3
            | (some ps, s3) => (State.writePieces j.ptn ps (s3.openBytes 47 n) (s3.setFree (s3.free + 1))).searchGo j ix snap qb fb sv n

/-- SEARCH (R291): begins the search, or, when every engine has reported and the writing of the results had to wait, ends it. -/
def execSearchJob (job : BitVec 32) (s : State) : Host.Outcome State Fault Refusal :=
  .next (s.flashJob job.toNat fun s => match s.admitted job.toNat 0x02, s.job job.toNat with
    | some j, _ => s.searchStart j
    | none, some j =>
      (match s.search.batches.find? fun b => b.job == j.id && b.job != 0 && b.allReported with
       | some b => s.finishBatch b
       | none => s)
    | none, none => s)

/-! Indexes. -/

/-- The parameters of CREATE out of their ranges (R266). -/
def createBad (e : List Byte) : Bool :=
  let dim := leAt e 8 2
  let side := leAt e 0x14 4
  decide (dim < 64) || decide (4096 < dim) || dim % 64 != 0 || decide (3 < leAt e 0xA 1) || decide (1 < leAt e 0xB 1) ||
    decide (1 < leAt e 0xC 1) || !([1, 2, 4, 8, 16, 32, 64].contains (leAt e 0xD 1)) || leAt e 0x10 4 == 0 ||
    decide (1048576 < leAt e 0x10 4) || decide (side < 1024) || decide (1048576 < side)

/-- 16 KiB units that an index takes besides its extents: its centroids and codebooks (log entry 27). -/
def IndexSt.baseUnits (ix : IndexSt) : Nat := (4 * (ix.centroids.length + ix.books.length) + 16383) / 16384

/-- Pages of the extents of an index. -/
def State.extentPages (s : State) (ix : IndexSt) : Nat :=
  let us := ix.vers.flatMap fun l => l.2.flatMap fun v => v.runs.flatMap fun r => [r.2.1, r.2.2]
  ((s.flash.runs.filter fun r => r.nsid == handleNs ix.handle && !r.moved && us.contains r.lba).map fun r => r.pages).foldl (· + ·) 0

/-- 16 KiB units used in a search namespace. -/
def State.nsUnits (s : State) (nsid : Nat) : Nat :=
  ((s.search.indexes.filter fun i => handleNs i.handle == nsid).map fun i => i.baseUnits + s.extentPages i).foldl (· + ·) 0

/-- Room of a namespace in 16 KiB units. -/
def State.nsRoom (s : State) (nsid : Nat) : Nat := ((s.nsOf nsid).map fun n => n.size / 4).getD 0

/-- CREATE (R266, R296). -/
def execCreateIx (job : BitVec 32) (s : State) : Host.Outcome State Fault Refusal :=
  .next (s.flashJob job.toNat fun s => match s.admitted job.toNat 0x05 with
    | none => s
    | some j =>
      let e := j.entry
      let h := leAt e 4 2
      if leAt e 6 1 ≠ 0 then s
      else if !s.handleOk j.ptn h || createBad e || (s.index h).isSome then s.endJob j.id stInvalidField 0
      else
        let dim := leAt e 8 2
        let lists := leAt e 0x10 4
        let words := if leAt e 0xC 1 = 0 then 256 else 16
        if s.nsRoom (handleNs h) < s.nsUnits (handleNs h) + (4 * dim * (lists + words) + 16383) / 16384 then s.endJob j.id stNoResource 0
        else match s.bufRead j 0 (leAt e 0x18 8) (4 * dim * lists) with
          | (none, s1) => s1
          | (some cb, s1) => match s1.bufReadAs j true 0 (leAt e 0x20 8) (4 * dim * words) with
            | (none, s2) => s2
            | (some wb, s2) =>
              let f32 := fun (bs : List Byte) (n : Nat) => (List.range n).map fun i => BitVec.ofNat 32 (leAt bs (4 * i) 4)
              let ix : IndexSt :=
                { handle := h, dim := dim, vfmt := leAt e 0xA 1, metric := leAt e 0xB 1, code := leAt e 0xC 1, lists := lists,
                  stripe := leAt e 0xD 1, sideMax := leAt e 0x14 4, centroids := f32 cb (dim * lists), books := f32 wb (dim * words), csn := 1 }
              ((s2.modSearch fun q => { q with indexes := q.indexes ++ [ix] }).journal (h % 8) (.index h 1)).endJob j.id stOk 0)

/-- OPEN (R296). -/
def execOpenIx (job : BitVec 32) (s : State) : Host.Outcome State Fault Refusal :=
  .next (s.flashJob job.toNat fun s => match s.admitted job.toNat 0x05 with
    | none => s
    | some j =>
      let e := j.entry
      let va := leAt e 0x18 8
      if leAt e 6 1 ≠ 1 then s
      else match s.indexFor j.ptn (leAt e 4 2) with
        | none => s.endJob j.id stInvalidField 0
        | some ix =>
          let n := ix.ctxLen * 65536
          if leAt e 0x28 4 < ix.ctxLen then s.endJob j.id stNoResource 0
          else if va % 65536 ≠ 0 ∨ s.mapWrong j.ptn va (leAt e 0x28 4 * 65536) { r := true, w := true } ∨
              s.mapWrong j.ptn va ix.codeLen { x := true } then s.endJob j.id stInvalidField 0
          else s.bufWrite j 0 va (s.openBytes 48 n) fun s =>
            ((s.setFree (s.free + 1)).modIndex ix.handle fun i => { i with opened := some va }).endJob j.id stOk 0)

/-- The new version of a list that a merge builds up to its through-CSN (R297 step 2); none where the list stays. -/
def IndexSt.rebuilt (ix : IndexSt) (m list : Nat) : Option (List Entry) :=
  let old := (((ix.versions list).find? fun v => v.vend.isNone).map (·.ents)).getD []
  let adds := ix.side.filter fun c => c.list == list && c.merged.isNone && decide (c.csn ≤ m)
  let keep := fun (e : Entry) => !dead ix.tombs e.ident m
  if adds.isEmpty && old.all keep then none
  else some (old.filter keep ++ (adds.map fun c => c.e).filter keep)

/-- Lists that a merge may rebuild. -/
def IndexSt.mergeLists (ix : IndexSt) : List Nat :=
  let t := ix.side.foldl (fun (t : Tab Unit) c => tset t c.list ()) (ix.vers.map fun l => (l.1, ()))
  t.map (·.1)

/-- MERGE (R297 steps 1 and 2): the new versions are built; a second merge of the index waits. -/
def execMergeIx (job : BitVec 32) (s : State) : Host.Outcome State Fault Refusal :=
  .next (s.flashJob job.toNat fun s => match s.admitted job.toNat 0x05 with
    | none => s
    | some j =>
      if leAt j.entry 6 1 ≠ 2 then s
      else match s.indexFor j.ptn (leAt j.entry 4 2) with
        | none => s.endJob j.id stInvalidField 0
        | some ix =>
          let q := if ix.mergeWait.contains j.id then ix.mergeWait else ix.mergeWait ++ [j.id]
          if ix.merging ≠ 0 ∨ q.head? ≠ some j.id then s.modIndex ix.handle fun i => { i with mergeWait := q }
          else
            let new : Tab (List Entry) := ix.mergeLists.filterMap fun l => (ix.rebuilt ix.csn l).map fun es => (l, es)
            (s.modIndex ix.handle fun i => { i with merging := j.id, mergeM := i.csn, mergeNew := new, mergeWait := q.drop 1 }).modJob j.id
              fun j => { j with stage := .running })

/-- Pages of the entry and record extents of a version (R268, R269). -/
def IndexSt.versionPages (ix : IndexSt) (es : List Entry) : Nat :=
  let v : Version := { ents := es }
  ((List.range ix.stripe).map fun j =>
    let n := (ix.runEnts v j).length
    (n + 340) / 341 + (n + ix.rpp - 1) / ix.rpp).foldl (· + ·) 0

/-- The lowest free range of `n` logical blocks of a search namespace (R316; log entry 27). -/
def State.freeLbas (s : State) (nsid n : Nat) : Option Nat :=
  let taken := (s.flash.runs.filter fun r => r.nsid == nsid && !r.moved).map fun r => (r.lba, r.lba + 4 * r.pages)
  let starts := sortBy (fun (a b : Nat) => decide (a ≤ b)) (0 :: taken.map (·.2))
  (starts.find? fun a => taken.all fun t => decide (a + n ≤ t.1) || decide (t.2 ≤ a)).filter fun a =>
    decide (a + n ≤ ((s.nsOf nsid).map fun x => x.size).getD 0)

/-- Places the pages of one extent of a list on a channel (R268, R316): the first logical block of its range. -/
def State.placePages (s : State) (nsid ch : Nat) (pages : List (List Byte)) (bad : List Nat) : Option (Nat × State) :=
  (s.freeLbas nsid (4 * pages.length)).bind fun lba =>
    (State.placeUnits nsid lba ch (pageUnits nsid lba (s.keyGen nsid) pages) (bad.length + 1) bad s).map fun s1 => (lba, s1)

/-- Places the entry and record extents of the runs of one list version (R268, R269); without room, what it had placed is free
again and the answer is none. -/
def State.placeVersion (s : State) (ix : IndexSt) (list : Nat) (v : Version) (bad : List Nat) : Option (List (Nat × Nat × Nat)) × State :=
  let nsid := handleNs ix.handle
  (List.range ix.stripe).foldl (fun acc j =>
    match acc.1 with
    | none => acc
    | some rs =>
      let undo := fun (s : State) => s.freeVersion nsid { v with runs := rs }
      if (ix.runEnts v j).isEmpty then acc
      else match acc.2.placePages nsid (ix.runChan list j) (ix.entryPages list v j) bad with
        | none => (none, undo acc.2)
        | some (a, s1) => match s1.placePages nsid (ix.runChan list j) (ix.recPages v j) bad with
          | none => (none, undo (s1.freeExtent nsid a))
          | some (b, s2) => (some (rs ++ [(j, a, b)]), s2)) ((some [] : Option (List (Nat × Nat × Nat))), s)

/-- Places the extents of every version of a merge, or none of them (R297). -/
def State.placeAll (s : State) (ix : IndexSt) (p : Nat) (bad : List Nat) : Option (Tab Version) × State :=
  ix.mergeNew.foldl (fun acc e =>
    match acc.1 with
    | none => acc
    | some t =>
      let v : Version := { vstart := p, ents := e.2 }
      match acc.2.placeVersion ix e.1 v bad with
      | (some rs, s1) => (some (tset t e.1 { v with runs := rs }), s1)
      | (none, s1) => (none, s1.each t fun s e => s.freeVersion (handleNs ix.handle) e.2)) ((some ([] : Tab Version)), s)

/-- MERGE_PUBLISH (R297 steps 3 and 4): the extents are written, charged to flash programming, and every new version is
published at one CSN. `bad` names the blocks whose program fails (R315). -/
def execMergePublish (job : BitVec 32) (bad : List (BitVec 21)) (s : State) : Host.Outcome State Fault Refusal :=
  .next (s.flashJob job.toNat fun s => match s.search.indexes.find? fun i => i.merging == job.toNat && job != 0 with
    | none => s
    | some ix =>
      let h := ix.handle
      let done := fun (s : State) => s.modIndex h fun i => { i with merging := 0, mergeNew := [] }
      let pages := (ix.mergeNew.map fun e => ix.versionPages e.2).foldl (· + ·) 0
      if ix.mergeNew.any (fun e => decide (16777215 < e.2.length)) ∨ s.nsRoom (handleNs h) < s.nsUnits (handleNs h) + pages then
        (done s).endJob job.toNat stNoResource 0
      else if ix.mergeNew.isEmpty then (done s).endJob job.toNat stOk 0
      else s.atPoint (s.nsOwner (handleNs h)) 3 (((s.job job.toNat).map (·.lc)).getD false) (16384 * pages) (.job job.toNat) fun s =>
        let p := ix.csn + 1
        let fails := bad.map (·.toNat)
        match s.placeAll ix p fails with
        | (none, s1) => ((done s1).moveRetired fails).endJob job.toNat stNoResource 0
        | (some t, s1) =>
          let m := ix.mergeM
          let s2 := s1.modIndex h fun i => { i with
            csn := p, lastPub := p
            vers := t.foldl (fun vs e => tset vs e.1 (((tget vs e.1 [{}]).map fun v => if v.vend.isNone then { v with vend := some p } else v) ++ [e.2])) i.vers
            side := i.side.map fun c => if c.merged.isNone ∧ c.csn ≤ m then { c with merged := some p } else c
            tombs := i.tombs.map fun t => if t.merged.isNone ∧ t.csn ≤ m then { t with merged := some p } else t }
          let s3 := ((s2.charge (s.nsOwner (handleNs h)) 10 (some 3) (16384 * pages)).journal (h % 8) (.publish h p)).log
            (Src.code .hub) 0x3404 (bytesLE 2 h ++ bytesLE 8 p)
          let s4 := match s3.index h with
            | some i => s3.mirror (s.nsOwner (handleNs h)) i
            | none => s3
          ((done s4.retain).moveRetired fails).endJob job.toNat stOk ix.mergeNew.length)

/-- DROP (R296): refuses new jobs on the index; it is freed once no snapshot is active. -/
def execDropIx (job : BitVec 32) (s : State) : Host.Outcome State Fault Refusal :=
  .next (s.flashJob job.toNat fun s => match s.admitted job.toNat 0x05 with
    | none => s
    | some j =>
      if leAt j.entry 6 1 ≠ 3 then s
      else match s.indexFor j.ptn (leAt j.entry 4 2) with
        | none => s.endJob j.id stInvalidField 0
        | some ix =>
          ((s.modIndex ix.handle fun i => { i with dropping := j.id }).modJob j.id fun j => { j with stage := .running }).dropCheck)

/-- The STAT block (R298). -/
def State.statBlock (s : State) (ix : IndexSt) : List Byte :=
  let snaps := ix.snaps.map (·.2)
  let cur := ix.vers.flatMap fun l => l.2.filter fun v => v.vend.isNone
  let old := ix.vers.flatMap fun l => l.2.filter fun v => v.vend.isSome
  bytesLE 8 ix.csn ++ bytesLE 8 ix.lastPub ++ bytesLE 4 ix.side.length ++ bytesLE 4 ix.tombs.length ++ bytesLE 4 old.length ++
    bytesLE 4 snaps.length ++ bytesLE 8 (snaps.foldl min (snaps.headD 0)) ++ bytesLE 8 (ix.baseUnits + s.extentPages ix) ++
    bytesLE 4 ix.codeLen ++ bytesLE 4 ix.ctxLen ++ bytesLE 8 ((cur.map fun v => v.ents.length).foldl (· + ·) 0)

/-- STAT (R298). -/
def execStatIx (job : BitVec 32) (s : State) : Host.Outcome State Fault Refusal :=
  .next (s.flashJob job.toNat fun s => match s.admitted job.toNat 0x05 with
    | none => s
    | some j =>
      if leAt j.entry 6 1 ≠ 4 then s
      else match s.indexFor j.ptn (leAt j.entry 4 2) with
        | none => s.endJob j.id stInvalidField 0
        | some ix => s.bufWrite j 0 (leAt j.entry 0x18 8) (s.statBlock ix) fun s => s.endJob j.id stOk 0)

/-! Ingest bindings. -/

/-- The ingest store that a bind names is the partition's (R299). -/
def State.storeOk (s : State) (p nsid : Nat) : Bool :=
  nsid == 0 || (match s.nsOf nsid with
    | some n => n.purpose == 3 && n.owner == p && n.attached
    | none => false)

/-- INGEST_BIND (R299, R362). -/
def execIngestBind (job : BitVec 32) (s : State) : Host.Outcome State Fault Refusal :=
  .next (match s.admitted job.toNat 0x06 with
    | none => s
    | some j =>
      let e := j.entry
      let n := leAt e 4 1
      if bitN (leAt e 6 1) 0 then s
      else
        let x : BindSt :=
          { ptn := j.ptn, port := leAt e 5 1, etype := leAt e 8 2, stream := leAt e 0xA 2, buf := leAt e 0x10 8, len := leAt e 0x18 8,
            obj := leAt e 0xC 2, store := leAt e 7 1 }
        let mine := (tfind s.ingest.binds n).map (·.ptn)
        if mine.isSome ∧ mine ≠ some j.ptn then s.endJob j.id stNoResource 0
        else if s.ingest.binds.any fun b => b.1 != n && b.2.port == x.port && b.2.etype == x.etype && b.2.stream == x.stream then
          s.endJob j.id stInvalidField 0
        else if !s.storeOk j.ptn x.store then s.endJob j.id stInvalidField 0
        else match s.bufMap j 0 x.buf x.len true with
          | (none, s1) => s1
          | (some ps, s1) =>
            if ps.any fun p => paRange p.1 != .board then s1.endJob j.id stInvalidField 0
            else
              let hdr := (ps.head?.map (·.1)).getD 0
              let s2 := (s1.paWrite hdr (zeros 8)).paWrite (hdr + 16) (zeros 8)
              (s2.modIngest fun g => { g with binds := tset g.binds n x }).meetLevels.endJob j.id stOk 0)

/-- UNBIND (R362). -/
def execUnbind (job : BitVec 32) (s : State) : Host.Outcome State Fault Refusal :=
  .next (match s.admitted job.toNat 0x06 with
    | none => s
    | some j =>
      let n := leAt j.entry 4 1
      if !bitN (leAt j.entry 6 1) 0 then s
      else if (tfind s.ingest.binds n).map (·.ptn) = some j.ptn then
        (s.modIngest fun g => { g with binds := tdel g.binds n }).meetLevels.endJob j.id stOk 0
      else s.endJob j.id stInvalidField 0)

end Sys2Proof.Machine
end

