-- ==== Sys2Proof/Machine/Secure.lean ====
section
/-! DEFINITION. Firmware staging and commit (R348, R409-R413), the key store and cryptographic erase (R418-R422). -/

namespace Sys2Proof.Machine

/-! Firmware. -/

/-- The images of a slot. -/
def MgtSt.slot (m : MgtSt) (n : Nat) : List FwImg := if n = 2 then m.slotB else m.slotA

/-- Replaces the images of a slot. -/
def MgtSt.setSlot (m : MgtSt) (n : Nat) (is : List FwImg) : MgtSt := if n = 2 then { m with slotB := is } else { m with slotA := is }

/-- The slot that was not booted. -/
def MgtSt.otherSlot (m : MgtSt) : Nat := if m.bootSlot = 2 then 1 else 2

/-- SL1 alone: the 54 V domain is down (R410). -/
def State.sl1Alone (s : State) : Bool := !s.pwr.domainUp

/-- Every 4 KiB piece of the first `n` bytes has been staged. -/
def MgtSt.staged (m : MgtSt) (n : Nat) : Bool := (List.range ((n + 4095) / 4096)).all fun i => thas m.stagPages i

/-- A piece reaches the staging area (R410); false for INVALID_FIELD. -/
def State.stagePiece (s : State) (src : Src) (off : Nat) (bs : List Byte) : Bool × State :=
  if off % 4096 ≠ 0 ∨ bs.length % 4096 ≠ 0 ∨ 8388608 < off + bs.length then (false, s)
  else if off ≠ 0 ∧ s.mgt.stagSrc ≠ some src then (false, s)
  else
    let s1 := if off = 0 then s.modMgt fun m =>
        let m1 := { m with stagSrc := some src, stag := [], stagPages := [], stagDone := false }
        if s.sl1Alone then m1.setSlot m1.otherSlot [] else m1
      else s
    let pages := (List.range (bs.length / 4096)).map fun i => off / 4096 + i
    let s2 := s1.modMgt fun m =>
      { m with stag := patch (padTo (max m.stag.length (off + bs.length)) m.stag) off bs, stagPages := pages.foldl (fun t i => tset t i ()) m.stagPages }
    let len := leAt s2.mgt.stag 8 4
    if !s2.mgt.stagDone && len != 0 && s2.mgt.staged len && decide (len ≤ s2.mgt.stag.length) then
      (true, (s2.modMgt fun m => { m with stagDone := true }).log src.code 0x7002 (bytesLE 2 src.code.toNat ++ bytesLE 4 len))
    else (true, s2)

/-- The directory entry of component `i`: OFFSET, LENGTH and the digest's first 8 bytes (R409). -/
def fwDirBad (b : List Byte) (i : Nat) : Bool :=
  let o := 0x20 + 16 * i
  let off := leAt b o 4
  let len := leAt b (o + 4) 4
  bitN (leAt b 6 1) i && (decide (b.length - 96 < off + len) || (b.drop (o + 8)).take 8 != (sha384 ((b.drop off).take len)).take 8)

/-- A firmware image breaks its layout or a digest (R409, R411 step 1). -/
def fwBad (b : List Byte) : Bool :=
  let comps := leAt b 6 1
  leAt b 0 4 != 0x5746584C || leAt b 4 2 != 0x0100 || comps == 0 || decide (7 < comps) || b.length % 64 != 0 ||
    decide (8388608 < b.length) || leAt b 0xC 2 == 0 || decide (256 < leAt b 0xC 2) || leAt b 0xE 2 != 0 || leAt b 0x16 10 != 0 ||
    decide (b.length < 0x50 + 8 * leAt b 0xC 2 + 96) ||
    (List.range 3).any fun i => fwDirBad b i || (!bitN comps i && leAt b (0x10 + 2 * i) 2 != 0)

/-- The image that staged bytes hold. -/
def fwOf (b : List Byte) : FwImg :=
  { bytes := b, comps := BitVec.ofNat 3 (leAt b 6 1), secver := leAt b 7 1, mgtV := BitVec.ofNat 16 (leAt b 0x10 2),
    fcV := BitVec.ofNat 16 (leAt b 0x12 2), hubV := BitVec.ofNat 16 (leAt b 0x14 2),
    tested := (List.range (leAt b 0xC 2)).map fun i => BitVec.ofNat 64 (leAt b (0x50 + 8 * i) 8) }

/-- The signature over an image's bytes is valid: under one of the four vendor keys, whose revocation fuse is intact (R409). -/
def MgtSt.signed (m : MgtSt) (b : List Byte) : Bool := (List.range 4).any fun k => bitN m.keyFuses.toNat k && Config.signatureOk k b

/-- A slot passes the ROM (R412): it holds a whole set, no image lies below the fused minimum, no sector of it is unusable.
A signature checked when the image was committed stays good while the bytes do (log entry 13). -/
def State.slotPasses (s : State) (n : Nat) : Bool :=
  let is := s.mgt.slot n
  (is.foldl (fun c i => c ||| i.comps) 0#3) == 7#3 && is.all (fun i => decide (s.mgt.secverMin ≤ i.secver)) && !thas s.mgt.norBadBank (n - 1)

/-- How a firmware commit ends (R392, R411). -/
inductive FwEnd where
  | ok | badImage | badSlot | tooBig | norFail | busy
  deriving DecidableEq, Repr

/-- MGMT status of a commit's end (R411). -/
def FwEnd.mgmt : FwEnd → Nat
  | .ok => stOk
  | .badImage => stInvalidField
  | .badSlot => stInvalidField
  | .tooBig => stNoResource
  | .norFail => stAbortUncorrectable
  | .busy => stNoResource

/-- The images a slot will hold: the staged one, and those of the boot slot that supply a component it lacks (R411 step 4). -/
def MgtSt.newSet (m : MgtSt) (i : FwImg) : List FwImg :=
  i :: (m.slot m.bootSlot).filter fun x => x.comps &&& ~~~i.comps != 0#3

/-- The boot record names a slot as NEXT, with TRIAL = 1 (R411 step 5). -/
def State.nameSlot (s : State) (slot : Nat) : State := s.modMgt fun m => { m with norNext := slot, norTrial := true, nextSlot := slot }

/-- Log 0x7003 of a commit that ends. -/
def State.fwLog (s : State) (src : Src) (slot action : Nat) (e : FwEnd) : State :=
  s.log src.code 0x7003 (bytesLE 1 slot ++ bytesLE 1 action ++ bytesLE 1 e.mgmt)

/-- Step 5 (R411). -/
def State.fwActivate (s : State) (slot action : Nat) : FwEnd × State :=
  if action = 0 then (.ok, s)
  else if action = 2 && slot == s.mgt.bootSlot then (.ok, s)
  else if s.slotPasses slot then (.ok, s.nameSlot slot) else (.badImage, s)

/-- Steps 1 to 4 of a commit (R411): the bank begins to be erased, and the slot holds no image until it is written. -/
def State.fwSteps (s : State) (src : Src) (job slot action : Nat) : Option FwEnd × State :=
  let m := s.mgt
  if slot ≠ 1 ∧ slot ≠ 2 then (some .badSlot, s)
  else if action = 2 then (let r := s.fwActivate slot action; (some r.1, r.2))
  else
    let len := leAt m.stag 8 4
    let b := m.stag.take len
    if !m.stagDone || fwBad b then (some .badImage, s)
    else if !m.signed b || decide (leAt b 7 1 < m.secverMin) then (some .badImage, s)
    else if slot = m.bootSlot then (some .badSlot, s)
    else
      let set := m.newSet (fwOf b)
      if 8388608 < (set.map fun i => i.bytes.length).foldl (· + ·) 0 then (some .tooBig, s)
      else (none, s.modMgt fun m => { (m.setSlot slot []) with
        norOps := tset m.norOps (slot - 1) [{ erase := true }]
        long := some { src := src, job := job, slot := slot, action := action, set := set } })

/-- A commit begins, and ends at once where a step before the erase ends it; a second LONG command is refused (R392). -/
def State.fwCommitOp (s : State) (src : Src) (job slot action : Nat) : Option FwEnd × State :=
  if s.mgt.long.isSome then (some .busy, s)
  else match s.fwSteps src job slot action with
    | (some e, s1) => (some e, s1.fwLog src slot action e)
    | (none, s1) => (none, s1)

/-- The bank of a commit is written, or the NOR failed (R411). -/
def State.fwWritten (s : State) (l : LongFw) (ok : Bool) : FwEnd × State :=
  let s1 := s.modMgt fun m => { m with long := none }
  let r := if ok then (s1.modMgt fun m => m.setSlot l.slot l.set).fwActivate l.slot l.action else (.norFail, s1)
  (r.1, r.2.fwLog l.src l.slot l.action r.1)

/-! Keys. -/

/-- The highest generation a namespace has had. -/
def MgtSt.lastGen (m : MgtSt) (nsid : Nat) : Nat := ((m.keys.filter fun k => k.nsid == nsid).map fun k => k.gen).foldl max 0

/-- A slot that holds a good key in a state. -/
def KeySlot.holds (k : KeySlot) (nsid st : Nat) : Bool := k.nsid == nsid && k.st == st && !k.bad

/-- The generation that stands for a namespace by the rules of R418, if any. -/
def MgtSt.standing (m : MgtSt) (nsid : Nat) : Option Nat :=
  let act := (m.keys.filter fun k => k.holds nsid 0x3F).map fun k => k.gen
  let new := (m.keys.filter fun k => k.holds nsid 0x7F).map fun k => k.gen
  let dead := (m.keys.filter fun k => k.nsid == nsid && k.st == 0x00).map fun k => k.gen
  if !act.isEmpty then some (act.foldl max 0)
  else (new.filter fun g => dead.any fun d => decide (d < g)).head?

/-- A FREE slot is taken for a new key; a full half is copied into the other first (R418). -/
def MgtSt.takeSlot (m : MgtSt) (k : KeySlot) : MgtSt :=
  let m1 := if 256 ≤ m.keyHalf then
      let live := m.keys.filter fun x => x.st == 0x3F
      { m with keys := live, keyHalf := live.length }
    else m
  { m1 with keys := m1.keys ++ [k], keyHalf := m1.keyHalf + 1 }

/-- The key slots of a namespace in state `a` go to state `b`. -/
def MgtSt.moveSlots (m : MgtSt) (nsid a b : Nat) : MgtSt :=
  { m with keys := m.keys.map fun k => if k.nsid = nsid ∧ k.st = a then { k with st := b } else k }

/-- The enclave generates keys: its entropy source passes its health tests and the root key stands (R417, R424). -/
def State.canKey (s : State) : Bool := s.mgt.rngOk && !s.mgt.rootKilled

/-- A key for a namespace: a new slot, ACTIVE, and the FC key registers loaded (R418, R421); false where the enclave
refuses (R417). -/
def State.makeKey (s : State) (nsid : Nat) : Bool × State :=
  if s.canKey then
    let g := s.mgt.lastGen nsid + 1
    (true, s.modMgt fun m => { ((m.moveSlots nsid 0x3F 0x00).takeSlot { st := 0x3F, nsid := nsid, gen := g }) with
                               keyRegs := tset m.keyRegs nsid g })
  else (false, s)

/-- The key of a namespace is destroyed (R421 step 2). -/
def State.killKey (s : State) (nsid : Nat) : State :=
  s.modMgt fun m => { (m.moveSlots nsid 0x3F 0x00) with keyRegs := tdel m.keyRegs nsid }

/-- Jobs with an operation on a namespace in progress (R421): search jobs of its indexes, checkpoint jobs of the checkpoint
area, a load from the model image store. -/
def State.nsJobs (s : State) (n : NsSt) : List Nat :=
  (s.sh.jobs.filter fun j =>
    let op := j.op
    j.stage != .admitted && ((decide (2 ≤ op) && decide (op ≤ 5) && n.purpose == 2 && leAt j.entry 4 2 / 16 == n.nsid) ||
      ((op == 8 || op == 9) && n.purpose == 4) ||
      (op == 0x0B && n.purpose == 5 && leAt j.entry 4 1 == 1))).map fun j => j.id

/-- What uses a namespace stops before it is erased or destroyed (R265, R421): its jobs, the scan records and the indexes
in it, the appends of its ingest bindings. -/
def State.releaseNs (s : State) (nsid : Nat) : State :=
  match s.nsOf nsid with
  | none => s
  | some n =>
    let s1 := s.each (s.nsJobs n) fun s id => s.stopJob id stRestart
    let s2 := s1.each (s1.search.batches.filter fun b => b.index / 16 == nsid) fun s b => s.dropBatch b
    let s3 := s2.each (s2.search.indexes.filter fun i => i.handle / 16 == nsid) fun s i => s.freeIndex i.handle
    s3.modIngest fun g => { g with binds := g.binds.map fun b => (b.1, if b.2.store = nsid then { b.2 with store := 0 } else b.2) }

/-- Cryptographic erase of one namespace (R421), by a route. -/
def State.eraseNs (s : State) (src : Src) (nsid : Nat) : State :=
  let s1 := s.releaseNs nsid
  let k := s1.makeKey nsid
  let s3 := if k.1 then k.2 else s1.killKey nsid
  let s4 := if s3.pwr.level < 2 then s3.modMgt fun m => { m with erasePending := m.erasePending ||| BitVec.ofNat 32 (2 ^ (nsid - 1)) }
    else s3.unmapAll nsid
  s4.log src.code 0x7009 (bytesLE 4 nsid ++ bytesLE 2 src.code.toNat ++ bytesLE 4 (s4.mgt.lastGen nsid))

end Sys2Proof.Machine
end

