-- ==== Sys2Proof/Machine/Nvme.lean ====
section
/-! DEFINITION. The NVMe controller PF0 (R335-R348): the I/O commands with their order, the admin commands, enabling,
resets, power states; and the end of a NAND program. Formats of the base specification are presumed (log entry 6). -/

namespace Sys2Proof.Machine

/-! Data pointers. -/

/-- Memory page size: CC.MPS (R335). -/
def NvmeSt.page (n : NvmeSt) : Nat := 2 ^ (12 + fld n.cc.toNat 7 4)

/-- A PRP list from an address: the pages of the rest of a transfer. -/
def prpList (s : State) (page : Nat) : Nat → Nat → Nat → Option (List (Nat × Nat))
  | 0, _, rest => if rest = 0 then some [] else none
  | fuel + 1, at_, rest =>
    if rest = 0 then some []
    else match s.paRead (hostPa at_) 8 with
      | .bad => none
      | .ok bs _ =>
        let e := leNat bs
        if e % page ≠ 0 then none
        else if at_ % page = page - 8 ∧ page < rest then prpList s page fuel e rest
        else (prpList s page fuel (at_ + 8) (rest - page)).map fun r => (e, min rest page) :: r

/-- The pieces of a transfer of `n` bytes by PRP1 and PRP2. -/
def State.prps (s : State) (c : NvmeCmd) (n : Nat) : Option (List (Nat × Nat)) :=
  let page := s.nvme.page
  let p1 := c.prp1.toNat
  let first := min n (page - p1 % page)
  if p1 % 4 ≠ 0 then none
  else if n = 0 then some []
  else if n ≤ first then some [(p1, n)]
  else if n ≤ first + page then
    if c.prp2.toNat % page = 0 then some [(p1, first), (c.prp2.toNat, n - first)] else none
  else if c.prp2.toNat % 8 ≠ 0 then none
  else (prpList s page (2 * (n / 8 + 2)) c.prp2.toNat (n - first)).map fun r => (p1, first) :: r

/-- Reads a transfer from the host. -/
def State.nvPull (s : State) (ps : List (Nat × Nat)) : List Byte :=
  ps.flatMap fun p => match s.paRead (hostPa p.1) p.2 with
    | .ok bs _ => bs
    | .bad => zeros p.2

/-- Writes a transfer to the host. -/
def nvPush : List (Nat × Nat) → List Byte → State → State
  | [], _, s => s
  | p :: ps, bs, s => nvPush ps (bs.drop p.2) (s.paWrite (hostPa p.1) (bs.take p.2))

/-! I/O commands. -/

/-- SLBA and the number of blocks. -/
def nvSlba (c : NvmeCmd) : Nat := c.cdw10.toNat + c.cdw11.toNat * 2 ^ 32
def nvNlb (c : NvmeCmd) : Nat := fld c.cdw12.toNat 0 16 + 1

/-- Dataset Management with Deallocate. -/
def nvDealloc (c : NvmeCmd) : Bool := bitN c.cdw11.toNat 2

/-- Write-class commands (R337). -/
def NvmeOut.writeClass (o : NvmeOut) : Bool :=
  o.sq != 0 && (o.cmd.opcode == 0x01 || o.cmd.opcode == 0x08 || o.cmd.opcode == 0x81 || (o.cmd.opcode == 0x09 && nvDealloc o.cmd))

/-- Ordered commands (R343). -/
def NvmeOut.ordered (o : NvmeOut) : Bool := o.sq != 0 && (o.cmd.opcode == 0x81 || o.cmd.opcode == 0x82)

/-- Format NVM. -/
def NvmeOut.format (o : NvmeOut) : Bool := o.sq == 0 && o.cmd.opcode == 0x80

/-- `x` lies in the scope of the ordered command `o` (R343). -/
def NvmeOut.scope (o x : NvmeOut) : Bool := bitN o.cmd.cdw13.toNat 0 || o.sq == x.sq

/-- Two commands act on one namespace. -/
def NvmeOut.sameNs (a b : NvmeOut) : Bool :=
  a.cmd.nsid == b.cmd.nsid || (a.format && a.cmd.nsid == 0xFFFFFFFF#32) || (b.format && b.cmd.nsid == 0xFFFFFFFF#32)

/-- The command `o` waits for the earlier command `e` (R343, R347). -/
def NvmeOut.waitsFor (o e : NvmeOut) : Bool :=
  decide (e.order < o.order) && o.sameNs e &&
    (e.format || o.format || (o.ordered && e.writeClass && o.scope e) || (o.writeClass && e.ordered && e.scope o))

/-- A command may start now: nothing it waits for is left, and the flash side is not in PS2 (R343, R345). -/
def State.nvReady (s : State) (o : NvmeOut) : Bool :=
  !o.started && (s.nvme.ps != 2 || o.format) && !(s.nvme.outs.any fun e => o.waitsFor e)

/-- A command ends: it is completed and leaves the list. -/
def State.nvEnd (s : State) (o : NvmeOut) (status dw0 : Nat) : State :=
  (s.modNvme fun n => { n with outs := n.outs.filter fun x => x.order != o.order }).nvComplete o.sq o.cmd status dw0

/-- Namespaces refuse writes: too little spare, held mode, no bank behind a write, or no key (R327, R341, R415, R418, R463). -/
def State.nvProtectedNow (s : State) (nsid : Nat) : Bool :=
  s.mediaReadOnly || s.mgt.held || s.pwr.holdup == 3 || !thas s.mgt.keyRegs nsid

/-- Read and Ordered Read (R310): the readable blocks are transferred, whatever the others are. -/
def State.nvDoRead (s : State) (o : NvmeOut) : State :=
  let c := o.cmd
  let n := nvNlb c
  match s.prps c (4096 * n) with
  | none => s.nvEnd o nvPrpOffset 0
  | some ps =>
    let r := s.nsRead c.nsid.toNat (nvSlba c) n
    let old := r.2.nvPull ps
    let bs := ((List.range n).zip r.1).flatMap fun e => match e.2 with
      | .data d => bytesLE 4096 d.toNat
      | .lost => (old.drop (4096 * e.1)).take 4096
    let bad := r.1.any fun x => x == .lost
    let s1 := ((nvPush ps bs r.2).charge (s.nsOwner c.nsid.toNat) 11 none bs.length).modNvme fun m => { m with unitsRead := m.unitsRead + n, readCmds := m.readCmds + 1 }
    s1.nvEnd o (if bad then nvReadError else nvOk) 0

/-- Write and Ordered Write (R20, R311, R324): the data are fetched and gathered; the completion follows the journal. -/
def State.nvDoWrite (s : State) (o : NvmeOut) : State :=
  let c := o.cmd
  let n := nvNlb c
  let id := c.nsid.toNat
  if s.nvProtectedNow id then s.nvEnd o nvProtected 0
  else match s.prps c (4096 * n) with
    | none => s.nvEnd o nvPrpOffset 0
    | some ps =>
      let bs := s.nvPull ps
      let s1 := s.modNvme fun m => { m with
        outs := m.outs.map fun x => if x.order = o.order then { x with started := true, left := n } else x
        unitsWritten := m.unitsWritten + n, writeCmds := m.writeCmds + 1 }
      ((s1.charge (s1.nsOwner id) 10 (some 3) (4096 * n)).charge (s1.nsOwner id) 11 none (4096 * n)).each (atomicPieces (nvSlba c) n) fun s pc =>
        s.gatherPiece o.order ((List.range pc.2).map fun i => s.unitFor id (pc.1 + i) ((bs.drop (4096 * (pc.1 + i - (nvSlba c)))).take 4096))

/-- Ranges of a Dataset Management: SLBA and length. -/
def dsmRanges (n : Nat) (bs : List Byte) : List (Nat × Nat) := (List.range n).map fun i => (leAt bs (16 * i + 8) 8, leAt bs (16 * i + 4) 4)

/-- Dataset Management (R323, R337). -/
def State.nvDoDsm (s : State) (o : NvmeOut) : State :=
  let c := o.cmd
  let id := c.nsid.toNat
  let n := fld c.cdw10.toNat 0 8 + 1
  if !nvDealloc c then s.nvEnd o nvOk 0
  else if s.nvProtectedNow id then s.nvEnd o nvProtected 0
  else match s.prps c (16 * n) with
    | none => s.nvEnd o nvPrpOffset 0
    | some ps =>
      let rs := dsmRanges n (s.nvPull ps)
      let size := ((s.nsOf id).map fun x => x.size).getD 0
      if rs.any fun r => decide (size < r.1 + r.2) then s.nvEnd o nvLbaRange 0
      else (s.each rs fun s r => s.discardRange id r.1 r.2).nvEnd o nvOk 0

/-- Attached host namespaces (R19, R340). -/
def State.hostNs (s : State) : List NsSt := s.flash.nss.filter fun n => n.purpose == 0 && n.attached

/-- Format NVM (R347), once the commands fetched before it are complete. -/
def State.nvDoFormat (s : State) (o : NvmeOut) : State :=
  let c := o.cmd
  let ses := fld c.cdw10.toNat 9 3
  let ns := (s.hostNs.filter fun n => c.nsid == 0xFFFFFFFF#32 || n.nsid == c.nsid.toNat).map fun n => n.nsid
  let s1 := s.each ns fun s n => if ses = 0 then s.unmapAll n else s.eraseNs .pf0 n
  s1.nvEnd o nvOk 0

/-- A command is performed. -/
def State.nvStart (s : State) (o : NvmeOut) : State :=
  if o.format then s.nvDoFormat o
  else if o.cmd.opcode = 0x02 ∨ o.cmd.opcode = 0x82 then s.nvDoRead o
  else if o.cmd.opcode = 0x01 ∨ o.cmd.opcode = 0x81 then s.nvDoWrite o
  else if o.cmd.opcode = 0x08 then
    if s.nvProtectedNow o.cmd.nsid.toNat then s.nvEnd o nvProtected 0
    else (s.unmapRange o.cmd.nsid.toNat (nvSlba o.cmd) (nvNlb o.cmd)).nvEnd o nvOk 0
  else if o.cmd.opcode = 0x09 then s.nvDoDsm o
  else s.nvEnd o nvOk 0

/-- The regulator that a command's data pass in a namespace that a partition owns, with their bytes: that of flash reads or that of
flash programs (R261). -/
def nvPoint (c : NvmeCmd) : Option (Nat × Nat) :=
  if c.opcode = 0x02 ∨ c.opcode = 0x82 then some (2, 4096 * nvNlb c)
  else if c.opcode = 0x01 ∨ c.opcode = 0x81 then some (3, 4096 * nvNlb c)
  else none

/-- A command that the regulator of its namespace's owner holds (R260); NVMe commands are best-effort requests (log entry 15). -/
def State.nvHeld (s : State) (o : NvmeOut) : Bool :=
  match nvPoint o.cmd with
  | some (r, _) => decide (s.nsOwner o.cmd.nsid.toNat < 32) && (tget (s.ptn (s.nsOwner o.cmd.nsid.toNat)).regs r {}).holds r false
  | none => false

/-- Commands that may start but for their regulator are counted, once each. -/
def State.nvNote (s : State) : State :=
  s.each (s.nvme.outs.filter fun o => s.nvReady o && s.nvHeld o) fun s o => match nvPoint o.cmd with
    | some (r, n) => s.holdRequest (s.nsOwner o.cmd.nsid.toNat) r false n (.nvme o.order)
    | none => s

/-- A command starts, and no longer waits at a regulator. -/
def State.nvBegin (s : State) (o : NvmeOut) : State :=
  (match nvPoint o.cmd with
    | some (r, _) => s.unheld (s.nsOwner o.cmd.nsid.toNat) r (.nvme o.order)
    | none => s).nvStart o

/-- Starts every command that may start, in the order of their fetch; each turn starts one. -/
def nvPump : Nat → State → State
  | 0, s => s
  | fuel + 1, s => match s.nvme.outs.find? fun o => s.nvReady o && !s.nvHeld o with
    | some o => nvPump fuel (s.nvBegin o)
    | none => s

/-- As nvPump, over every command. -/
def State.nvGo (s : State) : State := (nvPump (s.nvme.outs.length + 1) s).nvNote

/-- The order of a fetched command, and the state with its queue's head advanced. -/
def State.nvFetch (s : State) (q : Nat) : Nat × State :=
  (s.nvme.orderNext, s.modNvme fun n => { n with
    orderNext := n.orderNext + 1
    sqs := match tfind n.sqs q with
      | some x => tset n.sqs q { x with head := (x.head + 1) % x.size }
      | none => n.sqs })

/-- I/O opcodes of R337. -/
def nvIoOpcodes : List (BitVec 8) := [0x00, 0x01, 0x02, 0x08, 0x09, 0x81, 0x82]

/-- What an I/O command is refused for (R337, R341, R343). -/
def State.nvIoBad (s : State) (c : NvmeCmd) : Option Nat :=
  let op := c.opcode
  let ns := s.hostNs.find? fun n => n.nsid == c.nsid.toNat
  let ranged := op == 0x01 || op == 0x02 || op == 0x08 || op == 0x81 || op == 0x82
  let ord := op == 0x81 || op == 0x82
  if !nvIoOpcodes.contains op then some nvInvalidOpcode
  else if c.psdt ≠ 0 then some nvInvalidField
  else match ns with
    | none => some nvInvalidNs
    | some n =>
      if ord ∧ (fld c.cdw12.toNat 16 16 ≠ 0 ∨ fld c.cdw13.toNat 1 31 ≠ 0 ∨ c.cdw14 ≠ 0 ∨ c.cdw15 ≠ 0) then some nvInvalidField
      else if ranged ∧ op ≠ 0x08 ∧ 512 < (nvNlb c) then some nvInvalidField
      else if ranged ∧ n.size < (nvSlba c) + (nvNlb c) then some nvLbaRange
      else none

/-- An I/O command is fetched from queue `q` for the row of one opcode; a command of an opcode without a row is taken and
refused by whichever row is commanded (log entry 3). -/
def State.nvIo (s : State) (q : BitVec 16) (c : NvmeCmd) (op : BitVec 8) : State :=
  let n := q.toNat
  if !s.nvme.rdy || n == 0 || (s.sq n).isNone then s
  else if c.opcode != op && nvIoOpcodes.contains c.opcode then s
  else
    let f := s.nvFetch n
    match f.2.nvIoBad c with
    | some st => f.2.nvComplete n c st 0
    | none =>
      let s1 := f.2.modNvme fun m => { m with outs := m.outs ++ [{ sq := n, cmd := c, order := f.1 }] }
      s1.flashWake.nvGo

/-- WRITE (R20, R311, R337). -/
def execNvmeWrite (q : BitVec 16) (cmd : NvmeCmd) (s : State) : Host.Outcome State Fault Refusal := .next (s.nvIo q cmd 0x01)

/-- READ (R310, R337). -/
def execNvmeRead (q : BitVec 16) (cmd : NvmeCmd) (s : State) : Host.Outcome State Fault Refusal := .next (s.nvIo q cmd 0x02)

/-- FLUSH (R337): every write that completed earlier is on the medium already. -/
def execNvmeFlush (q : BitVec 16) (cmd : NvmeCmd) (s : State) : Host.Outcome State Fault Refusal := .next (s.nvIo q cmd 0x00)

/-- WRITE_ZEROES (R337). -/
def execWriteZeroes (q : BitVec 16) (cmd : NvmeCmd) (s : State) : Host.Outcome State Fault Refusal := .next (s.nvIo q cmd 0x08)

/-- DATASET_MANAGEMENT (R323, R337). -/
def execDatasetManagement (q : BitVec 16) (cmd : NvmeCmd) (s : State) : Host.Outcome State Fault Refusal := .next (s.nvIo q cmd 0x09)

/-- ORDERED_WRITE (R343). -/
def execOrderedWrite (q : BitVec 16) (cmd : NvmeCmd) (s : State) : Host.Outcome State Fault Refusal := .next (s.nvIo q cmd 0x81)

/-- ORDERED_READ (R343). -/
def execOrderedRead (q : BitVec 16) (cmd : NvmeCmd) (s : State) : Host.Outcome State Fault Refusal := .next (s.nvIo q cmd 0x82)

/-- Units of a command are recorded; with the last one it completes (R20). -/
def State.nvUnits (s : State) (order n : Nat) : State :=
  match s.nvme.outs.find? fun o => o.order == order with
  | none => s
  | some o =>
    if o.left ≤ n then s.nvEnd o nvOk 0
    else s.modNvme fun m => { m with outs := m.outs.map fun x => if x.order = order then { x with left := x.left - n } else x }

/-- No block takes a unit of a command: it completes with an error, once (R20). -/
def State.nvWriteFailed (s : State) (order : Nat) : State :=
  match s.nvme.outs.find? fun o => o.order == order with
  | none => s
  | some o => s.nvEnd o nvWriteFault 0

/-- NAND_PROGRAM_COMPLETE (R311, R315): the units of the wordline stand, or the write goes to another block. -/
def execNandProgramComplete (ch : Fin 64) (ok : Bool) (s : State) : Host.Outcome State Fault Refusal :=
  .next (match tfind s.flash.progs ch with
    | none => s
    | some p =>
      if ok then
        let r := s.progDone ch p
        let s1 := (r.2.each r.1 fun s d => s.nvUnits d.1 d.2).nvGo
        if 64 ≤ (tget s1.flash.gather ch []).length then s1.startProg ch else s1
      else
        let r := s.progFailed ch p
        (r.2.each r.1 State.nvWriteFailed).nvGo)

/-! Admin commands. -/

/-- Admin opcodes of R336. -/
def nvAdminOpcodes : List (BitVec 8) :=
  [0x00, 0x01, 0x02, 0x04, 0x05, 0x06, 0x08, 0x09, 0x0A, 0x0C, 0x10, 0x11, 0x80]

/-- An admin command is fetched for the row of one opcode; the run answers with status and result, or takes the command
over. -/
def State.nvAdmin (s : State) (c : NvmeCmd) (op : BitVec 8) (run : Nat → State → Option (Nat × Nat) × State) : State :=
  if !s.nvme.rdy || (s.sq 0).isNone then s
  else if c.opcode != op && nvAdminOpcodes.contains c.opcode then s
  else
    let f := s.nvFetch 0
    if !nvAdminOpcodes.contains c.opcode then f.2.nvComplete 0 c nvInvalidOpcode 0
    else if c.psdt ≠ 0 then f.2.nvComplete 0 c nvInvalidField 0
    else match run f.1 f.2 with
      | (some r, s1) => s1.nvComplete 0 c r.1 r.2
      | (none, s1) => s1

/-- CREATE_IO_CQ (R336). -/
def execCreateIoCq (cmd : NvmeCmd) (s : State) : Host.Outcome State Fault Refusal :=
  .next (s.nvAdmin cmd 0x05 fun _ s =>
    let id := fld cmd.cdw10.toNat 0 16
    let size := fld cmd.cdw10.toNat 16 16
    let d := cmd.cdw11.toNat
    if id = 0 ∨ 128 < id ∨ (s.cq id).isSome then (some (nvQueueId, 0), s)
    else if size = 0 ∨ 4095 < size then (some (nvQueueSize, 0), s)
    else if !bitN d 0 then (some (nvInvalidField, 0), s)
    else if 128 < fld d 16 16 then (some (nvVector, 0), s)
    else (some (nvOk, 0), s.modNvme fun n => { n with
      cqs := tset n.cqs id { base := cmd.prp1.toNat, size := size + 1, vector := fld d 16 16, ien := bitN d 1 } }))

/-- CREATE_IO_SQ (R336). -/
def execCreateIoSq (cmd : NvmeCmd) (s : State) : Host.Outcome State Fault Refusal :=
  .next (s.nvAdmin cmd 0x01 fun _ s =>
    let id := fld cmd.cdw10.toNat 0 16
    let size := fld cmd.cdw10.toNat 16 16
    let cq := fld cmd.cdw11.toNat 16 16
    if id = 0 ∨ 128 < id ∨ (s.sq id).isSome then (some (nvQueueId, 0), s)
    else if size = 0 ∨ 4095 < size then (some (nvQueueSize, 0), s)
    else if !bitN cmd.cdw11.toNat 0 then (some (nvInvalidField, 0), s)
    else if cq = 0 ∨ (s.cq cq).isNone then (some (nvCqInvalid, 0), s)
    else (some (nvOk, 0), s.modNvme fun n => { n with sqs := tset n.sqs id { base := cmd.prp1.toNat, size := size + 1, cq := cq } }))

/-- DELETE_IO_SQ (R336): the commands of the queue complete as aborted. -/
def execDeleteIoSq (cmd : NvmeCmd) (s : State) : Host.Outcome State Fault Refusal :=
  .next (
    let s1 := s.nvAdmin cmd 0x00 fun _ s =>
      let id := fld cmd.cdw10.toNat 0 16
      if id = 0 ∨ (s.sq id).isNone then (some (nvQueueId, 0), s)
      else
        let s1 := s.each (s.nvme.outs.filter fun o => o.sq == id) fun s o => s.nvEnd o nvSqDeleted 0
        (some (nvOk, 0), s1.modNvme fun n => { n with sqs := tdel n.sqs id })
    s1.nvGo)

/-- DELETE_IO_CQ (R336): refused while a submission queue uses it. -/
def execDeleteIoCq (cmd : NvmeCmd) (s : State) : Host.Outcome State Fault Refusal :=
  .next (s.nvAdmin cmd 0x04 fun _ s =>
    let id := fld cmd.cdw10.toNat 0 16
    if id = 0 ∨ (s.cq id).isNone then (some (nvQueueId, 0), s)
    else if s.nvme.sqs.any fun q => q.2.cq == id then (some (nvQueueDelete, 0), s)
    else (some (nvOk, 0), s.modNvme fun n => { n with cqs := tdel n.cqs id }))

/-- Sends a structure of the module to the host by the command's PRPs. -/
def State.nvSend (s : State) (c : NvmeCmd) (bs : List Byte) : Option (Nat × Nat) × State :=
  match s.prps c bs.length with
  | none => (some (nvPrpOffset, 0), s)
  | some ps => (some (nvOk, 0), nvPush ps bs s)

/-- A sequence of fields laid over zeros. -/
def layFields (n : Nat) (fs : List (Nat × List Byte)) : List Byte := fs.foldl (fun b f => patch b f.1 f.2) (zeros n)

/-- Identify Controller (R340); SN and FR, whose spelling the spec does not give, are free (log entry 29). -/
def State.idController (s : State) : List Byte :=
  layFields 4096 [
    (0, bytesLE 2 (s.configSpace 0).vendor), (2, bytesLE 2 (s.configSpace 0).subVendor), (4, s.openBytes 62 20),
    (24, ascii 40 s.fac.orderCode), (64, s.openBytes 63 8), (77, [9#8]),
    (80, bytesLE 4 0x20100), (92, bytesLE 4 0x300), (111, [1#8]), (256, bytesLE 2 6), (259, [3#8]), (260, [4#8]), (262, [63#8]),
    (263, [2#8]), (512, [0x66#8]), (513, [0x44#8]), (516, bytesLE 4 32), (520, bytesLE 2 0x4C), (524, [4#8]), (525, [0#8]),
    (526, bytesLE 2 63), (528, bytesLE 2 63),
    (2048, bytesLE 2 33000), (2080, bytesLE 2 20000 ++ zeros 2 ++ bytesLE 4 1000 ++ bytesLE 4 1000),
    (2112, bytesLE 2 4000 ++ [0#8, 2#8] ++ bytesLE 4 10000 ++ bytesLE 4 20000)]

/-- VALID entries of a namespace. -/
def State.nsValid (s : State) (nsid : Nat) : Nat := (s.flash.map.filter fun e => e.1 / 2 ^ 40 == nsid && e.2.valid).length

/-- Identify Namespace (R340). -/
def State.idNamespace (s : State) (n : NsSt) : List Byte :=
  layFields 4096 [
    (0, bytesLE 8 n.size), (8, bytesLE 8 n.size), (16, bytesLE 8 (s.nsValid n.nsid)), (24, [2#8]), (34, bytesLE 2 63),
    (36, bytesLE 2 63), (128, [0#8, 0#8, 12#8, 0#8])]

/-- IDENTIFY (R336, R340). -/
def execIdentify (cmd : NvmeCmd) (s : State) : Host.Outcome State Fault Refusal :=
  .next (s.nvAdmin cmd 0x06 fun _ s =>
    let cns := fld cmd.cdw10.toNat 0 8
    let ns := s.hostNs.find? fun n => n.nsid == cmd.nsid.toNat
    let ids := sortBy (fun (a b : Nat) => decide (a ≤ b)) (s.hostNs.map fun n => n.nsid)
    if cns = 1 then
      let r := s.nvSend cmd s.idController
      (r.1, r.2.setFree (r.2.free + 1))
    else if cns = 2 then s.nvSend cmd (padTo 4096 ((ids.filter fun n => decide (cmd.nsid.toNat < n)).flatMap fun n => bytesLE 4 n))
    else if cns = 0 ∨ cns = 3 then
      match ns with
      | none => (some (nvInvalidNs, 0), s)
      | some n => s.nvSend cmd (if cns = 0 then s.idNamespace n else padTo 4096 [4#8, 1#8, 0#8, 0#8, 0#8])
    else (some (nvInvalidField, 0), s))

/-- NVME_ABORT (R336, R343): a command that has not started is aborted. -/
def execNvmeAbort (cmd : NvmeCmd) (s : State) : Host.Outcome State Fault Refusal :=
  .next (
    let s1 := s.nvAdmin cmd 0x08 fun _ s =>
      let q := fld cmd.cdw10.toNat 0 16
      let cid := fld cmd.cdw10.toNat 16 16
      match s.nvme.outs.find? fun o => o.sq == q && o.cmd.cid.toNat == cid && !o.started with
      | some o => (some (nvOk, 0), s.nvEnd o nvAborted 0)
      | none => (some (nvOk, 1), s)
    s1.nvGo)

/-! Features. -/

/-- Number of Queues granted: up to 128 of each (R338). -/
def queuesGranted (v : Nat) : Nat := min (fld v 0 16) 127 + min (fld v 16 16) 127 * 2 ^ 16

/-- Set Features (R338): status and result. -/
def State.setFeature (s : State) (c : NvmeCmd) : (Nat × Nat) × State :=
  let fid := fld c.cdw10.toNat 0 8
  let v := c.cdw11.toNat
  let put := fun (k : Nat) => s.modNvme fun n => { n with feats := tset n.feats k c.cdw11 }
  if bitN c.cdw10.toNat 31 then ((nvNotSaveable, 0), s)
  else match fid with
    | 0x01 => ((nvOk, 0), put 0x01)
    | 0x02 => if 2 < fld v 0 5 then ((nvInvalidField, 0), s) else ((nvOk, 0), s.modNvme fun n => { n with psTarget := fld v 0 5 })
    | 0x04 =>
      if fld v 16 4 ≠ 0 ∨ 1 < fld v 20 2 then ((nvInvalidField, 0), s)
      else ((nvOk, 0), (put (if fld v 20 2 = 0 then 0x04 else 0x104)).checkWarn)
    | 0x05 => if bitN v 16 then ((nvInvalidField, 0), s) else ((nvOk, 0), put 0x05)
    | 0x07 =>
      if fld v 0 16 = 0xFFFF ∨ fld v 16 16 = 0xFFFF then ((nvInvalidField, 0), s)
      else if s.nvme.sqs.any (fun q => q.1 != 0) || s.nvme.cqs.any (fun q => q.1 != 0) then ((nvSequence, 0), s)
      else ((nvOk, queuesGranted v), s.modNvme fun n => { n with feats := tset n.feats 0x07 (BitVec.ofNat 32 (queuesGranted v)) })
    | 0x08 => ((nvOk, 0), put 0x08)
    | 0x09 => if 128 < fld v 0 16 then ((nvInvalidField, 0), s) else ((nvOk, 0), put (0x10000 + fld v 0 16))
    | 0x0A => ((nvOk, 0), put 0x0A)
    | 0x0B => ((nvOk, 0), put 0x0B)
    | 0x0E => match s.prps c 8 with
      | none => ((nvPrpOffset, 0), s)
      | some ps => ((nvOk, 0), s.setTimestamp (leAt (s.nvPull ps) 0 6))
    | _ => ((nvInvalidField, 0), s)

/-- SET_FEATURES (R338). -/
def execSetFeatures (cmd : NvmeCmd) (s : State) : Host.Outcome State Fault Refusal :=
  .next (s.nvAdmin cmd 0x09 fun _ s => let r := s.setFeature cmd; (some r.1, r.2))

/-- Features of R338. -/
def nvFeatures : List Nat := [0x01, 0x02, 0x04, 0x05, 0x06, 0x07, 0x08, 0x09, 0x0A, 0x0B, 0x0E]

/-- GET_FEATURES (R338). -/
def execGetFeatures (cmd : NvmeCmd) (s : State) : Host.Outcome State Fault Refusal :=
  .next (s.nvAdmin cmd 0x0A fun _ s =>
    let fid := fld cmd.cdw10.toNat 0 8
    let sel := fld cmd.cdw10.toNat 8 3
    let v := cmd.cdw11.toNat
    let now := fun (k : Nat) => (tget s.nvme.feats k 0).toNat
    if !nvFeatures.contains fid then (some (nvInvalidField, 0), s)
    else if sel = 3 then (some (nvOk, if fid = 0x06 then 0 else 4), s)
    else if sel ≠ 0 then (some (nvOk, 0), s)
    else match fid with
      | 0x02 => (some (nvOk, s.nvme.ps), s)
      | 0x04 => (some (nvOk, now (if fld v 20 2 = 0 then 0x04 else 0x104)), s)
      | 0x06 => (some (nvOk, 0), s)
      | 0x09 => (some (nvOk, now (0x10000 + fld v 0 16)), s)
      | 0x0E => s.nvSend cmd (bytesLE 6 s.timestampMs ++ zeros 2)
      | k => (some (nvOk, now k), s))

/-! Log pages. -/

/-- SMART / Health Information (R339). Values of the page that the spec does not give are free (log entry 29). -/
def State.smartPage (s : State) : List Byte :=
  let n := s.nvme
  let spare := (List.range 8).foldl (fun m f => min m (s.fcd f).spare) 100
  let used := (List.range 8).foldl (fun m f => max m (s.pctUsed f)) 0
  let units := fun (k : Nat) => bytesLE 16 ((8 * k + 999) / 1000)
  layFields 512 [
    (0, [s.warnNow]), (1, bytesLE 2 s.composite), (3, [BitVec.ofNat 8 spare, 7#8, BitVec.ofNat 8 used]), (32, units n.unitsRead),
    (48, units n.unitsWritten), (64, bytesLE 16 n.readCmds), (80, bytesLE 16 n.writeCmds), (96, s.openBytes 64 48),
    (144, bytesLE 16 s.flash.unsafeShut), (160, bytesLE 16 s.flash.hostLost), (176, bytesLE 16 n.errCount)]

/-- Error Information (R339): 64 entries, newest first; where the error lies in the command, and the LBA, are free. -/
def State.errorPage (s : State) : List Byte :=
  let es := s.nvme.errLog
  padTo 4096 (((List.range es.length).zip es).flatMap fun e =>
    let v := e.2.toNat
    let n := s.nvme.errCount - e.1
    padTo 64 (bytesLE 8 n ++ bytesLE 2 (fld v 16 16) ++ bytesLE 2 (fld v 32 16) ++ bytesLE 2 (2 * fld v 0 16) ++
      ((List.range 10).map fun i => BitVec.ofNat 8 (Config.freeNat 67 [n, i])) ++ bytesLE 4 (fld v 48 32)))

/-- Firmware Slot Information (R339); the spelling of a revision is free. -/
def State.fwSlotPage (s : State) : List Byte :=
  layFields 512 [
    (0, [BitVec.ofNat 8 (s.mgt.bootSlot + if s.mgt.nextSlot = s.mgt.bootSlot then 0 else s.mgt.nextSlot * 16)]),
    (8, if s.mgt.slotA.isEmpty then [] else s.openBytes 65 8), (16, if s.mgt.slotB.isEmpty then [] else s.openBytes 66 8)]

/-- Changed Namespace List (R339). -/
def State.changedPage (s : State) : List Byte := padTo 4096 ((bitsOf 33 s.nvme.changedNs.toNat).flatMap fun n => bytesLE 4 n)

/-- Commands Supported and Effects (R339): supported, and which change logical block content. -/
def effectsPage : List Byte :=
  let e := fun (o v : Nat) => (4 * o, bytesLE 4 v)
  layFields 4096 ((nvAdminOpcodes.map fun o => e o.toNat (if o = 0x80 then 7 else 1)) ++
    (nvIoOpcodes.map fun o => e (256 + o.toNat) (if o = 0x01 ∨ o = 0x08 ∨ o = 0x09 ∨ o = 0x81 then 3 else 1)))

/-- A log page by its identifier (R339). -/
def State.logPage (s : State) (lid : Nat) : Option (List Byte) :=
  match lid with
  | 0 => some (layFields 1024 ((List.range 6).map fun i => (4 * i, bytesLE 4 1)))
  | 1 => some s.errorPage
  | 2 => some s.smartPage
  | 3 => some s.fwSlotPage
  | 4 => some s.changedPage
  | 5 => some effectsPage
  | _ => none

/-- Reading a page re-arms its event type and, for page 4, clears the list (R339, R342). -/
def State.pageRead (s : State) (lid : Nat) : State :=
  let type := if lid = 1 then 0 else if lid = 2 then 1 else 2
  let s1 := if lid = 4 then s.modNvme fun n => { n with changedNs := 0 } else s
  if lid = 0 ∨ lid = 5 then s1
  else
    let s2 := s1.modNvme fun n => { n with eventMasked := n.eventMasked.filter (· != type) }
    postEvents s2.nvme.events s2

/-- GET_LOG_PAGE (R339); the SMART page is controller-wide only, so one of a namespace is an invalid field. -/
def execGetLogPage (cmd : NvmeCmd) (s : State) : Host.Outcome State Fault Refusal :=
  .next (s.nvAdmin cmd 0x02 fun _ s =>
    let lid := fld cmd.cdw10.toNat 0 8
    let n := 4 * (fld cmd.cdw10.toNat 16 16 + fld cmd.cdw11.toNat 0 16 * 2 ^ 16 + 1)
    let off := cmd.cdw12.toNat + cmd.cdw13.toNat * 2 ^ 32
    if lid = 2 ∧ cmd.nsid ≠ 0 ∧ cmd.nsid ≠ 0xFFFFFFFF#32 then (some (nvInvalidField, 0), s)
    else match s.logPage lid with
    | none => (some (nvLogPage, 0), s)
    | some bs =>
      if off % 4 ≠ 0 ∨ bs.length < off then (some (nvInvalidField, 0), s)
      else
        let r := s.nvSend cmd (padTo n (bs.drop off))
        let s1 := r.2.setFree (r.2.free + 1)
        (r.1, if bitN cmd.cdw10.toNat 15 then s1 else s1.pageRead lid))

/-- ASYNCHRONOUS_EVENT_REQUEST (R336, R342): armed, or it receives a pending event. -/
def execAsyncEventRequest (cmd : NvmeCmd) (s : State) : Host.Outcome State Fault Refusal :=
  .next (s.nvAdmin cmd 0x0C fun _ s =>
    if 4 ≤ s.nvme.aers.length then (some (nvTooManyEvents, 0), s)
    else
      let s1 := s.modNvme fun n => { n with aers := n.aers ++ [cmd.cid] }
      (none, postEvents s1.nvme.events s1))

/-- FIRMWARE_IMAGE_DOWNLOAD (R348, R410). -/
def execFirmwareImageDownload (cmd : NvmeCmd) (s : State) : Host.Outcome State Fault Refusal :=
  .next (s.nvAdmin cmd 0x11 fun _ s =>
    let n := 4 * (cmd.cdw10.toNat + 1)
    if n % 4096 ≠ 0 ∨ 8388608 < n then (some (nvInvalidField, 0), s)
    else match s.prps cmd n with
      | none => (some (nvPrpOffset, 0), s)
      | some ps =>
        let r := s.stagePiece .pf0 (4 * cmd.cdw11.toNat) (s.nvPull ps)
        (some (if r.1 then nvOk else nvInvalidField, 0), r.2))

/-- NVMe status of a commit's end (R348, R392, R411). -/
def FwEnd.nvme : FwEnd → Nat
  | .ok => nvFwReset
  | .badImage => nvFwImage
  | .badSlot => nvFwSlot
  | .tooBig => nvFwImage
  | .norFail => nvInternal
  | .busy => nvSequence

/-- An image will be activated: Firmware Activation Starting (R342). -/
def State.fwEvent (s : State) (e : FwEnd) (slot action : Nat) : State :=
  if e == .ok && action != 0 && slot != s.mgt.bootSlot && s.eventOn 9 then s.nvEvent 2 1 3 else s

/-- FIRMWARE_COMMIT (R348, R411): the command completes when its bank is written, or at once where a check ends it. -/
def execFirmwareCommit (cmd : NvmeCmd) (s : State) : Host.Outcome State Fault Refusal :=
  .next (s.nvAdmin cmd 0x10 fun order s =>
    let slot := fld cmd.cdw10.toNat 0 3
    let ca := fld cmd.cdw10.toNat 3 3
    if 2 < ca then (some (nvInvalidField, 0), s)
    else match s.fwCommitOp .pf0 cmd.cid.toNat slot ca with
      | (some e, s1) => (some (e.nvme, 0), s1.fwEvent e slot ca)
      | (none, s1) => (none, s1.modNvme fun n => { n with outs := n.outs ++ [{ sq := 0, cmd := cmd, order := order, started := true }] }))

/-- FORMAT_NVM (R347): it waits for the commands fetched before it. -/
def execFormatNvm (cmd : NvmeCmd) (s : State) : Host.Outcome State Fault Refusal :=
  .next (
    let s1 := s.nvAdmin cmd 0x80 fun order s =>
      let d := cmd.cdw10.toNat
      if fld d 0 9 ≠ 0 ∨ fld d 12 2 ≠ 0 ∨ 2 < fld d 9 3 then (some (nvInvalidField, 0), s)
      else if cmd.nsid ≠ 0xFFFFFFFF#32 ∧ !(s.hostNs.any fun n => n.nsid == cmd.nsid.toNat) then (some (nvInvalidNs, 0), s)
      else (none, s.modNvme fun n => { n with outs := n.outs ++ [{ sq := 0, cmd := cmd, order := order }] })
    s1.nvGo)

/-! Enabling, resets, power states. -/

/-- A controller reset (R334): commands not completed are gone, queues and features return to their reset state. -/
def State.nvReset (s : State) : State :=
  s.modNvme fun n => { n with
    rdy := false, cfs := false, shst := 0, sqs := [], cqs := [], outs := [], feats := [], aers := [], events := [], eventMasked := []
    errLog := [], intm := 0 }

/-- RDY follows EN once the module has reached SL2 (R335). -/
def State.nvReadyCheck (s : State) : State :=
  let n := s.nvme
  if bitN n.cc.toNat 0 && !n.rdy && !n.cfs && decide (2 ≤ s.pwr.level) then s.modNvme fun n => { n with rdy := true } else s

/-- A write of CC (R335). -/
def State.ccWrite (s : State) (cc : BitVec 32) : State :=
  let v := cc.toNat
  let was := bitN s.nvme.cc.toNat 0
  let s1 := s.modNvme fun n => { n with cc := cc }
  if bitN v 0 && !was then
    if fld v 16 4 ≠ 6 ∨ fld v 20 4 ≠ 4 ∨ fld v 4 3 ≠ 0 ∨ fld v 11 3 ≠ 0 ∨ 4 < fld v 7 4 then s1.modNvme fun n => { n with cfs := true }
    else
      let q := s.nvme.aqa.toNat
      (s1.modNvme fun n => { n with
        sqs := [(0, { base := n.asq.toNat, size := fld q 0 12 + 1, cq := 0 })]
        cqs := [(0, { base := n.acq.toNat, size := fld q 16 12 + 1, vector := 0 })] }).nvReadyCheck
  else if !bitN v 0 && was then s1.nvReset
  else s1

/-- A write of CC.SHN (R335): the journal buffers are written and the shutdown reads complete. -/
def State.shnWrite (s : State) (cc : BitVec 32) : State :=
  if fld cc.toNat 14 2 = 0 then s
  else (s.each (List.range 8) fun s f => s.flushJournal f).modNvme fun n => { n with shst := 2 }

/-- CONTROLLER_ENABLE (R335). -/
def execControllerEnable (cc : BitVec 32) (s : State) : Host.Outcome State Fault Refusal := .next (if s.pwr.domainUp then (s.ccWrite cc).shnWrite cc else s)

/-- SHUTDOWN (R335): a write of CC with SHN. -/
def execShutdown (cc : BitVec 32) (s : State) : Host.Outcome State Fault Refusal := .next (if s.pwr.domainUp then (s.ccWrite cc).shnWrite cc else s)

/-- POWER_STATE_TRANSITION_DONE (R345, R346): the state targeted is held; entering PS2 the journal buffers are written. -/
def execPowerStateTransitionDone (s : State) : Host.Outcome State Fault Refusal :=
  .next (
    let n := s.nvme
    if n.psTarget = n.ps then s
    else
      let s1 := if n.psTarget = 2 then s.each (List.range 8) fun s f => s.flushJournal f else s
      (s1.modNvme fun n => { n with ps := n.psTarget, psOper := if n.psTarget = 2 then n.psOper else n.psTarget }).nvGo)

/-- An FLR of PF0 (R334): a controller reset, with CC at its reset value. -/
def State.flr0 (s : State) : State := (s.modNvme fun n => { n with cc := 0, aqa := 0, asq := 0, acq := 0 }).nvReset

/-- FLR_PF0 (R334). -/
def execFlrPf0 (s : State) : Host.Outcome State Fault Refusal := .next (if s.pwr.domainUp then s.flr0 else s)

/-- An FLR of PF1 (R334): every session ends, every job of every partition stops, its completion discarded; every vector
of PF1 is masked. -/
def State.flr1 (s : State) : State :=
  let s1 := s.each (List.range 32) fun s p => s.endSession p
  let s2 := s1.each s1.sh.jobs fun s j => s.stopJob j.id stRestart
  let s3 := s2.modHost fun h => { h with msix1 := h.msix1.map fun e => (e.1, e.2 ||| BitVec.ofNat 128 (2 ^ 96)) }
  s3.log (Src.code (.block 28)) 0x1012 []

/-- FLR_PF1 (R334). -/
def execFlrPf1 (s : State) : Host.Outcome State Fault Refusal := .next (if s.pwr.domainUp then s.flr1 else s)

/-- HOT_RESET: a hot reset, a link down or PERST# (R334). -/
def execHotReset (s : State) : Host.Outcome State Fault Refusal :=
  .next (
    if s.pwr.domainUp then
      s.flr0.flr1.modHost fun h => { h with linkUp := false, rate := 0, width := 0, flit := false, msix0 := [], msix1 := [] }
    else s)

end Sys2Proof.Machine
end

