-- ==== Sys2Proof/Machine/Level.lean ====
section
/-! DEFINITION. Service levels (R30, R470, R471), what a fall does, the power-loss sequence (R329) and the 54 V domain held
in reset (R458, R462). -/

namespace Sys2Proof.Machine

/-- Source code of the LK die of a link (R402). -/
def lkSource (l : Nat) : BitVec 16 := BitVec.ofNat 16 (29 + l / 16)

/-- Partitions that hold a key of a multi-module job (R379). -/
def State.keyPtns (s : State) (key : BitVec 64) : List Nat :=
  (List.range 32).filter fun p => (s.ptn p).live && (s.ptn p).lnkEn && (s.ptn p).lnkKey == key && key != 0

/-- Every job of the partitions that hold a key stops with a status, and their collectives end (R385, R386). -/
def State.stopKey (s : State) (key : BitVec 64) (status : Nat) : State :=
  s.each (s.keyPtns key) fun s p => (s.each (s.jobsOf p) fun s j => s.stopJob j.id status).abortColl p

/-- A hit key (R386 steps 1 and 2): its jobs stop with ABORT_LINK, the job-abort message goes out, log 0x5007. -/
def State.hitKey (s : State) (key : BitVec 64) (l : Nat) : State :=
  let s1 := (s.stopKey key stAbortLink).sendLink (.jobAbort key l)
  (s1.modLinks fun k => { k with abortSeen := if k.abortSeen.contains key then k.abortSeen else k.abortSeen ++ [key] }).log (lkSource l) 0x5007
    (bytesLE 8 key.toNat ++ bytesLE 1 l)

/-! Levels. -/

/-- Board-memory channels of a memory hub that work (R30, R61). -/
def State.hubChannels (s : State) (h : Nat) : Nat := ((List.range 16).filter fun c => !s.retireListed 4 (16 * h + c)).length

/-- The smallest set of units of SL2 (R30). -/
def State.meetsSl2 (s : State) : Bool :=
  s.pwr.hubOk && s.pwr.hioOk && s.pwr.fcOk == 0xFF#8 && (List.range 2).any fun h => bitN s.pwr.mhOk.toNat h && decide (8 ≤ s.hubChannels h)

/-- The stacks that the committed image's model region covers work (R470). -/
def State.modelStacksOk (s : State) : Bool :=
  match s.warp.activeImg with
  | none => true
  | some img => (List.range 8).all fun i =>
      img.modelLen == 0 || decide (i < img.modelBase / 2 ^ 36) || decide ((img.modelBase + img.modelLen - 1) / 2 ^ 36 < i) || bitN s.pwr.stackOk.toNat i

/-- The highest level whose set works (R30, R470). -/
def State.levelNow (s : State) : Nat :=
  if !s.mgt.running then 0
  else if !s.pwr.domainUp || s.pwr.lockout || !s.meetsSl2 then 1
  else if s.mgt.held || s.warp.activeImg.isNone || !s.modelStacksOk || !(List.range 64).any s.coreCounts then 2
  else if (List.range 48).any fun l => (s.link l).st == 2 then 4 else 3

/-- The keys of multi-module jobs in their partitions (R379). -/
def State.jobKeys (s : State) : List (BitVec 64) :=
  (List.range 32).foldl (fun ks p =>
    let q := s.ptn p
    if q.live && q.lnkEn && q.lnkKey != 0 && !ks.contains q.lnkKey then ks ++ [q.lnkKey] else ks) []

/-- The level takes a value: log 0x8502, and what a fall to SL3 or SL2 does (R470, R471); `l` is the link of the fall. -/
def State.setLevel (s : State) (v l : Nat) : State :=
  let old := s.pwr.level
  if v = old then s
  else
    let s1 := (s.modPwr fun p => { p with level := v }).log Src.mgt.code 0x8502 (bytesLE 1 old ++ bytesLE 1 v)
    let s2 := if old = 4 ∧ v = 3 then s1.each s1.jobKeys fun s k => s.hitKey k l else s1
    let s3 := if v = 2 ∧ 2 < old then s2.fallToSl2 else s2
    if 2 ≤ v then s3.nvReadyCheck else s3

/-- A unit is lost: the level falls at that instant, where its set no longer works (R470). -/
def State.dropLevel (s : State) (l : Nat) : State := s.setLevel (min s.pwr.level s.levelNow) l

/-- A commit, an override, a start-up step or a link UP: the level is the highest that works (R470). -/
def State.raiseLevel (s : State) : State := s.setLevel (max s.pwr.level s.levelNow) 0

/-- Both ways at once, for a structural reset. -/
def State.relevel (s : State) : State := s.setLevel s.levelNow 0

/-! The power-loss sequence and the domain in reset. -/

/-- A program in flight ends (R329 step 2): its units stand; no command completes for it. -/
def State.lossProgram (s : State) (ch : Nat) : State :=
  match tfind s.flash.progs ch with
  | none => s
  | some p => (s.progDone ch p).2

/-- R329: programs in flight finish, the running exclusive-ors and both journal buffers reach the system area, the seal
record is written; units not in a program, pieces that are not whole, and ingest records that were waiting to be written, are
absent after it (R300). -/
def State.powerLoss (s : State) : State :=
  let s1 := (s.each (List.range 64) State.lossProgram).modFlash fun q => { q with gather := [], waitMill := [], pieces := [], progs := [] }
  let s2 := s1.modFlash fun q => { q with sysXor := q.rows.flatMap fun r => r.xors.map fun x => (r.id, x.1, x.2) }
  let s3 := s2.modIngest fun g => { g with
    storePos := g.storeWait.foldl (fun t e => tset t e.1 (tget t e.1 0 - e.2.length)) g.storePos, storeWait := [] }
  (s3.each (List.range 8) State.flushJournal).modFlash fun q => { q with sealed := true }

/-- A core's register values that a reset of its die keeps: the map and the width until the self-test (R168, R458), and SLOT_VALID,
which no narrower reset restores (R11). -/
def CoreSt.offValue (k : CoreSt) : CoreSt := { width := k.width, stripOk := k.stripOk, colMap := k.colMap, sfuValid := k.sfuValid }

/-- What search and ingest lose with the domain: jobs, batches, snapshots and merges in progress (R298); indexes
and ingest positions stand on the medium. -/
def State.searchOff (s : State) : State :=
  let s1 := s.each s.search.batches fun s b => s.dropBatch b
  let s2 := s1.each s1.search.indexes fun s i => s.each ((if i.merging = 0 then [] else [i.merging]) ++ i.mergeWait) fun s _ =>
    s.log (Src.code .hub) 0x3408 (bytesLE 2 i.handle)
  let s3 := s2.modSearch fun q => { q with
    indexes := q.indexes.map fun i => { i with snaps := [], opened := none, dropping := 0, merging := 0, mergeNew := [], mergeWait := [] }
    engs := [], nextTag := 1 }
  s3.retain

/-- The books of an FC die at start-up: the error counters and the buffers at their reset values; FC_POOL reads the medium's books,
and FC_MAP_STATUS keeps its value (R11). -/
def FcDie.offValue (d : FcDie) : FcDie :=
  { d with retries := 0, soft := 0, rebuilds := 0, lost := 0, gc := false, jbuf := [], snap := [d.free, d.opened, d.full, d.retired, d.parity] }

/-- What stands on the medium or is lifelong when the flash side goes down; changes not yet in their map pages stand in the
journal. -/
def FlashSt.offValue (q : FlashSt) : FlashSt :=
  { q with gather := [], waitMill := [], pieces := [], progs := [], cache := q.cache.filter (·.2), poolBusy := false, mapCacheGiB := 16, nextChan := 0,
           dies := q.dies.map fun (d : Nat × FcDie) => (d.1, d.2.offValue), runs := q.runs.map fun r => { r with holds := 0 } }

/-- What the NVMe controller keeps: its lifelong counts (R339). -/
def NvmeSt.offValue (n : NvmeSt) : NvmeSt :=
  { errCount := n.errCount, lostSincePor := n.lostSincePor, unitsRead := n.unitsRead, unitsWritten := n.unitsWritten,
    readCmds := n.readCmds, writeCmds := n.writeCmds, warn := n.warn }

/-- The 54 V domain is held in reset (R458): every die, key register, stack and board-memory content, poison record, job,
session and PCIe link; the bridge is isolated (R15) and the level is SL1. The medium, checkpoint slots and host memory stay. -/
def State.domainDown (s : State) : State :=
  let s1 := s.searchOff
  let s2 := { s1 with
    fab := {}
    warp := {}
    ptns := []
    cores := s1.cores.map fun (e : Nat × CoreSt) => (e.1, e.2.offValue)
    sync := {}
    notice := {}
    mem := s1.mem.filter fun e => decide (0x1000000000000 ≤ e.1)
    dir := {}
    xl := {}
    sh := {}
    model := {}
    mctok := []
    host := {}
    nvme := s1.nvme.offValue
    flash := s1.flash.offValue
    links := { slots := s1.links.slots, outbox := s1.links.outbox } }
  let s3 := (s2.modMgt fun m => { m with keyRegs := [] }).modPwr fun p => { p with domainUp := false, isolated := true }
  s3.setLevel (min s3.pwr.level 1) 0

/-- The domain goes down after R329 on the FC dies that are up (R459, R471). -/
def State.shutDomain (s : State) : State := if s.pwr.domainUp then s.powerLoss.domainDown else s

/-! A page read. -/

/-- NAND_PAGE_READ (R318, R319): how far a read of a unit's page climbs the ladder, and what follows. A page whose stripe is not
complete has no rebuild and is lost after the soft decode (R305). A lost record of the system area is taken from the other half
of its mirror; where both are lost, the module stops at SL1 (log entry 25). -/
def execNandPageRead (unit : BitVec 36) (res : ReadLadder) (s : State) : Host.Outcome State Fault Refusal :=
  .next (
    let u := unit.toNat
    let f := fcOf (u / 2 ^ 30)
    let src := fcSource f
    let s0 := s.modBlk (unitBlock u) fun b => { b with reads := b.reads + 1 }
    let noted := fun (s : State) (g : FcDie → FcDie) => (s.modFcd f g).logRated (rateKey 0x3003 (u / 2 ^ 26)) oneSec src 0x3003 (bytesLE 5 u)
    let retry := fun (s : State) => noted s fun d => { d with retries := satAdd 16 d.retries 1 }
    let soft := fun (s : State) => noted (retry s) fun d => { d with soft := satAdd 16 d.soft 1 }
    if !s.pwr.domainUp then s
    else match res with
    | .hard _ => s0
    | .retry _ => retry s0
    | .soft => soft s0
    | .rebuilt =>
      if s.stripeDone u then
        (((soft s0).modFcd f fun d => { d with rebuilds := satAdd 16 d.rebuilds 1 }).log src 0x3004 (bytesLE 5 u)).refreshPage u
      else (soft s0).loseUnit f u
    | .lost => (soft s0).loseUnit f u
    | .sysLost both =>
      let s1 := (soft s0).modFcd f fun d => { d with lost := satAdd 16 d.lost 1 }
      if both then s1.shutDomain.modPwr fun p => { p with startDue := false } else s1)

end Sys2Proof.Machine
end

