-- ==== Sys2Proof/Machine/Link.lean ====
section
/-! DEFINITION. Selvedge links (R371-R377, R386): training, the identity exchange, loss of a link, the messages of the torus,
and remote requests and refusals (R380-R383). -/

namespace Sys2Proof.Machine

/-- Input of the sync store of a link's port (R88, R382). -/
def lkInput (l : Nat) : Nat := 64 + (27 + l / 16 - 16)

/-- May links train now (R372)? -/
def State.linksMay (s : State) : Bool := decide (3 ≤ s.pwr.level) && !s.mgt.held

/-- Credit constant of a link VC (R374). -/
def lnkConst (vc : Nat) : Nat :=
  if vc = 0 then 128 else if vc = 1 ∨ vc = 2 ∨ vc = 3 then 1024 else if vc = 4 ∨ vc = 5 then 4096 else 0

/-- The credit book of a direction (0 sending, 1 receiving) and VC of a link. -/
def LinkSt.book (k : LinkSt) (dir vc : Nat) : CreditBook := tget k.books (8 * dir + vc) { sender := lnkConst vc }

/-- Every link VC at its credit constant (R372 step 5). -/
def fullBooks : Tab CreditBook :=
  [0, 1, 2, 3, 4, 5, 8, 9, 10, 11, 12, 13].map fun i => (i, { sender := lnkConst (i % 8) })

/-- LINK_TRAINING (R372): a link with a direction starts training; `ok` says that steps 1 to 3 succeed. -/
def execLinkTraining (l : Fin 48) (ok : Bool) (s : State) : Host.Outcome State Fault Refusal :=
  .next (if s.linksMay ∧ (s.link l).st = 0 ∧ (s.link l).dir ≠ 0 then s.modLink l fun k => { k with st := 1, aligned := ok, trainFails := 0 } else s)

/-- The credit books of a link balance: each sums to its constant (R374, R375). -/
def LinkSt.booksOk (k : LinkSt) : Bool :=
  [0, 1, 2, 3, 4, 5, 8, 9, 10, 11, 12, 13].all fun i =>
    let b := k.book (i / 8) (i % 8)
    b.sender + b.flying + b.returns + b.occ == lnkConst (i % 8)

/-- The position one step along a LINK_DIR direction, modulo the dimension (R373). -/
def LinkSet.stepTo (k : LinkSet) (dir : Nat) : Nat × Nat × Nat :=
  let i := (dir - 1) / 2
  let go := fun (j : Nat) => if j = i then (if dir % 2 = 1 then (k.pos j + 1) % k.dim j else (k.pos j + k.dim j - 1) % k.dim j) else k.pos j
  (go 0, go 1, go 2)

/-- The opposite LINK_DIR. -/
def oppositeDir (dir : Nat) : Nat := if dir % 2 = 1 then dir + 1 else dir - 1

/-- The partner's identity passes the second and third check (R373). -/
def LinkSet.partnerOk (k : LinkSet) (dir : Nat) (x : LinkIdent) : Bool :=
  x.dimX == k.dimX && x.dimY == k.dimY && x.dimZ == k.dimZ && x.dir == oppositeDir dir &&
    (x.posX, x.posY, x.posZ) == k.stepTo dir

/-- Own dead directions end when one of their links is UP again (log entry 31). -/
def State.reviveDir (s : State) (dir : Nat) : State :=
  let i := (dir - 1) / 2
  s.modLinks fun k => { k with dead := k.dead.filter fun d => d != (i, decide (dir % 2 = 1), s.links.torus.pos i) }

/-- A link comes UP (R372 step 5). -/
def State.linkUp (s : State) (l version : Nat) : State :=
  let s1 := s.modLink l fun k => { k with st := 2, version := version, aligned := false, books := fullBooks, txSeq := 0, rxSeq := 0,
                                          replayFails := 0, trainFails := 0, replay := [] }
  (((s1.reviveDir (s.link l).dir).log (lkSource l) 0x5001 (bytesLE 1 l ++ bytesLE 2 version))).raiseLevel

/-- IDENTITY_EXCHANGE (R373): the checks in their order, and what the link becomes. A CAUSE the spec does not state is free. -/
def execIdentityExchange (l : Fin 48) (id : LinkIdent) (s : State) : Host.Outcome State Fault Refusal :=
  let k := s.link l
  .next (
    if k.st ≠ 1 ∨ k.aligned = false then s
    else
      let s1 := s.modLink l fun k => { k with pMod := id.module % 2048, pLink := id.link % 64 }
      match commonVersion id.verMin id.verMax 0x0100 0x0100 with
      | none =>
        (s1.modLink l fun k => { k with st := 4, cause := stVersion, version := 0, aligned := false }).log (lkSource l) 0x5003
          (bytesLE 1 l ++ bytesLE 2 id.verMin ++ bytesLE 2 id.verMax)
      | some v =>
        if s.links.torus.partnerOk k.dir id then s1.linkUp l v
        else
          let c := s1.fresh
          (c.2.modLink l fun k => { k with st := 5, cause := Config.freeNat 72 [c.1] % 256, version := 0, aligned := false }).log (lkSource l)
            0x5004 (bytesLE 1 l ++ bytesLE 2 id.module ++ bytesLE 1 id.link))

/-! Loss of a link. -/

/-- The distinct non-zero keys among flits. -/
def flitKeys (fs : List LkFlit) : List (BitVec 64) :=
  fs.foldl (fun ks f => if f.key = 0 ∨ ks.contains f.key then ks else ks ++ [f.key]) []

/-- When every link of a direction is DOWN, the direction is dead and a reachability message goes round its ring (R377). -/
def State.checkDead (s : State) (dir : Nat) : State :=
  let ls := s.dirLinks dir
  let i := (dir - 1) / 2
  let d := (i, decide (dir % 2 = 1), s.links.torus.pos i)
  if !ls.isEmpty && ls.all (fun l => (s.link l).st == 3) && !s.links.dead.contains d then
    (s.modLinks fun k => { k with dead := k.dead ++ [d] }).sendLink (.reach i (decide (dir % 2 = 1)) s.links.torus.number)
  else s

/-- A link goes DOWN (R375, R386): its send queue moves to the other UP links of its direction, or is discarded where none
is left; the flits of its replay buffer are lost. `why`: 1 replays, 2 a lane's lock, 3 retrainings, 4 the credit books, 5 its
optical engine (R466), 6 its LK die (R473). -/
def State.linkDown (s : State) (l why : Nat) : State :=
  let k := s.link l
  let c := s.fresh
  let s1 := (c.2.modLink l fun k => { k with st := 3, cause := Config.freeNat 72 [c.1] % 256, version := 0, replay := [], sendq := [], part := [],
                                             replayFails := 0, trainFails := 0, aligned := false }).log (lkSource l) 0x5002 (bytesLE 1 l ++ bytesLE 1 why)
  let ups := s1.upLinks k.dir
  let s2 := if ups.isEmpty then s1.modLink l fun x => { x with dropped := satAdd 16 x.dropped (k.sendq.filter (·.last)).length }
    else s1.each k.sendq fun s f => match s.linkFor k.dir f.flow with
      | some m => s.modLink m fun x => { x with sendq := x.sendq ++ [f] }
      | none => s
  let s3 := s2.checkDead k.dir
  (s3.each (flitKeys (k.replay ++ if ups.isEmpty then k.sendq else [])) fun s key => s.hitKey key l).dropLevel l

/-- LINK_REPLAY (R375): codewords that the FEC has corrected are counted; a flit that fails its CRC or its sequence is replayed, and
`fail` says whether it is the replayed flit that has failed again. Sixteen failed replays of one flit take the link DOWN. -/
def execLinkReplay (l : Fin 48) (fec : BitVec 16) (fail : Option Bool) (s : State) : Host.Outcome State Fault Refusal :=
  let k := s.link l
  .next (
    if k.st ≠ 2 then s
    else
      let s1 := s.modLink l fun k => { k with fec := satAdd 16 k.fec fec.toNat }
      match fail with
      | none => s1
      | some again =>
        let n := if again then k.replayFails + 1 else 0
        let s2 := s1.modLink l fun k => { k with crc := satAdd 16 k.crc 1, replayFails := n }
        if 16 ≤ n then s2.linkDown l 1 else s2)

/-- LANE_LOCK_LOSS (R375): a lane has been out of lock for more than 1 ms. -/
def execLaneLockLoss (l : Fin 48) (s : State) : Host.Outcome State Fault Refusal :=
  .next (if (s.link l).st = 2 then s.linkDown l 2 else s)

/-- A retraining of a link: counted, and whether steps 1 to 3 succeed (R372, R375). The third that fails in a row takes the link
DOWN, and so does one that finds the credit books out of balance. -/
def State.retrainLink (s : State) (l : Nat) (ok : Bool) : State :=
  let k := s.link l
  let n := if ok then 0 else k.trainFails + 1
  let s1 := s.modLink l fun k => { k with retrains := satAdd 16 k.retrains 1, trainFails := n }
  if ok && !k.booksOk then s1.linkDown l 4
  else if k.st = 1 ∧ 3 ≤ n then s1.linkDown l 3
  else s1.modLink l fun k => { k with st := if ok then 1 else k.st, aligned := ok }

/-- LINK_TRAINING_RETRY (R372): a training that failed in steps 1 to 3 is retried. -/
def execLinkTrainingRetry (l : Fin 48) (ok : Bool) (s : State) : Host.Outcome State Fault Refusal :=
  .next (if s.linksMay ∧ (s.link l).st = 1 ∧ (s.link l).aligned = false then s.retrainLink l ok else s)

/-- LINK_DOWN_RETRAIN (R375): a DOWN link retrains; once steps 1 to 3 succeed the identity exchange follows. -/
def execLinkDownRetrain (l : Fin 48) (ok : Bool) (s : State) : Host.Outcome State Fault Refusal :=
  .next (if (s.link l).st = 3 ∧ s.linksMay then s.retrainLink l ok else s)

/-! Messages of the torus. -/

/-- REACHABILITY_MESSAGE (R377): a dead direction of one of the module's rings is kept, and the message goes on once. -/
def execReachabilityMessage (m : ReachMsg) (s : State) : Host.Outcome State Fault Refusal :=
  let t := s.links.torus
  let d := (m.dim.val, m.plus, m.coord)
  .next (
    if s.links.dead.contains d ∨ t.dim m.dim ≤ m.coord then s
    else
      let at_ := fun (i : Nat) => if i = m.dim.val then m.coord else t.pos i
      (s.modLinks fun k => { k with dead := k.dead ++ [d] }).sendLink (.reach m.dim m.plus (modNumber (at_ 0) (at_ 1) (at_ 2))))

/-- JOB_ABORT_MESSAGE (R386 step 3): the key's jobs stop with JOB_RESTART_REQUIRED, and the message is forwarded once. -/
def execJobAbortMessage (l : Fin 48) (key : BitVec 64) (s : State) : Host.Outcome State Fault Refusal :=
  .next (
    let s1 := s.stopKey key stRestart
    if s.links.abortSeen.contains key then s1
    else (s1.modLinks fun k => { k with abortSeen := k.abortSeen ++ [key] }).sendLink (.jobAbort key l))

/-- The flits of a packet have arrived on its link: their sequence numbers are used (R375). -/
def State.arrived (s : State) (r : RemReq) : State :=
  s.modLink r.link fun k => { k with rxSeq := k.rxSeq + BitVec.ofNat 12 (1 + (reqPayload r + 63) / 64) }

/-- The first dimension in which a packet has still to travel (R376). -/
def LinkSet.dimLeft (k : LinkSet) (m : Nat) : Option Nat := (List.range 3).find? fun i => modPos m i != k.pos i

/-- The VC on which a packet in transit leaves (R376): on the dateline VC from the crossing hop until it turns into the next
dimension, on which it returns to LC or BE; control messages and answers keep theirs. `came`: the dimension it travelled in. -/
def LinksSt.transitVc (l : LinksSt) (vc came i : Nat) (plus : Bool) : Nat :=
  if vc < 2 then vc
  else if came = i ∧ (vc = 3 ∨ vc = 5) then vc
  else l.reqVc (dirCode i plus) (decide (vc < 4))

/-- A packet in transit goes on (R376): in its chosen direction, on the link of its flow, charged to no partition. One that
meets a dead direction is discarded, counted at its link, and lost as on a lost link (R377, R386). -/
def State.passOn (s : State) (r : RemReq) (t : Transit) : State :=
  match s.links.torus.dimLeft t.dest with
  | none => s
  | some i =>
    let plus := bitN t.plus.toNat i
    let dir := dirCode i plus
    if s.links.dead.contains (i, plus, s.links.torus.pos i) || (s.dirLinks dir).isEmpty then
      let s1 := s.modLink r.link fun x => { x with dropped := satAdd 16 x.dropped 1 }
      if r.key = 0 then s1 else s1.hitKey r.key r.link
    else
      let vc := s.links.transitVc t.vc.toNat (((s.link r.link).dir - 1) / 2) i plus
      s.queueDir dir (flowOf r.srcMod t.dest r.agent (if t.vc = 3 ∨ t.vc = 5 then t.vc.toNat - 1 else t.vc.toNat))
        (routed t.dest t.plus (lkFlits vc 32 r.key (decide (t.vc.toNat < 4)) (if t.vc = 1 then r.data.length else reqPayload r)))

/-- REMOTE_REQUEST (R376, R380-R382): a packet has arrived on a link. One for another module goes on; a request for this one is
served, or refused. -/
def execRemoteRequest (r : RemReq) (s : State) : Host.Outcome State Fault Refusal :=
  let mine := match r.transit with
    | some t => t.dest == s.links.torus.number
    | none => true
  .next (
    if 48 ≤ r.link ∨ (s.link r.link).st ≠ 2 then s
    else if !mine then (s.arrived r).passOn r (r.transit.getD {})
    else match s.serveRemote r (lkInput r.link) with
      | (none, s1) => s1
      | (some .refused, s1) => ((s1.arrived r).noteRefusal r.ptn (some r.link)).sendAnswer r .refused
      | (some a, s1) => (s1.arrived r).sendAnswer r a)

/-- A refusal reaches a thread (R383): its load or AMO faults, or its oldest write has failed and its fence meets that. -/
def State.refuseThread (s : State) (c t : Nat) : State :=
  let th := s.thr c t
  let i := s.inFlight c t
  match th.pend with
  | .uncached pa _ => if paRemote pa then s.threadFault c t (th.va i) kWindow (accCode i) 3 else s
  | p =>
    if th.remoteW = 0 then s
    else
      let s1 := s.modThr c t fun th => { th.acked with remoteBad := true }
      if p = .fenceMem then s1.remoteFault c t else s1

/-- A refusal reaches a Bobbin engine (R383): the oldest transfer from or to another module has failed. -/
def State.refuseBobbin (s : State) (c : Nat) : State :=
  let hit := fun (b : BobSt) => !b.halted && (paRemote b.srcPa || paRemote b.dstPa)
  match (s.core c).bobs.find? hit with
  | none => s
  | some b =>
    let read := paRemote b.srcPa
    let s1 := s.modCore c fun k => { k with bobs := dropFirst hit k.bobs }
    let d := b.q.desc.toNat
    if b.q.job = 0 then s1
    else
      let s2 := s1.noteFault { ptn := s.partOf c, agent := 64 * c + 34, va := BitVec.ofNat 64 (if read then fld d 0 48 else fld d 48 48),
                               kind := kWindow, access := if read then 7 else 8, level := 3, lc := b.q.lc }
      s2.kindFault c b.q.thr kWindow

/-- REMOTE_REFUSAL (R383): by the agent code of R119. -/
def execRemoteRefusal (agent : BitVec 16) (s : State) : Host.Outcome State Fault Refusal :=
  let c := agent.toNat / 64
  let u := agent.toNat % 64
  .next (if 64 ≤ c then s else if u < 32 then s.refuseThread c u else if u = 34 then s.refuseBobbin c else s)

end Sys2Proof.Machine
end

