-- ==== Sys2Proof/Machine/Fabric.lean ====
section
/-! DEFINITION. The Twill fabric (R40-R49): lane maps, credit books, packets and their copies, credit snapshots; and the
snapshot of a link's books (R374). A lane uses slots of its frame as packets and credits allow; when, is timing (log entry 15). -/

namespace Sys2Proof.Machine

/-! Ports, lanes and books. -/

/-- Lanes of a port (R40). -/
def portLanes (p : Nat) : Nat :=
  if p < 16 then 6 else if p < 24 then 2 else if p < 26 then 48 else if p = 26 then 2 else if p < 30 then 16 else if p = 30 then 1 else 0

/-- Credit constant of a VC (R42). -/
def vcConst (vc : Nat) : Nat := if vc = 3 then 48 else if vc = 5 then 64 else if vc < 6 then 32 else 0

/-- Port `p`. -/
def State.port (s : State) (p : Nat) : PortSt := tget s.fab.ports p {}

/-- Changes port `p`. -/
def State.modPort (s : State) (p : Nat) (f : PortSt → PortSt) : State := s.modFab fun b => { b with ports := tset b.ports p (f (tget b.ports p {})) }

/-- Number of the book of a port, lane, direction (0 die towards HUB) and VC. -/
def bookKey (p lane dir vc : Nat) : Nat := ((p * 64 + lane) * 2 + dir) * 8 + vc

/-- A credit book (R45). -/
def State.book (s : State) (p lane dir vc : Nat) : CreditBook := tget s.fab.books (bookKey p lane dir vc) { sender := vcConst vc }

/-- Changes a credit book. -/
def State.modBook (s : State) (p lane dir vc : Nat) (f : CreditBook → CreditBook) : State :=
  s.modFab fun b => { b with books := tset b.books (bookKey p lane dir vc) (f (s.book p lane dir vc)) }

/-- A lane that the port has and that is not retired (R46). -/
def PortSt.hasLane (q : PortSt) (p lane : Nat) : Bool := decide (lane < portLanes p) && !q.retired.contains lane

/-- A lane that carries traffic. -/
def PortSt.laneUp (q : PortSt) (p lane : Nat) : Bool := q.up && q.hasLane p lane

/-- The 48 entries of a fresh lane map over `n` lanes (R41). -/
def freshMap (n : Nat) : List Nat := (List.range 48).map fun i => i % n

/-- Entries that name a lane go to the remaining lanes in rotation, in rising entry order (R49). With which remaining lane
the rotation begins the spec does not say: the lowest one, anew at each retirement (DESIGN CHOICE, log entry 43). -/
def rotateMap (lane : Nat) (rest : List Nat) : Nat → List Nat → List Nat
  | _, [] => []
  | k, x :: xs => if x = lane then rest.getD (k % max rest.length 1) 0 :: rotateMap lane rest (k + 1) xs else x :: rotateMap lane rest k xs

/-- A lane is retired: LANES_UP falls, its map entries move (R49). -/
def PortSt.retire (q : PortSt) (p lane : Nat) : PortSt :=
  let gone := q.retired ++ [lane]
  let rest := (List.range (portLanes p)).filter fun l => !gone.contains l
  { q with retired := gone, lanesUp := rest.length, laneMap := rotateMap lane rest 0 q.laneMap }

/-- A port that trains at start-up with the lanes it has (R40, R468 step 6). -/
def trainedPort (p : Nat) (lanes : List Nat) : PortSt :=
  let missing := (List.range (portLanes p)).filter fun l => !lanes.contains l
  if missing.length = portLanes p then { failed := true }
  else missing.foldl (fun q l => q.retire p l) { up := true, lanesUp := portLanes p, laneMap := freshMap (portLanes p) }

/-! Packets. -/

/-- Fields of the header (R41). -/
def pktTag (p : Packet) : Nat := fld p.hdr.toNat 29 3
def pktFlits (p : Packet) : Nat := fld p.hdr.toNat 24 4
def pktGroup (p : Packet) : Nat := fld p.hdr.toNat 19 5
def pktMcast (p : Packet) : Bool := bitN p.hdr.toNat 18
def pktPtn (p : Packet) : Nat := fld p.hdr.toNat 13 5
def pktVc (p : Packet) : Nat := fld p.hdr.toNat 10 3
def pktSrc (p : Packet) : Nat := fld p.hdr.toNat 5 5
def pktDest (p : Packet) : Nat := fld p.hdr.toNat 0 5

/-- Flits of a packet, the header flit included. -/
def pktLen (p : Packet) : Nat := p.data.length + 1

/-- A packet that can be sent: no field holds a value that is never sent. -/
def pktOk (p : Packet) : Bool :=
  decide (pktVc p < 6) && decide (pktFlits p < 9) && pktFlits p == p.data.length && decide (pktSrc p < 31) && (pktMcast p || decide (pktDest p < 31))

/-- The lane of a packet at a port (R41): the hash of source, destination and VC is a free value. -/
def State.pktLane (s : State) (port : Nat) (p : Packet) : Nat :=
  let dest := if pktMcast p then 32 + pktGroup p else pktDest p
  (s.port port).laneMap.getD ((Config.freeNat 80 [pktSrc p, dest, pktVc p] + pktTag p) % 48) 0

/-- Two packets of one flow (R41). -/
def sameFlow (a b : Packet) : Bool :=
  pktSrc a == pktSrc b && pktVc a == pktVc b && pktTag a == pktTag b && pktMcast a == pktMcast b &&
    (if pktMcast a then pktGroup a == pktGroup b else pktDest a == pktDest b)

/-- The VC that each of the 16 slots of a frame is guaranteed to (R43): LC 4, RSP 4, SNP 2, CTL 2, REQ 2, BE 2. Which slots of
the frame are whose is not stated (DESIGN CHOICE, log entry 15). -/
def slotOwner (slot : Nat) : Nat :=
  if slot < 4 then 3 else if slot < 8 then 1 else if slot < 10 then 2 else if slot < 12 then 0 else if slot < 14 then 4 else 5

/-- The VC that sends in a slot: the slot's own if it is able to, else the first able one of LC, RSP, SNP, CTL, REQ, BE (R43). -/
def slotVc (slot : Nat) (able : Nat → Bool) : Option Nat :=
  if able (slotOwner slot) then some (slotOwner slot) else ([3, 1, 2, 0, 4, 5] : List Nat).find? able

/-- Adds flits to the lane they travelled on. -/
def addOn (lane : Nat) : List (Nat × Nat) → List (Nat × Nat)
  | [] => [(lane, 1)]
  | x :: xs => if x.1 = lane then (lane, x.2 + 1) :: xs else x :: addOn lane xs

/-- Flit `i` of a packet: the header flit, then the data flits. -/
def pktFlit (p : Packet) (i : Nat) : BitVec 512 := if i = 0 then p.hdr else p.data.getD (i - 1) 0

/-- Flit `i` of a packet leaves on a lane in the next slot of the lane's frame: a credit is spent, the receiver holds the
flit, and the lane's replay buffer keeps the last 64 (R43, R45, R48). -/
def State.sendFlit (s : State) (port lane dir : Nat) (p : Packet) (i : Nat) : State :=
  let key := (port * 64 + lane) * 2 + dir
  ((s.modBook port lane dir (pktVc p) fun b => { b with sender := b.sender - 1, occ := b.occ + 1 }).modPort port fun q =>
    { q with replay := tset q.replay (2 * lane + dir) (((BitVec.ofNat 32 p.hdr.toNat, pktFlit p i) :: tget q.replay (2 * lane + dir) []).take 64) }).modFab
    fun b => { b with slots := tset b.slots key ((tget b.slots key 0 + 1) % 16) }

/-- The flits of a packet have left HUB: their credits travel back on the lanes they came on (R45). -/
def State.leftHub (s : State) (p : Packet) : List (Nat × Nat) → State
  | [] => s
  | (lane, n) :: xs =>
    (s.modBook (pktSrc p) lane 0 (pktVc p) fun b => { b with occ := b.occ - n, returns := b.returns + n }).leftHub p xs

/-- Member cores of a group, as HUB_MCAST_MEMBERS holds them (R47). -/
def State.groupCores (s : State) (g : Nat) : Nat := (tget s.fab.members g 0).toNat

/-- The output ports of a packet: its destination, or the tiles of its group's members (R47). -/
def State.pktPorts (s : State) (p : Packet) : List Nat :=
  if pktMcast p then (List.range 16).filter fun t => fld (s.groupCores (pktGroup p)) (4 * t) 4 != 0
  else [pktDest p]

/-- The output ports that a packet is bound for, on the way to HUB (its first flit has left) or at HUB. -/
def State.bound (s : State) : List (Packet × List Nat) :=
  ((s.fab.laneQ.filter fun w => w.sent != 0).map fun w => (w.pkt, s.pktPorts w.pkt)) ++ s.fab.hubWait.map fun w => (w.pkt, w.outs.map (·.1))

/-- HUB has no room: an LC packet beyond four for an output lane, or a multicast beyond the 64 replication entries (R44, R47). -/
def State.hubFull (s : State) (p : Packet) : Bool :=
  (pktMcast p && decide (64 ≤ (s.bound.filter fun w => pktMcast w.1).length)) ||
    (pktVc p == 3 && (s.pktPorts p).any fun o =>
      decide (4 ≤ (s.bound.filter fun w => pktVc w.1 == 3 && w.2.contains o && s.pktLane o w.1 == s.pktLane o p).length))

/-- A request that expects a response and meets a failed port is answered with ABORT_UNCORRECTABLE; log 0x2F04 (R48). -/
def State.pktFailed (s : State) (p : Packet) : State :=
  let s1 := if p.wantsRsp then s.modFab fun b => { b with aborted := b.aborted ++ [p] } else s
  s1.log (Src.code .hub) 0x2F04 (bytesLE 4 p.hdr.toNat)

/-- A whole packet is at its output port: there, and at each member core of the tile when it is multicast (R41, R47). -/
def State.deliver (s : State) (port : Nat) (p : Packet) : State :=
  let s1 := s.modPort port fun q => { q with delivered := q.delivered ++ [p] }
  if pktMcast p then
    s1.each ((List.range 4).filter fun i => bitN (s.groupCores (pktGroup p)) (4 * port + i)) fun s i =>
      s.modFab fun b => { b with coreIn := tset b.coreIn (4 * port + i) (tget b.coreIn (4 * port + i) [] ++ [p]) }
  else s1

/-- The copies of a packet at HUB for failed ports are discarded: a multicast copy is counted, a unicast packet is answered
(R47, R48). What is left of the packet's ports. -/
def State.failedCopies (s : State) (p : Packet) : List (Nat × Nat) → State × List (Nat × Nat)
  | [] => (s, [])
  | o :: os =>
    let r := s.failedCopies p os
    if !(s.port o.1).failed then (r.1, o :: r.2)
    else if pktMcast p then (r.1.modFab fun b => { b with dropCopies := satAdd 32 b.dropCopies 1 }, r.2)
    else (r.1.pktFailed p, r.2)

/-- A packet has reached HUB whole: a multicast of an empty group is discarded and counted, a copy for a failed port is
discarded, and the rest waits for its output lanes (R47, R48). -/
def State.hubArrive (s : State) (p : Packet) (onLanes : List (Nat × Nat)) : State :=
  let outs := s.pktPorts p
  if outs.isEmpty then (s.modFab fun b => { b with emptyDrops := satAdd 32 b.emptyDrops 1 }).leftHub p onLanes
  else
    let r := s.failedCopies p (outs.map fun o => (o, 0))
    if r.2.isEmpty then r.1.leftHub p onLanes
    else r.1.modFab fun b => { b with hubWait := b.hubWait ++ [{ pkt := p, onLanes := onLanes, outs := r.2 }] }

/-- The packet of a VC that sends next on an input lane: the one whose flits have begun to leave, else the oldest that HUB
has room for and that no earlier packet of its flow precedes (R41, R44). -/
def State.inHead (s : State) (port lane vc : Nat) : Option LanePkt :=
  let mine := s.fab.laneQ.filter fun w => pktSrc w.pkt == port && pktVc w.pkt == vc && s.pktLane port w.pkt == lane
  match mine.find? fun w => w.sent != 0 with
  | some w => some w
  | none => mine.find? fun w => !s.hubFull w.pkt && ((mine.takeWhile fun x => x != w).all fun x => !sameFlow x.pkt w.pkt)

/-- The copy of a VC that sends next on an output lane: the one begun, else the oldest (R41). -/
def State.outHead (s : State) (port lane vc : Nat) : Option HubPkt :=
  let mine := s.fab.hubWait.filter fun w => pktVc w.pkt == vc && (w.outs.any fun o => o.1 == port) && s.pktLane port w.pkt == lane
  match mine.find? fun w => w.outs.any fun o => o.1 == port && o.2 != 0 with
  | some w => some w
  | none => mine.head?

/-- Has the sender of a lane a credit of a VC (R45)? -/
def State.hasCredit (s : State) (port lane dir vc : Nat) : Bool := decide (0 < (s.book port lane dir vc).sender)

/-- One slot of an input lane: none when no VC is able to send. -/
def State.inSlot (s : State) (port lane : Nat) : Option State :=
  match slotVc (tget s.fab.slots ((port * 64 + lane) * 2) 0) fun v => s.hasCredit port lane 0 v && (s.inHead port lane v).isSome with
  | none => none
  | some v => match s.inHead port lane v with
    | none => none
    | some w =>
      let s1 := s.sendFlit port lane 0 w.pkt w.sent
      let w1 := { w with sent := w.sent + 1, onLanes := addOn lane w.onLanes }
      some (if w1.sent < pktLen w.pkt then s1.modFab fun b => { b with laneQ := modFirst (· == w) (fun _ => w1) b.laneQ }
        else (s1.modFab fun b => { b with laneQ := dropFirst (· == w) b.laneQ }).hubArrive w.pkt w1.onLanes)

/-- One slot of an output lane: none when no VC is able to send. A packet whose last copy has left leaves HUB (R47). -/
def State.outSlot (s : State) (port lane : Nat) : Option State :=
  match slotVc (tget s.fab.slots ((port * 64 + lane) * 2 + 1) 0) fun v => s.hasCredit port lane 1 v && (s.outHead port lane v).isSome with
  | none => none
  | some v => match s.outHead port lane v with
    | none => none
    | some w =>
      let i := ((w.outs.find? fun o => o.1 == port).map (·.2)).getD 0
      let s1 := s.sendFlit port lane 1 w.pkt i
      let left := fun (os : List (Nat × Nat)) (s : State) =>
        if os.isEmpty then (s.modFab fun b => { b with hubWait := dropFirst (· == w) b.hubWait }).leftHub w.pkt w.onLanes
        else s.modFab fun b => { b with hubWait := modFirst (· == w) (fun x => { x with outs := os }) b.hubWait }
      some (if i + 1 < pktLen w.pkt then left (w.outs.map fun o => if o.1 = port then (port, i + 1) else o) s1
        else left (w.outs.filter fun o => o.1 != port) (s1.deliver port w.pkt))

/-- Does a packet draw from the injection regulator as latency-critical work? Only BE carries best-effort data; the class of
the other VCs is not stated (DESIGN CHOICE, log entry 15). -/
def pktLc (p : Packet) : Bool := pktVc p != 5

/-- Injection grants (R261): a port draws 4 KiB of the partition's bucket when what is left of its grant does not cover the
packet. None: the regulator holds the packet (R43, R260). -/
def State.grant (s : State) (p : Packet) : Option State :=
  let k := 32 * pktSrc p + pktPtn p
  let n := 64 * pktLen p
  let g := tget (s.ptn (pktPtn p)).regs 4 {}
  let have_ := tget s.fab.grants k 0
  if !g.regulates 4 then some s
  else if n ≤ have_ then some (s.modFab fun b => { b with grants := tset b.grants k (have_ - n) })
  else if g.holds 4 (pktLc p) then none
  else some ((s.modPtn (pktPtn p) fun q => { q with regs := tset q.regs 4 (g.draw 4096) }).modFab fun b =>
    { b with grants := tset b.grants k (have_ + 4096 - n) })

/-- A packet enters the queue of its input lane, which admits four LC packets (R44), past the injection regulator (R43);
the flits are charged to its partition (R261, R262). None: it waits at its source. `ahead`: packets that wait before it. -/
def State.admitPkt (s : State) (ahead : List SrcPkt) (w : SrcPkt) : Option State :=
  let p := w.pkt
  let lane := s.pktLane (pktSrc p) p
  if (ahead.any fun x => sameFlow x.pkt p) ||
      (pktVc p == 3 && decide (4 ≤ (s.fab.laneQ.filter fun x =>
        pktVc x.pkt == 3 && pktSrc x.pkt == pktSrc p && s.pktLane (pktSrc p) x.pkt == lane).length)) then none
  else (s.grant p).map fun s1 => (s1.charge (pktPtn p) 13 none (64 * pktLen p)).modFab fun b => { b with laneQ := b.laneQ ++ [{ pkt := p }] }

/-- A packet that the regulator holds is counted in HELD, once (R260). -/
def State.heldPkt (s : State) (w : SrcPkt) : State × SrcPkt :=
  let p := w.pkt
  if w.held || (s.grant p).isSome then (s, w)
  else (s.modPtn (pktPtn p) fun q =>
    let g := tget q.regs 4 {}
    { q with regs := tset q.regs 4 { g with held := satAdd 32 g.held 1, waiting := g.waiting ++ [(pktLc p, 64 * pktLen p, .port (pktSrc p))] } },
    { w with held := true })

/-- A packet that was held has been served: it leaves the regulator's list. -/
def State.unheldPkt (s : State) (w : SrcPkt) : State :=
  if w.held then s.modPtn (pktPtn w.pkt) fun q =>
    let g := tget q.regs 4 {}
    { q with regs := tset q.regs 4 { g with waiting := dropFirst (fun x => x.2.2 == .port (pktSrc w.pkt)) g.waiting } }
  else s

/-- Packets waiting at their sources enter the lanes' queues as far as they may; one whose port has failed is lost with its die. -/
def State.admitWaiting (s : State) : State :=
  let r := s.fab.srcWait.foldl (fun (acc : State × List SrcPkt) w =>
    if (acc.1.port (pktSrc w.pkt)).failed then (acc.1.unheldPkt w, acc.2)
    else match acc.1.admitPkt acc.2 w with
      | some s1 => (s1.unheldPkt w, acc.2)
      | none => let h := acc.1.heldPkt w; (h.1, acc.2 ++ [h.2])) (s, [])
  r.1.modFab fun b => { b with srcWait := r.2 }

/-- The first lane that can use a slot uses it: output lanes before input lanes, which changes no order on a lane. -/
def State.laneSlot (s : State) : Option State :=
  let outs := s.fab.hubWait.flatMap fun w => w.outs.map fun o => (o.1, s.pktLane o.1 w.pkt)
  let ins := s.fab.laneQ.map fun w => (pktSrc w.pkt, s.pktLane (pktSrc w.pkt) w.pkt)
  match outs.findSome? fun x => s.outSlot x.1 x.2 with
  | some s1 => some s1
  | none => ins.findSome? fun x => s.inSlot x.1 x.2

/-- Slots are used, and places that they free are filled, until no lane can send. -/
def State.runLanes : Nat → State → State
  | 0, s => s
  | n + 1, s => match s.laneSlot with
    | some s1 => runLanes n s1.admitWaiting
    | none => s

/-- No more slots than this can be used: a slot for each flit of each packet that waits, into HUB and out of it 16 times at most. -/
def State.slotBound (s : State) : Nat :=
  17 * (((s.fab.srcWait.map fun w => pktLen w.pkt) ++ (s.fab.laneQ.map fun w => pktLen w.pkt) ++ s.fab.hubWait.map fun w => pktLen w.pkt).sum)

/-- Everything that waits is tried. -/
def State.pumpFabric (s : State) : State :=
  let s1 := s.admitWaiting
  State.runLanes s1.slotBound s1

/-- A port has failed: the copies at HUB for it are discarded as R47 and R48 say, and what its die had queued is lost. -/
def State.portDrops (s : State) (port : Nat) : State :=
  let s1 := s.modFab fun b => { b with hubWait := [], laneQ := b.laneQ.filter fun w => pktSrc w.pkt != port }
  s1.each s.fab.hubWait fun s w =>
    let r := s.failedCopies w.pkt w.outs
    if r.2.isEmpty then r.1.leftHub w.pkt w.onLanes else r.1.modFab fun b => { b with hubWait := b.hubWait ++ [{ w with outs := r.2 }] }

/-- The flits that a retired lane's replay buffer holds are resent on the lanes their flows have moved to, oldest first,
before any new packet of those flows (R49): they stand in those lanes' replay buffers. Their receiver had them already, so
no credit is drawn (R48; DEDUCED, log entry 43). -/
def State.resend (s : State) (port lane dir : Nat) : State :=
  let old := (tget (s.port port).replay (2 * lane + dir) []).reverse
  (s.each old fun s x =>
    let dest := s.pktLane port { hdr := BitVec.ofNat 512 x.1.toNat }
    s.modPort port fun q => { q with replay := tset q.replay (2 * dest + dir) ((x :: tget q.replay (2 * dest + dir) []).take 64) }).modPort port
    fun q => { q with replay := tdel q.replay (2 * lane + dir) }

/-- FABRIC_PACKET (R41-R48): the packet goes from its source to HUB and on to its destination or members, or waits for
room, credits or its regulator; across the isolated bridge it completes with HELD_MODE (R15). -/
def execFabricPacket (p : Packet) (s : State) : Host.Outcome State Fault Refusal :=
  .next (
    if !pktOk p then s
    else if s.pwr.isolated && (pktSrc p == 30 || (!pktMcast p && pktDest p == 30)) then s.modFab fun b => { b with held := b.held ++ [p] }
    else if !(s.port (pktSrc p)).up then s
    else (s.modFab fun b => { b with srcWait := b.srcWait ++ [{ pkt := p }] }).pumpFabric)

/-- CREDIT_RETURN (R45): one credit reaches its sender: one that travels back, or that of a flit which the die has taken
out of its buffer. -/
def execCreditReturn (port : Fin 31) (lane : Fin 48) (dir : Bool) (vc : Fin 6) (s : State) : Host.Outcome State Fault Refusal :=
  .next (
    let d := b2n dir
    let b := s.book port lane d vc
    if !(s.port port).laneUp port lane then s
    else if b.returns ≠ 0 then (s.modBook port lane d vc fun b => { b with returns := b.returns - 1, sender := b.sender + 1 }).pumpFabric
    else if dir && b.occ != 0 then (s.modBook port lane d vc fun b => { b with occ := b.occ - 1, sender := b.sender + 1 }).pumpFabric
    else s)

/-! Snapshots (R46, R374). -/

/-- The four counts of a snapshot. -/
def snapWord (const : Nat) (b : CreditBook) : BitVec 64 :=
  BitVec.ofNat 64 (const * 2 ^ 48 + b.sender * 2 ^ 32 + (b.flying + b.returns) * 2 ^ 16 + b.occ)

/-- A write of HUB_CREDIT_SNAP_CTL (R46). -/
def State.snapWrite (s : State) (w : BitVec 32) : State :=
  let n := w.toNat
  let port := fld n 8 5
  let lane := fld n 0 6
  let vc := fld n 16 3
  let dir := b2n (bitN n 15)
  let data := if vc < 6 ∧ port < 31 ∧ (s.port port).hasLane port lane then snapWord (vcConst vc) (s.book port lane dir vc) else 0
  let go := bitN n 23 && !s.fab.snapBusy
  s.modFab fun b => { b with
    snapVc := BitVec.ofNat 3 vc, snapDir := bitN n 15, snapPort := BitVec.ofNat 5 port, snapLane := BitVec.ofNat 6 lane
    snapBusy := b.snapBusy || go, snapData := if go then data else b.snapData }

/-- CREDIT_SNAP_GO (R46). -/
def execCreditSnapGo (w : BitVec 32) (s : State) : Host.Outcome State Fault Refusal := .next (if s.pwr.domainUp then s.snapWrite w else s)

/-- A write of LNK_CREDIT_SNAP_CTL of a link (R374). -/
def State.lnkSnapWrite (s : State) (l : Nat) (w : BitVec 32) : State :=
  let n := w.toNat
  let vc := fld n 16 3
  let k := s.link l
  let data := if vc < 6 then snapWord (lnkConst vc) (k.book (b2n (bitN n 15)) vc) else 0
  let go := bitN n 23 && !k.snapBusy
  s.modLink l fun k => { k with
    snapVc := BitVec.ofNat 3 vc, snapDir := bitN n 15, snapBusy := k.snapBusy || go, snapData := if go then data else k.snapData }

/-- LNK_CREDIT_SNAP_GO (R374). -/
def execLnkCreditSnapGo (l : Fin 48) (w : BitVec 32) (s : State) : Host.Outcome State Fault Refusal :=
  .next (if s.pwr.domainUp then s.lnkSnapWrite l w else s)

end Sys2Proof.Machine
end

