-- ==== Sys2Proof/Machine/Nor.lean ====
section
/-! DEFINITION. What the NOR flash does (R397-R407): programming the log and moving its window, verifies and what their
failures cause, refreshes, the archive; and how management commands answer on their routes (R392, R393, R456). -/

namespace Sys2Proof.Machine

/-! Answers of management commands. -/

/-- The answer of a management command: status, reply bytes and the SEQ of the entry that records it (R393, R426). -/
structure MgmtAns where
  status : Nat := 0
  bytes : List Byte := []
  seq : BitVec 32 := 0
  deriving DecidableEq, Repr

/-- The codes of the entries that record a change a management command makes (R426). -/
def recordCodes : List Nat := [0x1001, 0x1003, 0x1005, 0x7002, 0x7003, 0x7007, 0x7008, 0x7009, 0x700B, 0x700C, 0x6003, 0x6004, 0x6301, 0x1004]

/-- SEQ of the first entry accepted between two states that records the command; 0 when none does (R393, R426). -/
def seqSince (a b : State) : BitVec 32 :=
  (((b.mgt.log.queue.drop a.mgt.log.queue.length).find? fun e => recordCodes.contains e.code).map fun e => e.seq).getD 0

/-- The mailbox shows an answer and module vector 129 is raised (R393). -/
def State.mbAnswer (s : State) (a : MgmtAns) : State :=
  (s.modMgt fun m => { m with
    mbBusy := false, mbDone := true, mbStatus := a.status, mbReplyLen := min a.bytes.length 4096, mbReply := a.bytes.take 4096,
    mbLogSeq := a.seq }).raise 129

/-- A REPLY frame for the controller (R452, R456); a command that came to every node draws none, and carries tag 256 here. -/
def State.chainReply (s : State) (tag : Nat) (a : MgmtAns) : State :=
  if 256 ≤ tag then s
  else s.chainUp { dst := 0x80#8, src := BitVec.ofNat 8 s.chain.addr, type := 3, tag := BitVec.ofNat 8 tag,
                   payload := bytesLE 1 a.status ++ zeros 1 ++ bytesLE 2 a.bytes.length ++ bytesLE 4 a.seq.toNat ++ a.bytes }

/-- A firmware commit answers on the route it came by (R392). -/
def State.fwAnswer (s : State) (l : LongFw) (e : FwEnd) (seq : BitVec 32) : State :=
  match l.src with
  | .mailbox => s.mbAnswer { status := e.mgmt, seq := seq }
  | .weft _ => s.endJob l.job e.mgmt 0
  | .chain _ => s.chainReply l.job { status := e.mgmt, seq := seq }
  | .pf0 => match s.nvme.outs.find? fun o => o.sq == 0 && o.cmd.opcode == 0x10 && o.cmd.cid.toNat == l.job with
    | some o => (s.fwEvent e l.slot l.action).nvEnd o e.nvme 0
    | none => s
  | _ => s

/-- The bank of the firmware commit in progress is written, or failed (R400, R411). -/
def State.fwDone (s : State) (ok : Bool) : State :=
  match s.mgt.long with
  | none => s
  | some l => let r := s.fwWritten l ok; r.2.fwAnswer l r.1 (seqSince s r.2)

/-! The window of the log. -/

/-- Sectors of the window: 256, or one less than the good sectors (R404). -/
def LogSt.window (l : LogSt) : Nat := min 256 (l.good - 1)

/-- The newest sector. -/
def LogSt.newest (l : LogSt) : List LogEnt := l.sectors.getLastD []

/-- A row that was abandoned (R400) holds no entry: CODE 0 is never written. -/
def LogEnt.real (e : LogEnt) : Bool := e.code != 0

/-- Log 0x7012 for a sector dropped before it was archived (R405). -/
def State.logGap (s : State) (es : List LogEnt) : State :=
  match es.head?, es.getLast? with
  | some a, some b => (s.modLog fun l => { l with gap := true }).log Src.mgt.code 0x7012
      (bytesLE 4 a.seq.toNat ++ bytesLE 4 b.seq.toNat ++ (bytesLE 16 a.chain.toNat).reverse)
  | _, _ => s

/-- The oldest sectors leave while the window is too long (R404, R405); `fuel` bounds them. -/
def State.logTrim : Nat → State → State
  | 0, s => s
  | fuel + 1, s =>
    let l := s.mgt.log
    if l.sectors.length ≤ l.window then s
    else match l.sectors with
      | [] => s
      | x :: rest =>
        let s1 := s.modLog fun l => { l with
          sectors := rest, archived := l.archived - 1, archPart := if l.archived = 0 then 0 else l.archPart }
        State.logTrim fuel (if l.archived = 0 then s1.logGap ((x.filter LogEnt.real).drop l.archPart) else s1)

/-- An entry takes the next row: a full newest sector gives way to the erased one, and a sector that begins to fill asks for
the erase of the next (R404). -/
def State.logRow (s : State) (e : LogEnt) : State :=
  let full := decide (64 ≤ s.mgt.log.newest.length)
  let s1 := if full then s.modLog fun l => { l with sectors := l.sectors ++ [[]], erased := false } else s
  let first := s1.mgt.log.newest.isEmpty
  let s2 := s1.modLog fun l => { l with
    sectors := l.sectors.dropLast ++ [l.newest ++ [e]], eraseDue := l.eraseDue || (first && !l.erased) }
  if full then s2.logTrim (s2.mgt.log.sectors.length) else s2

/-- A place is free: the entries discarded are told (R406). -/
def State.logFreed (s : State) : State :=
  let n := s.mgt.log.discarded
  if n = 0 then s else (s.modLog fun l => { l with discarded := 0 }).log Src.mgt.code 0x7010 (bytesLE 4 n)

/-- Every queued entry is programmed, as the last thing before MGT stops (R406); `fuel` bounds the entries. -/
def State.logFlush : Nat → State → State
  | 0, s => s
  | fuel + 1, s => match s.mgt.log.queue with
    | [] => s
    | e :: rest => State.logFlush fuel (((s.modLog fun l => { l with queue := rest }).logRow e).logFreed)

/-- Every queued entry and the count of the discarded ones. -/
def State.logAll (s : State) : State := (s.modLog fun l => { l with progOn := false }).logFlush 400

/-- The operations of a NOR bank, innermost first. -/
def State.norBank (s : State) (b : Nat) : List NorOp := tget s.mgt.norOps b []

/-- The operations of a bank change. -/
def State.setNor (s : State) (b : Nat) (ops : List NorOp) : State := s.modMgt fun m => { m with norOps := tset m.norOps b ops }

/-- LOG_ENTRY_PROGRAM (R404, R406): the oldest queued entry goes to the next row. It waits while a program of bank D runs
(R399), and where a full sector has no erased successor yet. -/
def execLogEntryProgram (s : State) : Host.Outcome State Fault Refusal :=
  .next (
    let l := s.mgt.log
    match l.queue with
    | [] => s
    | e :: rest =>
      if !s.pwr.standby || l.progOn || (decide (64 ≤ l.newest.length) && !l.erased) then s
      else
        let s1 := (s.modLog fun l => { l with queue := rest, progOn := true }).logRow e
        s1.setNor 2 ({ row := s1.mgt.log.newest.length - 1 } :: s1.norBank 2))

/-! Refreshes (R400). -/

/-- May a sector be refreshed: always in bank D and in the bank that was not booted; in the boot slot's bank only while the
other slot passes. -/
def State.mayRefresh (s : State) (bank : Nat) : Bool :=
  bank == 2 || bank + 1 != s.mgt.bootSlot || s.slotPasses s.mgt.otherSlot

/-- Sectors of bank D that hold the log region (R397), for which no spare sector stands. -/
def inLogRegion (sector : Nat) : Bool := decide (576 ≤ sector) && decide (sector < 1600)

/-- One scheduled refresh. In bank D it takes a spare sector and the remap table follows; a sector of the log region is rewritten
without one, and so is any once no spare is left (log entry 42). -/
def State.refreshOne (s : State) (x : Nat × Nat) : State :=
  if s.mayRefresh x.1 then
    let s1 := if x.1 = 2 && !inLogRegion x.2 && s.mgt.norSpare != 0 then s.modMgt fun m => { m with
        norRemap := if m.norRemap.contains x.2 then m.norRemap else m.norRemap ++ [x.2], norSpare := m.norSpare - 1 } else s
    s1.log Src.mgt.code 0x7104 (bytesLE 1 x.1 ++ bytesLE 2 x.2)
  else s.log Src.mgt.code 0x7105 (bytesLE 1 x.1 ++ bytesLE 2 x.2)

/-- The refreshes of a bank that is idle run: an erase waits while any operation of the bank does (R399). -/
def State.refreshBank (s : State) (bank : Nat) : State :=
  if (s.norBank bank).isEmpty then
    let s1 := s.each (s.mgt.norRefresh.filter fun x => x.1 == bank) State.refreshOne
    s1.modMgt fun m => { m with norRefresh := m.norRefresh.filter fun x => x.1 != bank }
  else s

/-- A sector is scheduled for refresh. -/
def State.scheduleRefresh (s : State) (x : Nat × Nat) : State :=
  s.modMgt fun m => { m with norRefresh := if m.norRefresh.contains x then m.norRefresh else m.norRefresh ++ [x] }

/-- An entry of the log whose row holds an uncorrectable word (R407). -/
def markEntry (sector row : Nat) (t : List (List LogEnt)) : List (List LogEnt) :=
  t.modify sector fun es => es.modify row fun e => { e with bad := true }

/-- What follows from one find (R400): a schedule, log 0x7101 at most once per sector and hour, or what the consumer of an
uncorrectable word does (R407, R412, R418). -/
def State.norFound (s : State) : NorFind → State
  | .margin b n => s.scheduleRefresh (b.val, n.val)
  | .corrected b n =>
    (s.logRated (rateKey 0x7101 (b.val * 2048 + n.val)) (3600 * oneSec) Src.mgt.code 0x7101 (bytesLE 1 b.val ++ bytesLE 2 n.val)).scheduleRefresh (b.val, n.val)
  | .firmware b => s.modMgt fun m => { m with norBadBank := tset m.norBadBank b.val () }
  | .keySlot i => s.modMgt fun m => { m with keys := m.keys.modify i.val fun k => { k with bad := true } }
  | .logEntry n r => s.modLog fun l => { l with sectors := markEntry n.val r.val l.sectors }

/-- NOR_DAILY_SCAN (R400): each find has its effect, and the sectors scheduled are refreshed as their banks allow. -/
def execNorDailyScan (finds : List NorFind) (s : State) : Host.Outcome State Fault Refusal :=
  .next (if !s.mgt.running then s else (s.each finds State.norFound).each (List.range 3) State.refreshBank)

/-! The end of an operation (R400). -/

/-- A bank is idle: the erase of the log's next sector starts, else the scheduled refreshes run. -/
def State.norIdle (s : State) (bank : Nat) : State :=
  if bank = 2 && s.mgt.log.eraseDue && (s.norBank 2).isEmpty then
    (s.modLog fun l => { l with eraseDue := false }).setNor 2 [{ erase := true }]
  else s.refreshBank bank

/-- A program has verified. -/
def State.norProgOk (s : State) (bank : Nat) : State :=
  if bank = 2 then (s.modLog fun l => { l with progOn := false }).logFreed else s.fwDone true

/-- A program has failed twice: log 0x7102, the row is abandoned, and a log entry waits for the next free row; a firmware commit fails. -/
def State.norProgFail (s : State) (bank row : Nat) : State :=
  if bank = 2 then
    let back := fun (l : LogSt) =>
      let e := l.newest.getLastD {}
      { l with progOn := false, queue := e :: l.queue, sectors := l.sectors.dropLast ++ [l.newest.dropLast ++ [{ code := 0 }]] }
    (s.modLog back).log Src.mgt.code 0x7102 (bytesLE 1 bank ++ bytesLE 2 row)
  else
    let c := s.fresh
    (c.2.log Src.mgt.code 0x7102 (bytesLE 1 bank ++ bytesLE 2 (Config.freeNat 98 [c.1] % 65536))).fwDone false

/-- An erase has verified. -/
def State.norEraseOk (s : State) (bank : Nat) : State :=
  if bank = 2 then s.modLog fun l => { l with erased := true }
  else (s.modMgt fun m => { m with norBadBank := tdel m.norBadBank bank }).setNor bank [{}]

/-- An erase has failed: log 0x7103, whose sector number is a free value (log entry 19); the log region loses the sector and erases the next one, with log 0x7106; a bank of
firmware leaves its slot unusable. -/
def State.norEraseFail (s : State) (bank : Nat) : State :=
  let c := s.fresh
  let s1 := c.2.log Src.mgt.code 0x7103 (bytesLE 1 bank ++ bytesLE 2 (Config.freeNat 97 [c.1] % 4096))
  if bank = 2 then
    let s2 := s1.modLog fun l => { l with good := l.good - 1, eraseDue := true }
    let s3 := s2.log Src.mgt.code 0x7106 (bytesLE 2 s2.mgt.log.good)
    s3.logTrim s3.mgt.log.sectors.length
  else (s1.modMgt fun m => { m with norBadBank := tset m.norBadBank bank () }).fwDone false

/-- NOR_OP_COMPLETE (R399, R400): the innermost operation of a bank ends with its verify. -/
def execNorOpComplete (bank : Fin 3) (ok : Bool) (s : State) : Host.Outcome State Fault Refusal :=
  .next (match s.norBank bank with
    | [] => s
    | op :: rest =>
      if !op.erase && !ok && !op.again then s.setNor bank ({ op with again := true } :: rest)
      else
        let s1 := s.setNor bank rest
        (if op.erase then (if ok then s1.norEraseOk bank else s1.norEraseFail bank)
          else if ok then s1.norProgOk bank else s1.norProgFail bank op.row).norIdle bank)

/-! The archive (R405). -/

/-- The sectors that `n` archived entries fill wholly, and what is left of `n`. -/
def wholeSectors : List (List LogEnt) → Nat → Nat × Nat
  | [], n => (0, n)
  | x :: xs, n =>
    let k := (x.filter LogEnt.real).length
    if n < k then (0, n) else (let r := wholeSectors xs (n - k); (r.1 + 1, r.2))

/-- The record of the archive index for a page (R405). -/
def archiveRecord (page : Nat) (es : List LogEnt) : List Byte :=
  let e := es.headD {}
  bytesLE 4 e.seq.toNat ++ bytesLE 2 page ++ bytesLE 2 1 ++ bytesLE 8 e.time.toNat

/-- LOG_ARCHIVE_PAGE (R405): at SL2 or above, 1,024 entries of full sectors that the archive does not hold yet fill its next
page, and then its index record; a write that fails leaves both. -/
def execLogArchivePage (ok : Bool) (s : State) : Host.Outcome State Fault Refusal :=
  .next (
    let l := s.mgt.log
    let full := (l.sectors.drop l.archived).filter fun x => decide (64 ≤ x.length)
    let es := (full.flatMap fun x => x.filter LogEnt.real).drop l.archPart
    if !ok || s.pwr.level < 2 || es.length < 1024 then s
    else
      let w := wholeSectors full (l.archPart + 1024)
      s.modLog fun l => { l with
        archived := l.archived + w.1, archPart := w.2, pageNext := (l.pageNext + 1) % 65536
        archIdx := tset l.archIdx l.pageNext (archiveRecord l.pageNext (es.take 1024))
        pages := (l.pages.filter fun p => p.1 != l.pageNext) ++ [(l.pageNext, es.take 1024)] })

end Sys2Proof.Machine
end

