-- ==== Sys2Proof/Machine/Matrix.lean ====
section
/-! DEFINITION. The matrix engine and compare-and-count (R161-R187): tiles (R214-R218), operand runs, passes, the
remainder set, the accumulator store. -/

namespace Sys2Proof.Machine

/-- A matrix descriptor in its fields (R172). -/
structure MxDesc where
  kind : Nat := 0
  wfmt : Nat := 0
  afmt : Nat := 0
  wRow : Nat := 0
  aRow : Nat := 0
  bRow : Nat := 0
  m : Nat := 1
  accRow : Nat := 0
  fresh : Bool := false
  pack : Bool := false
  groups : Nat := 0
  out : Bool := false
  ofmt : Nat := 0
  cvt : Nat := 0
  oRow : Nat := 0
  rsv : Nat := 0
  deriving DecidableEq, Repr

/-- The fields of the 128 bits (R172). -/
def mxDecode (w : Nat) : MxDesc :=
  { kind := fld w 0 4, wfmt := fld w 4 4, afmt := fld w 8 4, wRow := fld w 12 10, aRow := fld w 22 10, bRow := fld w 32 10,
    m := fld w 42 8 + 1, accRow := fld w 50 8, fresh := bitN w 58, pack := bitN w 59, groups := fld w 60 4,
    out := bitN w 64, ofmt := fld w 65 4, cvt := fld w 69 2, oRow := fld w 71 10, rsv := fld w 81 47 }

/-- Rows of a tile's code block (R217). -/
def codeRows (f : Nat) : Nat := if f = 7 ∨ f = 9 then 32 else if f = 10 then 128 else 64

/-- SSI formats carry shifts and outliers (R217). -/
def isSsi (f : Nat) : Bool := f == 8 || f == 9

/-- A tile's length for the checks: SSI at its largest (R217). -/
def tileRows (f : Nat) : Nat := if isSsi f then codeRows f + 6 else codeRows f

/-- Reduction depth of a weight format (R161). -/
def depthOf (f : Nat) : Nat := if fmtWide f then 128 else 256

/-- Bytes of an unpacked activation slot (R164). -/
def MxDesc.actSlot (d : MxDesc) : Nat := runBytes d.afmt (depthOf d.wfmt)

/-- Does the operation read run B (R166)? -/
def MxDesc.readsB (d : MxDesc) : Bool := d.pack && fld d.groups 2 2 != 0

/-- Rows of an activation run. -/
def MxDesc.actRows (d : MxDesc) : Nat := if d.pack then d.m else rowsOf (d.m * d.actSlot)

/-- Bytes of a result slot of a format (R164). -/
def slotBytes (f : Nat) : Nat := 128 * (fmtBits f / 8)

/-- Rows of the result run. -/
def MxDesc.outRows (d : MxDesc) : Nat := rowsOf (d.m * slotBytes d.ofmt)

/-- A field unused by the kind that is not 0 (R173). -/
def MxDesc.unusedSet (d : MxDesc) : Bool :=
  match d.kind with
  | 0 => !d.readsB && d.bRow != 0
  | 1 => d.wfmt != 0 || d.wRow != 0 || d.bRow != 0 || d.fresh || d.pack || d.out || d.ofmt != 0 || d.cvt != 0 || d.oRow != 0
  | 2 => d.wfmt != 0 || d.afmt != 0 || d.wRow != 0 || d.aRow != 0 || d.bRow != 0 || d.fresh || d.pack || d.out
  | _ => d.wfmt != 0 || d.afmt != 0 || d.wRow != 0 || d.aRow != 0 || d.bRow != 0 || d.fresh || d.pack || d.out ||
    d.ofmt != 0 || d.cvt != 0 || d.oRow != 0

/-- The checks of R174 that need only the descriptor. -/
def MxDesc.bad (d : MxDesc) : Bool :=
  decide (3 < d.kind) || d.rsv != 0 || d.unusedSet || decide (256 < d.accRow + d.m) || d.groups == 0 ||
    (match d.kind with
     | 0 =>
       !fmtWeight d.wfmt || !fmtMatrix d.afmt || !fmtDest d.ofmt || decide (2 ≤ d.cvt) ||
         decide (768 < d.wRow + tileRows d.wfmt) || decide (768 < d.aRow + d.actRows) ||
         (d.readsB && decide (768 < d.bRow + d.actRows)) ||
         (d.pack && (decide (256 < d.actSlot) || (d.readsB && d.aRow % 4 == d.bRow % 4))) ||
         (d.out && (decide (768 < d.oRow + d.outRows) || rowsMeet d.oRow d.outRows d.aRow d.actRows ||
           (d.readsB && rowsMeet d.oRow d.outRows d.bRow d.actRows) || rowsMeet d.oRow d.outRows d.wRow (tileRows d.wfmt)))
     | 1 => !fmtVector d.afmt || decide (768 < d.aRow + rowsOf ((d.m * 128 * fmtBits d.afmt + 7) / 8))
     | 2 => !fmtDest d.ofmt || decide (2 ≤ d.cvt) || decide (768 < d.oRow + d.outRows)
     | _ => false)

/-- The active logical columns (R165). -/
def MxDesc.columns (d : MxDesc) : List Nat := (bitsOf 4 d.groups).flatMap fun g => (List.range 32).map fun i => 32 * g + i

/-- The columns a tile marks as outliers, in rising order (R215, R216). -/
def outliers (f : Nat) (tile : List Byte) : List Nat :=
  if isSsi f then (List.range 128).filter fun c => bitN (leAt tile (512 * codeRows f + 8 * c) 1) 6 else []

/-- Weight (k, c) of a tile (R214-R218): an outlier column takes its FP16 outlier row, an SSI code its group's shift. -/
def tileWeight (f : Nat) (tile : List Byte) (outs : List Nat) (k c : Nat) : Num :=
  let cb := codeRows f
  match outs.findIdx? (· == c) with
  | some j => decodeNum fFp16 (leAt tile (512 * (cb + 2 + j) + 2 * k) 2)
  | none =>
    let i := 128 * k + c
    if isSsi f then
      let sh := sx 6 (leAt tile (512 * cb + 8 * c + k / 32) 1)
      let code := if f = 8 then sx 8 (leAt tile i 1) else sx 4 (runElem 7 tile i)
      match Num.ofInt code with
      | .fin s m _ => .fin s m sh
      | x => x
    else decodeNum f (runElem f tile i)

/-- The activation vector `i` that logical group `g` meets (R164, R166). -/
def CoreSt.actVec (k : CoreSt) (d : MxDesc) (g i : Nat) : List Byte :=
  if d.pack then
    k.spadBytes (((if g < 2 then d.aRow else d.bRow) + i) * 512 + (g % 2) * 256) 256
  else k.spadBytes (d.aRow * 512 + i * d.actSlot) d.actSlot

/-- The products of one entry (R161, R162). -/
def products (f : Nat) (tile : List Byte) (outs : List Nat) (af : Nat) (vec : List Byte) (c : Nat) : List Num :=
  (List.range (depthOf f)).map fun k => (mulNum (tileWeight f tile outs k c) (decodeNum af (runElem af vec k))).1

/-- New values of the entries of some columns in one pass (R148, R162), with INV; the pick of an inexact sum depends on
the descriptor, the width, the vector and the column (R151; log entry 9). -/
def CoreSt.passEntries (k : CoreSt) (desc : BitVec 128) (tile : List Byte) (cols : List Nat) : List (Nat × Nat × Nat × Bool) :=
  let d := mxDecode desc.toNat
  let outs := outliers d.wfmt tile
  (List.range d.m).flatMap fun i => cols.map fun c =>
    let start := if d.fresh then Num.zero else decodeAcc (k.accGet (d.accRow + i) c).toNat
    let r := accSum 2 [(desc.toNat : Int), (k.width : Int), (i : Int), (c : Int)] start
      (products d.wfmt tile outs d.afmt (k.actVec d (c / 32) i) c)
    (d.accRow + i, c, (encodeNum fAcc 1 r.1).1, r.2)

/-- Writes entries. -/
def CoreSt.putEntries (k : CoreSt) (es : List (Nat × Nat × Nat × Bool)) : CoreSt :=
  es.foldl (fun k e => k.accSet e.1 e.2.1 (BitVec.ofNat 48 e.2.2.1)) k

/-- INV over a set of entries. -/
def entryFlags (es : List (Nat × Nat × Nat × Bool)) : Nat := invIf (es.any fun e => e.2.2.2)

/-- One result slot (R164, R165): converted entries of the active groups, zeros in the other groups, and the flags. -/
def CoreSt.slotOf (k : CoreSt) (groups ofmt cvt row : Nat) : List Nat × Nat :=
  let r := (List.range 128).map fun c =>
    if bitN groups (c / 32) then encodeNum ofmt cvt (decodeAcc (k.accGet row c).toNat) else (0, 0)
  (r.map (·.1), (r.map (·.2)).foldl (· ||| ·) 0)

/-- Writes the sectors of a slot that hold bytes of an active group (R165). -/
def CoreSt.putSlot (k : CoreSt) (groups ofmt off : Nat) (bs : List Byte) : CoreSt :=
  let e := fmtBits ofmt / 8
  (List.range (bs.length / 64)).foldl (fun k j =>
    if (List.range 64).any fun b => bitN groups ((64 * j + b) / (32 * e)) then
      k.spadWrite (off + 64 * j) ((bs.drop (64 * j)).take 64)
    else k) k

/-- Writes the result slots of an operation and answers the flags of the conversions (R173). -/
def CoreSt.putResults (k : CoreSt) (d : MxDesc) : CoreSt × Nat :=
  (List.range d.m).foldl (fun (a : CoreSt × Nat) i =>
    let r := k.slotOf d.groups d.ofmt d.cvt (d.accRow + i)
    (a.1.putSlot d.groups d.ofmt (d.oRow * 512 + i * slotBytes d.ofmt) (runOf d.ofmt r.1), a.2 ||| r.2)) (k, 0)

/-- The places that an operation writes (R165, R179): its entries, and the sectors of its result slots. -/
def MxDesc.outs (d : MxDesc) : List RunAt :=
  ((List.range d.m).flatMap fun i => (bitsOf 4 d.groups).map fun g =>
    { acc := true, start := 128 * (d.accRow + i) + 32 * g, len := 32, bits := 48 : RunAt }) ++
    if d.out ∨ d.kind = 2 then [{ start := d.oRow * 512, len := d.m * slotBytes d.ofmt }] else []

/-- The tile's bytes that the engine reads (R218): code block, shift block, and the outlier rows it marks. -/
def CoreSt.tileBytes (k : CoreSt) (d : MxDesc) : List Byte :=
  k.spadBytes (d.wRow * 512) (tileRows d.wfmt * 512)

/-- The first bad sector of what an MMA reads of its tile. -/
def CoreSt.tileBad (k : CoreSt) (d : MxDesc) (outs : Nat) : Option Nat :=
  k.spadBad (d.wRow * 512) ((codeRows d.wfmt + if isSsi d.wfmt then 2 + outs else 0) * 512)

/-- The runs that hold the activation bytes of the active groups (R164, R166). -/
def MxDesc.actRuns (d : MxDesc) : List RunAt :=
  if d.pack then (List.range d.m).flatMap fun i => (bitsOf 4 d.groups).map fun g =>
    { start := ((if g < 2 then d.aRow else d.bRow) + i) * 512 + (g % 2) * 256, len := d.actSlot }
  else [{ start := d.aRow * 512, len := d.m * d.actSlot }]

/-- The first bad sector of the activation runs. A row is read whole (R181), and which of its sectors must be good is not said:
here those that hold bytes of a vector of an active group, in packed mode as otherwise (log entry 16). -/
def CoreSt.actBad (k : CoreSt) (d : MxDesc) : Option Nat := (k.runsBad d.actRuns).map (·.2)

/-- An aborted operation: what it names is undefined (R179). -/
def State.mxAbort (s : State) (c : Nat) (d : MxDesc) : State := s.scramble c true d.outs

/-- Logical columns of the remainder piece (R169): beyond the width, active, and no outlier column. -/
def restColumns (w : Nat) (d : MxDesc) (outs : List Nat) : List Nat :=
  d.columns.filter fun c => decide (w ≤ c) && !outs.contains c

/-- A physical group of the remainder pass: its activation source, and the columns it holds. -/
structure RmdGroup where
  src : List Nat
  used : Nat
  deriving DecidableEq, Repr

/-- The activation source of a logical group (R170): format, run start, vectors, half of the row. The bytes of a vector in the
run also depend on K_T of the weight class (R164), so that sources of different slot sizes are not the same activations; the
rule names four items only (log entry 16). -/
def MxDesc.source (d : MxDesc) (g : Nat) : List Nat :=
  if d.pack then [d.afmt, if g < 2 then d.aRow else d.bRow, d.m, 1 + g % 2, d.actSlot]
  else [d.afmt, d.aRow, d.m, 0, d.actSlot]

/-- Puts one part of a piece into the groups: side by side into a group of its source with room, or into empty groups. -/
def placePart (src : List Nat) (n : Nat) (alone : Bool) (gs : List RmdGroup) : Option (List RmdGroup) :=
  let fits := fun (g : RmdGroup) => !alone && g.used != 0 && g.src == src && decide (g.used + n ≤ 32)
  if gs.any fits then some (modFirst fits (fun g => { g with used := g.used + n }) gs)
  else
    let need := (n + 31) / 32
    if (gs.filter fun g => g.used == 0).length < need then none
    else some ((List.range need).foldl (fun gs i =>
      modFirst (fun g => g.used == 0) (fun _ => { src := src, used := min 32 (n - 32 * i) }) gs) gs)

/-- The parts of a piece by activation source. -/
def pieceParts (d : MxDesc) (cols : List Nat) : List (List Nat × Nat) :=
  if d.pack then ((List.range 4).map fun g => (d.source g, (cols.filter fun c => c / 32 == g).length)).filter fun p => p.2 != 0
  else if cols.isEmpty then [] else [(d.source 0, cols.length)]

/-- Puts a piece into the groups (R170). -/
def placePiece (d : MxDesc) (cols : List Nat) (gs : List RmdGroup) : Option (List RmdGroup) :=
  (pieceParts d cols).foldl (fun a p => a.bind (placePart p.1 p.2 (decide (32 < cols.length)))) (some gs)

/-- The groups of a remainder pass on a core of width `w`. -/
def emptyGroups (w : Nat) : List RmdGroup := List.replicate (w / 32) { src := [], used := 0 }

/-- The groups as the pieces of the set stand in them. -/
def CoreSt.rmdGroups (k : CoreSt) : List RmdGroup :=
  k.rmd.foldl (fun gs p =>
    let d := mxDecode p.q.desc.toNat
    (placePiece d (restColumns k.width d (outliers d.wfmt p.tile)) gs).getD gs) (emptyGroups k.width)

/-- May an MMA's piece join the remainder set (R170)? An MMA whose entries meet those of a piece waits, so that every
entry is updated in sequence (R176). -/
def CoreSt.canJoin (k : CoreSt) (e : QEntry) (tile : List Byte) : Bool :=
  let d := mxDecode e.desc.toNat
  let outs := outliers d.wfmt tile
  !k.rmdFirst && decide (k.rmd.length < 8) &&
    (k.rmd.all fun p =>
      let pd := mxDecode p.q.desc.toNat
      let pc := restColumns k.width pd (outliers pd.wfmt p.tile)
      p.q.thr == e.thr && !p.done &&
        !(rowsMeet d.accRow d.m pd.accRow pd.m && pc.any d.columns.contains)) &&
    (placePiece d (restColumns k.width d outs) k.rmdGroups).isSome

/-- A matrix operation that has run, with its flags. -/
def QEntry.ran (e : QEntry) (flags : Nat) (outs : List RunAt) : EngOp :=
  { q := e, done := true, flags := BitVec.ofNat 8 flags, outs := outs }

/-- MMA: its checks, its main pass, and its results, or its piece in the remainder set (R162-R176, R216). -/
def mmaRun (c : Nat) (e : QEntry) (s : State) : EngRes :=
  let d := mxDecode e.desc.toNat
  let k := s.core c
  let tile := k.tileBytes d
  let outs := outliers d.wfmt tile
  if d.bad then .reject
  else match k.tileBad d (min outs.length 4) with
    | some sec => .uncorrectable ((s.spadUe c sec).mxAbort c d)
    | none =>
      if 4 < outs.length then .reject
      else match k.actBad d with
        | some sec => .uncorrectable ((s.spadUe c sec).mxAbort c d)
        | none =>
          let rest := restColumns k.width d outs
          let main := d.columns.filter fun col => !rest.contains col
          match (if d.fresh then none else k.accBadIn d.accRow d.m main) with
          | some (row, col) => .uncorrectable ((s.accUe c row (col / 32)).mxAbort c d)
          | none =>
            let es := k.passEntries e.desc tile main
            let k1 := k.putEntries es
            if rest.isEmpty && k.rmd.isEmpty then
              let r := if d.out then k1.putResults d else (k1, 0)
              .ok (s.modCore c fun _ => r.1) (e.ran (entryFlags es ||| r.2) d.outs)
            else
              .ok (s.modCore c fun _ => k1) { e.ran (entryFlags es) d.outs with extra := 1 }

/-- The remainder pass of one piece, and its result slots (R169, R170). -/
def CoreSt.restPass (k : CoreSt) (p : RmdPiece) : CoreSt × RmdPiece :=
  let d := mxDecode p.q.desc.toNat
  let es := k.passEntries p.q.desc p.tile (restColumns k.width d (outliers d.wfmt p.tile))
  let k1 := k.putEntries es
  let r := if d.out then k1.putResults d else (k1, 0)
  (r.1, { p with done := true, flags := p.flags ||| BitVec.ofNat 8 (entryFlags es ||| r.2) })

/-- Is the head of the matrix queue an MMA whose operation joins the remainder set, or starts one? -/
def CoreSt.mmaReady (k : CoreSt) (e : QEntry) : Bool :=
  let d := mxDecode e.desc.toNat
  k.rmd.isEmpty || (!d.bad && k.canJoin e (k.tileBytes d))

/-- HUB_LC_WORST keeps the largest doorbell-to-matrix time (R257). The model has no cycle times, so the time of a
latency-critical MMA is a free value, which may also be 0 (place 96, log entry 15). -/
def State.lcMeasure (s : State) (lc : Bool) : State :=
  if lc then
    let c := s.fresh
    let t := BitVec.ofNat 32 (Config.freeNat 96 [c.1])
    c.2.modSh fun h => { h with lcWorst := if h.lcWorst < t then t else h.lcWorst }
  else s

/-- MMA: the engine takes an MMA, unless the remainder set must be computed first (R170). A main pass that leaves a
piece, or that follows pieces of its thread, puts its operation into the set. -/
def execMma (c : Fin 64) (hits : List CoreHit) (s0 : State) : Host.Outcome State Fault Refusal :=
  let s := s0.coreHits c hits
  let k := s.core c
  match k.engHead 0 with
  | none => .next s
  | some e =>
    let d := mxDecode e.desc.toNat
    if !k.mmaReady e then .next s
    else
      let s1 := s.engineRun c 0 (fun e => (mxDecode e.desc.toNat).kind == 0) (mmaRun c)
      match tfind k.running 0, tfind (s1.core c).running 0 with
      | none, some o =>
        if o.extra = 1 then
          let tile := k.tileBytes d
          let p : RmdPiece :=
            { q := o.q, cols := (restColumns k.width d (outliers d.wfmt tile)).length, tile := tile, flags := o.flags, outs := o.outs }
          .next ((s1.lcMeasure e.lc).modCore c fun k => { k with running := tdel k.running 0, rmd := k.rmd ++ [p] })
        else .next (s1.lcMeasure e.lc)
      | _, _ => .next s1

/-- ACC_LOAD, ACC_STORE, ACC_CLEAR or a KIND without a meaning, which the engine rejects (R173, R174). -/
def accRun (c : Nat) (e : QEntry) (s : State) : EngRes :=
  let d := mxDecode e.desc.toNat
  let k := s.core c
  if d.bad then .reject
  else match d.kind with
    | 1 =>
      let slot := runBytes d.afmt 128
      (match k.spadBad (d.aRow * 512) (d.m * slot) with
       | some sec => .uncorrectable ((s.spadUe c sec).mxAbort c d)
       | none =>
         let es := (List.range d.m).flatMap fun i =>
           let bs := k.spadBytes (d.aRow * 512 + i * slot) slot
           d.columns.map fun col =>
             let r := encodeNum fAcc 1 (decodeNum d.afmt (runElem d.afmt bs col))
             (d.accRow + i, col, r.1, bitN r.2 0)
         .ok (s.modCore c fun k => k.putEntries es) (e.ran (entryFlags es) d.outs))
    | 2 =>
      (match k.accBadIn d.accRow d.m d.columns with
       | some (row, col) => .uncorrectable ((s.accUe c row (col / 32)).mxAbort c d)
       | none => let r := k.putResults d; .ok (s.modCore c fun _ => r.1) (e.ran r.2 d.outs))
    | _ =>
      .ok (s.modCore c fun k => (List.range d.m).foldl (fun k i => d.columns.foldl (fun k col =>
        k.accSet (d.accRow + i) col 0) k) k) (e.ran 0 d.outs)

/-- An ACC operation waits until the remainder set has been computed (R170). An entry whose KIND is 4-15 belongs to no
row: whichever ACC command comes, the engine takes it and rejects it (R174). -/
def State.accOp (s : State) (c kind : Nat) : State :=
  if (s.core c).rmd.isEmpty then s.engineRun c 0 (fun e => (mxDecode e.desc.toNat).kind == kind || decide (3 < (mxDecode e.desc.toNat).kind)) (accRun c) else s

/-- ACC_LOAD (R173). -/
def execAccLoad (c : Fin 64) (s : State) : Host.Outcome State Fault Refusal := .next (s.accOp c 1)

/-- ACC_STORE (R173). -/
def execAccStore (c : Fin 64) (hits : List CoreHit) (s : State) : Host.Outcome State Fault Refusal :=
  .next ((s.coreHits c hits).accOp c 2)

/-- ACC_CLEAR (R173). -/
def execAccClear (c : Fin 64) (s : State) : Host.Outcome State Fault Refusal := .next (s.accOp c 3)

/-- A moment of R170: the set must be computed now; so must a set that a resumed context brings (R171). -/
def CoreSt.rmdDue (k : CoreSt) : Bool :=
  !k.rmd.isEmpty && !thas k.running 0 &&
    (k.rmdFirst || k.rmd.length == 8 ||
      (match k.engHead 0 with
       | none => true
       | some e => (mxDecode e.desc.toNat).kind != 0 || !k.mmaReady e))

/-- REMAINDER_PASS: the pieces of the set are computed and their result slots written (R169, R170). An uncorrectable
operand aborts the task and discards its pieces (R179, R184). -/
def execRemainderPass (c : Fin 64) (s : State) : Host.Outcome State Fault Refusal :=
  let k := s.core c
  if !k.rmdDue || k.rmd.any (·.done) then .next s
  else
    let bad := k.rmd.findSome? fun p => ((k.actBad (mxDecode p.q.desc.toNat)).map fun sec => (p, sec))
    let accBad := k.rmd.findSome? fun p =>
      let d := mxDecode p.q.desc.toNat
      if d.fresh then none else (k.accBadIn d.accRow d.m d.columns).map fun rc => (p, rc)
    match bad, accBad with
    | some (p, sec), _ =>
      let s1 := k.rmd.foldl (fun (s : State) q => s.mxAbort c (mxDecode q.q.desc.toNat)) (s.spadUe c sec)
      .next ((s1.ueEvent c).threadUncorrectable c p.q.thr)
    | none, some (p, rc) =>
      let s1 := k.rmd.foldl (fun (s : State) q => s.mxAbort c (mxDecode q.q.desc.toNat)) (s.accUe c rc.1 (rc.2 / 32))
      .next ((s1.ueEvent c).threadUncorrectable c p.q.thr)
    | none, none =>
      let r := k.rmd.foldl (fun (a : CoreSt × List RmdPiece) p => let x := a.1.restPass p; (x.1, a.2 ++ [x.2])) (k, [])
      .next (s.modCore c fun _ => { r.1 with rmd := r.2 })

/-- MATRIX_COMPLETE: the completion of the operation that has run, or, after a remainder pass, of every operation of the
set in issue order (R82, R158, R170). -/
def execMatrixComplete (c : Fin 64) (s : State) : Host.Outcome State Fault Refusal :=
  let k := s.core c
  if thas k.running 0 then .next (s.engineDone c 0 fun _ k => { k with mxOps := (k.mxOps + 1) % 2 ^ 32 })
  else if !k.rmd.isEmpty && k.rmd.all (·.done) then
    let s1 := s.modCore c fun k => { k with rmd := [], rmdFirst := false }
    .next (k.rmd.foldl (fun (s : State) p =>
      (s.modCore c fun k => { k with mxOps := (k.mxOps + 1) % 2 ^ 32 }).completeOp c p.q p.flags 0) s1)
  else .next s

/-- Compare-and-count (R185-R187). -/
def ccRun (c : Nat) (e : QEntry) (s : State) : EngRes :=
  let d := ccDecode e.desc.toNat
  if d.bad e.add then .reject else s.laneStart c 5 { q := e, outs := if d.mask then [d.maskRun] else [] }

/-- COMPARE_AND_COUNT: a free engine takes an operation and runs it; when it has begun, the command runs what is left of it and
completes it (R187). The table has no row of its own for that completion. -/
def execCompareAndCount (c : Fin 64) (hits : List CoreHit) (s0 : State) : Host.Outcome State Fault Refusal :=
  let s := s0.coreHits c hits
  if thas (s.core c).running 5 then .next (s.engineDone c 5 fun _ k => k)
  else .next (s.engineRun c 5 (fun _ => true) (ccRun c))

end Sys2Proof.Machine
end

