-- ==== Sys2Proof/Machine/Vector.lean ====
section
/-! DEFINITION. The vector engine (R188-R194, R203-R211). -/

namespace Sys2Proof.Machine

/-- A vector operation that the engine takes: its checks, and its elements up to the first pre-emption point (R191-R194,
R211, R213). -/
def vuRun (c : Nat) (e : QEntry) (s : State) : EngRes :=
  let d := vuDecode e.desc.toNat
  let k := s.core c
  let readsRec := d.usesRec && !(d.first && (d.op == 14 || d.op == 17))
  let abort := fun (b : Bool × Nat) => EngRes.uncorrectable ((s.runUe c b).scramble c false (k.vuBegin e).outs)
  if d.bad then .reject
  else match (if readsRec then k.runsBad [d.recRun] else none) with
    | some b => abort b
    | none =>
      if readsRec && (d.op == 14 || d.op == 17) && decide (2 ^ 24 < leAt (k.spadBytes d.recOff 32) 0 4 + d.len) then .reject
      else match k.runsBad (d.inputs ++ if d.op = 3 ∧ d.oAcc then [d.outRun] else []) with
        | some b => abort b
        | none => s.laneStart c 1 (k.vuBegin e)

/-- A free vector engine takes an operation of one OP; an OP without a meaning is taken, and rejected, by whichever vector
command comes (R193). -/
def State.vuOp (s : State) (c op : Nat) : State :=
  s.engineRun c 1 (fun e => let o := (vuDecode e.desc.toNat).op; o == op || decide (18 < o)) (vuRun c)

/-- ADD (R191). -/
def execVAdd (c : Fin 64) (s : State) : Host.Outcome State Fault Refusal := .next (s.vuOp c 0)
/-- SUB (R191). -/
def execVSub (c : Fin 64) (s : State) : Host.Outcome State Fault Refusal := .next (s.vuOp c 1)
/-- MUL (R191). -/
def execVMul (c : Fin 64) (s : State) : Host.Outcome State Fault Refusal := .next (s.vuOp c 2)
/-- FMA (R191). -/
def execVFma (c : Fin 64) (s : State) : Host.Outcome State Fault Refusal := .next (s.vuOp c 3)
/-- MIN (R191, R192). -/
def execVMin (c : Fin 64) (s : State) : Host.Outcome State Fault Refusal := .next (s.vuOp c 4)
/-- MAX (R191, R192). -/
def execVMax (c : Fin 64) (s : State) : Host.Outcome State Fault Refusal := .next (s.vuOp c 5)
/-- ABS (R191, R192). -/
def execVAbs (c : Fin 64) (s : State) : Host.Outcome State Fault Refusal := .next (s.vuOp c 6)
/-- NEG (R191, R192). -/
def execVNeg (c : Fin 64) (s : State) : Host.Outcome State Fault Refusal := .next (s.vuOp c 7)
/-- CLT (R191, R192). -/
def execVClt (c : Fin 64) (s : State) : Host.Outcome State Fault Refusal := .next (s.vuOp c 8)
/-- CEQ (R191, R192). -/
def execVCeq (c : Fin 64) (s : State) : Host.Outcome State Fault Refusal := .next (s.vuOp c 9)
/-- COPY (R191). -/
def execVCopy (c : Fin 64) (s : State) : Host.Outcome State Fault Refusal := .next (s.vuOp c 10)
/-- FILL (R191). -/
def execVFill (c : Fin 64) (s : State) : Host.Outcome State Fault Refusal := .next (s.vuOp c 11)
/-- RSUM (R191). -/
def execRsum (c : Fin 64) (s : State) : Host.Outcome State Fault Refusal := .next (s.vuOp c 12)
/-- RMAX (R191, R192). -/
def execRmax (c : Fin 64) (s : State) : Host.Outcome State Fault Refusal := .next (s.vuOp c 13)
/-- STATS (R203). -/
def execStats (c : Fin 64) (s : State) : Host.Outcome State Fault Refusal := .next (s.vuOp c 14)
/-- LNORM (R204). -/
def execLnorm (c : Fin 64) (s : State) : Host.Outcome State Fault Refusal := .next (s.vuOp c 15)
/-- RNORM (R204). -/
def execRnorm (c : Fin 64) (s : State) : Host.Outcome State Fault Refusal := .next (s.vuOp c 16)
/-- SMAX_SUM (R208). -/
def execSmaxSum (c : Fin 64) (s : State) : Host.Outcome State Fault Refusal := .next (s.vuOp c 17)
/-- SMAX_NORM (R209). -/
def execSmaxNorm (c : Fin 64) (s : State) : Host.Outcome State Fault Refusal := .next (s.vuOp c 18)

/-- VECTOR_COMPLETE: what is left of the operation runs; its record is written as one row write, with the exact sums that go with
it, the flags merge, and the signal goes out (R211-R213). -/
def execVectorComplete (c : Fin 64) (hits : List CoreHit) (s : State) : Host.Outcome State Fault Refusal :=
  .next ((s.coreHits c hits).engineDone c 1 fun o k =>
    let k1 := { k with vuOps := (k.vuOps + 1) % 2 ^ 32 }
    let d := vuDecode o.q.desc.toNat
    if o.record.isEmpty then k1
    else
      let k2 := (k1.spadPatch d.recOff o.record).claim o.q.lc d.recRun
      { k2 with books := tset k2.books (d.recOff / 32) o.book })

end Sys2Proof.Machine
end

