-- ==== Sys2Proof/Machine/Sfu.lean ====
section
/-! DEFINITION. The SFU engine and its table slots (R195, R202). -/

namespace Sys2Proof.Machine

/-- An uncorrectable word of a slot's memory (R202): counted, logged, and the slot reloads; the second within 1 s retires
the core (R475). -/
def State.slotUe (s : State) (c slot : Nat) : State :=
  let seg := tget (s.core c).sfuBad slot 0
  let last := tfind (s.core c).sfuUeTime slot
  let hit := fun (k : CoreSt) =>
    { k with sfuUe := satAdd 8 k.sfuUe 1, sfuLastSlot := slot, sfuLastSeg := seg,
             sfuReloading := k.sfuReloading ++ [slot], sfuUeTime := tset k.sfuUeTime slot s.now }
  let s1 := (s.modCore c hit).log (ctSource c) 0x4302 (bytesLE 2 c ++ [BitVec.ofNat 8 slot])
  match last with
  | some t => if s.now < t + oneSec ∧ !(s.core c).retired then s1.retireCore c else s1
  | none => s1

/-- An SFU operation. -/
def sfuRun (c : Nat) (e : QEntry) (s : State) : EngRes :=
  let d := sfuDecode e.desc.toNat
  let k := s.core c
  match s.slotTable d.slot with
  | none => .reject
  | some tb =>
    if d.bad (some tb) then .reject
    else match k.runsBad [d.inRun] with
      | some b => .uncorrectable ((s.runUe c b).scramble c false [d.outRun])
      | none => s.laneStart c 2 { q := e, outs := [d.outRun] }

/-- SFU_OP: a free SFU engine takes an operation (R196). A descriptor that names a slot being reloaded waits; a slot whose
memory holds an uncorrectable word aborts the operation and starts the reload (R202). -/
def execSfuOp (c : Fin 64) (hits : List CoreHit) (s0 : State) : Host.Outcome State Fault Refusal :=
  let s := s0.coreHits c hits
  let k := s.core c
  match k.engHead 2 with
  | none => .next s
  | some e =>
    let d := sfuDecode e.desc.toNat
    if thas k.running 2 || k.sfuReloading.contains d.slot then .next s
    else if thas k.sfuBad d.slot && !d.bad (s.slotTable d.slot) then
      let s1 := (s.takeEntry c 2 e).scramble c false [d.outRun]
      .next ((s1.slotUe c d.slot).threadUncorrectable c e.thr)
    else .next (s.engineRun c 2 (fun _ => true) (sfuRun c))

/-- SFU_COMPLETE (R212). -/
def execSfuComplete (c : Fin 64) (s : State) : Host.Outcome State Fault Refusal :=
  .next (s.engineDone c 2 fun _ k => { k with sfuOps := (k.sfuOps + 1) % 2 ^ 32 })

/-- SFU_SLOT_RELOAD: the slot holds HUB's copy again, and descriptors that wait for it proceed (R202). -/
def execSfuSlotReload (c : Fin 64) (s : State) : Host.Outcome State Fault Refusal :=
  .next (match (s.core c).sfuReloading with
    | slot :: rest => s.modCore c fun k => { k with sfuReloading := rest, sfuBad := tdel k.sfuBad slot }
    | [] => s)

end Sys2Proof.Machine
end

