-- ==== Sys2Proof/Machine/Model.lean ====
section
/-! DEFINITION. Model images (R220-R226, R366, R477): the checks of a model image, the layout of the model region, and
LOAD_IMAGE in its steps. -/

namespace Sys2Proof.Machine

/-- A directory entry of a model image (R220). -/
structure MSect where
  type : Nat := 0
  flags : Nat := 0
  inst : Nat := 0
  rsv : Nat := 0
  off : Nat := 0
  len : Nat := 0
  rsv2 : Nat := 0
  digest : List Byte := []
  deriving DecidableEq, Repr

/-- Entry `i` of the directory. -/
def msectAt (b : List Byte) (i : Nat) : MSect :=
  let o := 64 + 64 * i
  { type := leAt b o 2, flags := leAt b (o + 2) 2, inst := leAt b (o + 4) 2, rsv := leAt b (o + 6) 2, off := leAt b (o + 8) 8,
    len := leAt b (o + 16) 8, rsv2 := leAt b (o + 24) 8, digest := (b.drop (o + 32)).take 32 }

/-- The directory (R220). -/
def msects (b : List Byte) : List MSect := (List.range (leAt b 0x18 2)).map (msectAt b)

/-- The body of a section. -/
def MSect.body (m : MSect) (b : List Byte) : List Byte := (b.drop m.off).take m.len

/-- A known section (R221). -/
def MSect.known (m : MSect) : Bool := decide (1 ≤ m.type) && decide (m.type ≤ 5)

/-- Sections of a type. -/
def ofType (t : Nat) (ms : List MSect) : List MSect := ms.filter fun m => m.type == t

/-- Do two ranges of bytes overlap? -/
def rangesMeet (a n b m : Nat) : Bool := decide (a < b + m) && decide (b < a + n)

/-- Bodies and the header with its directory do not overlap (R221). -/
def overlapBad (head : Nat) : List (Nat × Nat) → Bool
  | [] => false
  | (o, n) :: rs => (n != 0 && decide (o < head)) || rs.any (fun r => rangesMeet o n r.1 r.2) || overlapBad head rs

/-- The header, the directory and the placing of the bodies (R220, R221). -/
def msectsBad (b : List Byte) : Bool :=
  let n := leAt b 0x18 2
  let ms := msects b
  let len := leAt b 8 8
  leAt b 0 4 != 0x444D584C || len != b.length || len % 512 != 0 || decide (2 ^ 41 < len) || leAt b 0x10 8 == 0 ||
    decide (n < 3) || decide (64 < n) || rsvBad b 0x1A 6 || decide (len < 64 + 64 * n) || decide (leAt b 6 2 < leAt b 4 2) ||
    (b.drop 0x20).take 32 != sha256 (b.take 0x20 ++ zeros 32 ++ (b.drop 64).take (64 * n)) ||
    ms.any (fun m => decide (1 < m.flags) || m.rsv != 0 || m.rsv2 != 0 || m.off % 512 != 0 || decide (len < m.off + m.len) ||
      (!m.known && m.flags != 1) || (m.type == 3 && m.off % 65536 != 0) || (m.type == 1 && decide (7 < m.inst)) ||
      (m.type != 1 && m.inst != 0)) ||
    overlapBad (64 + 64 * n) (ms.map fun m => (m.off, m.len)) ||
    (ofType 1 ms).isEmpty || decide (8 < (ofType 1 ms).length) || (ofType 2 ms).length != 1 || (ofType 3 ms).length != 1 ||
    decide (1 < (ofType 4 ms).length) || decide (1 < (ofType 5 ms).length) ||
    !((List.range 8).all fun i => decide (((ofType 1 ms).filter fun m => m.inst == i).length ≤ 1))

/-- TILE_ROWS that a weight format allows (R217). -/
def tileRowsOk (f rows : Nat) : Bool :=
  if isSsi f then decide (codeRows f + 2 ≤ rows) && decide (rows ≤ tileRows f) else rows == codeRows f

/-- MAIN_LEN of an image (R224). -/
def mainLen (b : List Byte) (ms : List MSect) : Nat :=
  match ofType 5 ms with
  | m :: _ => leAt (m.body b) 0 8
  | [] => ((ofType 3 ms).head?.map (·.len)).getD 0

/-- An entry point out of its rules (R222). -/
def entryBad (progLen : Nat) (e : List Byte) : Bool :=
  leAt e 0 8 % 8 != 0 || decide (progLen ≤ leAt e 0 8) || decide (2 < leAt e 8 1) || rsvBad e 9 7

/-- A tensor out of its rules (R219, R222): its tiles lie inside WEIGHTS, on one side of MAIN_LEN. -/
def tensorBad (wLen main : Nat) (e : List Byte) : Bool :=
  let off := leAt e 8 8
  let k := leAt e 0x10 4
  let n := leAt e 0x14 4
  let f := leAt e 0x18 1
  let rows := leAt e 0x19 1
  let size := (k + depthOf f - 1) / depthOf f * ((n + 127) / 128) * rows * 512
  off % 512 != 0 || k == 0 || n == 0 || !(fmtWeight f && f != 10) || !tileRowsOk f rows || rsvBad e 0x1A 6 ||
    decide (wLen < off + size) || (decide (off < main) && decide (main < off + size))

/-- A NETWORK body out of its rules (R222). -/
def networkBad (progLen wLen main : Nat) (b : List Byte) : Bool :=
  let ec := leAt b 8 2
  let tc := leAt b 0xA 2
  ec == 0 || decide (64 < ec) || rsvBad b 0xC 4 || b.length != 16 + 16 * ec + 32 * tc ||
    (List.range ec).any (fun i => entryBad progLen (b.drop (16 + 16 * i))) ||
    (List.range tc).any (fun i => tensorBad wLen main (b.drop (16 + 16 * ec + 32 * i)))

/-- Entries of a TABLES body: slot and TDIGEST (R223). -/
def tablesOf (b : List Byte) : List (Nat × BitVec 64) :=
  (List.range (leAt b 0 2)).map fun i => (leAt b (8 + 16 * i) 1, BitVec.ofNat 64 (leAt b (16 + 16 * i) 8))

/-- A TABLES body out of its form (R223). -/
def tablesBad (b : List Byte) : Bool :=
  let n := leAt b 0 2
  decide (16 < n) || rsvBad b 2 6 || b.length != 8 + 16 * n ||
    (List.range n).any fun i => decide (15 < leAt b (8 + 16 * i) 1) || rsvBad b (9 + 16 * i) 7

/-- A PLACEMENT body out of its rules (R224). -/
def placementBad (wLen : Nat) (nets : List Nat) (b : List Byte) : Bool :=
  let n := leAt b 8 4
  leAt b 0 8 % 65536 != 0 || decide (wLen < leAt b 0 8) || rsvBad b 0xC 4 || b.length != 16 + 24 * n ||
    (List.range n).any fun i =>
      let h := b.drop (16 + 24 * i)
      !nets.contains (leAt h 0 1) || decide (1 < leAt h 1 1) || rsvBad h 2 6

/-- The bodies' own rules (R222-R224). -/
def bodiesBad (b : List Byte) : Bool :=
  let ms := msects b
  let wLen := ((ofType 3 ms).head?.map (·.len)).getD 0
  let pLen := ((ofType 2 ms).head?.map (·.len)).getD 0
  (ofType 5 ms).any (fun m => placementBad wLen ((ofType 1 ms).map (·.inst)) (m.body b)) ||
    (ofType 1 ms).any (fun m => networkBad pLen wLen (mainLen b ms) (m.body b)) || (ofType 4 ms).any (fun m => tablesBad (m.body b))

/-- The value HUB holds for a slot (R223): its table's digest, the built-in marker, or 0. -/
def State.slotDigest (s : State) (slot : Nat) : BitVec 64 :=
  match tfind s.warp.tables slot with
  | some t => t.digest
  | none => if slot ≤ 10 then BitVec.ofNat 64 (0xFFFFFFFFFFFFFF00 + slot) else 0

/-- A TDIGEST that does not stand in its slot (R223, R226). -/
def State.tablesDiffer (s : State) (ts : List (Nat × BitVec 64)) : Bool := ts.any fun t => t.2 == 0 || s.slotDigest t.1 != t.2

/-- The layout of the model region (R225): each copied section with its aperture offset, and the bytes of it copied. -/
def modelLayout (b : List Byte) : List (MSect × Nat × Nat) :=
  let ms := msects b
  let main := mainLen b ms
  let rest := ((List.range 8).flatMap fun i => (ofType 1 ms).filter fun m => m.inst == i) ++ ofType 2 ms ++ ofType 4 ms ++ ofType 5 ms
  let r := rest.foldl (fun acc m => (acc.1 ++ [(m, acc.2, m.len)], roundUp (acc.2 + m.len) 65536)) (([] : List (MSect × Nat × Nat)), roundUp (0x10000 + main) 65536)
  ((ofType 3 ms).map fun m => (m, 0x10000, main)) ++ r.1

/-- Length of the weight region: to the first 64 KiB boundary at or after the last byte copied (R225). -/
def regionLen (b : List Byte) : Nat := (modelLayout b).foldl (fun a x => max a (roundUp (x.2.1 + x.2.2) 65536)) 0x10000

/-- MODEL_BASE and MODEL_LEN of the committed image (R53). -/
def State.modelRegion (s : State) : Nat × Nat :=
  match s.warp.activeImg with
  | some img => (img.modelBase, img.modelLen)
  | none => (0, 0)

/-- The checks of step 2 (R226), in the order of its table. -/
def State.modelCheck (s : State) (b : List Byte) : Option Nat :=
  if leAt b 0 4 ≠ 0x444D584C ∨ b.length < 64 then some stInvalidField
  else match commonVersion (leAt b 4 2) (leAt b 6 2) 0x0100 0x0101 with
    | none => some stVersion
    | some _ =>
      if msectsBad b || bodiesBad b then some stInvalidField
      else
        let rg := s.modelRegion
        if rg.2 = 0 ∨ rg.2 < regionLen b ∨ !s.paUsable rg.1 (regionLen b) then some stNoResource
        else if (ofType 4 (msects b)).any fun m => s.tablesDiffer (tablesOf (m.body b)) then some stInvalidField
        else none

/-- What a model image's source holds: its bytes, and the ranges that cannot be read. -/
abbrev Source := List Byte × List (Nat × Nat)

/-- The pieces of a mapped buffer as a source. -/
def State.pieceSource (s : State) (ps : List (Nat × Nat)) : Source :=
  ps.foldl (fun acc p =>
    let o := acc.1.length
    match s.paRead p.1 p.2 with
    | .ok bs _ => (acc.1 ++ bs, acc.2 ++ ((linesOf p.1 p.2).filter s.lineBad).map fun l =>
        (o + (max (l * 64) p.1 - p.1), min 64 p.2))
    | .bad => (acc.1 ++ zeros p.2, acc.2 ++ [(o, p.2)])) ([], [])

/-- Logical blocks of the model image store as a source (R310, R366). -/
def State.storeSource (s : State) (nsid lba len : Nat) : Source × State :=
  let r := s.nsRead nsid lba ((len + 4095) / 4096)
  ((((r.1.flatMap fun x => match x with
      | .data d => bytesLE 4096 d.toNat
      | .lost => zeros 4096).take len),
    (((List.range r.1.length).zip r.1).filter fun e => e.2 == .lost).map fun e => (4096 * e.1, 4096)), r.2)

/-- The namespace of PURPOSE 5, if the module holds one (R56, R366). -/
def State.modelStore (s : State) : Option NsSt := s.flash.nss.find? fun n => n.purpose == 5 && n.attached

/-- A source with a byte that the host's answer brought with an error, in its place among the unreadable ones (R226). -/
def withHostErr (src : Source) (ps : List (Nat × Nat)) (h : Option HostErr) : Source :=
  match hostBad ps h with
  | some (o, _) => (src.1, (src.2.filter fun x => decide (x.1 < o)) ++ (o, 1) :: src.2.filter fun x => decide (o ≤ x.1))
  | none => src

/-- Reads the source of a load: none while the loader's agent waits, or once the job has ended (R369). `h`: a byte that comes
from the host with an error. -/
def State.loadSource (s : State) (j : Job) (h : Option HostErr) : Option Source × State :=
  let src := leAt j.entry 8 8
  let len := leAt j.entry 0x10 8
  if leAt j.entry 4 1 = 1 then
    match s.modelStore with
    | some n => let r := s.storeSource n.nsid src len; (some r.1, r.2)
    | none => (some (zeros len, [(0, len)]), s)
  else match s.bufMap j 2 src len false with
    | (none, s1) => (none, s1)
    | (some ps, s1) => (some (withHostErr (s1.pieceSource ps) ps h), s1.piecesFx j.ptn ps)

/-- The first unreadable byte in the ranges named. -/
def badIn (bads rs : List (Nat × Nat)) : Option Nat :=
  (bads.find? fun b => rs.any fun r => rangesMeet b.1 b.2 r.1 r.2).map (·.1)

/-- Ranges that step 2 reads: the header, the directory, and the bodies of NETWORK, TABLES and PLACEMENT. -/
def step2Ranges (b : List Byte) : List (Nat × Nat) :=
  (0, 64 + 64 * leAt b 0x18 2) :: (((msects b).filter fun m => m.type == 1 || m.type == 4 || m.type == 5).map fun m => (m.off, m.len))

/-- LOAD_IMAGE and its unload begin (R226 step 1, R366): inference drains. -/
def State.loadStart (s : State) (j : Job) (unload : Bool) : State :=
  (s.modModel fun m => { m with st := 2, loadJob := j.id, loadUnload := unload }).modJob j.id fun j => { j with stage := .running }

/-- LOAD_IMAGE of a partition VA or of the model image store (R226, R366). -/
def execLoadImage (job : BitVec 32) (s : State) : Host.Outcome State Fault Refusal :=
  .next (match s.admitted job.toNat 0x0B with
    | none => s
    | some j =>
      if leAt j.entry 4 1 = 2 then s
      else if !(s.ptn j.ptn).modelUser then s.endJob j.id stInvalidField 0
      else if s.model.loadJob ≠ 0 then s.endJob j.id stNoResource 0
      else if leAt j.entry 4 1 = 1 then
        match s.modelStore with
        | none => s.endJob j.id stNoResource 0
        | some n =>
          if n.size < leAt j.entry 8 8 + (leAt j.entry 0x10 8 + 4095) / 4096 then s.endJob j.id stInvalidField 0
          else s.flashWork fun s => s.loadStart j false
      else s.loadStart j false)

/-- IMAGE_UNLOAD: LOAD_IMAGE of SRC_KIND 2 (R366). -/
def execImageUnload (job : BitVec 32) (s : State) : Host.Outcome State Fault Refusal :=
  .next (match s.admitted job.toNat 0x0B with
    | none => s
    | some j =>
      if leAt j.entry 4 1 ≠ 2 then s
      else if !(s.ptn j.ptn).modelUser then s.endJob j.id stInvalidField 0
      else if s.model.loadJob ≠ 0 then s.endJob j.id stNoResource 0
      else s.loadStart j true)

/-- A load fails: what stays resident is as the step says, and its job completes (R226). -/
def State.loadFails (s : State) (id status offset : Nat) : State := (s.loadFailed status offset).endJob id status 0

/-- LOAD_DRAIN_END (R226 steps 1 and 2): inference jobs still running are stopped; then the checks, or the unload. `h`: a byte of
the source that comes from the host with an error. -/
def execLoadDrainEnd (h : Option HostErr) (s : State) : Host.Outcome State Fault Refusal :=
  .next (
    if s.model.st ≠ 2 then s
    else match s.job s.model.loadJob with
      | none => s
      | some j =>
        let s1 := s.each (s.sh.jobs.filter fun k => k.op == 0x01 && k.stage == .running) fun s k => s.stopJob k.id stRestart
        if s.model.loadUnload then
          let s2 := (s1.unloadModel 0).modModel fun m => { m with st := 0, loadJob := 0, loadUnload := false }
          (s2.loadEnded stNoResource).endJob j.id stOk 0
        else match s1.loadSource j h with
          | (none, s2) => s2
          | (some (b, bads), s2) =>
            match badIn bads (step2Ranges b) with
            | some o => s2.loadFails j.id stRestart o
            | none => match s2.modelCheck b with
              | some st => s2.loadFails j.id st 0
              | none =>
                let v := (commonVersion (leAt b 4 2) (leAt b 6 2) 0x0100 0x0101).getD 0
                (s2.unloadModel 1).modModel fun m => { m with st := 3, loadImg := b.take (64 + 64 * leAt b 0x18 2), loadFmt := v })

/-- The resident map (R225): the header and the directory, each OFFSET replaced. -/
def residentMap (b : List Byte) : List Byte :=
  let lay := modelLayout b
  let n := leAt b 0x18 2
  (List.range n).foldl (fun acc i =>
    let m := msectAt b i
    let o := ((lay.find? fun x => x.1 == m).map fun x => x.2.1).getD 0
    patch acc (64 + 64 * i + 8) (bytesLE 8 o)) (b.take (64 + 64 * n))

/-- LOAD_COPY_DONE (R226 steps 3 and 4): the sections stand in the model region and the image is resident, or, when a byte
could not be read or a digest differs, none is. `h`: a byte of the source that comes from the host with an error. -/
def execLoadCopyDone (h : Option HostErr) (s : State) : Host.Outcome State Fault Refusal :=
  .next (
    if s.model.st ≠ 3 then s
    else match s.job s.model.loadJob with
      | none => s
      | some j => match s.loadSource j h with
        | (none, s1) => s1
        | (some (b0, bads), s1) =>
          let b := s.model.loadImg ++ b0.drop s.model.loadImg.length
          let copied := (msects b).filter (·.known)
          match badIn bads (copied.map fun m => (m.off, m.len)) with
          | some o => s1.loadFails j.id stRestart o
          | none =>
            match copied.find? fun m => sha256 (m.body b) != m.digest with
            | some m => s1.loadFails j.id stInvalidField m.off
            | none =>
              let base := s1.modelRegion.1
              let s2 := (s1.each (modelLayout b) fun s x => s.paWrite (base + x.2.1) ((b.drop x.1.off).take x.2.2)).paWrite base (residentMap b)
              let id := BitVec.ofNat 64 (leAt b 0x10 8)
              let ts := (ofType 4 (msects b)).flatMap fun m => tablesOf (m.body b)
              let s3 := s2.modModel fun m =>
                { m with st := 1, resident := true, mismatch := s2.tablesDiffer ts, fmt := s.model.loadFmt, id := id,
                         len := BitVec.ofNat 64 (regionLen b), base := base, tables := ts, loadJob := 0, loadImg := [], loadFmt := 0 }
              let nets := ((ofType 1 (msects b)).take 2).flatMap fun m => (m.body b).take 8
              let s4 := (s3.log (Src.code (.weft j.ptn)) 0x4401 (bytesLE 8 id.toNat ++ nets)).notifyModule 0x4401 0 id
              (s4.loadEnded stOk).endJob j.id stOk 0)

end Sys2Proof.Machine
end

