-- ==== Sys2Proof/Machine/WarpParse.lean ====
section
/-! DEFINITION. Validation of a warp image (R50-R64): the header, the sections in image order, the cross-references and the
totals, each failure with its status, section and byte offset; and the image as read. -/

namespace Sys2Proof.Machine

/-- A failed check: status, 1-based section (0 the header) and byte offset in the image (R63). -/
structure WErr where
  status : Nat
  sec : Nat
  off : Nat
  deriving DecidableEq, Repr

/-- A unit the image assigns or uses: where it says so, and the RETIRE kind and index. -/
structure WUse where
  sec : Nat
  off : Nat
  kind : Nat
  index : Nat
  deriving DecidableEq, Repr

/-- A cross-reference (R63): where, the partition named, and the members of a multicast group. -/
structure WRef where
  sec : Nat
  off : Nat
  who : Nat
  members : Option (BitVec 64)
  deriving DecidableEq, Repr

/-- What validation has gathered so far. -/
structure WScan where
  img : WarpImg := {}
  seen : List (Nat × Nat) := []
  uses : List WUse := []
  refs : List WRef := []
  model : Bool := false
  nsAt : Nat × Nat := (0, 0)
  ftlAt : Nat × Nat := (0, 0)
  retireAt : Nat × Nat := (0, 0)
  deriving DecidableEq, Repr

/-- What the checks know of the module: failed units by RETIRE kind and index, and the namespaces on the medium. -/
structure WCtx where
  lost : List (Nat × Nat) := []
  medium : List NsSt := []
  deriving DecidableEq, Repr

/-- The first failing check of a list: `true` marks a failure; offsets are of the image. -/
def firstBad (sec : Nat) : List (Bool × Nat) → Option WErr
  | [] => none
  | (bad, off) :: cs => if bad then some { status := stInvalidField, sec := sec, off := off } else firstBad sec cs

/-- A number lies outside a range. -/
def outside (x lo hi : Nat) : Bool := decide (x < lo) || decide (hi < x)

/-- Neither a partition number nor 0xFF. -/
def badOwner (x : Nat) : Bool := decide (31 < x) && x != 0xFF

/-- The version range of the loader (WARP_FMT). -/
def loaderMin : Nat := 0x0100
def loaderMax : Nat := 0x0102

/-- The header's checks (R50, R63, R64): those of INVALID_FIELD, then the version. -/
def headerErr (b : List Byte) (len : Nat) : Option WErr :=
  let n := leAt b 8 4
  match firstBad 0
    [(leAt b 0 4 != 0x5057584C, 0), (n != len || outside n 64 1048576 || n % 8 != 0 || decide (b.length < n), 8),
     ((b.drop 0x20).take 32 != sha256 (b.take 0x20 ++ zeros 32 ++ (b.take n).drop 0x40), 0x20),
     (decide (leAt b 6 2 < leAt b 4 2), 6), (outside (leAt b 0xC 2) 1 64, 0xC), (decide (1 < leAt b 0xE 2), 0xE),
     (leAt b 0x10 8 == 0, 0x10)] with
  | some e => some e
  | none => if (commonVersion (leAt b 4 2) (leAt b 6 2) loaderMin loaderMax).isNone then some { status := stVersion, sec := 0, off := 4 } else none

/-- Occurrences allowed and instances of a section type (R52). -/
def secOccurs (t : Nat) : Option (Nat × Nat) :=
  if t = 2 then some (32, 32) else if t = 5 then some (16, 16) else if 1 ≤ t ∧ t ≤ 9 then some (1, 1) else none

/-- Types that every image has (R52). -/
def secRequired : List Nat := [1, 3, 6, 7]

/-- A window lies wholly inside its tier's range (R55, R103). -/
def tierHolds (tier pa n : Nat) : Bool :=
  if tier = 0 then decide (pa + n ≤ 0x8000000000)
  else if tier = 1 then decide (0x10000000000 ≤ pa) && decide (pa + n ≤ 0x30000000000)
  else if tier = 2 then decide (0x1000000000000 ≤ pa) && decide (pa + n ≤ 0x2000000000000)
  else if tier = 3 then pa / 2 ^ 49 == 1 && decide (pa + n ≤ 2 ^ 50) && pa / 2 ^ 38 == (pa + n - 1) / 2 ^ 38
  else true

/-- Stacks that a range touches (R104). -/
def stacksOf (pa n : Nat) : List Nat :=
  if n = 0 then [] else (List.range 8).filter fun s => decide (pa / 2 ^ 36 ≤ s) && decide (s ≤ (pa + n - 1) / 2 ^ 36)

/-- Does a range of board-memory offsets touch a channel (R105)? -/
def touchesChannel (o n ch : Nat) : Bool :=
  let lo := max o (ch / 16 * 2 ^ 40)
  let hi := min (o + n) ((ch / 16 + 1) * 2 ^ 40)
  let first := lo / 65536
  decide (lo < hi) && decide (first + (ch % 16 + 16 - first % 16) % 16 ≤ (hi - 1) / 65536)

/-- Board-memory channels that a range touches. -/
def channelsOf (pa n : Nat) : List Nat := if n = 0 then [] else (List.range 32).filter (touchesChannel (pa - 0x10000000000) n)

/-- Two ranges meet. -/
def spansMeet (a n b m : Nat) : Bool := decide (a < b + m) && decide (b < a + n)

/-- A MODULE body (R53). -/
def readModule (sec b n : Nat) (d : List Byte) (w : WScan) : Except WErr WScan :=
  let base := leAt d (b + 8) 8
  let len := leAt d (b + 0x10) 8
  let wins := (w.img.parts.filter fun e => e.2.enable).flatMap fun e => e.2.windows
  match firstBad sec
    [(n != 24, b - 12), (outside (leAt d b 4) 10 100000, b), (outside (leAt d (b + 4) 2) 1 10000, b + 4), (leAt d (b + 6) 2 != 0, b + 6),
     (base % 2 ^ 29 != 0 || decide (0x8000000000 ≤ base), b + 8),
     (len % 2 ^ 29 != 0 || decide (0x8000000000 < base + len), b + 0x10),
     (len != 0 && wins.any (fun x => spansMeet x.pa x.len base len), b + 8)] with
  | some e => .error e
  | none => .ok { w with
      img := { w.img with resumeWindow := leAt d b 4, drainWindow := leAt d (b + 4) 2, modelBase := base, modelLen := len }
      model := true
      uses := w.uses ++ (stacksOf base len).map fun s => { sec := sec, off := b + 8, kind := 3, index := s } }

/-- A window of a PARTITION body (R54). -/
def readWindow (d : List Byte) (e : Nat) : Window :=
  { va := leAt d e 8, len := leAt d (e + 8) 8, pa := leAt d (e + 16) 8, tier := leAt d (e + 24) 8 % 16,
    r := bitN (leAt d (e + 24) 8) 4, w := bitN (leAt d (e + 24) 8) 5 }

/-- The field checks of a window (R54, R55). That a window whose VA_BASE + LENGTH passes 2^48, the end of the virtual
addresses, fails at its VA_BASE is the model's choice: R55 states no such bound (DESIGN CHOICE, log entry 37). -/
def windowChecks (d : List Byte) (e : Nat) : List (Bool × Nat) :=
  let x := readWindow d e
  [(x.va % 65536 != 0 || decide (2 ^ 48 < x.va + x.len), e), (x.len % 65536 != 0 || x.len == 0, e + 8),
   (x.pa % 65536 != 0 || !tierHolds x.tier x.pa x.len, e + 16), (leAt d (e + 24) 8 / 64 != 0 || decide (3 < x.tier), e + 24)]

/-- A PARTITION body as read (R54). -/
def readPartFields (d : List Byte) (b : Nat) : WPart :=
  let f := leAt d b 4
  { enable := bitN f 0, modelUser := bitN f 1, lcPermit := bitN f 2, bePermit := bitN f 3, beWeight := leAt d (b + 4) 2,
    lcLimit := leAt d (b + 6) 1, cores := BitVec.ofNat 64 (leAt d (b + 8) 8), syncBase := leAt d (b + 0x10) 2,
    syncCount := leAt d (b + 0x12) 2, ringCount := leAt d (b + 0x14) 1, depthLog2 := leAt d (b + 0x15) 1,
    msixBase := leAt d (b + 0x16) 1,
    regs := (List.range 6).map fun i => (leAt d (b + 0x18 + 8 * i) 4, leAt d (b + 0x1C + 8 * i) 4),
    windows := (List.range (leAt d (b + 7) 1)).map fun j => readWindow d (b + 0x48 + 32 * j) }

/-- The clash checks of an enabled partition against the sections before it (R63). -/
def partClashes (w : WScan) (q : WPart) (b : Nat) : List (Bool × Nat) :=
  let others := (w.img.parts.filter fun e => e.2.enable).map (·.2)
  [(others.any fun o => o.cores &&& q.cores != 0, b + 8),
   (q.syncCount != 0 && others.any (fun o => o.syncCount != 0 && spansMeet q.syncBase q.syncCount o.syncBase o.syncCount), b + 0x10),
   (others.any fun o => o.msixBase == q.msixBase, b + 0x16)] ++
  (List.range q.windows.length).flatMap fun j =>
    let x := q.windows.getD j {}
    let e := b + 0x48 + 32 * j
    [((q.windows.take j).any fun y => spansMeet x.va x.len y.va y.len, e),
     (x.tier != 3 && others.any (fun o => o.windows.any fun y => y.tier != 3 && spansMeet x.pa x.len y.pa y.len), e + 16),
     (w.model && w.img.modelLen != 0 && spansMeet x.pa x.len w.img.modelBase w.img.modelLen, e + 16)]

/-- A PARTITION section (R54, R55, R63). Its LENGTH, the field at the lowest offset, is tested first (log entry 37). -/
def readPart (sec b n p : Nat) (d : List Byte) (w : WScan) : Except WErr WScan :=
  let q := readPartFields d b
  let fields : List (Bool × Nat) :=
    [(n != 72 + 32 * leAt d (b + 7) 1, b - 12), (decide (15 < leAt d b 4), b), (outside q.beWeight 1 1024, b + 4), (decide (64 < q.lcLimit), b + 6),
     (decide (16 < leAt d (b + 7) 1), b + 7), (decide (8191 < q.syncBase), b + 0x10),
     (decide (8192 < q.syncBase + q.syncCount), b + 0x12), (outside q.ringCount 1 4, b + 0x14), (outside q.depthLog2 4 12, b + 0x15),
     (q.msixBase % 4 != 0 || decide (124 < q.msixBase), b + 0x16), (leAt d (b + 0x17) 1 != 0, b + 0x17)] ++
    (List.range 6).map (fun i => let r := q.regs.getD i (0, 0)
      (r.1 != 0 && decide (r.1 < ceilingOf i) && outside r.2 1 4194304, b + 0x1C + 8 * i)) ++
    (List.range (leAt d (b + 7) 1)).flatMap fun j => windowChecks d (b + 0x48 + 32 * j)
  match firstBad sec (fields ++ if q.enable then partClashes w q b else []) with
  | some e => .error e
  | none =>
    let img := { w.img with parts := tset w.img.parts p q }
    if !q.enable then .ok { w with img := img }
    else
      let use := fun (off kind i : Nat) => ({ sec := sec, off := off, kind := kind, index := i } : WUse)
      .ok { w with
        img := img
        uses := w.uses ++ (bitsOf 64 q.cores.toNat).map (use (b + 8) 1) ++
          (List.range q.windows.length).flatMap fun j =>
            let x := q.windows.getD j {}
            if x.tier = 0 then (stacksOf x.pa x.len).map (use (b + 0x58 + 32 * j) 3)
            else if x.tier = 1 then (channelsOf x.pa x.len).map (use (b + 0x58 + 32 * j) 4)
            else [] }

/-- An entry of a NAMESPACE body (R56). -/
def readNs (d : List Byte) (e : Nat) : WNs :=
  { nsid := leAt d e 1, purpose := leAt d (e + 1) 1, owner := leAt d (e + 2) 1, destroy := bitN (leAt d (e + 3) 1) 0, size := leAt d (e + 8) 8 }

/-- The checks of a namespace entry against the entries before it and the medium (R56, R63). That the medium is compared as
the NAMESPACE section is checked, and not in a later phase, is the model's choice: R63 names no phase for it (DESIGN CHOICE,
log entry 37). -/
def nsChecks (ctx : WCtx) (d : List Byte) (before : List WNs) (e : Nat) : List (Bool × Nat) :=
  let x := readNs d e
  let old := ctx.medium.find? fun m => m.nsid == x.nsid
  [(outside x.nsid 1 32 || before.any (fun y => y.nsid == x.nsid), e),
   (decide (5 < x.purpose) || (decide (4 ≤ x.purpose) && before.any fun y => y.purpose == x.purpose), e + 1),
   (badOwner x.owner, e + 2), (decide (1 < leAt d (e + 3) 1), e + 3), (leAt d (e + 4) 4 != 0, e + 4), (x.size == 0 && !x.destroy, e + 8)] ++
  match old with
  | some m => [(!x.destroy && m.purpose != x.purpose, e + 1), (!x.destroy && m.size != x.size, e + 8)]
  | none => []

/-- A NAMESPACE section (R56). -/
def readNamespace (ctx : WCtx) (sec b n : Nat) (d : List Byte) (w : WScan) : Except WErr WScan :=
  let k := leAt d b 2
  let nss := (List.range k).map fun i => readNs d (b + 8 + 16 * i)
  match firstBad sec ([(n != 8 + 16 * k, b - 12), (outside k 1 32, b), (leAt d (b + 2) 6 != 0, b + 2)] ++
      (List.range (min k 32)).flatMap fun i => nsChecks ctx d (nss.take i) (b + 8 + 16 * i)) with
  | some e => .error e
  | none => .ok { w with img := { w.img with nss := nss }, nsAt := (sec, b) }

/-- An MCAST section (R57). -/
def readMcast (sec b n : Nat) (d : List Byte) (w : WScan) : Except WErr WScan :=
  let g := fun (i : Nat) => (leAt d (b + 16 * i) 1, BitVec.ofNat 64 (leAt d (b + 16 * i + 8) 8))
  match firstBad sec ([(n != 512, b - 12)] ++ (List.range 32).flatMap fun i =>
      [(badOwner (g i).1, b + 16 * i), (leAt d (b + 16 * i + 1) 7 != 0, b + 16 * i + 1), ((g i).1 == 0xFF && (g i).2 != 0, b + 16 * i + 8)]) with
  | some e => .error e
  | none => .ok { w with
      img := { w.img with mcast := (List.range 32).map fun i => (i, g i) }
      refs := w.refs ++ (List.range 32).filterMap fun i =>
        if (g i).1 = 0xFF then none else some { sec := sec, off := b + 16 * i + 8, who := (g i).1, members := some (g i).2 } }

/-- An FP32 pattern that is infinite or NaN. -/
def notFinite (x : Nat) : Bool := fld x 23 8 == 255

/-- An SFTABLE section (R198, R223). -/
def readTable (sec b n slot : Nat) (d : List Byte) (w : WScan) : Except WErr WScan :=
  let fn := leAt d (b + 1) 1
  let at_ := fun (o k : Nat) => leAt d (b + 8 + o) k
  let lin := fn == 1
  let log3 := fn == 3 && at_ 0x16 1 == 3
  let fin := fun (used : Bool) (o : Nat) => if used then notFinite (at_ o 4) else at_ o 4 != 0
  let low := fun (used : Bool) (o hi : Nat) => if used then decide (hi < at_ o 1) else at_ o 1 != 0
  let body := (d.drop b).take n
  let dig := leNat ((sha256 body).take 8)
  match firstBad sec ([(n != 3112, b - 12), (leAt d b 1 != slot, b), (outside fn 1 3, b + 1), (leAt d (b + 2) 6 != 0, b + 2),
      (fin lin 0, b + 8), (fin (fn != 3) 4 || (fn != 3 && (bitN (at_ 4 4) 31 || at_ 4 4 == 0)), b + 0xC), (fin lin 8, b + 0x10),
      (fin lin 0xC, b + 0x14), (fin log3 0x10, b + 0x18), (low lin 0x14 2, b + 0x1C), (low lin 0x15 2, b + 0x1D),
      (low (fn == 3) 0x16 3, b + 0x1E), (at_ 0x17 9 != 0, b + 0x1F)] ++
      (List.range 768).map (fun i => (notFinite (at_ (0x20 + 4 * i) 4), b + 0x28 + 4 * i)) ++
      [(decide (0xFFFFFFFFFFFFFF00 ≤ dig) && decide (dig ≤ 0xFFFFFFFFFFFFFF0A), b)]) with
  | some e => .error e
  | none =>
    let w32 := fun (o : Nat) => BitVec.ofNat 32 (at_ o 4)
    let t : SfTable := { fn := fn, x0 := w32 0, scale := w32 4, low := w32 8, high := w32 0xC, clog := w32 0x10, lowMode := at_ 0x14 1,
                         highMode := at_ 0x15 1, expRule := at_ 0x16 1,
                         segs := (List.range 256).map fun j => (w32 (0x20 + 12 * j), w32 (0x24 + 12 * j), w32 (0x28 + 12 * j)),
                         digest := BitVec.ofNat 64 dig }
    .ok { w with img := { w.img with sft := tset w.img.sft slot t } }

/-- An FTL section (R58). -/
def readFtl (sec b n : Nat) (d : List Byte) (w : WScan) : Except WErr WScan :=
  match firstBad sec [(n != 8, b - 12), (decide (1 < leAt d b 1), b), (leAt d (b + 1) 1 != 0, b + 1), (outside (leAt d (b + 2) 2) 4 256, b + 2),
      (outside (leAt d (b + 4) 2) 50 1000, b + 4), (leAt d (b + 6) 2 != 0, b + 6)] with
  | some e => .error e
  | none => .ok { w with
      img := { w.img with wbMode := leAt d b 1, mapCache := leAt d (b + 2) 2, wlSpread := leAt d (b + 4) 2 }
      ftlAt := (sec, b + 2) }

/-- A FIELD section (R59). -/
def readField (sec b n : Nat) (d : List Byte) (w : WScan) : Except WErr WScan :=
  let byte := fun (o : Nat) => leAt d (b + o) 1
  let fields : List (Bool × Nat) :=
    [(n != 112, b - 12)] ++
    (List.range 8).flatMap (fun i => [(decide (1 < byte (4 * i)), b + 4 * i), (decide (3 < byte (4 * i + 1)), b + 4 * i + 1),
      (badOwner (byte (4 * i + 2)), b + 4 * i + 2), (byte (4 * i + 3) != 0, b + 4 * i + 3)]) ++
    [(outside (leAt d (b + 0x20) 2) 2 2000, b + 0x20), (outside (leAt d (b + 0x22) 2) 2 2000, b + 0x22), (leAt d (b + 0x24) 4 != 0, b + 0x24)] ++
    (List.range 72).map (fun i => (badOwner (byte (0x28 + i)), b + 0x28 + i))
  match firstBad sec fields with
  | some e => .error e
  | none =>
    let ref := fun (o : Nat) => if byte o = 0xFF then none else some ({ sec := sec, off := b + o, who := byte o, members := none } : WRef)
    .ok { w with
      img := { w.img with field :=
        { dos := (List.range 8).map fun i => { safe := byte (4 * i) == 1, inhMask := BitVec.ofNat 2 (byte (4 * i + 1)), source := byte (4 * i + 2) }
          disc := [leAt d (b + 0x20) 2, leAt d (b + 0x22) 2]
          diNotify := (List.range 8).map fun i => byte (0x28 + i)
          slotOwner := (List.range 64).map fun i => byte (0x30 + i) } }
      refs := w.refs ++ ((List.range 8).map fun i => 4 * i + 2).filterMap ref ++ ((List.range 72).map fun i => 0x28 + i).filterMap ref }

/-- A LINK section (R60, R373). -/
def readLink (sec b n : Nat) (d : List Byte) (w : WScan) : Except WErr WScan :=
  let byte := fun (o : Nat) => leAt d (b + o) 1
  let dimOf := fun (dir : Nat) => byte ((dir - 1) / 2)
  match firstBad sec ([(n != 56, b - 12), (outside (byte 0) 1 16, b), (outside (byte 1) 1 16, b + 1), (outside (byte 2) 1 8, b + 2),
      (decide (byte 0 ≤ byte 3), b + 3), (decide (byte 1 ≤ byte 4), b + 4), (decide (byte 2 ≤ byte 5), b + 5), (leAt d (b + 6) 2 != 0, b + 6)] ++
      (List.range 48).map fun l => let r := byte (8 + l); (decide (6 < r) || (r != 0 && dimOf r == 1), b + 8 + l)) with
  | some e => .error e
  | none => .ok { w with
      img := { w.img with link := some { dimX := byte 0, dimY := byte 1, dimZ := byte 2, posX := byte 3, posY := byte 4, posZ := byte 5,
                                         dirs := (List.range 48).map fun l => byte (8 + l) } }
      uses := w.uses ++ (List.range 48).filterMap fun l =>
        if byte (8 + l) = 0 then none else some { sec := sec, off := b + 8 + l, kind := 5, index := l } }

/-- INDEX of a RETIRE entry out of range (R61). -/
def retireBad (kind i : Nat) : Bool :=
  match kind with
  | 1 => decide (63 < i)
  | 2 => decide (15 < i)
  | 3 => decide (7 < i)
  | 4 => decide (31 < i)
  | 5 => decide (47 < i)
  | 6 => !(decide (i < 0x800000) || (decide (0x1000000 ≤ i) && decide (i < 0x3000000)))
  | _ => decide (511 < i)

/-- A RETIRE section (R61). -/
def readRetire (sec b n : Nat) (d : List Byte) (w : WScan) : Except WErr WScan :=
  let k := leAt d b 4
  let e := fun (i : Nat) => b + 8 + 8 * i
  match firstBad sec ([(n != 8 + 8 * k, b - 12), (decide (4096 < k), b), (leAt d (b + 4) 4 != 0, b + 4)] ++
      (List.range (min k 4096)).flatMap fun i =>
        [(outside (leAt d (e i) 1) 1 7, e i), (leAt d (e i + 1) 1 != 0, e i + 1), (retireBad (leAt d (e i) 1) (leAt d (e i + 2) 6), e i + 2)]) with
  | some x => .error x
  | none => .ok { w with
      img := { w.img with retire := (List.range k).map fun i => (leAt d (e i) 1, leAt d (e i + 2) 6) }
      retireAt := (sec, b) }

/-- One section at offset `o`: its header's checks (R51, R52), then its body; and the offset after it. A second PARTITION or
SFTABLE section of one INSTANCE is refused at its INSTANCE field: the spec names no check for it (DESIGN CHOICE, log entry 37). -/
def readSection (ctx : WCtx) (sec o : Nat) (d : List Byte) (w : WScan) : Except WErr (WScan × Nat) :=
  let t := leAt d o 2
  let len := leAt d (o + 4) 4
  let inst := leAt d (o + 8) 2
  match firstBad sec [(decide (d.length < o + 16), o), (decide (1 < leAt d (o + 2) 2), o + 2),
      (len % 8 != 0 || decide (len < 16) || decide (d.length < o + len), o + 4), (leAt d (o + 10) 6 != 0, o + 10)] with
  | some e => .error e
  | none => match secOccurs t with
    | none => if bitN (leAt d (o + 2) 2) 0 then .ok (w, o + len) else .error { status := stInvalidField, sec := sec, off := o }
    | some (most, insts) =>
      match firstBad sec [(decide (most ≤ (w.seen.filter fun x => x.1 == t).length), o),
          (decide (insts ≤ inst) || w.seen.contains (t, inst), o + 8)] with
      | some e => .error e
      | none =>
        let w1 := { w with seen := w.seen ++ [(t, inst)] }
        let b := o + 16
        let n := len - 16
        let r := match t with
          | 1 => readModule sec b n d w1
          | 2 => readPart sec b n inst d w1
          | 3 => readNamespace ctx sec b n d w1
          | 4 => readMcast sec b n d w1
          | 5 => readTable sec b n inst d w1
          | 6 => readFtl sec b n d w1
          | 7 => readField sec b n d w1
          | 8 => readLink sec b n d w1
          | _ => readRetire sec b n d w1
        match r with
        | .ok x => .ok (x, o + len)
        | .error e => .error e

/-- The sections in image order: `left` are still to come from offset `o`. -/
def readSections (ctx : WCtx) (d : List Byte) : Nat → Nat → Nat → WScan → Except WErr WScan
  | 0, _, o, w => if o = d.length then .ok w else .error { status := stInvalidField, sec := 0, off := 8 }
  | left + 1, sec, o, w =>
    if d.length ≤ o then .error { status := stInvalidField, sec := 0, off := 0xC }
    else match readSection ctx sec o d w with
      | .ok (w1, o1) => readSections ctx d left (sec + 1) o1 w1
      | .error e => .error e

/-- A cross-reference fails (R63). -/
def WScan.refBad (w : WScan) (r : WRef) : Bool :=
  let q := tget w.img.parts r.who {}
  match r.members with
  | none => !q.enable
  | some m => (if q.enable then m &&& ~~~q.cores else m) != 0

/-- Is a unit failed or retired by the image itself? -/
def gone (ctx : WCtx) (img : WarpImg) (kind i : Nat) : Bool :=
  let g := fun (k i : Nat) => ctx.lost.contains (k, i) || img.retire.contains (k, i)
  g kind i || (kind == 1 && g 2 (i / 4))

/-- Bytes of [a, e) that no range of a list covers. -/
def uncovered (a e : Nat) : List (Nat × Nat) → Nat
  | [] => e - a
  | (b, n) :: xs => if spansMeet a (e - a) b n then uncovered a b xs + uncovered (b + n) e xs else uncovered a e xs

/-- Bytes that a list of ranges covers, each byte once. -/
def coveredBytes : List (Nat × Nat) → Nat
  | [] => 0
  | (a, n) :: xs => uncovered a (a + n) xs + coveredBytes xs

/-- Board memory in bytes left after windows, which may name one byte more than once, and retired channels (R63). -/
def boardLeft (ctx : WCtx) (img : WarpImg) : Nat :=
  let chans := ((List.range 32).filter fun c => !gone ctx img 4 c).length * 64 * 2 ^ 30
  chans - coveredBytes (((img.parts.filter fun e => e.2.enable).flatMap fun e => e.2.windows.filter fun x => x.tier == 1).map fun x => (x.pa, x.len))

/-- The user capacity in logical blocks (R312). -/
def userBlocks : Nat := 58593750000

/-- The module-wide totals (R63). R63 does not say in which order they are made, nor in which phase a failed or retired unit is
looked for: that comes first here, then the order of the table (DESIGN CHOICE, log entry 37). -/
def WScan.totals (w : WScan) (ctx : WCtx) : Option WErr :=
  let at_ := fun (x : Nat × Nat) => some ({ status := stNoResource, sec := x.1, off := x.2 } : WErr)
  let kept := ctx.medium.filter fun m => !(w.img.nss.any fun n => n.nsid == m.nsid)
  let sum := ((w.img.nss.map (·.size)) ++ kept.map (·.size)).foldl (· + ·) 0
  match w.uses.find? fun u => gone ctx w.img u.kind u.index with
  | some u => at_ (u.sec, u.off)
  | none =>
    if !((List.range 2).any fun h => decide (8 ≤ ((List.range 16).filter fun c => !gone ctx w.img 4 (16 * h + c)).length)) then at_ w.retireAt
    else if userBlocks < sum then at_ w.nsAt
    else if boardLeft ctx w.img < w.img.mapCache * 2 ^ 30 then at_ w.ftlAt
    else none

/-- Validation of a copy of `len` submitted bytes (R63). -/
def validate (ctx : WCtx) (b : List Byte) (len : Nat) : Except WErr WarpImg :=
  match headerErr b len with
  | some e => .error e
  | none =>
    let d := b.take len
    let v := (commonVersion (leAt b 4 2) (leAt b 6 2) loaderMin loaderMax).getD 0
    let w : WScan := { img := { bytes := d, id := BitVec.ofNat 64 (leAt b 0x10 8), store := bitN (leAt b 0xE 2) 0, fmt := v } }
    match readSections ctx d (leAt b 0xC 2) 1 64 w with
    | .error e => .error e
    | .ok w =>
      if secRequired.any (fun t => !(w.seen.any fun x => x.1 == t)) then .error { status := stInvalidField, sec := 0, off := 0xC }
      else match w.refs.find? w.refBad with
        | some r => .error { status := stInvalidField, sec := r.sec, off := r.off }
        | none => match w.totals ctx with
          | some e => .error e
          | none => .ok w.img

end Sys2Proof.Machine
end

