-- ==== Sys2Proof/Machine/Apply.lean ====
section
/-! DEFINITION. Apply (R67): how a validated image takes hold of the module, in its fixed order; and the reset of a
partition (R66 step 4, R458). -/

namespace Sys2Proof.Machine

/-! Partition reset. -/

/-- What a partition's registers keep over a partition reset: the locked ones, its windows and its accounts. -/
def PtnSt.resetValue (q : PtnSt) : PtnSt :=
  { beWeight := q.beWeight, lcLimit := q.lcLimit, bePermit := q.bePermit, lcPermit := q.lcPermit, modelUser := q.modelUser,
    enable := q.enable, cores := q.cores, syncCount := q.syncCount, syncBase := q.syncBase, live := q.live, windows := q.windows,
    ringCount := q.ringCount, depthLog2 := q.depthLog2, msixBase := q.msixBase, acct := q.acct, acctSnap := q.acctSnap,
    acctBusy := q.acctBusy, winEst := q.winEst, regs := q.regs.map fun (e : Nat × Regul) => (e.1, { e.2 with waiting := [] }) }

/-- Is an object in the range of a partition? -/
def PtnSt.owns (q : PtnSt) (n : Nat) : Bool := decide (q.syncBase ≤ n) && decide (n < q.syncBase + q.syncCount)

/-- The sync objects of a partition's range at their reset values (R86). -/
def State.clearObjects (s : State) (p : Nat) : State :=
  let q := s.ptn p
  s.modSync fun y => { y with objs := y.objs.filter fun e => !q.owns e.1, arrivals := y.arrivals.filter fun a => !q.owns a.obj }

/-- Outputs that a partition commands hold their safe state until it commands them again (R430). -/
def State.uncommand (s : State) (p : Nat) : State :=
  let mine := ((List.range 8).filter fun i => (s.field.set.dos.getD i {}).source == p).foldl (fun a i => a + 2 ^ i) 0
  s.modField fun f => { f with cmdSince := f.cmdSince &&& ~~~(BitVec.ofNat 8 mine) }

/-- Partition reset (R66 step 4, R458): cores, objects, rings, session, fault queue, pins, counters of its notice ring. -/
def State.ptnReset (s : State) (p : Nat) : State :=
  let s1 := s.each (bitsOf 64 (s.ptn p).cores.toNat) fun s c => s.coreReset c
  let s2 := (((s1.clearObjects p).endSession p).uncommand p).modNring p fun r => { r with prod := 0, cons := 0, lost := 0, held := [], lostNow := 0 }
  let s3 := s2.modXl fun x => { x with
    leaves := x.leaves.filter fun l => l.ptn != p
    walks := x.walks.filter fun w => w.ptn != p
    halted := x.halted.filter fun h => h.ptn != p
    shoots := x.shoots.map fun h => if h.ptn = p then { h with doneObj := 0xFFFF } else h
    moves := x.moves.map fun m => if m.ptn = p then { m with doneObj := 0xFFFF } else m }
  let s4 := s3.modSh fun h => { h with frames := h.frames.filter fun f => f.job / 2 ^ 27 != p }
  let s5 := s4.modSearch fun q => { q with indexes := q.indexes.map fun i =>
    if (s.nsOwner (i.handle / 16)) = p then { i with opened := none } else i }
  (s5.modPtn p PtnSt.resetValue).meetLevels

/-! The order of R67. -/

/-- The retire list takes hold, and the image is the active one: cores it newly retires go into core reset. -/
def State.applyRetire (s : State) (img : WarpImg) : State :=
  let s1 := s.modWarp fun w => { w with activeImg := some img, activeFmt := img.fmt }
  s1.each ((List.range 64).filter fun c => s1.coreRetired c && !s.coreRetired c) fun s c => s.coreReset c

/-- The registers of a partition that an image enables (R54, R114); its buckets are filled (R260). -/
def PtnSt.applyPart (q : PtnSt) (w : WPart) : PtnSt :=
  { q with
    beWeight := w.beWeight, lcLimit := w.lcLimit, bePermit := w.bePermit, lcPermit := w.lcPermit, modelUser := w.modelUser
    enable := true, cores := w.cores, syncCount := w.syncCount, syncBase := w.syncBase, live := true, windows := w.windows
    ringCount := w.ringCount, depthLog2 := w.depthLog2, msixBase := w.msixBase
    regs := (List.range 6).map fun i =>
      let rb := w.regs.getD i (0, 0)
      let g : Regul := { rate := rb.1, burst := rb.2 }
      (i, { g with level := g.burstUnits }) }

/-- The registers of a disabled partition: the locked ones at their reset values (R54). -/
def PtnSt.applyNone (q : PtnSt) : PtnSt :=
  { q with
    beWeight := 1, lcLimit := 0, bePermit := false, lcPermit := false, modelUser := false, enable := false, cores := 0
    syncCount := 0, syncBase := 0, live := false, windows := [], ringCount := 0, depthLog2 := 0, msixBase := 0, regs := [] }

/-- CFG of a record ring at its reset value: commit restores it (R114). -/
def RingSt.cfgReset (r : RingSt) : RingSt := { r with enable := false, obj := 0x1FFF#13, size := 6 }

/-- Partitions, their rings and vectors, and their regulators. -/
def State.applyParts (s : State) (img : WarpImg) : State :=
  let s1 := s.each (List.range 32) fun s p =>
    let q : WPart := tget img.parts p {}
    s.modPtn p fun x =>
      let y := if q.enable then x.applyPart q else x.applyNone
      { y with xreq := y.xreq.cfgReset, scan := y.scan.cfgReset, coll := y.coll.cfgReset, fring := y.fring.cfgReset }
  s1.each ((List.range 64).filter fun c => (s1.coreOwner c).isNone) fun s c => s.coreReset c

/-- Multicast groups (R57). -/
def State.applyGroups (s : State) (img : WarpImg) : State :=
  (s.modFab fun f => { f with
    members := (List.range 32).map fun g => (g, (tget img.mcast g (0xFF, 0)).2)
    mcOwner := (List.range 32).map fun g => (g, (tget img.mcast g (0xFF, 0)).1) }).setMctok []

/-- Special-function tables in every core (R197), and what the resident image makes of them (R223, R477). -/
def State.applyTables (s : State) (img : WarpImg) : State :=
  let valid := BitVec.ofNat 16 ((List.range 16).foldl (fun a i => if i ≤ 10 || thas img.sft i then a + 2 ^ i else a) 0)
  let s1 := (s.modWarp fun w => { w with tables := img.sft }).each (List.range 64) fun s c =>
    s.modCore c fun k => { k with sfuValid := valid, sfuBad := [] }
  if s1.model.resident then
    let now := s1.tablesDiffer s1.model.tables
    let s2 := s1.modModel fun m => { m with mismatch := now }
    if now && s.model.tables.any fun t => s1.slotDigest t.1 != s.slotDigest t.1 then s2.log (Src.code .hub) 0x4403 (bytesLE 8 s.model.id.toNat) else s2
  else s1

/-- Starts in board memory at which a save area may stand: the hubs' first bytes and the ends of the windows, clear of
every window. -/
def savePlaces (img : WarpImg) : List Nat :=
  let wins := ((img.parts.filter fun e => e.2.enable).flatMap fun e => e.2.windows.filter fun x => x.tier == 1)
  ((0x10000000000 :: 0x20000000000 :: wins.map fun x => x.pa + x.len).filter fun a =>
    decide (a + 2 ^ 31 ≤ 0x30000000000) && !(wins.any fun x => spansMeet x.pa x.len a (2 ^ 31)))

/-- FTL settings (R58; a map cache of another size starts empty, its dirty pages written back, R309), and where the save area stands (R253): one of the places the image leaves, which one is free. -/
def State.applyFtl (s : State) (img : WarpImg) : State :=
  let c := s.fresh
  let ps := savePlaces img
  let s1 := if s.flash.mapCacheGiB = img.mapCache then c.2 else c.2.writeBackAll.modFlash fun q => { q with cache := [] }
  (s1.modFlash fun q => { q with wbMode := img.wbMode, wlSpread := img.wlSpread, mapCacheGiB := img.mapCache }).modSh fun h =>
    { h with saveBase := BitVec.ofNat 50 (ps.getD (Config.freeNat 90 [c.1] % max ps.length 1) 0x10000000000) }

/-! Namespaces. -/

/-- A namespace entry stands on the medium, in rising NSID. -/
def State.putNs (s : State) (n : NsSt) : State :=
  (s.modFlash fun q => { q with nss := insertBy (fun a b => decide (a.nsid ≤ b.nsid)) n (q.nss.filter fun x => x.nsid != n.nsid) }).journal 0 (.nsChange n.nsid)

/-- A namespace leaves the medium. -/
def State.dropNs (s : State) (nsid : Nat) : State :=
  ((s.modFlash fun q => { q with nss := q.nss.filter fun x => x.nsid != nsid }).killKey nsid).journal 0 (.nsChange nsid)

/-- A host namespace's attachment or size has changed: it is named in the Changed Namespace List. -/
def State.markNs (s : State) (nsid : Nat) : State := s.modNvme fun n => { n with changedNs := n.changedNs ||| BitVec.ofNat 33 (2 ^ nsid) }

/-- Namespace Attribute Changed (R342). -/
def State.nsEvent (s : State) : State := if s.eventOn 8 then s.nvEvent 2 0 4 else s

/-- Writes gathered in a channel are programmed and complete, so that a namespace about to go is served to its end (R66). -/
def State.settleChan : Nat → State → Nat → State
  | 0, s, _ => s
  | fuel + 1, s, ch =>
    match tfind s.flash.progs ch with
    | some p => let r := s.progDone ch p; State.settleChan fuel ((r.2.each r.1 fun s d => s.nvUnits d.1 d.2).nvGo) ch
    | none =>
      let s1 := s.startProg ch
      if thas s1.flash.progs ch then State.settleChan fuel s1 ch else s1

/-- Every write gathered so far completes. -/
def State.settleWrites (s : State) : State :=
  s.each (List.range 64) fun s ch => State.settleChan ((tget s.flash.gather ch []).length / 32 + 2) s ch

/-- A namespace with DESTROY = 1 loses its key as cryptographic erase does, then stands empty with its new size or is
removed (R67); a host namespace is detached at that instant. -/
def State.destroyNs (s : State) (src : Src) (x : WNs) (old : NsSt) : State :=
  let s1 := (s.settleWrites).eraseNs src x.nsid
  let s2 := if old.purpose = 4 then s1.modLinks fun l => { l with slots := [] } else s1
  let s3 := s2.modIngest fun g => { g with storePos := tdel g.storePos x.nsid }
  let s4 := if x.size = 0 then s3.dropNs x.nsid
    else s3.putNs { nsid := x.nsid, purpose := x.purpose, owner := x.owner, size := x.size, attached := true }
  if old.purpose = 0 && old.attached then (s4.markNs x.nsid).nsEvent else s4

/-- One namespace entry (R56, R67). -/
def State.applyNs (s : State) (src : Src) (x : WNs) : State :=
  let new : NsSt := { nsid := x.nsid, purpose := x.purpose, owner := x.owner, size := x.size, attached := true }
  match s.nsOf x.nsid with
  | some old =>
    if x.destroy then s.destroyNs src x old
    else
      let s1 := s.modFlash fun q => { q with nss := q.nss.map fun n => if n.nsid = x.nsid then { n with attached := true, owner := x.owner } else n }
      if old.purpose = 0 && !old.attached then s1.markNs x.nsid else s1
  | none =>
    if x.size = 0 then s
    else
      let s1 := ((s.makeKey x.nsid).2).putNs new
      if x.purpose = 0 then s1.markNs x.nsid else s1

/-- A namespace without an entry is kept, detached and without an owner; log 0x1009 (R63). -/
def State.keepNs (s : State) (src : Src) (n : NsSt) : State :=
  let s1 := s.modFlash fun q => { q with nss := q.nss.map fun x => if x.nsid = n.nsid then { x with attached := false, owner := 0xFF } else x }
  let s2 := s1.log src.code 0x1009 (bytesLE 1 n.nsid ++ bytesLE 8 n.size)
  if n.purpose = 0 && n.attached then s2.markNs n.nsid else s2

/-- Namespace changes in rising NSID. -/
def State.applyNss (s : State) (src : Src) (img : WarpImg) : State :=
  s.each ((List.range 32).map (· + 1)) fun s i =>
    match img.nss.find? fun x => x.nsid == i with
    | some x => s.applyNs src x
    | none => match s.nsOf i with
      | some n => s.keepNs src n
      | none => s

/-! Links. -/

/-- A link under the new topology (R60, R66, R371): unused, off until it trains, or as it was. -/
def LinkSt.applyDir (k : LinkSt) (d : Nat) (structural : Bool) : LinkSt :=
  let off := fun (st : Nat) => { k with st := st, dir := d, version := 0, aligned := false, replay := [], sendq := [], part := [], replayFails := 0 }
  if d = 0 then off 6 else if d ≠ k.dir then off 0 else if structural && (k.st == 4 || k.st == 5) then off 0 else k

/-- Link topology: dead directions learned under another topology are no longer known. -/
def State.applyLinks (s : State) (img : WarpImg) (structural : Bool) : State :=
  let t : LinkSet := img.link.getD {}
  let s1 := s.each (List.range 48) fun s l => s.modLink l fun k => k.applyDir (t.dirs.getD l 0) structural
  s1.modLinks fun k => { k with torus := t, dead := if t = s.links.torus then k.dead else [] }

/-- A retired bank holds part of a range of a stack. -/
def bankHolds (i base n : Nat) : Bool :=
  let lo := max base (i / 64 * 2 ^ 36)
  let hi := min (base + n) ((i / 64 + 1) * 2 ^ 36)
  let first := lo / 65536
  decide (lo < hi) && decide (first + (i % 64 + 64 - first % 64) % 64 ≤ (hi - 1) / 65536)

/-- Does the resident image stay (R67)? -/
def State.modelStays (s : State) (img : WarpImg) : Bool :=
  let n := s.model.len.toNat
  let b := s.model.base
  img.modelBase == b && decide (n ≤ img.modelLen) &&
    !(img.retire.any fun r =>
      (r.1 == 3 && (stacksOf b n).contains r.2) || (r.1 == 6 && spansMeet (r.2 * 65536) 65536 b n) || (r.1 == 7 && bankHolds r.2 b n))

/-! Field settings. -/

/-- AGREE that stands at or above DISC clears DISAGREE (R436). -/
def InhSt.settle (i : InhSt) : InhSt := if i.disc * 1000000 ≤ i.agree then { i with disagree := 0 } else i

/-- MGT takes field settings (R67, R430): no output has been commanded under them; a commit also zeroes the slots whose
owner changes (R442). A new DISC applies to both timers at once (R436). -/
def State.loadField (s : State) (fs : FieldSet) (commit : Bool) : State :=
  let owner := fun (f : FieldSet) (i : Nat) => f.slotOwner.getD i 0xFF
  let old := s.field.set
  let changed := (List.range 64).filter fun i => commit && owner fs i != owner old i
  s.modField fun f => { f with
    set := fs, loaded := true, cmdSince := 0, mbox := f.mbox.filter fun e => !changed.contains e.1
    inh := (List.range 2).map fun i => (i, InhSt.settle { (tget f.inh i {}) with disc := fs.disc.getD i 2000 }) }

/-- Apply (R67), then the settings to MGT and the lock (R69). -/
def State.applyImage (s : State) (src : Src) (img : WarpImg) (structural : Bool) : State :=
  let s0 := if s.model.resident && !s.modelStays img then s.unloadModel 2 else s
  let s1 := ((((s0.applyRetire img).applyParts img).applyGroups img).applyTables img).applyFtl img
  let s2 := ((s1.applyNss src img).applyLinks img structural).loadField img.field true
  s2.modWarp fun w => { w with gen := w.gen + 1, active := 1, locked := true, storePending := img.store }

/-- What the checks of an image know of the module (R63). -/
def State.warpCtx (s : State) : WCtx :=
  let p := s.pwr
  let cores := (List.range 64).filter fun c => (s.core c).width == 0 || (s.core c).retired || !bitN p.ctOk.toNat (c / 4)
  { lost := cores.map (fun c => (1, c)) ++ ((List.range 16).filter fun i => !bitN p.ctOk.toNat i).map (fun i => (2, i)) ++
      ((List.range 8).filter fun i => !bitN p.stackOk.toNat i).map (fun i => (3, i)) ++
      ((List.range 32).filter fun i => !bitN p.mhOk.toNat (i / 16)).map (fun i => (4, i)) ++
      ((List.range 48).filter fun i => !bitN p.lkOk.toNat (i / 16)).map (fun i => (5, i))
    medium := s.flash.nss }

end Sys2Proof.Machine
end

