-- ==== Sys2Proof/Machine/Warp.lean ====
section
/-! DEFINITION. The warp loader's requests (R62-R68): staging, commit, structural reset, discard, the configuration store. -/

namespace Sys2Proof.Machine

/-- A request is in progress (R65). -/
def State.warpBusy (s : State) : Bool := s.warp.shadow == 1 || decide (2 ≤ s.warp.active)

/-- A request fails: what WARP_STATUS shows of it. -/
def State.warpError (s : State) (status sec off : Nat) : State :=
  s.modWarp fun w => { w with errStatus := status, errSection := sec, errOffset := off }

/-- May an image be read from an address: host IOVA or board memory, 8-byte aligned (WARP_SRC_ADDR)? -/
def warpSourceOk (a : Nat) : Bool :=
  a % 8 == 0 && (match paRange a with
    | .host => true
    | .board => true
    | _ => false)

/-- STAGE is accepted and the copy made (R62): `len` bytes from pieces of memory; `bad` is an offset in the header check at
which the request itself is refused. -/
def State.warpCopy (s : State) (src : Src) (job len : Nat) (pieces : List (Nat × Nat)) (bad : Option Nat) : State :=
  let read := s.readPieces pieces
  let o := s.badPiece 0 pieces
  let at_ := pieces.foldl (fun (acc : Nat × Nat) x => (acc.1 + x.2, if acc.1 ≤ o ∧ o < acc.1 + x.2 then x.1 + (o - acc.1) else acc.2)) (0, 0)
  let why := if s.paUsable at_.2 1 then 2 else 0
  (if read.isNone then (s.piecesUe pieces).devUnread at_.2 1 else s).modWarp fun w => { w with
    shadow := 1, stageSrc := src, stageJob := job, stageLen := len, copy := read.getD []
    copyFrom := pieces
    copyBad := match bad with
      | some b => some (b, 0)
      | none => if read.isSome then none else some (o, why) }

/-- STAGE from WARP_SRC_ADDR and WARP_SRC_LEN. -/
def State.warpStageCsr (s : State) (src : Src) : State :=
  let a := s.warp.srcAddr.toNat
  let n := s.warp.srcLen.toNat
  let bad := if !warpSourceOk a then some 0 else if 1048576 < n then some 8 else none
  s.warpCopy src 0 n (if bad.isSome then [] else pagePieces a n) bad

/-- A staging ends: the Weft job, the mailbox or the chain is answered, or, of a request that came through WARP_CTL, vector
130 is raised (R65, R367, R370). -/
def State.stageEnds (s : State) (src : Src) (job status : Nat) : State :=
  match src with
  | .weft _ => s.endJob job status 0
  | .mailbox => s.mbAnswer { status := status }
  | .chain _ => s.chainReply job { status := status }
  | _ => s.raise 130

/-- A staging fails: the shadow returns to its state before the request; log 0x1002 (R65). -/
def State.stageFails (s : State) (status sec off why : Nat) : State :=
  let w := s.warp
  let s1 := (s.warpError status sec off).modWarp fun w => { w with
    shadow := if w.stagedImg.isSome then 2 else 0, copy := [], copyBad := none, copyFrom := [], stageLen := 0, stageJob := 0 }
  (s1.log w.stageSrc.code 0x1002 (bytesLE 1 status ++ bytesLE 1 sec ++ bytesLE 3 off ++ bytesLE 1 why)).stageEnds w.stageSrc w.stageJob status

/-- STAGE_COMPLETE (R62-R65): the copy is judged; a source that could not be read fails first. `h`: a byte that the host's
answer brought with an error. -/
def execStageComplete (h : Option HostErr) (s : State) : Host.Outcome State Fault Refusal :=
  .next (
    let w := s.warp
    if w.shadow ≠ 1 then s
    else match firstUnread w.copyBad (hostBad w.copyFrom h) with
      | some (o, why) => s.stageFails stInvalidField 0 o why
      | none => match validate s.warpCtx w.copy w.stageLen with
        | .error e => s.stageFails e.status e.sec e.off 3
        | .ok img =>
          let s1 := s.modWarp fun w => { w with shadow := 2, stagedImg := some img, copy := [], copyFrom := [], stageLen := 0, stageJob := 0 }
          (s1.log w.stageSrc.code 0x1001 (bytesLE 8 img.id.toNat ++ bytesLE 1 0)).stageEnds w.stageSrc w.stageJob stOk)

/-- COMMIT by a source: its status (R65). -/
def State.warpCommitBy (s : State) (src : Src) : Nat × State :=
  if s.warpBusy then (stNoResource, s)
  else match s.warp.stagedImg with
    | none => (stInvalidField, s.warpError stInvalidField 0 0)
    | some img =>
      if s.warp.active ≠ 0 then (stInvalidField, s.warpError stInvalidField 0 0)
      else
        let s1 := (s.applyImage src img false).modWarp fun w => { w with shadow := 0, stagedImg := none }
        (stOk, (s1.log src.code 0x1003 (bytesLE 8 img.id.toNat ++ bytesLE 4 s1.warp.gen.toNat)).raiseLevel)

/-- STRUCT_RESET by a source: step 1 of R66. -/
def State.warpResetBy (s : State) (src : Src) : Nat × State :=
  if s.warpBusy then (stNoResource, s)
  else if s.warp.active = 0 then (stNoResource, s.warpError stNoResource 0 0)
  else
    let img := if s.warp.stagedImg.isSome then s.warp.stagedImg else s.warp.activeImg
    let id := (img.map fun i => i.id.toNat).getD 0
    (stOk, (s.modWarp fun w => { w with active := 3, drainWith := img, stageSrc := src }).log src.code 0x1005 (bytesLE 8 id))

/-- DISCARD by a source. -/
def State.warpDiscardBy (s : State) (src : Src) : Nat × State :=
  if s.warpBusy then (stNoResource, s)
  else match s.warp.stagedImg with
    | none => (stInvalidField, s.warpError stInvalidField 0 0)
    | some img =>
      (stOk, (s.modWarp fun w => { w with shadow := 0, stagedImg := none }).log src.code 0x1001 (bytesLE 8 img.id.toNat ++ bytesLE 1 1))

/-- A write of WARP_CTL through the CSR window (R65): one request at a time, a busy loader and several bits at once refuse
with BUSY_REFUSED. Completion or refusal raises vector 130 (R370): a structural reset completes, as through Weft, once the
loader accepts it (R367), a staging when it ends. -/
def State.warpCtl (s : State) (src : Src) (v : Nat) : State :=
  let refuse := (s.modWarp fun w => { w with busyRefused := true }).raise 130
  if v % 16 = 0 then s
  else if popN 4 v ≠ 1 ∨ s.warpBusy then refuse
  else if bitN v 0 then s.warpStageCsr src
  else if bitN v 1 then (s.warpCommitBy src).2.raise 130
  else if bitN v 2 then (s.warpResetBy src).2.raise 130
  else (s.warpDiscardBy src).2.raise 130

/-- STAGE through WARP_CTL, while the CSR network reaches the loader. -/
def execStage (s : State) : Host.Outcome State Fault Refusal := .next (if s.pwr.domainUp then s.warpCtl .bar2 1 else s)

/-- COMMIT through WARP_CTL. -/
def execCommit (s : State) : Host.Outcome State Fault Refusal := .next (if s.pwr.domainUp then s.warpCtl .bar2 2 else s)

/-- STRUCT_RESET through WARP_CTL. -/
def execStructReset (s : State) : Host.Outcome State Fault Refusal := .next (if s.pwr.domainUp then s.warpCtl .bar2 4 else s)

/-- DISCARD through WARP_CTL. -/
def execDiscard (s : State) : Host.Outcome State Fault Refusal := .next (if s.pwr.domainUp then s.warpCtl .bar2 8 else s)

/-! Structural reset, steps 3 to 6. -/

/-- Step 3: every job still running stops, and every Quern scan (R66). -/
def State.drainStop (s : State) : State :=
  let n := s.sh.jobs.length
  let s1 := s.each (s.sh.jobs.map (·.id)) fun s id => s.stopJob id stRestart
  (s1.each s1.search.batches fun s b => s.dropBatch b).log (Src.code .hub) 0x1007 (bytesLE 4 n)

/-- Step 4: partition reset of every partition, and the registers that structural reset restores. -/
def State.structClear (s : State) : State :=
  let s1 := s.each (List.range 32) fun s p => s.ptnReset p
  let s2 := s1.setPtns (s1.ptns.map fun (e : Nat × PtnSt) => (e.1, { e.2 with acct := [], acctSnap := [], acctBusy := false, winEst := 0 }))
  let s3 := (((s2.setSync {}).setNotice {}).setMctok []).modSh fun h => { h with frames := [], measured := 0, unattrib := 0 }
  let s4 := s3.modFab fun f => { f with dropCopies := 0, emptyDrops := 0, snapBusy := false, snapVc := 0, snapDir := false, snapPort := 0,
                                        snapLane := 0, snapData := 0 }
  s4.modSearch fun q => { q with
    indexes := q.indexes.map fun i => { i with opened := none }
    engs := q.engs.map fun (e : Nat × QuernEng) => (e.1, { e.2 with beFree := 32, lcFree := 8, slots := [], arb := {}, sets := [], queue := [], pend := [] }) }

/-- Steps 5 and 6: apply, lock, module notice, log 0x1006; the level is the highest that works under the new image. -/
def State.structApply (s : State) (img : WarpImg) (staged : Bool) : State :=
  let before := s.nvme.changedNs
  let s1 := (s.modWarp fun w => { w with active := 2 }).applyImage s.warp.stageSrc img true
  let s2 := s1.modWarp fun w => { w with drainWith := none, shadow := if staged then 0 else w.shadow,
                                         stagedImg := if staged then none else w.stagedImg }
  let s3 := (s2.notifyModule 0x1006 0 img.id).log s.warp.stageSrc.code 0x1006 (bytesLE 8 img.id.toNat ++ bytesLE 4 s2.warp.gen.toNat)
  (if s3.nvme.changedNs = before then s3 else s3.nsEvent).relevel

/-- DRAIN_WINDOW_EXPIRY (R66): steps 3 to 6 of the structural reset in progress. -/
def execDrainWindowExpiry (s : State) : Host.Outcome State Fault Refusal :=
  .next (
    if s.warp.active ≠ 3 then s
    else match s.warp.drainWith with
      | none => s
      | some img => s.drainStop.structClear.structApply img s.warp.stagedImg.isSome)

/-! The configuration store. -/

/-- CONFIG_STORE_WRITE (R68): the committed image stands in the store, read back and verified, in place of the older copy; a
write that fails leaves the newer copy. -/
def execConfigStoreWrite (ok : Bool) (s : State) : Host.Outcome State Fault Refusal :=
  .next (match s.warp.activeImg with
    | none => s
    | some img =>
      if !s.warp.storePending then s
      else
        let top := (s.mgt.store.map (·.seq)).foldl max 0
        let kept := s.mgt.store.filter fun c => c.seq == top
        if ok then (s.modMgt fun m => { m with store := kept ++ [{ seq := top + 1, bytes := img.bytes }], lastField := some img.field }).modWarp
            fun w => { w with storePending := false }
        else s.modMgt fun m => { m with store := if m.store.length < 2 then m.store else kept })

/-- Clearing LOCKERR re-arms the capture and zeroes COUNT (R70). -/
def State.lockClear (s : State) : State := s.modWarp fun w => { w with lockErr := false, lockCount := 0 }

/-- LOCKERR_CLEAR (R70): a write of 1 to WARP_LOCKERR.LOCKERR. -/
def execLockerrClear (s : State) : Host.Outcome State Fault Refusal := .next (if s.pwr.domainUp then s.lockClear else s)

/-! The Weft commands (R367). -/

/-- An MGMT job of a code that its row has not run. -/
def State.mgmtJob (s : State) (id code : Nat) : Option Job := (s.admitted id 0x0C).bind fun j => if leAt j.entry 4 2 == code then some j else none

end Sys2Proof.Machine
end

