-- ==== Sys2Proof/Machine/Boot.lean ====
section
/-! DEFINITION. MGT starts and resets: the boot ROM (R412), the start of the firmware and the combination check (R414-R416,
R430), module reset (R458, R459), power-on reset, the clocks (R33-R35). -/

namespace Sys2Proof.Machine

/-! The boot ROM. -/

/-- Version of a component in a slot: that of the first image that carries it (R411 step 4). -/
def compVersion (is : List FwImg) (bit : Nat) (v : FwImg → BitVec 16) : BitVec 16 :=
  ((is.find? fun i => bitN i.comps.toNat bit).map v).getD 0

/-- The combination of the versions MGT runs with (R414), in the layout of a TESTED entry. -/
def MgtSt.combination (m : MgtSt) : BitVec 64 :=
  BitVec.ofNat 64 (m.mgtVer.toNat + m.fcVer.toNat * 2 ^ 16 + m.hubVer.toNat * 2 ^ 32 + m.stepping.toNat * 2 ^ 48)

/-- Every image of the boot slot lists the combination (R414). -/
def MgtSt.tested (m : MgtSt) : Bool := (m.slot m.bootSlot).all fun i => i.tested.contains m.combination

/-- Why the ROM refuses a slot (log 0x7004): a slot without a whole set fails its signature check (R411). -/
def State.refusal (s : State) (n : Nat) : Nat :=
  if thas s.mgt.norBadBank (n - 1) then 5
  else if (s.mgt.slot n).any fun i => decide (i.secver < s.mgt.secverMin) then 3
  else 1

/-- Log 0x7004. -/
def State.logRefused (s : State) (n why : Nat) : State := s.log Src.rom.code 0x7004 (bytesLE 1 n ++ bytesLE 1 why)

/-- The held settings: those of the committed image's stored copy, of the last valid copy, or none at all, then with
discrepancy times of 2,000 ms (R68, R430). -/
def State.storedField (s : State) : FieldSet :=
  let copies := sortBy (fun (a b : StoreCopy) => decide (b.seq ≤ a.seq)) s.mgt.store
  let good := copies.findSome? fun c => match validate {} c.bytes c.bytes.length with
    | .ok img => some img.field
    | .error _ => none
  match good with
  | some f => f
  | none => { s.mgt.lastField.getD {} with disc := [2000, 2000] }

/-- Steps 3 and 4 of the start-up (R468): field settings, then the combination check; an override of another combination is void. -/
def State.mgtStarts (s : State) : State :=
  let s1 := (s.loadField s.storedField false).modField fun f => { f with xclkLost := f.xclkOut }
  let m := s1.mgt
  let stands := m.override == some m.combination
  let held := !m.tested && !stands
  let s2 := s1.modMgt fun m => { m with
    running := true, held := held, untested := stands, override := if stands then m.override else none }
  (if held then s2.log Src.mgt.code 0x7006 (bytesLE 8 m.combination.toNat) else s2).relevel

/-- The ROM starts a slot; trial firmware confirms itself, or MGT waits for the end of its 60 s (R412). -/
def State.bootFrom (s : State) (n : Nat) (trialOk : Bool) : State :=
  let is := s.mgt.slot n
  let s1 := s.modMgt fun m => { m with
    recovery := false, bootSlot := n, nextSlot := m.norNext, mgtVer := compVersion is 0 fun i => i.mgtV
    fcVer := compVersion is 1 fun i => i.fcV, hubVer := compVersion is 2 fun i => i.hubV }
  let m := s1.mgt
  let s2 := s1.log Src.rom.code 0x7001
    (bytesLE 1 n ++ bytesLE 2 m.mgtVer.toNat ++ bytesLE 2 m.fcVer.toNat ++ bytesLE 2 m.hubVer.toNat ++ bytesLE 1 m.stepping.toNat)
  if m.norTrial && n == m.norNext then
    if trialOk then
      ((s2.modMgt fun m => { m with norTrial := false, trial := false, trialFails := 0 }).log Src.mgt.code 0x7005 (bytesLE 1 n)).mgtStarts
    else s2.modMgt fun m => { m with trial := true }
  else (s2.modMgt fun m => { m with trial := false }).mgtStarts

/-- MGT restarts from the boot ROM (R412): slot NEXT, else the other one, else recovery. -/
def State.bootMgt (s : State) (trialOk : Bool) : State :=
  let s0 := s.modMgt fun m => { m with running := false, recovery := false, held := false, untested := false }
  let n := if s0.mgt.norNext = 2 then 2 else 1
  let o := 3 - n
  if s0.slotPasses n then s0.bootFrom n trialOk
  else
    let s1 := s0.logRefused n (s0.refusal n)
    if s1.slotPasses o then s1.bootFrom o trialOk
    else
      let s2 := s1.logRefused o (s1.refusal o)
      (s2.modMgt fun m => { m with recovery := true, bootSlot := 0, nextSlot := m.norNext, trial := false }).relevel

/-- TRIAL_TIMEOUT (R412): the trial was not confirmed in 60 s, so MGT restarts; the third time in a row NEXT becomes the other slot. -/
def execTrialTimeout (e : BootEnv) (s : State) : Host.Outcome State Fault Refusal :=
  .next (
    let m := s.mgt
    if !m.trial ∨ m.running ∨ !s.pwr.standby then s
    else
      let s1 := if m.trialFails + 1 < 3 then s.modMgt fun m => { m with trialFails := m.trialFails + 1 }
        else (s.modMgt fun m => { m with trialFails := 0, norTrial := false, norNext := m.otherSlot }).logRefused m.bootSlot 4
      s1.bootMgt e.trialOk)

/-! Module reset. -/

/-- What module reset does to MGT's own registers (R391, R419, MGMT block): staging, mailbox and operations of the NOR end. -/
def MgtSt.resetValue (m : MgtSt) : MgtSt :=
  { m with
    log := { m.log with progOn := false }, stagSrc := none, stag := [], stagPages := [], stagDone := false, keyRegs := []
    boardKey := m.boardKey + 1, mbCode := 0, mbArgLen := 0, mbGo := false, mbBusy := false, mbDone := false, mbStatus := 0
    mbReplyLen := 0, mbLogSeq := 0, mbArg := [], mbReply := [], norOps := [], long := none, rngOk := true }

/-- FIELD_PORT at its reset value; settings and FRESH bits stay (R440-R445, R457). -/
def EthPort.resetValue (p : EthPort) : EthPort :=
  { fecCfg := p.fecCfg, pcp := p.pcp, station := p.station, groups := p.groups, gates := p.gates, gatesNew := p.gatesNew
    fresh := p.fresh }

/-- Module reset (R458, R459): the power-loss sequence where the domain is up, the domain in reset, and MGT from the ROM. -/
def State.moduleReset (s : State) (cause : Nat) (src : BitVec 16) : State :=
  if !s.pwr.standby then s
  else
    let c := s.shutDomain.fresh
    let s1 := (c.2.modMgt MgtSt.resetValue).modField fun f => { f with
      fault := 0, ports := f.ports.map fun (e : Nat × EthPort) => (e.1, e.2.resetValue) }
    let s2 := (s1.modChain fun h => { h with crcErrors := 0, won := false }).modPwr fun p => { p with
      kind := 1, cause := cause, source := src, startDue := true, retried := cause == 10
      lockout := p.lockout && cause != 4, fails := if p.lockout && cause == 4 then [] else p.fails }
    s2.bootMgt (Config.freeNat 92 [c.1] % 2 == 1)

/-! The clocks. -/

/-- The root PLL or the clocks of MGT fail (R35, R450): MGT runs from XCLK, the time base is invalid, the field ports stop. -/
def State.toXclk (s : State) : State :=
  let s1 := s.modClk fun c => { c with onXclk := true }
  let s2 := (s1.modTime fun t => { t with st := 4, valid := false, xsub := 0, goodRun := 0 }).modField fun f => { f with portsStopped := true }
  (s2.log Src.mgt.code 0x6303 []).log Src.mgt.code 0x8101 []

/-- The lock is back (R33, R35, R450): MGT runs from SCLK, the time base is FREE, the field ports go on. -/
def State.lockBack (s : State) : State :=
  let s1 := s.modClk fun c => { c with lock := true, ok := 0x3F#6, onXclk := false }
  (if s.time.st = 4 then s1.modTime fun t => { t with st := 0, valid := false, fracPpb := 0 } else s1).modField fun f => { f with portsStopped := false }

/-- Clocks declared failed (R35): one log entry for each, and the module held in reset. -/
def State.clocksFail (s : State) (clks : BitVec 6) (lockLost : Bool) : State :=
  let bad := if lockLost then 0x3F#6 else clks
  if bad = 0 then s
  else
    let s1 := s.modClk fun c => { c with
      faults := c.faults ||| bad, ok := c.ok &&& ~~~bad, lock := c.lock && !lockLost
      unlocks := if lockLost then satAdd 16 c.unlocks 1 else c.unlocks }
    let s2 := s1.each ((List.range 6).filter fun i => bitN bad.toNat i) fun s i => s.log Src.mgt.code 0x8102 (bytesLE 1 i)
    if bad &&& 3#6 ≠ 0 then s2.toXclk else s2

/-- CLOCK_FAILURE (R35). -/
def execClockFailure (clks : BitVec 6) (lockLost : Bool) (s : State) : Host.Outcome State Fault Refusal :=
  .next (if !s.pwr.standby ∨ !s.clk.lock ∨ (clks = 0 ∧ !lockLost) then s
    else (s.clocksFail clks lockLost).moduleReset 5 Src.mgt.code)

/-- PLL_LOCK_RETRY (R33, R35): the lock is tried again. -/
def execPllLockRetry (locks : Bool) (s : State) : Host.Outcome State Fault Refusal :=
  .next (if s.pwr.standby ∧ (!s.clk.lock ∨ s.clk.onXclk) ∧ locks then s.lockBack else s)

/-- PLL_LOCK_RETURN (R35). -/
def execPllLockReturn (s : State) : Host.Outcome State Fault Refusal :=
  .next (if s.pwr.standby ∧ (!s.clk.lock ∨ s.clk.onXclk) then s.lockBack else s)

/-- XCLK_LOSS (R438): every output is de-energised until MGT reloads the field settings. -/
def execXclkLoss (s : State) : Host.Outcome State Fault Refusal := .next (s.modField fun f => { f with xclkLost := true, xclkOut := true })

/-- XCLK_RETURN (R438): MGT reloads the field settings. -/
def execXclkReturn (s : State) : Host.Outcome State Fault Refusal :=
  .next (
    if !s.field.xclkOut then s
    else
      let s1 := s.modField fun f => { f with xclkOut := false }
      if s.mgt.running then (s1.loadField s.storedField false).modField fun f => { f with xclkLost := false } else s1)

/-! Power-on reset. -/

/-- What MGT finds in NOR and fuses (R397, R458). -/
def MgtSt.kept (m : MgtSt) : MgtSt :=
  let l := m.log
  { log := { nextSeq := l.nextSeq, last := l.last, queue := l.queue, discarded := l.discarded, sectors := l.sectors, archived := l.archived,
             archPart := l.archPart, pages := l.pages, pageNext := l.pageNext, archIdx := l.archIdx, good := l.good, erased := l.erased, eraseDue := l.eraseDue }
    slotA := m.slotA, slotB := m.slotB, norNext := m.norNext, norTrial := m.norTrial, trialFails := m.trialFails, override := m.override
    secverMin := m.secverMin, stepping := m.stepping, keys := m.keys, keyHalf := m.keyHalf, keyFuses := m.keyFuses, rootKilled := m.rootKilled
    debugOpen := m.debugOpen, erasePending := m.erasePending, norSpare := m.norSpare, norRemap := m.norRemap, norBadBank := m.norBadBank
    norRefresh := m.norRefresh, store := m.store, lastField := m.lastField, bypass := m.bypass, stripBad := m.stripBad
    boardKey := m.boardKey + 1 }

/-- Settings of a field port kept in bank D (R457). -/
def EthPort.kept (p : EthPort) : EthPort :=
  { fecCfg := p.fecCfg, pcp := p.pcp, station := p.station, groups := p.groups, gates := p.gates, gatesNew := p.gatesNew }

/-- What power-on reset keeps (R458): NOR, the medium, fuses, bypass maps, what lies outside the module, and a stuck button (R460). -/
def State.kept (s : State) : State :=
  { pending := s.pending, free := s.free, fac := s.fac
    pwr := { startUps := s.pwr.startUps, in54 := s.pwr.in54, startDue := true }
    cores := s.cores.map fun (e : Nat × CoreSt) => (e.1, { e.2 with sfuValid := 0x07FF#16 }), mem := s.mem
    flash := { s.flash with dies := s.flash.dies.map fun (d : Nat × FcDie) => (d.1, { d.2 with misses := 0, partnerLost := false }) }
    search := s.search, ingest := { storePos := s.ingest.storePos, storeBase := s.ingest.storeBase }
    nvme := { s.nvme with lostSincePor := false }
    links := s.links, mgt := s.mgt.kept
    field := { ports := s.field.ports.map fun (e : Nat × EthPort) => (e.1, e.2.kept)
               btnState := if s.field.btnState = 2 then 2 else 0, xclkOut := s.field.xclkOut, xclkLost := s.field.xclkOut }
    time := { source := s.time.source, profile := s.time.profile, domain := s.time.domain }
    chain := { addr := s.chain.addr } }

/-- The module comes up with the standby input (R33, R458, R468 steps 1 to 4). -/
def State.powerOn (s : State) (e : BootEnv) (cause : Nat) (src : BitVec 16) : State :=
  let s1 := s.shutDomain.logAll.kept.modPwr fun p => { p with cause := cause, source := src }
  let s2 := s1.modClk fun c => { c with lock := true, ok := 0x3F#6, onXclk := false }
  let bad := ~~~e.clkOk
  let s3 := if e.pllLocks then s2.clocksFail bad false
    else (s2.modClk fun c => { c with lock := false, ok := 0 }).toXclk
  s3.bootMgt e.trialOk

/-- POWER_ON_RESET (R458): the standby input is applied. -/
def execPowerOnReset (e : BootEnv) (s : State) : Host.Outcome State Fault Refusal := .next (s.powerOn e 1 0)

/-- A full power cycle (R439, R458), with the effect of power-on reset; trial firmware's confirmation is open. -/
def State.powerCycle (s : State) (cause : Nat) (src : BitVec 16) : State :=
  let c := s.fresh
  c.2.powerOn { trialOk := Config.freeNat 92 [c.1] % 2 == 1 } cause src

end Sys2Proof.Machine
end

