-- ==== Sys2Proof/Machine/Unit.lean ====
section
/-! DEFINITION. Units of the module (R30, R472-R475): losing one, a fabric port that fails, and the start-up of the 54 V
domain from step 5 (R468, R469), with the self-tests (R168), the flash rebuild (R330) and the stored image (R68). -/

namespace Sys2Proof.Machine

/-! Units. -/

/-- Number of a unit in the logs (log entry 19): that of its temperature sensor (R395). -/
def unitNum : DieUnit → Nat
  | .ct n => n.val
  | .fc n => 16 + n.val
  | .hub => 24
  | .mh n => 25 + n.val
  | .hio => 27
  | .lk n => 28 + n.val
  | .stack n => 32 + n.val

/-- SOURCE of a unit (R402); a stack's is its memory hub's. -/
def unitSource : DieUnit → BitVec 16
  | .ct n => BitVec.ofNat 16 (2 + n.val)
  | .fc n => BitVec.ofNat 16 (18 + n.val)
  | .hub => 1#16
  | .mh n => BitVec.ofNat 16 (26 + n.val)
  | .hio => 28#16
  | .lk n => BitVec.ofNat 16 (29 + n.val)
  | .stack n => BitVec.ofNat 16 (26 + n.val / 4)

/-- The die behind a fabric port (R40); MGT's bridge is no unit of the 54 V domain. -/
def portUnit (p : Nat) : Option DieUnit :=
  if h : p < 16 then some (.ct ⟨p, h⟩)
  else if h : p - 16 < 8 then some (.fc ⟨p - 16, h⟩)
  else if p = 24 then some (.mh 0)
  else if p = 25 then some (.mh 1)
  else if p = 26 then some .hio
  else if p = 27 then some (.lk 0)
  else if p = 28 then some (.lk 1)
  else if p = 29 then some (.lk 2)
  else none

/-- The unit has not been lost (MOD_SL_STATUS). -/
def PwrSt.unitOk (p : PwrSt) : DieUnit → Bool
  | .ct n => bitN p.ctOk.toNat n
  | .stack n => bitN p.stackOk.toNat n
  | .mh n => bitN p.mhOk.toNat n
  | .fc n => bitN p.fcOk.toNat n
  | .hub => p.hubOk
  | .hio => p.hioOk
  | .lk n => bitN p.lkOk.toNat n

/-- A bit of a status field at 0. -/
def offBit {w : Nat} (v : BitVec w) (i : Nat) : BitVec w := v &&& ~~~(BitVec.ofNat w (2 ^ i))

/-- The unit is lost; a memory hub takes its four stacks with it (R473). -/
def PwrSt.dropUnit (p : PwrSt) : DieUnit → PwrSt
  | .ct n => { p with ctOk := offBit p.ctOk n }
  | .stack n => { p with stackOk := offBit p.stackOk n }
  | .mh n => { p with mhOk := offBit p.mhOk n, stackOk := p.stackOk &&& ~~~(BitVec.ofNat 8 (15 * 16 ^ n.val)) }
  | .fc n => { p with fcOk := offBit p.fcOk n }
  | .hub => { p with hubOk := false }
  | .hio => { p with hioOk := false }
  | .lk n => { p with lkOk := offBit p.lkOk n }

/-- Log 0x8501, and the unit's bit; without an FC die its partner writes its records straight to the medium (R328). -/
def State.markLost (s : State) (u : DieUnit) : State :=
  let s1 := (s.modPwr fun p => p.dropUnit u).log (unitSource u) 0x8501 (bytesLE 2 (unitNum u))
  match u with
  | .fc n => s1.modFcd (n.val ^^^ 1) fun d => { d with partnerLost := true }
  | _ => s1

/-- The bytes of stacks or board memory that go with a unit: start and length. -/
def unitSpans : DieUnit → List (Nat × Nat)
  | .stack n => [(n.val * 2 ^ 36, 2 ^ 36)]
  | .mh n => [(n.val * 2 ^ 38, 2 ^ 38), (0x10000000000 + n.val * 2 ^ 40, 2 ^ 40)]
  | _ => []

/-- Partitions with a window, or the model region, in one of the spans (R473). -/
def State.ptnsIn (s : State) (spans : List (Nat × Nat)) : List Nat :=
  (List.range 32).filter fun p =>
    let q := s.ptn p
    q.live && (q.windows.any (fun w => spans.any fun x => spansMeet w.pa w.len x.1 x.2) ||
      (q.modelUser && (match s.warp.activeImg with
        | some i => spans.any fun x => spansMeet i.modelBase i.modelLen x.1 x.2
        | none => false)))

/-- Memory is lost: the jobs that use it restart, and a resident image that lies partly in it is unloaded. -/
def State.memoryLost (s : State) (spans : List (Nat × Nat)) : State :=
  let s1 := s.each (s.ptnsIn spans) fun s p => s.each (s.jobsOf p) fun s j => s.stopJob j.id stRestart
  if s1.model.resident && spans.any fun x => spansMeet s1.model.base s1.model.len.toNat x.1 x.2 then s1.unloadModel 3 else s1

/-- The hub that holds the map cache and the save area: that of HUB_SAVE_BASE, or without an image the lowest working one. -/
def State.cacheHub (s : State) : Nat :=
  match s.warp.activeImg with
  | some _ => (s.sh.saveBase.toNat - 0x10000000000) / 2 ^ 40
  | none => if bitN s.pwr.mhOk.toNat 0 then 0 else 1

/-- A tile is lost: jobs with work on its cores restart, and the cores go into core reset (R473). -/
def State.tileLost (s : State) (t : Nat) : State :=
  let cores := (List.range 4).map fun i => 4 * t + i
  let s1 := s.each (cores.flatMap s.jobsOn) fun s id => s.stopJob id stRestart
  s1.each cores fun s c => s.coreReset c

/-- The reset that the loss of a unit draws (R473): none, or module reset with cause 6. -/
def State.lossResets (s : State) : DieUnit → Bool
  | .fc _ => true
  | .hub => true
  | .hio => true
  | .mh n => s.cacheHub == n.val
  | _ => false

/-- A unit of the running domain is lost (R472, R473): log 0x8501, its effect, and the level that is left. While the sequence of
R329 runs after an input failure, the loss has no effect, and is logged after the restart (R474). -/
def State.dieLost (s : State) (u : DieUnit) (l : Nat) : State :=
  if s.pwr.lossRunning then s.modPwr fun p => { p with lateLost := if p.lateLost.contains u then p.lateLost else p.lateLost ++ [u] }
  else if !s.pwr.domainUp || !s.pwr.unitOk u then s
  else
    let resets := s.lossResets u
    let s1 := s.markLost u
    if resets then s1.moduleReset 6 (unitSource u)
    else
      let s2 := match u with
        | .ct n => s1.tileLost n
        | .stack _ => s1.memoryLost (unitSpans u)
        | .mh _ => s1.memoryLost (unitSpans u)
        | .lk n => s1.each ((List.range 16).map fun i => 16 * n.val + i) fun s k => if (s.link k).st = 2 then s.linkDown k 6 else s
        | _ => s1
      (if s2.meetsSl2 then s2.dropLevel l else s2.shutDomain).checkWarn

/-- Every stack is lost (R467). -/
def State.loseStacks (s : State) : State :=
  s.each ([0, 1, 2, 3, 4, 5, 6, 7] : List (Fin 8)) fun s n => s.dieLost (.stack n) 0

/-- HEALTH_POLL_MISS (R472): the third poll missed in a row. -/
def execHealthPollMiss (u : DieUnit) (s : State) : Host.Outcome State Fault Refusal := .next (s.dieLost u 0)

/-- MGT_WATCHDOG_EXPIRY (R472). -/
def execMgtWatchdogExpiry (s : State) : Host.Outcome State Fault Refusal := .next (s.moduleReset 8 Src.mgt.code)

/-! A fabric port that fails (R48). -/

/-- A port is FAILED: its die is lost. -/
def State.portFails (s : State) (p : Nat) : State :=
  let s1 := (s.modPort p fun q => { q with failed := true, up := false, training := false }).log (Src.code .hub) 0x2F03 (bytesLE 1 p)
  let s2 := ((s1.notifyModule 0x2F03 p 0).portDrops p).pumpFabric
  match portUnit p with
  | some u => s2.dieLost u 0
  | none => s2

/-- The books of a port balance (R45). -/
def State.portBooksOk (s : State) (p : Nat) : Bool :=
  s.fab.books.all fun (e : Nat × CreditBook) =>
    e.1 / 1024 != p || e.2.sender + e.2.flying + e.2.returns + e.2.occ == vcConst (e.1 % 8)

/-- Both ends restore the books of a port: the returns on the way reach their senders (R48). -/
def State.restoreBooks (s : State) (p : Nat) : State :=
  s.modFab fun b => { b with books := b.books.map fun (e : Nat × CreditBook) =>
    if e.1 / 1024 = p then (e.1, { e.2 with sender := e.2.sender + e.2.flying + e.2.returns, flying := 0, returns := 0 }) else e }

/-- A port retrains (R48). -/
def State.retrainPort (s : State) (p : Nat) (ok : Bool) : State :=
  let s1 := s.modPort p fun q => { q with retrains := satAdd 16 q.retrains 1, trainFails := if ok then 0 else q.trainFails + 1 }
  if !ok then (if 3 ≤ (s1.port p).trainFails then s1.portFails p else s1)
  else if s1.portBooksOk p then (s1.restoreBooks p).pumpFabric
  else (s1.log (Src.code .hub) 0x2F05 (bytesLE 1 p)).portFails p

/-- A lane is retired (R48, R49, R475). -/
def State.retireLane (s : State) (p lane : Nat) : State :=
  let s1 := ((s.modPort p fun q => q.retire p lane).log (Src.code .hub) 0x2F02 (bytesLE 1 p ++ bytesLE 1 lane)).log (Src.code .hub) 0x8505
    (bytesLE 1 p ++ bytesLE 1 lane)
  if (s1.port p).lanesUp = 0 then s1.portFails p else ((s1.resend p lane 0).resend p lane 1).pumpFabric

/-- FLIT_CRC_FAIL (R48): a replay of the lane; `again` says that it is a further failed replay of the same flit, `retrain`
that the port retrained, and how that ended. -/
def execFlitCrcFail (port : Fin 31) (lane : Fin 48) (dir : Bool) (again : Bool) (retrain : Option Bool) (s : State) :
    Host.Outcome State Fault Refusal :=
  .next (
    if !(s.port port).laneUp port lane then s
    else
      let key := 2 * lane.val + b2n dir
      let n := if again then tget (s.port port).replayFails key 0 + 1 else 0
      let s1 := (s.modPort port fun q => { q with crcRetries := satAdd 16 q.crcRetries 1, replayFails := tset q.replayFails key n }).logRated
        (rateKey 0x2F01 port) oneSec (Src.code .hub) 0x2F01 (bytesLE 1 port)
      let s2 := if 8 ≤ n then s1.retireLane port lane else s1
      match retrain with
      | some ok => if (s2.port port).up then s2.retrainPort port ok else s2
      | none => s2)

/-! Start-up of the domain. -/

/-- May the domain start (R461, R468, R469)? -/
def State.mayStart (s : State) : Bool :=
  let p := s.pwr
  p.standby && p.in54 && s.mgt.running && s.clk.lock && !s.clk.onXclk && !p.domainUp && !p.lossRunning && !p.lockout && p.startDue &&
    p.restartWait.isNone && !s.mgt.rootKilled && !s.mgt.debugOpen

/-- Steps 5 and 6: every unit present but those that fail; ports train with the lanes they have.
What was lost during the power-loss sequence is logged (R474). Ingest bindings, by which a field port has told frames apart while the bridge was isolated (R21), are gone (log entry 24). -/
def State.startUnits (s : State) (e : StartEnv) : State :=
  let s1 := s.modPwr fun p => { p with
    ctOk := BitVec.allOnes 16, stackOk := BitVec.allOnes 8, mhOk := BitVec.allOnes 2, fcOk := BitVec.allOnes 8, hubOk := true, hioOk := true
    lkOk := BitVec.allOnes 3, isolated := false, domainUp := true, startDue := false, startUps := p.startUps + 1 }
  let lanes := fun (p : Nat) => ((e.lanes.find? fun x => x.1 == p).map (·.2)).getD (List.range (portLanes p))
  let s2 := ((s1.modIngest fun g => { g with binds := [] }).modFlash fun q =>
    { q with dies := q.dies.map fun (d : Nat × FcDie) => (d.1, { d.2 with partnerLost := false }) }).modFab fun b => { b with ports := (List.range 31).map fun p => (p, trainedPort p (lanes p)) }
  let s2 := (s2.each s2.pwr.lateLost fun s u => s.log (unitSource u) 0x8501 (bytesLE 2 (unitNum u))).modPwr fun p => { p with lateLost := [] }
  let dead := (List.range 31).filterMap fun p => if (s2.port p).failed then portUnit p else none
  let s3 := s2.each ((List.range 31).filter fun p => (s2.port p).failed) fun s p => s.log (Src.code .hub) 0x2F03 (bytesLE 1 p)
  s3.each (e.failed ++ dead) fun s u => if s.pwr.unitOk u then s.markLost u else s

/-- Step 6: the array self-test (R168): failing columns join the bypass map, and WIDTH falls; a core under 64 columns, or with
a bad strip, is retired for good. -/
def State.selfTest (s : State) (e : StartEnv) (c : Nat) : State :=
  let old := tget s.mgt.bypass c 0
  let new := ((e.columns.find? fun x => x.1 == c).map (·.2)).getD 0
  let all := old ||| new
  let bad := bitN s.mgt.stripBad.toNat c || bitN e.strips.toNat c
  let w := 128 - popN 128 all.toNat
  let width := if bad || decide (w < 64) then 0 else w
  let was := 128 - popN 128 old.toNat
  let before := if bitN s.mgt.stripBad.toNat c || decide (was < 64) then 0 else was
  let s1 := s.modMgt fun m => { m with
    bypass := if all = 0 then m.bypass else tset m.bypass c all
    stripBad := if bad then m.stripBad ||| BitVec.ofNat 64 (2 ^ c) else m.stripBad }
  let s2 := s1.modCore c fun k => { k with width := width, stripOk := !bad, colMap := ~~~all }
  let cols := (List.range 128).filter fun i => bitN new.toNat i && !bitN old.toNat i
  let s3 := s2.each cols fun s i => (s.log (ctSource c) 0x4204 (bytesLE 2 c ++ bytesLE 2 i)).log (ctSource c) 0x8505 (bytesLE 2 c ++ bytesLE 2 i)
  if width = 0 && before != 0 then s3.log (ctSource c) 0x8505 (bytesLE 2 c) else s3

/-- Step 7: the key registers are loaded by the rules of R418; a NEW slot that does not stand is discarded. -/
def State.loadKeys (s : State) : State :=
  s.modMgt fun m => { m with keyRegs := (List.range 33).filterMap fun n => (m.standing n).map fun g => (n, g) }

/-- Step 8: the FC dies rebuild their state (R330, R421): the journal is replayed into the cached map pages, open stripes go on from their saved
exclusive-ors, outstanding erases run, checkpoint slots being written are given up. Where a hardware fault cut the sequence of
R329 short, the seal is missing and the journal is rebuilt from page headers. -/
def State.rebuild (s : State) (cut : Bool) : State :=
  let c := s.fresh
  let n := s.flash.sys.length
  let s1 := if s.flash.sealed && !cut then c.2 else (c.2.log (fcSource 0) 0x3009 []).modFlash fun q => { q with unsafeShut := q.unsafeShut + 1 }
  let s2 := s1.modFlash fun q => { q with sealed := false, sysXor := [] }
  let s3 := s2.log (fcSource 0) 0x3006 (bytesLE 4 n ++ bytesLE 4 (Config.freeNat 94 [c.1]))
  let s4 := s3.each ((List.range 32).filter fun i => bitN s.mgt.erasePending.toNat i) fun s i => s.unmapAll (i + 1)
  (s4.modMgt fun m => { m with erasePending := 0 }).modLinks fun k => { k with
    slots := k.slots.map fun (e : Nat × CkSlot) => if e.2.st = 1 then (e.1, {}) else e }

/-- No valid copy (R68): PF0 serves the host namespaces that stand on the medium, device namespaces stay detached, and the
field settings are those of the last valid copy, with discrepancy times of 2,000 ms. -/
def State.noImage (s : State) : State :=
  (s.modFlash fun q => { q with nss := q.nss.map fun n => { n with attached := n.purpose == 0 }, mapCacheGiB := 16 }).loadField
    { s.mgt.lastField.getD {} with disc := [2000, 2000] } false

/-- Step 9: the stored copies are tried, the higher sequence number first (R68). -/
def State.tryCopies (s : State) : List StoreCopy → State
  | [] => s.noImage
  | c :: cs => match validate s.warpCtx c.bytes c.bytes.length with
    | .error e => ((s.warpError e.status e.sec e.off).log (Src.code .hub) 0x1008 (bytesLE 1 e.status)).tryCopies cs
    | .ok img =>
      let s1 := (s.log (Src.code .hub) 0x1001 (bytesLE 8 img.id.toNat ++ bytesLE 1 0)).applyImage .hub img false
      ((s1.modWarp fun w => { w with storePending := false }).modMgt fun m => { m with lastField := some img.field }).log (Src.code .hub) 0x1003
        (bytesLE 8 img.id.toNat ++ bytesLE 4 s1.warp.gen.toNat)

/-- SL2 is reached once the bank is READY or FAULT; then steps 9 and 10 follow (R468). -/
def State.finishStart (s : State) : State :=
  if s.pwr.domainUp && s.pwr.level == 1 && (s.pwr.holdup == 1 || s.pwr.holdup == 3) then
    let s1 := s.setLevel 2 0
    (s1.tryCopies (sortBy (fun (a b : StoreCopy) => decide (b.seq ≤ a.seq)) s1.mgt.store)).raiseLevel.checkWarn
  else s

/-- The domain did not reach SL2 (R469): log 0x8503 and one retry; the third failure within 10 minutes locks the start-up out. -/
def State.startFails (s : State) : State :=
  let recent := (s.pwr.fails.filter fun t => decide (s.now < t + 600 * oneSec)) ++ [s.now]
  let s1 := (s.domainDown.modPwr fun p => { p with fails := recent }).log Src.mgt.code 0x8503 (bytesLE 1 recent.length)
  if 3 ≤ recent.length then (s1.modPwr fun p => { p with lockout := true, startDue := false }).log Src.mgt.code 0x8504 []
  else if s.pwr.retried then s1
  else s1.moduleReset 10 Src.mgt.code

/-- DOMAIN_RESTART (R468, R469): the 54 V domain starts from step 5. -/
def execDomainRestart (e : StartEnv) (s : State) : Host.Outcome State Fault Refusal :=
  .next (
    if !s.mayStart then s
    else
      let s1 := (s.modClk fun c => { c with ok := 0x3F#6 }).startUnits e
      let s2 := s1.each (List.range 64) fun s c => s.selfTest e c
      if !s2.meetsSl2 then s2.startFails
      else (s2.loadKeys.rebuild e.cut).finishStart)

end Sys2Proof.Machine
end

