-- ==== Sys2Proof/Machine/Power.lean ====
section
/-! DEFINITION. Power inputs and the hold-up bank (R461-R464), cooling and rails (R465-R467), sensors (R395, R396), and the
energy accounts (R263). -/

namespace Sys2Proof.Machine

/-! Inputs. -/

/-- The 54 V input is gone (R462): R329 on the hold-up bank, the domain held off, SL1. -/
def State.inputFails (s : State) (high : Bool) : State :=
  let s1 := s.modPwr fun p => { p with in54 := false, pfails := satAdd 16 p.pfails 1, holdup := if p.holdup = 3 then 3 else 2 }
  let s2 := s1.log Src.mgt.code (if high then 0x8303 else 0x8302) []
  if s2.pwr.domainUp then s2.shutDomain.modPwr fun p => { p with lossRunning := true, startDue := true } else s2

/-- INPUT_54V_FAIL (R462). -/
def execInput54vFail (high : Bool) (s : State) : Host.Outcome State Fault Refusal :=
  .next (if s.pwr.standby ∧ s.pwr.in54 then s.inputFails high else s)

/-- INPUT_54V_RETURN (R462): start-up from step 5; where R329 still runs, it ends and a module reset with cause 9 follows. -/
def execInput54vReturn (s : State) : Host.Outcome State Fault Refusal :=
  .next (
    if s.pwr.in54 ∨ !s.pwr.standby then s
    else
      let s1 := s.modPwr fun p => { p with in54 := true, lossRunning := false, holdup := if p.holdup = 3 then 3 else 0 }
      if s.pwr.lossRunning then s1.moduleReset 9 Src.mgt.code else s1)

/-- STANDBY_FAIL (R406, R462): R329 where the domain is up, every queued entry, then entry 0x7011; MGT stops. -/
def execStandbyFail (s : State) : Host.Outcome State Fault Refusal :=
  .next (
    if !s.pwr.standby then s
    else
      let s1 := s.shutDomain.modMgt fun m => { m with running := false, recovery := false, norOps := [], long := none }
      let s2 := (s1.setLevel 0 0).logAll.log Src.mgt.code 0x7011 []
      (s2.logAll.modPwr fun p => { p with standby := false }).modChain fun c => { c with upUp := false, downUp := false })

/-- HOLDUP_READY (R463): the programs that waited start; a start-up that waited goes on. FAULT clears only where the domain
has not reached SL2 since its reset. -/
def execHoldupReady (s : State) : Host.Outcome State Fault Refusal :=
  .next (
    if !s.pwr.standby ∨ !s.pwr.in54 ∨ s.pwr.holdup = 1 ∨ (s.pwr.holdup = 3 ∧ s.pwr.domainUp ∧ 2 ≤ s.pwr.level) then s
    else
      let s1 := s.modPwr fun p => { p with holdup := 1 }
      (s1.each (List.range 64) fun s ch => s.startProg ch).finishStart.checkWarn)

/-- Commands of the host whose units wait to be programmed (R463). -/
def State.waitingWrites (s : State) : List NvmeOut :=
  let orders := (s.flash.gather ++ s.flash.waitMill).flatMap fun (e : Nat × List GUnit) => e.2.map fun g => g.order
  s.nvme.outs.filter fun o => o.started && o.writeClass && orders.contains o.order

/-- HOLDUP_FAULT (R463): log 0x8305; the write-class commands that wait complete with Namespace is Write Protected. -/
def execHoldupFault (s : State) : Host.Outcome State Fault Refusal :=
  .next (
    if !s.pwr.standby ∨ s.pwr.holdup = 3 then s
    else
      let s1 := (s.modPwr fun p => { p with holdup := 3 }).log Src.mgt.code 0x8305 []
      let outs := s1.waitingWrites
      let keep := fun (e : Nat × List GUnit) => (e.1, e.2.filter fun g => !outs.any fun o => o.order == g.order)
      let s2 := s1.modFlash fun q => { q with gather := q.gather.map keep, waitMill := q.waitMill.map keep }
      ((s2.each outs fun s o => s.nvEnd o nvProtected 0).finishStart).checkWarn)

/-- POWER_CAP_STEP (R464): 10 ms of a 100 ms average above the cap, or below its release, moves the best-effort gate by one. -/
def execPowerCapStep (avg : BitVec 16) (s : State) : Host.Outcome State Fault Refusal :=
  .next (
    if !s.pwr.domainUp then s
    else
      let g := s.pwr.gate
      let g1 := if 1950 < avg.toNat then max 1 (g - 1) else if avg.toNat < 1880 then min 8 (g + 1) else g
      let s1 := s.modPwr fun p => { p with avgW := avg.toNat, gate := g1, capping := decide (g1 < 8) }
      if g = 8 ∧ g1 < 8 then s1.logRated (rateKey 0x8301 0) (60 * oneSec) Src.mgt.code 0x8301 (bytesLE 2 avg.toNat) else s1)

/-! Temperatures. -/

/-- The limits of a sensor (R466): 0 warning, 1 throttle, 2 critical. -/
def hasLimit (sensor limit : Nat) : Bool :=
  if sensor < 31 ∨ (32 ≤ sensor ∧ sensor < 40) ∨ (48 ≤ sensor ∧ sensor < 56) then true
  else if sensor = 31 ∨ (40 ≤ sensor ∧ sensor < 46) then limit != 1
  else false

/-- What a critical limit does (R466). -/
def State.critical (s : State) (k : Nat) : State :=
  if k < 16 then (match portUnit k with
    | some u => s.dieLost u 0
    | none => s)
  else if k < 31 then
    (if s.pwr.domainUp then s.moduleReset 7 Src.mgt.code else s).modPwr fun p => { p with restartWait := some k }
  else if k = 31 then s.shutDomain.modPwr fun p => { p with startDue := false, restartWait := some 31 }
  else if h : k - 32 < 8 then s.dieLost (.stack ⟨k - 32, h⟩) 0
  else if k < 46 then
    s.each ((List.range 8).map fun i => 8 * (k - 40) + i) fun s l => if (s.link l).st = 2 then s.linkDown l 5 else s
  else s

/-- A warning (R466): log 0x8401 and a module notice, at most once per sensor per minute. -/
def State.tempWarn (s : State) (k : Nat) : State :=
  let v := (tget s.mgt.sensors k {}).value
  let s1 := s.logRated (rateKey 0x8401 k) (60 * oneSec) Src.mgt.code 0x8401 (bytesLE 2 k ++ bytesLE 4 v.toNat)
  if s1.mgt.log.nextSeq = s.mgt.log.nextSeq then s1 else s1.notifyModule 0x8401 k (BitVec.ofNat 64 v.toNat)

/-- TEMPERATURE_LIMIT (R466): a limit has acted. -/
def execTemperatureLimit (sensor : Fin 162) (limit : Fin 3) (s : State) : Host.Outcome State Fault Refusal :=
  .next (
    if !s.pwr.standby ∨ !hasLimit sensor limit ∨ s.pwr.acting.contains (sensor.val, limit.val) then s
    else
      let s1 := s.modPwr fun p => { p with acting := p.acting ++ [(sensor.val, limit.val)] }
      let bytes := bytesLE 2 sensor ++ bytesLE 4 (tget s.mgt.sensors sensor {}).value.toNat
      if limit.val = 0 then s1.tempWarn sensor
      else if limit.val = 1 then s1.log Src.mgt.code 0x8404 bytes
      else (s1.log Src.mgt.code 0x8405 bytes).critical sensor)

/-- TEMPERATURE_RELEASE (R466): programs that waited in a zone start. -/
def execTemperatureRelease (sensor : Fin 162) (limit : Fin 3) (s : State) : Host.Outcome State Fault Refusal :=
  .next (
    let s1 := s.modPwr fun p => { p with acting := p.acting.filter fun a => a != (sensor.val, limit.val) }
    if limit.val = 2 ∧ 48 ≤ sensor.val ∧ sensor.val < 56 then
      s1.each ((List.range 8).map fun i => 8 * (sensor.val - 48) + i) fun s ch => s.startProg ch
    else s1)

/-- LOW_FLOW (R465). -/
def execLowFlow (s : State) : Host.Outcome State Fault Refusal := .next (if s.pwr.standby then s.log Src.mgt.code 0x8403 [] else s)

/-- RAIL_OUT_OF_RANGE (R467): the rails by number as R395 lists them. -/
def execRailOutOfRange (rail : Fin 34) (high : Bool) (s : State) : Host.Outcome State Fault Refusal :=
  .next (
    let unit : Option DieUnit :=
      if h : rail.val < 16 then some (.ct ⟨rail.val, h⟩)
      else if h : rail.val - 16 < 8 then some (.fc ⟨rail.val - 16, h⟩)
      else if rail.val = 24 then some .hub
      else if rail.val = 25 then some (.mh 0)
      else if rail.val = 26 then some (.mh 1)
      else if rail.val = 27 then some .hio
      else if rail.val = 28 then some (.lk 0)
      else if rail.val = 29 then some (.lk 1)
      else if rail.val = 30 then some (.lk 2)
      else none
    if !s.pwr.domainUp then s
    else match unit with
      | some u => s.dieLost u 0
      | none =>
        if rail.val = 31 then s.inputFails high
        else if rail.val = 32 then s.moduleReset 6 Src.mgt.code
        else s.loseStacks)

/-! Sensors. -/

/-- Does an index hold a sensor (R395)? -/
def isSensor (i : Nat) : Bool := i != 63 && !(decide (98 ≤ i) && decide (i < 128)) && decide (i < 162)

/-- Nominal voltage of a sensor of a voltage, in mV: the rails' are not stated (log entry 8). -/
def nominalMv (i : Nat) : Option Nat :=
  if i = 56 then some 54000 else if i = 59 then some 12000 else if i = 61 then some 63000
  else if 128 ≤ i then some (Config.freeNat 93 [i]) else none

/-- A reading inside its physical range (R396). -/
def inRange (i : Nat) (v : BitVec 32) : Bool :=
  if i < 56 then decide (-40000 ≤ v.toInt) && decide (v.toInt ≤ 150000)
  else match nominalMv i with
    | some n => decide (8 * n ≤ 10 * v.toNat) && decide (10 * v.toNat ≤ 12 * n)
    | none => true

/-- One sensor takes one sample (R396): a failure is logged once, and VALUE holds. -/
def State.sampleOne (s : State) (i : Nat) (v : Option (BitVec 32)) : State :=
  let x : Sensor := tget s.mgt.sensors i {}
  let good := match v with
    | some w => if inRange i w then some w else none
    | none => none
  match good with
  | some w => s.modMgt fun m => { m with sensors := tset m.sensors i { valid := true, value := w } }
  | none =>
    let s1 := s.modMgt fun m => { m with sensors := tset m.sensors i { x with valid := false, failed := true } }
    if x.failed then s1 else s1.log Src.mgt.code 0x8203 (bytesLE 2 i ++ bytesLE 4 x.value.toNat)

/-- The inlet against the grade's range (R1, R465): log 0x8402 and a module notice when it leaves it. -/
def State.checkInlet (s : State) : State :=
  let x : Sensor := tget s.mgt.sensors 46 {}
  let lo : Int := if s.fac.gradeX then 5000 else 15000
  let hi : Int := if s.fac.gradeX then 55000 else 45000
  let out := decide (x.value.toInt < lo) || decide (hi < x.value.toInt)
  if !x.valid || out == s.pwr.inletOut then s
  else
    let s1 := s.modPwr fun p => { p with inletOut := out }
    if out then (s1.log Src.mgt.code 0x8402 (bytesLE 4 x.value.toNat)).notifyModule 0x8402 46 (BitVec.ofNat 64 x.value.toNat) else s1

/-- The die whose heat stopped the start-up has cooled (R466). -/
def State.checkCooled (s : State) : State :=
  match s.pwr.restartWait with
  | none => s
  | some k =>
    let x : Sensor := tget s.mgt.sensors k {}
    if x.valid && decide (x.value.toInt ≤ if k = 31 then 95000 else 90000) then s.modPwr fun p => { p with restartWait := none } else s

/-- SENSOR_SAMPLE (R395, R396): the readings of one millisecond by index; none: the sensor has given none for 10 ms. -/
def execSensorSample (vals : List (Option (BitVec 32))) (s : State) : Host.Outcome State Fault Refusal :=
  .next (
    if !s.mgt.running then s
    else
      let s1 := s.each (((List.range vals.length).zip vals).filter fun e => isSensor e.1) fun s e => s.sampleOne e.1 e.2
      s1.checkInlet.checkCooled.checkWarn)

/-! Energy (R263). -/

/-- The energy of a partition's activity counts. -/
def energyOf : List Nat → List Nat → Nat
  | c :: cs, k :: ks => c * k + energyOf cs ks
  | _, _ => 0

/-- ENERGY_ESTIMATE (R263): 100 µs of activity counts by kind. -/
def execEnergyEstimate (acts : List (Fin 32 × List Nat)) (s : State) : Host.Outcome State Fault Refusal :=
  .next (
    if !s.pwr.domainUp then s
    else s.each acts fun s a =>
      if (s.ptn a.1).live then
        let e := energyOf a.2 s.fac.coeffs
        s.modPtn a.1 fun q => { q with acct := tset q.acct 0 ((tget q.acct 0 0 + e) % 2 ^ 64), winEst := q.winEst + e }
      else s)

/-- ENERGY_RECONCILE (R263): the end of a window of 10 ms, with its measured energy in µJ, or none. -/
def execEnergyReconcile (meas : Option Nat) (s : State) : Host.Outcome State Fault Refusal :=
  .next (
    if !s.pwr.domainUp then s
    else
      let sum := (s.ptns.map fun (e : Nat × PtnSt) => e.2.winEst).foldl (· + ·) 0
      let close := fun (s : State) (f : Nat → Nat) => s.setPtns (s.ptns.map fun (e : Nat × PtnSt) =>
        (e.1, { e.2 with winEst := 0, acct := if e.2.winEst = 0 then e.2.acct
                         else tset e.2.acct 0 ((tget e.2.acct 0 0 + 2 ^ 64 - (e.2.winEst - f e.2.winEst) % 2 ^ 64) % 2 ^ 64) }))
      match meas with
      | none =>
        ((close s fun e => e).modSh fun h => { h with sensorLost := true }).logRated (rateKey 0x8201 0) oneSec (Src.code .hub) 0x8201 []
      | some m =>
        let f := fun (e : Nat) => if sum ≤ m then e else e * m / sum
        let total := (s.ptns.map fun (e : Nat × PtnSt) => f e.2.winEst).foldl (· + ·) 0
        (close s f).modSh fun h => { h with
          measured := h.measured + BitVec.ofNat 64 m, unattrib := h.unattrib + BitVec.ofNat 64 (m - total), recons := h.recons + 1
          lastScale := if sum ≤ m then 0x10000 else m * 2 ^ 16 / sum })

end Sys2Proof.Machine
end

