-- ==== Sys2Proof/Machine/Field.lean ====
section
/-! DEFINITION. The field connector: digital outputs, the field ring and watchdogs (R427-R433), digital inputs (R434), inhibit
inputs (R435-R437), the reset button (R439), the field ports with ingest (R299, R300, R440) and the cyclic exchange (R443-R445). -/

namespace Sys2Proof.Machine

/-! Outputs. -/

/-- Settings of output `n` (R59). -/
def FieldSt.doSet (f : FieldSt) (n : Nat) : DoSet := f.set.dos.getD n {}

/-- Inhibit input `i`. -/
def FieldSt.inhOf (f : FieldSt) (i : Nat) : InhSt := tget f.inh i {}

/-- State of an inhibit input (R435): 0 RELEASED, 1 DEMAND, 2 FAULT. -/
def InhSt.stateNum (i : InhSt) : Nat := if i.fault then 2 else if i.aRel && i.bRel then 0 else 1

/-- An output is held (R430). -/
def State.doHeld (s : State) (n : Nat) : Bool :=
  let p := (s.field.doSet n).source
  decide (32 ≤ p) || s.pwr.isolated || !(s.ptn p).live || (s.ptn p).wdogExpired || !bitN s.field.cmdSince.toNat n

/-- The value the interlock drives (R429). -/
def State.driven (s : State) (n : Nat) : Bool :=
  let f := s.field
  let d := f.doSet n
  if !s.pwr.standby || f.xclkLost || f.supplyLost || bitN f.fault.toNat n || !f.loaded then false
  else if (List.range 2).any (fun i => bitN d.inhMask.toNat i && (f.inhOf i).stateNum != 0) then d.safe
  else if s.doHeld n then d.safe
  else bitN f.commanded.toNat n

/-- A byte of one bit for each output. -/
def bits8 (f : Nat → Bool) : Nat := (List.range 8).foldl (fun a n => a + b2n (f n) * 2 ^ n) 0

/-- FIELD_SUPPLY_LOSS (R428). -/
def execFieldSupplyLoss (s : State) : Host.Outcome State Fault Refusal :=
  .next (if s.field.supplyLost then s
    else (s.modField fun f => { f with supplyLost := true }).log Src.mgt.code 0x6104 (bytesLE 1 1))

/-- FIELD_SUPPLY_RESTORE (R428). -/
def execFieldSupplyRestore (s : State) : Host.Outcome State Fault Refusal :=
  .next (if s.field.supplyLost then (s.modField fun f => { f with supplyLost := false }).log Src.mgt.code 0x6104 (bytesLE 1 0) else s)

/-- DO_OVERLOAD (R433): an energised output turns off and latches FAULT. -/
def execDoOverload (n : Fin 8) (s : State) : Host.Outcome State Fault Refusal :=
  .next (
    if s.driven n then
      let s1 := s.modField fun f => { f with fault := f.fault ||| BitVec.ofNat 8 (2 ^ n.val) }
      (s1.log Src.mgt.code 0x6102 (bytesLE 1 n)).notifyModule 0x6102 n 0
    else s)

/-- Output faults are cleared (R433). -/
def State.clearFaults (s : State) (mask : BitVec 8) : State := s.modField fun f => { f with fault := f.fault &&& ~~~mask }

/-- DO_FAULT_CLEAR: a write of 1 to FIELD_DO.FAULT (R433). -/
def execDoFaultClear (mask : BitVec 8) (s : State) : Host.Outcome State Fault Refusal := .next (if s.pwr.domainUp then s.clearFaults mask else s)

/-! The field ring (R431). -/

/-- FIELD_RING_ENABLE: a write to PTN_FIELD_CFG (R431). -/
def execFieldRingEnable (p : Fin 32) (v : BitVec 32) (s : State) : Host.Outcome State Fault Refusal := .next (if s.pwr.domainUp then s.ringCfg p 3 v.toNat else s)

/-- A record of the field ring breaks its table, or names a slot or output of another owner (R431). -/
def State.fieldBad (s : State) (p : Nat) (r : List Byte) : Bool :=
  let op := leAt r 0 1
  let mask := leAt r 7 1
  let obj := leAt r 2 2
  op == 0 || decide (3 < op) || leAt r 9 1 != 0 || leAt r 0xC 20 != 0 || (obj != 0xFFFF && !(s.ptn p).objOk obj) ||
    (if op = 1 then decide (1 < leAt r 1 1) || decide (63 < leAt r 6 1) || s.field.set.slotOwner.getD (leAt r 6 1) 0xFF != p
     else leAt r 1 1 != 0 || leAt r 6 1 != 0 || leAt r 0x20 32 != 0) ||
    (if op = 2 then (List.range 8).any fun n => bitN mask n && (s.field.doSet n).source != p else mask != 0 || leAt r 8 1 != 0) ||
    (if op = 3 then false else leAt r 0xA 2 != 0)

/-- Takes a record of the field ring for one OP, and signals its DONE. -/
def State.takeField (s : State) (p op : Nat) (run : List Byte → State → State) : State :=
  s.takeRec p 3 64 (s.fieldBad p) (fun slot bs s => s.ringSkip p 3 0x6105 slot (leAt bs 0 8)) (fun bs => leAt bs 0 1 == op)
    fun _ bs s => (run bs s).signalDone (portInput 30) p (leAt bs 2 2) (leAt bs 4 2)

/-- Slots that a partition owns. -/
def FieldSt.slotsOf (f : FieldSt) (p : Nat) : List Nat := (List.range 64).filter fun n => f.set.slotOwner.getD n 0xFF == p

/-- Every staged slot of a partition comes to the front at once, with its FRESH bit for both ports (R442). -/
def FieldSt.flip (f : FieldSt) (p : Nat) : FieldSt :=
  let ns := (f.slotsOf p).filter fun n => (tget f.mbox n {}).staged
  let bits := BitVec.ofNat 64 (ns.foldl (fun a n => a + 2 ^ n) 0)
  { f with
    mbox := ns.foldl (fun m n => let x : MboxSlot := tget m n {}; tset m n { x with front := x.back, staged := false }) f.mbox
    ports := [0, 1].foldl (fun t i => tset t i { (tget t i {}) with fresh := (tget t i {}).fresh ||| bits }) f.ports }

/-- SLOT_WRITE (R431, R442). -/
def execSlotWrite (p : Fin 32) (s : State) : Host.Outcome State Fault Refusal :=
  .next (s.takeField p 1 fun r s => s.modField fun f =>
    let n := leAt r 6 1
    let f1 := { f with mbox := tset f.mbox n { (tget f.mbox n {}) with back := BitVec.ofNat 256 (leAt r 0x20 32), staged := true } }
    if bitN (leAt r 1 1) 0 then f1.flip p else f1)

/-- DO_WRITE (R431, R432): the outputs of MASK are commanded; the watchdog restarts, and a hold of its expiry ends. -/
def execDoWrite (p : Fin 32) (s : State) : Host.Outcome State Fault Refusal :=
  .next (s.takeField p 2 fun r s =>
    let mask := BitVec.ofNat 8 (leAt r 7 1)
    let v := BitVec.ofNat 8 (leAt r 8 1)
    let s1 := s.modField fun f => { f with commanded := (f.commanded &&& ~~~mask) ||| (v &&& mask), cmdSince := f.cmdSince ||| mask }
    s1.modPtn p fun q => { q with wdogExpired := false, wdogRunning := q.wdogPeriod != 0, wdogStart := s.now })

/-- WDOG (R432): the period; while no expiry stands the watchdog starts from this record, or stops. -/
def execWdog (p : Fin 32) (s : State) : Host.Outcome State Fault Refusal :=
  .next (s.takeField p 3 fun r s => s.modPtn p fun q =>
    let n := leAt r 0xA 2
    if q.wdogExpired then { q with wdogPeriod := n } else { q with wdogPeriod := n, wdogRunning := n != 0, wdogStart := s.now })

/-- FIELD_WATCHDOG_EXPIRY (R432). -/
def execFieldWatchdogExpiry (p : Fin 32) (s : State) : Host.Outcome State Fault Refusal :=
  .next (
    if (s.ptn p).wdogRunning then
      let s1 := s.modPtn p fun q => { q with wdogExpired := true, wdogRunning := false }
      (s1.log Src.mgt.code 0x6103 (bytesLE 1 p)).notify p 0x6103 0 0
    else s)

/-! Digital inputs. -/

/-- DI_CHANGE (R434): the level has been stable for 200 µs. -/
def execDiChange (n : Fin 8) (level : Bool) (s : State) : Host.Outcome State Fault Refusal :=
  .next (
    if !s.pwr.standby ∨ bitN s.field.di.toNat n == level then s
    else
      let s1 := s.modField fun f => { f with
        di := f.di ^^^ BitVec.ofNat 8 (2 ^ n.val), diCount := tset f.diCount n ((tget f.diCount n 0) + 1) }
      let p := s.field.set.diNotify.getD n 0xFF
      if p < 32 && s.pwr.domainUp then s1.notify p 0x6101 (n.val + 256 * b2n level) (timeOf (max 0 (s.time.total - 200000))) else s1)

/-! Inhibit inputs. -/

/-- Changes input `i`. -/
def State.modInh (s : State) (i : Nat) (f : InhSt → InhSt) : State := s.modField fun x => { x with inh := tset x.inh i (f (x.inhOf i)) }

/-- The steps of R437 that the present channels show. -/
def InhSt.steps (i : InhSt) : InhSt :=
  if !i.fault then i
  else if !i.aRel && !i.bRel then { i with sawD := true }
  else if i.aRel && i.bRel && i.sawD then { i with sawR := true }
  else i

/-- INH_CHANNEL_CHANGE (R435-R437): demand takes effect at once; AGREE starts from 0 at each start of agreement. -/
def execInhChannelChange (i : Fin 2) (chB : Bool) (released : Bool) (s : State) : Host.Outcome State Fault Refusal :=
  .next (
    let x := s.field.inhOf i
    let y := if chB then { x with bRel := released } else { x with aRel := released }
    let z := if y.aRel == y.bRel && x.aRel != x.bRel then { y with agree := 0 } else y
    let s1 := s.modInh i fun _ => z.steps
    if x.stateNum = 0 ∧ z.stateNum = 1 ∧ s.pwr.standby then s1.logRated (rateKey 0x6001 i) oneSec Src.mgt.code 0x6001 (bytesLE 1 i) else s1)

/-- INH_DISAGREE_EXPIRY (R436): DISAGREE has reached DISC, or stands above a new one: FAULT. -/
def execInhDisagreeExpiry (i : Fin 2) (s : State) : Host.Outcome State Fault Refusal :=
  .next (
    let x := s.field.inhOf i
    let due := x.disc * 1000000
    if x.fault ∨ (x.aRel == x.bRel && decide (x.disagree < due)) then s
    else
      let s1 := s.modInh i fun x => InhSt.steps { x with
        fault := true, disagree := max x.disagree due, sawD := false, sawR := false, faults := satAdd 16 x.faults 1 }
      (s1.log Src.mgt.code 0x6002 (bytesLE 1 i)).notifyModule 0x6002 i 0)

/-- INH_AGREE_EXPIRY (R436): AGREE has reached DISC. -/
def execInhAgreeExpiry (i : Fin 2) (s : State) : Host.Outcome State Fault Refusal :=
  .next (let x := s.field.inhOf i; if x.aRel == x.bRel then s.modInh i fun x => { x with disagree := 0 } else s)

/-- A management acknowledge (R437): its status. -/
def State.inhAckOp (s : State) (i : Nat) (src : BitVec 16) : Nat × State :=
  let x := s.field.inhOf i
  if x.fault && x.sawD && x.sawR && x.aRel && x.bRel then
    (stOk, (s.modInh i fun x => { x with fault := false, disagree := 0, agree := 0, sawD := false, sawR := false }).log src 0x6003 (bytesLE 1 i))
  else (stInvalidField, (s.modInh i fun x => { x with ackRefused := true }).log src 0x6004 (bytesLE 1 i))

/-- FIELD_INH_ACK: a write of 1 to FIELD_INH.ACK (R437). -/
def execFieldInhAck (i : Fin 2) (s : State) : Host.Outcome State Fault Refusal :=
  .next (if s.pwr.domainUp then (s.inhAckOp i Src.bar2.code).2 else s)

/-! The reset button (R439). -/

/-- BUTTON_PRESS: the contact has been closed for 20 ms. -/
def execButtonPress (s : State) : Host.Outcome State Fault Refusal :=
  .next (if s.field.btnState = 0 then s.modField fun f => { f with btnState := 1, btnHold := 0, btnPresses := satAdd 32 f.btnPresses 1 } else s)

/-- BUTTON_RELEASE: the press has ended after a hold. -/
def execButtonRelease (holdMs : BitVec 30) (s : State) : Host.Outcome State Fault Refusal :=
  .next (
    if s.field.btnState ≠ 1 then s
    else
      let t := holdMs.toNat
      let s1 := s.modField fun f => { f with btnState := 0, btnHold := t }
      if t < 20 ∨ 30000 ≤ t then s1
      else if t < 8000 then (s1.log Src.button.code 0x6201 (bytesLE 4 t)).moduleReset 2 Src.button.code
      else (s1.log Src.button.code 0x6202 (bytesLE 4 t)).powerCycle 3 Src.button.code)

/-- BUTTON_STUCK: the hold has reached 30 s. -/
def execButtonStuck (s : State) : Host.Outcome State Fault Refusal :=
  .next (if s.field.btnState = 1 then (s.modField fun f => { f with btnState := 2, btnHold := 30000 }).log Src.button.code 0x6203 [] else s)

/-- BUTTON_UNSTICK: a stuck contact has been open for 1 s. -/
def execButtonUnstick (s : State) : Host.Outcome State Fault Refusal :=
  .next (if s.field.btnState = 2 then (s.modField fun f => { f with btnState := 0 }).log Src.button.code 0x6204 [] else s)

/-! Field ports. -/

/-- Field port `i`. -/
def State.eth (s : State) (i : Nat) : EthPort := tget s.field.ports i {}

/-- Changes field port `i`. -/
def State.modEth (s : State) (i : Nat) (f : EthPort → EthPort) : State :=
  s.modField fun x => { x with ports := tset x.ports i (f (tget x.ports i {})) }

/-- FIELD_PORT_LINK (R440): the link with the FEC that PORT_CFG set. -/
def execFieldPortLink (port : Fin 2) (up : Bool) (s : State) : Host.Outcome State Fault Refusal :=
  .next (if !s.mgt.running ∨ s.field.portsStopped then s
    else s.modEth port fun e => { e with linkUp := up, fec := if up then e.fecCfg else 0 })

/-- An address as six octets, the first one least significant. -/
def macOf (bs : List Byte) (o : Nat) : BitVec 48 := BitVec.ofNat 48 (leAt bs o 6)

/-- The port receives a destination address (R440). -/
def State.accepts (s : State) (i : Nat) (a : BitVec 48) : Bool :=
  s.fac.macs[i]? == some a || a == BitVec.allOnes 48 || a == 0x000000191B01#48 || a == 0x0E0000C28001#48 || (s.eth i).groups.contains a

/-- Offset of the payload, and EtherType, of a frame with at most one tag. -/
def frameType (f : List Byte) : Nat × Nat :=
  let t := beNat ((f.drop 12).take 2)
  if t = 0x8100 then (18, beNat ((f.drop 16).take 2)) else (14, t)

/-- A binding matches a frame (R299). -/
def BindSt.matches (b : BindSt) (port etype first : Nat) : Bool :=
  b.port == port && b.etype == etype && (b.stream == 0xFFFF || b.stream == first)

/-- The 32 bytes before a frame in an ingest record (R299). -/
def ingestHead (time storePos len port seq : Nat) (pad : Bool) : List Byte :=
  bytesLE 8 time ++ bytesLE 8 storePos ++ bytesLE 2 len ++ bytesLE 1 port ++ bytesLE 1 (b2n pad) ++ bytesLE 4 seq ++ zeros 8

/-- An accepted record of a binding goes to its store, whose oldest units are reclaimed when it is full; the first reclamation
after a bind is logged (R300). -/
def State.storeRecord (s : State) (b : Nat) (x : BindSt) (pos : Nat) (rec_ : List Byte) : State :=
  let r := s.reclaim x.store pos rec_.length
  let s1 := if r.1 && !x.reclaimed then
      (r.2.modIngest fun g => { g with binds := tset g.binds b { x with reclaimed := true } }).log (Src.code .hub) 0x3407 (bytesLE 1 x.store)
    else r.2
  s1.appendStore x.ptn x.store pos rec_

/-- A write of HUB into the buffer of a binding; none where a page has no translation. -/
def State.ingestPut (s : State) (x : BindSt) (o : Nat) (bs : List Byte) : Option State :=
  match State.bufXlate x.ptn { w := true, free := true } (pagePieces (x.buf + o) bs.length) [] s with
  | (.ok ps, s1) => some (State.writePieces x.ptn ps bs s1)
  | _ => none

/-- CONS of a binding's ring. -/
def State.ingestCons (s : State) (x : BindSt) : Nat :=
  match (s.translate x.ptn 64 (x.buf + 8) { r := true, free := true } false).1 with
  | .ok pa _ => match s.paRead pa 8 with
    | .ok bs _ => leNat bs
    | .bad => 0
  | _ => 0

/-- A frame that finds no room (R299). -/
def State.ingestDrop (s : State) (b : Nat) (x : BindSt) : State :=
  let s1 := s.modIngest fun g => { g with binds := tset g.binds b { x with drops := x.drops + 1 } }
  let s2 := (s1.ingestPut x 16 (bytesLE 8 (x.drops + 1))).getD s1
  s2.logRated (rateKey 0x3406 b) oneSec (Src.code .hub) 0x3406 (bytesLE 1 b)

/-- INGEST_RECORD (R299, R300): a frame becomes a record of its binding's ring, behind a pad record where it would wrap. -/
def State.ingestFrame (s : State) (b : Nat) (x : BindSt) (port : Nat) (f : List Byte) : State :=
  let room := x.len - 64
  let n := roundUp (32 + f.length) 64
  let at_ := x.prod % room
  let pad := if room < at_ + n then room - at_ else 0
  let used := x.prod - s.ingestCons x
  if room < used + pad + n then s.ingestDrop b x
  else
    let pos := if x.store = 0 then 2 ^ 64 - 1 else tget s.ingest.storePos x.store 0
    let rec_ := padTo n (ingestHead s.timeNow.toNat pos f.length port x.seq false ++ f)
    let put := do
      let s1 ← if pad = 0 then some s else s.ingestPut x (64 + at_) (padTo pad (ingestHead s.timeNow.toNat pos 0 port x.seq true))
      let s2 ← s1.ingestPut x (64 + (x.prod + pad) % room) rec_
      s2.ingestPut x 0 (bytesLE 8 (x.prod + pad + n))
    match put with
    | none => s.ingestDrop b x
    | some s1 =>
      let s2 := s1.modIngest fun g => { g with binds := tset g.binds b { x with prod := x.prod + pad + n, seq := x.seq + 1 } }
      let s3 := if x.store = 0 then s2
        else s2.flashWake.storeRecord b { x with prod := x.prod + pad + n, seq := x.seq + 1 } pos rec_
      let s4 := s3.signalRel (portInput 30) x.ptn x.obj (if pad = 0 then 1 else 2)
      s4.evalLevel 4 b (s4.ingestFill b)

/-- FIELD_FRAME_RX (R440): a frame without its FCS is classified. -/
def execFieldFrameRx (port : Fin 2) (f : List (BitVec 8)) (fcsOk : Bool) (s : State) : Host.Outcome State Fault Refusal :=
  .next (
    let e := s.eth port
    if !s.mgt.running || s.field.portsStopped || !e.linkUp then s
    else if !fcsOk then s.modEth port fun e => { e with fcsErr := satAdd 32 e.fcsErr 1 }
    else if f.length < 60 ∨ 1518 < f.length ∨ !s.accepts port (macOf f 0) then s
    else
      let t := frameType f
      if t.2 = 0x88F7 then s
      else if t.2 = 0x88B5 then
        (if 4 ≤ e.queue.length then s.modEth port fun e => { e with reqs := satAdd 32 e.reqs 1, dropped := satAdd 32 e.dropped 1 }
         else s.modEth port fun e => { e with reqs := satAdd 32 e.reqs 1, queue := e.queue ++ [(s.timeNow, f)] })
      else
        let first := beNat ((f.drop t.1).take 2)
        let hits := s.ingest.binds.filter fun b => b.2.matches port t.2 first
        if hits.isEmpty then s.modEth port fun e => { e with unclaimed := satAdd 32 e.unclaimed 1 }
        else if s.pwr.isolated then s.modEth port fun e => { e with ingDrops := satAdd 32 e.ingDrops 1 }
        else s.each hits fun s b => s.ingestFrame b.1 b.2 port f)

/-! The cyclic exchange. -/

/-- INH of a reply (R444). -/
def State.inhByte (s : State) : Nat :=
  let a := s.field.inhOf 0
  let b := s.field.inhOf 1
  b2n (a.stateNum == 1) + 2 * b2n (a.stateNum == 2) + 4 * b2n (b.stateNum == 1) + 8 * b2n (b.stateNum == 2) + 16 * b2n a.aRel + 32 * b2n a.bRel +
    64 * b2n b.aRel + 128 * b2n b.bRel

/-- A big-endian field of `n` bytes (R6). -/
def bytesBE (n v : Nat) : List Byte := (bytesLE n v).reverse

/-- The front buffer of a slot; a slot without an owner reads as zeros (R442). -/
def FieldSt.slotBytes (f : FieldSt) (n : Nat) : List Byte :=
  if f.set.slotOwner.getD n 0xFF = 0xFF then zeros 32 else bytesLE 32 (tget f.mbox n {}).front.toNat

/-- The payload of a reply (R444), for the slots it includes. -/
def State.cycPayload (s : State) (port cycle status : Nat) (time : BitVec 64) (slots : List Nat) (trunc : Bool) : List Byte :=
  let e := s.eth port
  let mask := slots.foldl (fun a n => a + 2 ^ n) 0
  bytesBE 1 1 ++ bytesBE 1 2 ++ bytesBE 2 cycle ++ bytesBE 2 e.station ++ bytesBE 1 status ++
    bytesBE 1 (b2n trunc + 2 * b2n (s.time.st == 4) + 4 * b2n s.pwr.isolated) ++ bytesBE 8 time.toNat ++
    bytesBE 1 s.field.di.toNat ++ bytesBE 1 (bits8 s.driven) ++ bytesBE 1 s.inhByte ++ zeros 1 ++ bytesBE 8 mask ++ bytesBE 8 e.fresh.toNat ++ zeros 4 ++
    slots.flatMap s.field.slotBytes

/-- CYCLIC_REQUEST (R443-R445): the oldest request of a port is checked, and its reply stands ready. -/
def execCyclicRequest (port : Fin 2) (s : State) : Host.Outcome State Fault Refusal :=
  .next (
    let e := s.eth port
    if !s.mgt.running || s.field.portsStopped then s
    else match e.queue with
      | [] => s
      | (time, f) :: rest =>
        let s1 := s.modEth port fun e => { e with queue := rest }
        let o := (frameType f).1
        let q := f.drop o
        let be := fun (i n : Nat) => beNat ((q.drop i).take n)
        let vid := if o = 18 then beNat ((f.drop 14).take 2) % 4096 else 0
        if be 1 1 ≠ 1 ∨ (be 4 2 ≠ e.station ∧ be 4 2 ≠ 0xFFFF) then s1
        else
          let status := if be 0 1 ≠ 1 then stVersion else if be 6 2 ≠ 0 ∨ be 24 8 ≠ 0 then stInvalidField else stOk
          let want := if status = stOk then bitsOf 64 (be 16 8) else []
          let slots := want.take 44
          let r : CycReply :=
            { dst := macOf f 6, vid := vid, pcp := e.pcp, payload := s.cycPayload port (be 2 2) status time slots (decide (44 < want.length)) }
          s1.modEth port fun e => { e with
            ready := e.ready ++ [r], fresh := e.fresh &&& ~~~(BitVec.ofNat 64 (slots.foldl (fun a n => a + 2 ^ n) 0)) })

/-- Start of a cycle of a gate list, in nanoseconds of TIME_NOW. -/
def Gates.start (g : Gates) : Nat := fld g.base.toNat 30 34 * 1000000000 + timeNs g.base

/-- The gates `t` nanoseconds into a cycle: those of the entry whose interval holds `t`, and of the last entry to the end of the cycle
(R441). -/
def gatesAt : List (Byte × Nat) → Nat → Byte
  | [], _ => 0xFF#8
  | [e], _ => e.1
  | e :: es, t => if t < e.2 then e.1 else gatesAt es (t - e.2)

/-- The instants of a cycle at which entries end. -/
def gateEnds : Nat → List (Byte × Nat) → List Nat
  | _, [] => []
  | a, e :: es => (a + e.2) :: gateEnds (a + e.2) es

/-- The gate of a class is open at instant `now` and stays open for `n` nanoseconds, so that a frame of that length may start (R441). An
empty list leaves every gate open. -/
def Gates.fits (g : Gates) (cls : Nat) (now : Int) (n : Nat) : Bool :=
  if g.ents.isEmpty || g.cycleNs == 0 then true
  else
    let t := ((now - (g.start : Int)) % (g.cycleNs : Int)).toNat
    let ends := (gateEnds 0 g.ents).filter fun e => decide (e < g.cycleNs)
    let marks := (t :: ends ++ g.cycleNs :: ends.map fun e => e + g.cycleNs).filter fun e => decide (t ≤ e) && decide (e < t + n)
    marks.all fun e => bitN (gatesAt g.ents (e % g.cycleNs)).toNat cls

/-- Nanoseconds that a reply takes at 25 Gb/s (R440): preamble, header with tag, payload and FCS. -/
def CycReply.time (r : CycReply) : Nat := ((8 + 18 + max 42 r.payload.length + 4) * 8 + 24) / 25

/-- A reply may start now: its class is its PCP, 0 to 7 (R441, R444; log entry 30). -/
def State.mayReply (s : State) (port : Nat) (r : CycReply) : Bool := (s.eth port).gates.fits r.pcp s.time.total r.time

/-- CYCLIC_REPLY_TRANSMIT (R441, R445): the reply leaves where its gate is open and it fits, and waits otherwise; `late` says that no such
window opened within a gate cycle. -/
def execCyclicReplyTransmit (port : Fin 2) (late : Bool) (s : State) : Host.Outcome State Fault Refusal :=
  .next (
    if !s.mgt.running || s.field.portsStopped then s
    else match (s.eth port).ready with
      | [] => s
      | r :: rest =>
        if s.mayReply port r && !late then
          s.modEth port fun e => { e with ready := rest, sent := e.sent ++ [r], replies := satAdd 32 e.replies 1 }
        else if late && !(s.eth port).gates.ents.isEmpty then
          (s.modEth port fun e => { e with ready := rest, late := satAdd 32 e.late 1 }).logRated (rateKey 0x6501 port) oneSec Src.mgt.code 0x6501
            (bytesLE 1 port)
        else s)

/-- QBV_LIST_ACTIVATE (R441): the first cycle start at or after the new list's base time. -/
def execQbvListActivate (port : Fin 2) (s : State) : Host.Outcome State Fault Refusal :=
  .next (match (s.eth port).gatesNew with
    | some g => if (g.start : Int) ≤ s.time.total then s.modEth port fun e => { e with gates := g, gatesNew := none } else s
    | none => s)

end Sys2Proof.Machine
end

