-- ==== Sys2Proof/Machine/Request.lean ====
section
/-! DEFINITION. The translation request ring (R114-R117, R121, R124): shootdowns, resumes, aborts and tier moves. -/

namespace Sys2Proof.Machine

/-- XREQ_ENABLE: a write to PTN_XREQ_CFG (R114). -/
def execXreqEnable (p : Fin 32) (v : BitVec 32) (s : State) : Host.Outcome State Fault Refusal := .next (if s.pwr.domainUp then s.ringCfg p 0 v.toNat else s)

/-- A request record in its fields (R115). -/
structure XReq where
  op : Nat := 0
  tier : Nat := 0
  doneObj : Nat := 0
  doneAdd : Nat := 0
  rsv1 : Nat := 0
  va : Nat := 0
  count : Nat := 0
  rsv2 : Nat := 0
  dest : Nat := 0
  deriving DecidableEq, Repr

/-- Reads a request record (R115). -/
def xreqOf (bs : List Byte) : XReq :=
  { op := leAt bs 0 1, tier := leAt bs 1 1, doneObj := leAt bs 2 2, doneAdd := leAt bs 4 2, rsv1 := leAt bs 6 2,
    va := leAt bs 8 8, count := leAt bs 16 4, rsv2 := leAt bs 20 4, dest := leAt bs 24 8 }

/-- An unknown OP, a non-zero reserved field or a field out of range (R115). DESIGN CHOICE (log entry 19): VA of SHOOT_ALL, for
which the table names no use, must be 0 as every other field without a use. -/
def PtnSt.xreqBad (q : PtnSt) (r : XReq) : Bool :=
  let aligned := r.va % 65536 == 0 && decide (r.va < 2 ^ 48)
  r.op == 0 || decide (6 < r.op) || r.rsv1 != 0 || r.rsv2 != 0 ||
    (r.doneObj != 0xFFFF && !q.objOk r.doneObj) ||
    (if r.op = 6 then decide (1 < r.tier) else r.tier != 0) ||
    (if r.op = 1 then r.count == 0 || decide (2 ^ 48 < r.va + 65536 * r.count) else r.count != 0) ||
    (if r.op = 1 ∨ r.op = 4 ∨ r.op = 6 then !aligned else if r.op = 2 then r.va != 0 else decide (2 ^ 32 ≤ r.va)) ||
    (if r.op = 6 then
       r.dest % 65536 != 0 || (match q.windowOf r.dest with
         | some w => w.tier != r.tier
         | none => true)
     else r.dest != 0)

/-- Takes a request record for one OP (R115). -/
def State.takeXreq (s : State) (p op : Nat) (run : Nat → XReq → State → State) : State :=
  s.takeRec p 0 32 (fun bs => (s.ptn p).xreqBad (xreqOf bs)) (fun slot bs s => s.ringSkip p 0 0x2202 slot (leAt bs 0 8))
    (fun bs => (xreqOf bs).op == op) fun slot bs s => run slot (xreqOf bs) s

/-- The agents that acknowledge a shootdown: the partition's cores and HUB's own cache, 64 (R116). -/
def State.shootAgents (s : State) (p : Nat) : List Nat := s.coresOf p ++ [64]

/-- The input by which a record's DONE comes: HUB's own, and for a MOVE the tier mover's, whose port the spec does not name:
that of memory hub 0 (R88; log entry 19). -/
def Shoot.input (q : Shoot) : Nat := if q.why = 2 then portInput 24 else 79

/-- Signals the DONE of the records at the front of the ring's order that are complete (R116). -/
def settleShoots (p : Nat) : List Shoot → State → State
  | [], s => s.modXl fun x => { x with shoots := x.shoots.filter fun q => q.ptn != p }
  | q :: qs, s =>
    if q.ptn ≠ p then settleShoots p qs s
    else if q.waiting.isEmpty && q.why != 1 then settleShoots p qs (s.signalDone q.input p q.doneObj q.doneAdd)
    else s.modXl fun x => { x with shoots := x.shoots.filter (fun r => r.ptn != p) ++ (q :: qs).filter fun r => r.ptn == p }

/-- As settleShoots, over the list as it stands. -/
def State.settle (s : State) (p : Nat) : State := settleShoots p s.xl.shoots s

/-- A record's work and its DONE, in the ring's order. -/
def State.addShoot (s : State) (q : Shoot) : State := (s.modXl fun x => { x with shoots := x.shoots ++ [q] }).settle q.ptn

/-- SHOOT_RANGE (R116). -/
def execShootRange (p : Fin 32) (s : State) : Host.Outcome State Fault Refusal :=
  .next (s.takeXreq p 1 fun _ r s => s.addShoot
    { ptn := p, vaLo := r.va, vaHi := r.va + 65536 * r.count, waiting := s.shootAgents p, doneObj := r.doneObj,
      doneAdd := r.doneAdd })

/-- SHOOT_ALL (R116). -/
def execShootAll (p : Fin 32) (s : State) : Host.Outcome State Fault Refusal :=
  .next (s.takeXreq p 2 fun _ r s => s.addShoot
    { ptn := p, vaLo := 0, vaHi := 2 ^ 48, waiting := s.shootAgents p, doneObj := r.doneObj, doneAdd := r.doneAdd })

/-- Does the span of a cached entry meet a range? -/
def meets (lo hi a b : Nat) : Bool := decide (a < hi) && decide (lo < b)

/-- An agent removes every cached entry of a partition whose span meets the range: leaves, walk entries, and on a core its
instruction-cache lines (R116, R134). -/
def State.invalidate (s : State) (p agent lo hi : Nat) : State :=
  let s1 := s.modXl fun x => { x with
    leaves := x.leaves.filter fun l => !(l.ptn == p && l.agent == agent && meets lo hi l.va (l.va + if l.big then 2 ^ 29 else 2 ^ 16))
    walks := x.walks.filter fun w =>
      let span := if w.level = 0 then 2 ^ 42 else 2 ^ 29
      !(w.ptn == p && w.agent == agent && meets lo hi (w.va * span) (w.va * span + span)) }
  if agent < 64 then s1.modCore agent fun k => { k with icache := k.icache.filter fun e => !meets lo hi (e.1 * 64) (e.1 * 64 + 64) }
  else s1

/-- A Bobbin transfer reads or writes in a range of addresses (R237). -/
def BobSt.touches (b : BobSt) (lo hi : Nat) : Bool :=
  let d := b.q.desc.toNat
  let n := fld d 96 9 + 1
  meets lo hi (fld d 0 48) (fld d 0 48 + n) || meets lo hi (fld d 48 48) (fld d 48 48 + n)

/-- A core has an access in flight that used a translation of the range: a thread's access or fetch, a remote write not yet
acknowledged, a stream's row, a Bobbin transfer. It has not acknowledged yet (R116, R117). HUB's own accesses are whole within
one command, so none of them is in flight when it acknowledges. -/
def State.accessInRange (s : State) (c lo hi : Nat) : Bool :=
  ((s.core c).threads.any fun e => e.2.st == tExec && (match e.2.pend with
    | .access _ => let va := e.2.va (s.inFlight c e.1); meets lo hi va (va + 1)
    | .uncached _ _ => let va := e.2.va (s.inFlight c e.1); meets lo hi va (va + 1)
    | .fetch _ _ => meets lo hi e.2.pc.toNat (e.2.pc.toNat + 8)
    | _ => false)) ||
  (((s.core c).streams ++ (s.core c).strmPre).any fun e => e.2.fly.any fun r => r.vas.any fun va => meets lo hi va (va + 1)) ||
  ((s.core c).threads.any fun e => e.2.remoteVas.any fun va => meets lo hi va (va + 1)) ||
  ((s.core c).bobs.any fun b => !b.halted && b.touches lo hi)

/-- Every core of the partition holds the leaf of a pin (R258). -/
def State.pinHeld (s : State) (p va : Nat) : Bool :=
  (s.coresOf p).all fun c => s.xl.leaves.any fun l => l.covers p c va && l.pinned

/-- A core walks the leaf of a pin and locks it (R258); a walk that fails pins nothing. -/
def State.pinCore (s : State) (p c va : Nat) : State :=
  match s.walk p c va { free := true } with
  | (.leaf l _ _, s1) => s1.modXl fun x =>
    { x with leaves := x.leaves.filter (fun y => !(y.cache == 3 && y.covers p c va)) ++ [{ l with pinned := true }] }
  | (_, s1) => s1

/-- OK of every pin of a partition follows what the cores hold (R258). -/
def State.pinRefresh (s : State) (p : Nat) : State :=
  s.modPtn p fun q => { q with pins := q.pins.map fun e => (e.1, { e.2 with ok := e.2.en && s.pinHeld p (e.2.va.toNat * 65536) }) }

/-- The pins of a partition whose page, as a core holds it, a shootdown covers (R258). -/
def State.pinsMet (s : State) (p c lo hi : Nat) : List Nat :=
  ((s.ptn p).pins.filter fun e =>
    let va := e.2.va.toNat * 65536
    e.2.en && (meets lo hi va (va + 65536) ||
      s.xl.leaves.any fun l => l.pinned && l.covers p c va && meets lo hi l.va (l.va + if l.big then 2 ^ 29 else 2 ^ 16))).map fun e =>
        e.2.va.toNat * 65536

/-- SHOOTDOWN_ACK (R116): the oldest shootdown that waits for the agent; the agent's entries are gone and its accesses that
used them performed. After acknowledging, a core walks the pinned pages again that the shootdown covered (R258). -/
def execShootdownAck (p : Fin 32) (agent : Fin 65) (s : State) : Host.Outcome State Fault Refusal :=
  .next (match s.xl.shoots.find? fun q => q.ptn == p.val && q.waiting.contains agent.val with
    | none => s
    | some q =>
      if agent.val < 64 && s.accessInRange agent q.vaLo q.vaHi then s
      else
        let s1 := s.invalidate p agent q.vaLo q.vaHi
        let s2 := s1.modXl fun x =>
          { x with shoots := modFirst (fun r => r == q) (fun r => { r with waiting := r.waiting.filter (· != agent.val) }) x.shoots }
        let pins := if agent.val < 64 then s.pinsMet p agent q.vaLo q.vaHi else []
        ((s2.each pins fun s va => s.pinCore p agent va).pinRefresh p).settle p)

/-- RESUME with a token (R121). -/
def execResume (p : Fin 32) (s : State) : Host.Outcome State Fault Refusal :=
  .next (s.takeXreq p 3 fun _ r s =>
    let s1 := match s.xl.halted.find? fun h => h.ptn == p.val && h.token.toNat == r.va && r.va != 0 && !h.note with
      | some h => s.resumeAgent h
      | none => s.modPtn p fun q => { q with xStale := satAdd 16 q.xStale 1 }
    s1.addShoot { ptn := p, doneObj := r.doneObj, doneAdd := r.doneAdd })

/-- RESUME_PAGE: every agent of the partition halted on the page (R121). -/
def execResumePage (p : Fin 32) (s : State) : Host.Outcome State Fault Refusal :=
  .next (s.takeXreq p 4 fun _ r s =>
    let hs := s.xl.halted.filter fun h => h.ptn == p.val && resolvable h.kind && !h.note && h.va.toNat / 65536 == r.va / 65536
    (s.each hs fun s h => s.resumeAgent h).addShoot { ptn := p, doneObj := r.doneObj, doneAdd := r.doneAdd })

/-- ABORT with a token: the agent aborts as when its window expires (R121). -/
def execAbortAgent (p : Fin 32) (s : State) : Host.Outcome State Fault Refusal :=
  .next (s.takeXreq p 5 fun _ r s =>
    let s1 := match s.xl.halted.find? fun h => h.ptn == p.val && h.token.toNat == r.va && r.va != 0 && !h.note with
      | some h => s.abortHalted h
      | none => s.modPtn p fun q => { q with xStale := satAdd 16 q.xStale 1 }
    s1.addShoot { ptn := p, doneObj := r.doneObj, doneAdd := r.doneAdd })

/-- A MOVE fails: notice 0x2203, no DONE (R124; the notice's SOURCE and DATA are the model's, log entry 19). -/
def State.moveFails (s : State) (p slot va : Nat) : State := s.notify p 0x2203 slot (BitVec.ofNat 64 va)

/-- A leaf while its page moves: V = 0, MOVING = 1, the same PPN (R124). -/
def movingLeaf (e : Nat) : Nat := setBitN (setBitN e 0 false) 5 true

/-- A fault of a MOVE (R122): its record, with the code of HUB's unit 0, since R119 lists none for the tier mover (DESIGN
CHOICE, log entry 19), and the failure. -/
def State.moveFault (s : State) (p slot va kind level : Nat) : State :=
  (s.noteFault { ptn := p, agent := 0x1000 + 16 * 31, va := BitVec.ofNat 64 va, kind := kind, access := 11, level := level }).moveFails p slot va

/-- MOVE, steps 1 to 3 (R124): the walk, the swap of the leaf, the shootdown of the page. The source must be a page allowed to
the partition (R110); a VA in the model aperture has no leaf (R107). -/
def execMovePage (p : Fin 32) (s : State) : Host.Outcome State Fault Refusal :=
  .next (s.takeXreq p 6 fun slot r s =>
    if fld r.va 42 6 = 63 then s.moveFails p slot r.va
    else match s.walk p 64 r.va { free := true } with
    | (.leaf l at_ raw, s1) =>
      if l.big then s1.moveFails p slot r.va
      else match s1.leafCheck l r.va {} true with
      | .fault k lv => s1.moveFault p slot r.va k lv
      | _ =>
        let s2 := (s1.paWrite at_ (bytesLE 8 (movingLeaf raw))).chargeMem p at_ 8
        let m : MoveSt :=
          { ptn := p, va := r.va, leafPa := at_, oldLeaf := BitVec.ofNat 64 raw, src := l.pa, dst := r.dest,
            doneObj := r.doneObj, doneAdd := r.doneAdd, slot := slot }
        let s3 := s2.modXl fun x => { x with moves := x.moves ++ [m] }
        s3.addShoot
          { ptn := p, vaLo := r.va, vaHi := r.va + 65536, waiting := s3.shootAgents p, doneObj := r.doneObj,
            doneAdd := r.doneAdd, why := 1 }
    | (.fault k lv, s1) => s1.moveFault p slot r.va k lv
    | (_, s1) => s1.moveFails p slot r.va)

/-- MOVE_COPY_DONE (R124 step 4): the copy has ended; the leaf gets its new page and the page is shot down again; an
uncorrectable error restores the old leaf and fails the request. -/
def execMoveCopyDone (p : Fin 32) (s : State) : Host.Outcome State Fault Refusal :=
  .next (match s.xl.moves.find? fun m => m.ptn == p.val, s.xl.shoots.find? fun q => q.ptn == p.val && q.why == 1 with
    | some m, some q =>
      if !q.waiting.isEmpty then s
      else
        let drop := fun (s : State) => s.modXl fun x => { x with moves := dropFirst (fun y => y == m) x.moves }
        match s.paRead m.src 65536, s.paUsable m.dst 65536 with
        | .ok bs false, true =>
          let s1 := (((s.paReadFx m.src 65536).paWrite m.dst bs).chargeMem p m.src 65536).chargeMem p m.dst 65536
          let s2 := drop ((s1.paWrite m.leafPa (bytesLE 8 (m.oldLeaf.toNat - fld m.oldLeaf.toNat 16 34 * 65536 + m.dst / 65536 * 65536))).chargeMem p m.leafPa 8)
          (s2.modXl fun x => { x with shoots := modFirst (fun r => r == q) (fun r => { r with why := 2, waiting := s2.shootAgents p }) x.shoots }).settle p
        | _, _ =>
          let s1 := drop (((s.linesUe m.src 65536).paWrite m.leafPa (bytesLE 8 m.oldLeaf.toNat)).chargeMem p m.leafPa 8)
          ((s1.modXl fun x => { x with shoots := dropFirst (fun r => r == q) x.shoots }).moveFails p m.slot m.va).settle p
    | _, _ => s)

end Sys2Proof.Machine
end

