-- ==== Sys2Proof/Machine/Stream.lean ====
section
/-! DEFINITION. Stream engines, multicast streams and the Bobbin path (R227-R238). Requests are issued as soon as the books
allow; a row's data moves when its landing is commanded (log entries 16 and 24). -/

namespace Sys2Proof.Machine

/-- A stream descriptor in its fields (R227). -/
structure StDesc where
  chunkLog : Nat := 0
  stride : Nat := 0
  mode : Nat := 0
  group : Nat := 0
  doneObj : Nat := 0x1FFF
  availObj : Nat := 0x1FFF
  slotRow : Nat := 0
  rows : Nat := 1
  tiles : Nat := 1
  addr : Nat := 0
  deriving DecidableEq, Repr

/-- The fields of the 128 bits (R227). -/
def stDecode (w : Nat) : StDesc :=
  { chunkLog := fld w 126 2, stride := fld w 116 10, mode := fld w 113 3, group := fld w 108 5, doneObj := fld w 95 13,
    availObj := fld w 82 13, slotRow := fld w 72 10, rows := fld w 64 8 + 1, tiles := fld w 48 16 + 1, addr := fld w 0 48 }

/-- The descriptor of a running stream. -/
def StreamSt.d (st : StreamSt) : StDesc := stDecode st.q.desc.toNat

/-- Bytes of a GATHER chunk. -/
def StDesc.chunk (d : StDesc) : Nat := 16 * 2 ^ d.chunkLog

/-- Bytes of GATHER's index run (R228). -/
def StDesc.indexBytes (d : StDesc) : Nat := d.tiles * d.rows * 32 * 4 / 2 ^ d.chunkLog

/-- Distance between tiles in memory (R227). -/
def StDesc.strideBytes (d : StDesc) : Nat := (if d.stride = 0 then d.rows else d.stride) * 512

/-- Rejection by R228 that needs only the descriptor. -/
def StDesc.bad (d : StDesc) : Bool :=
  decide (4 < d.mode) || d.chunkLog == 3 || (d.mode != 2 && d.chunkLog != 0) ||
    (d.mode == 4 && (d.stride != 0 || d.addr != 0)) || (d.mode < 3 && d.group != 0) || (d.mode == 3 && d.slotRow != 0) ||
    decide (128 < d.rows) || (d.mode != 3 && decide (768 < d.slotRow + 4 * d.rows)) ||
    (if d.mode = 2 then d.addr % d.chunk != 0 else d.addr % 64 != 0) ||
    (d.availObj == 0x1FFF && decide (4 < d.tiles) && (d.mode == 0 || d.mode == 2 || d.mode == 4)) ||
    (d.mode == 2 && (decide (768 * 512 < d.stride * 512 + d.indexBytes) ||
      rowsMeet d.stride (rowsOf d.indexBytes) d.slotRow (4 * d.rows)))

/-- Rejection because of the group (R57, R228). -/
def StDesc.badGroup (d : StDesc) (s : State) (c : Nat) : Bool :=
  (d.mode == 3 || d.mode == 4) &&
    (tget s.fab.mcOwner d.group 0xFF != s.partOf c || (d.mode == 4 && !bitN (tget s.fab.members d.group 0).toNat c))

/-- An object number at or above SYNC_COUNT other than 0x1FFF (R84, R228). -/
def StDesc.badObj (d : StDesc) (q : PtnSt) : Bool :=
  (d.doneObj != 0x1FFF && !q.objOk d.doneObj) || (d.availObj != 0x1FFF && !q.objOk d.availObj)

/-- Stream engine `e` of core `c`. -/
def State.strm (s : State) (c e : Nat) : StreamSt := tget (s.core c).streams e {}

/-- Changes a stream engine. -/
def State.modStrm (s : State) (c e : Nat) (f : StreamSt → StreamSt) : State :=
  s.modCore c fun k => { k with streams := tset k.streams e (f (tget k.streams e {})) }

/-- The books of a multicast group. -/
def State.mct (s : State) (g : Nat) : McastTok := tget s.mctok g {}

/-- Changes the books of a multicast group. -/
def State.modMct (s : State) (g : Nat) (f : McastTok → McastTok) : State := s.setMctok (tset s.mctok g (f (s.mct g)))

/-- Every member core of a group. -/
def State.members (s : State) (g : Nat) : List Nat := bitsOf 64 (tget s.fab.members g 0).toNat

/-- Is a stream a member's part of a multicast stream? -/
def StreamSt.joins (st : StreamSt) (g : Nat) : Bool := st.busy && strmMode st == 4 && strmGroup st == g

/-- A member's part of a multicast stream on an engine: whether it is pre-empted, and the stream. -/
def CoreSt.memberStrm (k : CoreSt) (g e : Nat) : Option (Bool × StreamSt) :=
  let run : StreamSt := tget k.streams e {}
  let pre : StreamSt := tget k.strmPre e {}
  if pre.joins g then some (true, pre) else if run.joins g then some (false, run) else none

/-- Changes a member's part of a multicast stream. -/
def State.modMember (s : State) (g c e : Nat) (f : StreamSt → StreamSt) : State :=
  match (s.core c).memberStrm g e with
  | some (true, st) => s.modCore c fun k => { k with strmPre := tset k.strmPre e (f st) }
  | some (false, st) => s.modCore c fun k => { k with streams := tset k.streams e (f st) }
  | none => s

/-- Every member has joined with a stream that is not pre-empted (R232, R236). -/
def State.mcReady (s : State) (g : Nat) : Bool :=
  (s.members g).all fun c => (s.mct g).joined.any fun j => j.1 == c && (s.strm c j.2).joins g

/-- May the engine start its next tile (R229, R233)? -/
def State.tileFree (s : State) (c e : Nat) : Bool :=
  let st := s.strm c e
  let d := st.d
  decide (st.nextTile < d.tiles) &&
    (match d.mode with
     | 1 => (d.availObj == 0x1FFF || decide (st.nextTile < st.taken)) && decide (st.nextTile < st.landed + 4)
     | 3 => s.mcReady d.group && (s.members d.group).all fun m => decide (0 < tget (s.mct d.group).tokens m 0)
     | 4 => false
     | _ => decide (st.nextTile < 4 + st.taken) && decide (st.nextTile < st.landed + 4))

/-- The pieces of a row by virtual address and length; a zero chunk has none (R230). -/
def CoreSt.rowPieces (k : CoreSt) (d : StDesc) (tile row : Nat) : List (Option Nat × Nat) :=
  if d.mode = 2 then
    let per := 512 / d.chunk
    (List.range per).map fun i =>
      let j := (tile * d.rows + row) * per + i
      let x := leAt (k.spadBytes (d.stride * 512 + 4 * j) 4) 0 4
      if x = 0xFFFFFFFF then (none, d.chunk) else (some ((d.addr + d.chunk * x) % 2 ^ 48), d.chunk)
  else
    let va := (d.addr + tile * d.strideBytes + row * 512) % 2 ^ 48
    let n := min 512 (65536 - va % 65536)
    if n = 512 then [(some va, 512)] else [(some va, n), (some ((va + n) % 2 ^ 48), 512 - n)]

/-- What translating a row's pieces comes to. -/
inductive RowXl where
  | ok (parts : List (Option Nat × Nat)) (vas : List Nat)
  | fault (va kind level : Nat)
  | moving
  | uncorrectable

/-- Translates the pieces of a row in order (R235). -/
def rowXlate (p c : Nat) (need : Need) : List (Option Nat × Nat) → List (Option Nat × Nat) → List Nat → State → RowXl × State
  | [], ps, vs, s => (.ok ps vs, s)
  | (none, n) :: rest, ps, vs, s => rowXlate p c need rest (ps ++ [(none, n)]) vs s
  | (some va, n) :: rest, ps, vs, s =>
    match s.translate p c va need true with
    | (.ok pa _, s1) => rowXlate p c need rest (ps ++ [(some pa, n)]) (vs ++ [va]) s1
    | (.fault k lv, s1) => (.fault va k lv, s1)
    | (.moving, s1) => (.moving, s1)
    | (.uncorrectable, s1) => (.uncorrectable, s1)

/-- A translation fault of a stream (R235): the stream, and with a leader its whole group, is halted, or its task aborts. -/
def State.streamFault (s : State) (c e va kind level : Nat) : State :=
  let st := s.strm c e
  let d := st.d
  let h : HaltRec := { ptn := s.partOf c, agent := 64 * c + 32 + e, va := BitVec.ofNat 64 va, kind := kind,
                       access := if d.mode = 1 then 6 else 5, level := level, lc := st.q.lc, mcast := d.mode == 3,
                       group := if d.mode = 3 then d.group else 0xFF, job := st.q.job }
  match s.takeFault h with
  | (.halted, s1) =>
    let s2 := s1.modStrm c e fun st => { st with halted := true, faultVa := BitVec.ofNat 64 va }
    if d.mode = 3 then s2.mcHalt d.group true else s2
  | (.abort, s1) => s1.kindFault c st.q.thr kind

/-- Takes one token of every member and starts the tile at every member (R233). -/
def State.mcStartTile (s : State) (g : Nat) : State :=
  let s1 := s.modMct g fun m => { m with started := (m.started + 1) % 2 ^ 32
                                         tokens := m.tokens.map fun t => (t.1, t.2 - 1) }
  s1.each (s.mct g).joined fun s j => s.modMember g j.1 j.2 fun st => { st with nextTile := st.nextTile + 1 }

/-- Issues the requests that the books allow (R229, R230, R235), at most `fuel` rows. -/
def pump (c e : Nat) : Nat → State → State
  | 0, s => s
  | fuel + 1, s =>
    let st := s.strm c e
    let d := st.d
    let fresh := st.row == 0
    if !st.busy || st.halted || ((s.core c).saving && !st.q.lc) || d.mode == 4 || (d.mode == 3 && !s.mcReady d.group) || (fresh && !s.tileFree c e) then s
    else
      let tile := if fresh then st.nextTile else st.nextTile - 1
      let p := s.partOf c
      let k := s.core c
      let per := 512 / d.chunk
      let idxBad := if d.mode = 2 then k.spadBad (d.stride * 512 + 4 * ((tile * d.rows + st.row) * per)) (4 * per) else none
      match idxBad with
      | some sec => ((s.spadUe c sec).ueEvent c).threadUncorrectable c st.q.thr
      | none =>
        match rowXlate p c { r := d.mode != 1, w := d.mode == 1, lc := st.q.lc } (k.rowPieces d tile st.row) [] [] s with
        | (.ok ps vs, s1) =>
          let s2 := if fresh && d.mode == 3 then s1.mcStartTile d.group else s1
          pump c e fuel (s2.modStrm c e fun st =>
            { st with nextTile := if fresh then st.nextTile + 1 else st.nextTile,
                      row := if st.row + 1 = d.rows then 0 else st.row + 1,
                      fly := st.fly ++ [{ tile := tile, row := st.row, tag := st.row % 6, parts := ps, vas := vs }] })
        | (.fault va kind lv, s1) => s1.streamFault c e va kind lv
        | (.moving, s1) => s1
        | (.uncorrectable, s1) => s1.threadUncorrectable c st.q.thr

/-- Rows that may be requested and not landed: four slots of 128 rows. -/
def pumpFuel : Nat := 512

/-- Starts a stream (R227-R233): its books, its AVAIL object set and enrolled, and its first requests. -/
def State.startStream (s : State) (c e : Nat) (q : QEntry) : State :=
  let d := stDecode q.desc.toNat
  let p := s.partOf c
  let s1 := s.modStrm c e fun _ => { busy := true, q := q }
  let s2 := if d.mode != 3 && d.availObj != 0x1FFF then
      let n := (s.ptn p).syncBase + d.availObj
      (s1.syncArrive c n (.setAll 0 1 1)).syncArrive c n (.wait (.stream c (strmWaiter e q.lc)))
    else s1
  let s3 := match d.mode with
    | 3 => s2.modMct d.group fun m => { m with active := true, halted := false, lead := c, leadEng := e + 3, started := 0 }
    | 4 => s2.modMct d.group fun m => { m with joined := m.joined ++ [(c, e)], tokens := tset m.tokens c 4 }
    | _ => s2
  pump c e pumpFuel s3

/-- A stream engine starts the stream at the head of its queue when it is of the command's mode (R227-R233). MC_LEAD waits
while its group carries a stream, MC_JOIN while its core has already joined. A descriptor whose MODE has no row is taken
and rejected by whichever stream command comes. -/
def State.streamOp (s : State) (c e mode : Nat) : State :=
  let k := s.core c
  if (s.strm c e).busy then s
  else match k.engHead (e + 3) with
    | none => s
    | some q =>
      let d := stDecode q.desc.toNat
      if d.mode != mode && d.mode ≤ 4 then s
      else
        let s1 := s.takeEntry c (e + 3) q
        if d.bad || d.badGroup s c then s1.programFault c q.thr cDescriptor
        else if d.badObj (s.ptn (s.partOf c)) then s1.programFault c q.thr cSyncRange
        else if d.mode = 3 ∧ (s.mct d.group).active then s
        else if d.mode = 4 ∧ (s.mct d.group).joined.any (fun j => j.1 == c) then s
        else s1.startStream c e q

/-- LOAD (R229). -/
def execStreamLoad (c : Fin 64) (e : Fin 2) (s : State) : Host.Outcome State Fault Refusal := .next (s.streamOp c e 0)

/-- STORE (R229). -/
def execStreamStore (c : Fin 64) (e : Fin 2) (s : State) : Host.Outcome State Fault Refusal := .next (s.streamOp c e 1)

/-- GATHER (R230). -/
def execStreamGather (c : Fin 64) (e : Fin 2) (s : State) : Host.Outcome State Fault Refusal := .next (s.streamOp c e 2)

/-- MC_LEAD (R232). -/
def execMcLead (c : Fin 64) (e : Fin 2) (s : State) : Host.Outcome State Fault Refusal := .next (s.streamOp c e 3)

/-- The member registers four tokens at HUB, and the leader may start a tile (R233). -/
def execMcJoin (c : Fin 64) (e : Fin 2) (s : State) : Host.Outcome State Fault Refusal :=
  let s1 := s.streamOp c e 4
  let st := s1.strm c e
  .next (if (s.strm c e).busy || !st.busy then s1
    else
      let m := s1.mct st.d.group
      if m.active then pump m.lead (m.leadEng - 3) pumpFuel s1 else s1)

/-- DONE of the tiles that have landed in order (R230); at the last one the stream completes: its completion signal goes
out and it leaves the waiter FIFO (R229). -/
def settleTiles (c e : Nat) : Nat → State → State
  | 0, s => s
  | fuel + 1, s =>
    let st := s.strm c e
    let d := st.d
    if st.busy && decide (d.rows ≤ st.landedRows) then
      let s1 := s.modStrm c e fun st => { st with landedRows := st.landedRows - d.rows, landed := st.landed + 1 }
      let s2 := if d.doneObj = 0x1FFF then s1
        else s1.syncArrive c ((s1.ptn (s1.partOf c)).syncBase + d.doneObj) (.add 1)
      if st.landed + 1 = d.tiles then
        let s3 := (s2.modStrm c e fun _ => {}).dropWaiter (.stream c (strmWaiter e st.q.lc))
        s3.completeOp c st.q 0 0
      else settleTiles c e fuel s2
    else s

/-- The bytes of a row by its pieces, with poison; none where a page has gone. -/
def rowBytes (s : State) : List (Option Nat × Nat) → Option (List Byte × Bool)
  | [] => some ([], false)
  | (none, n) :: rest => (rowBytes s rest).map fun r => (zeros n ++ r.1, r.2)
  | (some pa, n) :: rest =>
    match s.paRead pa n, rowBytes s rest with
    | .ok bs poison, some r => some (bs ++ r.1, poison || r.2)
    | _, _ => none

/-- Writes a row of a tile into its slot, with the poison mark if the data came with POISON (R184, R227). -/
def CoreSt.slotWrite (k : CoreSt) (d : StDesc) (lc : Bool) (tile row : Nat) (bs : List Byte) (poison : Bool) : CoreSt :=
  let off := (d.slotRow + tile % 4 * d.rows + row) * 512
  let k1 := (k.spadWrite off bs).claim lc { start := off, len := 512 }
  if poison then
    { k1 with spad := (List.range 8).foldl (fun t i => tmod t (off / 64 + i) {} fun x => { x with bad := true }) k1.spad }
  else k1

/-- Writes the pieces of a row to memory. -/
def writeParts : List (Option Nat × Nat) → List Byte → State → State
  | [], _, s => s
  | (none, n) :: rest, bs, s => writeParts rest (bs.drop n) s
  | (some pa, n) :: rest, bs, s => writeParts rest (bs.drop n) (s.paWrite pa (bs.take n))

/-- Charges the pieces of a row (R261). -/
def State.chargeRow (s : State) (p : Nat) (ps : List (Option Nat × Nat)) : State :=
  s.each ps fun s e => match e.1 with
    | some pa => s.chargeMem p pa e.2
    | none => s

/-- The caches of the lines a row was read from. -/
def State.rowReadFx (s : State) (ps : List (Option Nat × Nat)) : State :=
  s.each ps fun s e => match e.1 with
    | some pa => s.paReadFx pa e.2
    | none => s

/-- Delivers a multicast row to every member, running or pre-empted (R47, R232); a group without members drops it. -/
def State.mcDeliver (s : State) (g tile row : Nat) (bs : List Byte) (poison : Bool) : State :=
  if (tget s.fab.members g 0) = 0 then s.modFab fun f => { f with emptyDrops := satAdd 32 f.emptyDrops 1 }
  else s.each (s.mct g).joined fun s j =>
    match (s.core j.1).memberStrm g j.2 with
    | some (_, st) => (s.modCore j.1 fun k => k.slotWrite st.d st.q.lc tile row bs poison).modMember g j.1 j.2 fun st =>
        { st with landedRows := st.landedRows + 1 }
    | none => s

/-- A row lands (R230): of the pre-empted context first, whose landing sends nothing (R251); with its last row the context goes
to the in-place save frame. -/
def State.landRow (s : State) (c e : Nat) : State :=
  let k := s.core c
  let pre := match tfind k.strmPre e with
    | some st => !st.fly.isEmpty
    | none => false
  let st := tget (if pre then k.strmPre else k.streams) e {}
  let d := st.d
  let put := fun (f : StreamSt → StreamSt) (s : State) => s.modCore c fun k =>
    if pre then { k with strmPre := tset k.strmPre e (f (tget k.strmPre e {})) }
    else { k with streams := tset k.streams e (f (tget k.streams e {})) }
  match st.fly with
  | [] => s
  | r :: rest =>
    let p := s.partOf c
    let s0 := put (fun st => { st with fly := rest }) s
    let s1 := (if pre && rest.isEmpty then s0.saveInPlace c (e + 3) (some { st with fly := [] }) else s0).chargeRow p r.parts
    if d.mode = 1 then
      let off := (d.slotRow + r.tile % 4 * d.rows + r.row) * 512
      match k.spadBad off 512 with
      | some sec => ((s1.spadUe c sec).ueEvent c).threadUncorrectable c st.q.thr
      | none =>
        put (fun st => { st with landedRows := st.landedRows + 1 }) (writeParts r.parts (k.spadBytes off 512) s1)
    else match rowBytes s r.parts with
      | none => s1.programFault c st.q.thr cPermission
      | some (bs, poison) =>
        let s2 := s1.rowReadFx r.parts
        let s3 := if d.mode = 3 then s2.mcDeliver d.group r.tile r.row bs poison
          else s2.modCore c fun k => k.slotWrite d st.q.lc r.tile r.row bs poison
        if poison then s3.threadUncorrectable c st.q.thr
        else put (fun st => { st with landedRows := st.landedRows + 1 }) s3

/-- Does a join of the group differ from its leader (R233)? -/
def State.mcDiffers (s : State) (d : StDesc) : Bool :=
  (s.mct d.group).joined.any fun j => match (s.core j.1).memberStrm d.group j.2 with
    | some (_, m) => m.d.tiles != d.tiles || m.d.rows != d.rows
    | none => false

/-- After a landing, and after a restore: the tiles that are complete, and, for a multicast stream, those of every member that
runs; when the last tile of the stream is done, the group carries no stream any longer (R232, R234). -/
def State.afterLanding (s : State) (c e : Nat) : State :=
  let st := s.strm c e
  let d := st.d
  let s1 := settleTiles c e 4 s
  if st.busy && d.mode == 3 then
    let s2 := s1.each (s.mct d.group).joined fun s j =>
      if (s.strm j.1 j.2).joins d.group then settleTiles j.1 j.2 4 s else s
    if (s2.strm c e).busy then s2 else s2.setMctok (tdel s2.mctok d.group)
  else s1

/-- The regulator that holds the row next to land, if any (R260). -/
def State.rowHeld (s : State) (c e : Nat) : Option (Nat × Nat) :=
  let st := s.strm c e
  match st.fly with
  | r :: _ => (r.parts.findSome? fun x => x.1.bind fun pa => (s.heldAt (s.partOf c) pa st.q.lc)).map fun g => (g, 512)
  | [] => none

/-- Lands one row and goes on, without a look at the regulators. -/
def State.serveRow (s0 : State) (c e : Nat) : State :=
  let s := (s0.unheld (s0.partOf c) 0 (.row c e)).unheld (s0.partOf c) 1 (.row c e)
  let s1 := pump c e pumpFuel s
  let st := s1.strm c e
  let first := st.landed == 0 && st.landedRows == 0
  if st.busy && st.d.mode == 3 && first && !st.fly.isEmpty && s1.mcDiffers st.d then
    let js := (s1.mct st.d.group).joined.filterMap fun j => ((s1.core j.1).memberStrm st.d.group j.2).map fun m => (j.1, m.2.q.thr)
    let s2 := s1.each js fun s j => s.programFault j.1 j.2 cDescriptor
    s2.programFault c st.q.thr cDescriptor
  else pump c e pumpFuel ((s1.landRow c e).afterLanding c e)

/-- STREAM_ROW_LANDED: the oldest row requested lands (R230), unless a regulator of the partition holds it (R260). With it
come the errors that memory's decoders find (R135). -/
def execStreamRowLanded (c : Fin 64) (e : Fin 2) (hits : List MemHit) (s : State) : Host.Outcome State Fault Refusal :=
  let s1 := pump c e pumpFuel (s.memHits hits)
  .next (match s1.rowHeld c e with
    | some (r, n) => s1.holdRequest (s1.partOf c) r (s1.strm c e).q.lc n (.row c e)
    | none => s1.serveRow c e)

/-- FETCH_TOKEN: a slot-return token reaches HUB (R233). -/
def execFetchToken (g : Fin 32) (c : Fin 64) (s : State) : Host.Outcome State Fault Refusal :=
  let m := s.mct g
  .next (if tget m.flying c 0 = 0 then s
    else
      let s1 := s.modMct g fun m => { m with flying := tset m.flying c.val (tget m.flying c 0 - 1), tokens := tadd m.tokens c 1 }
      if m.active then pump m.lead (m.leadEng - 3) pumpFuel s1 else s1)

/-- A Bobbin descriptor in its fields (R237). -/
structure BbDesc where
  src : Nat := 0
  dst : Nat := 0
  len : Nat := 1
  rsv : Nat := 0
  deriving DecidableEq, Repr

/-- The fields of the 128 bits (R237). -/
def bbDecode (w : Nat) : BbDesc := { src := fld w 0 48, dst := fld w 48 48, len := fld w 96 9 + 1, rsv := fld w 105 23 }

/-- Rejection that needs only the descriptor: reserved bits, and a range outside one 64 KiB page (R237). -/
def BbDesc.bad (d : BbDesc) : Bool :=
  d.rsv != 0 || decide (65536 < d.src % 65536 + d.len) || decide (65536 < d.dst % 65536 + d.len)

/-- A range in a scratchpad page that does not start and end on multiples of 64 bytes (R237). -/
def badSpadRange (pa n : Nat) : Bool :=
  match paRange pa with
  | .spad _ _ => pa % 64 != 0 || n % 64 != 0
  | _ => false

/-- A fault of a Bobbin transfer: it is halted with nothing moved, or its task aborts (R238). -/
def State.bobFault (s : State) (c : Nat) (q : QEntry) (va kind access level : Nat) : State :=
  let h : HaltRec := { ptn := s.partOf c, agent := 64 * c + 34, va := BitVec.ofNat 64 va, kind := kind, access := access,
                       level := level, lc := q.lc, job := q.job }
  match s.takeFault h with
  | (.halted, s1) => s1.modCore c fun k => { k with bobs := k.bobs ++ [{ q := q, halted := true }] }
  | (.abort, s1) => s1.kindFault c q.thr kind

/-- A transfer (R238): both pages translated, then the whole source read, then written. One that a regulator holds at its memory
hub waits as one does that meets a page in motion (R260). -/
def State.bobMove (s : State) (c : Nat) (q : QEntry) : State :=
  let d := bbDecode q.desc.toNat
  let p := s.partOf c
  if d.bad then s.programFault c q.thr cDescriptor
  else match State.engXlate p c { r := true, lc := q.lc } d.src d.len s with
    | (.fault k lv, s1) => s1.bobFault c q d.src k 7 lv
    | (.moving, s1) => s1.modCore c fun k => { k with bobs := k.bobs ++ [{ q := q, halted := true }] }
    | (.uncorrectable, s1) => s1.threadUncorrectable c q.thr
    | (.ok sp _, s1) =>
      match State.engXlate p c { w := true, lc := q.lc } d.dst d.len s1 with
      | (.fault k lv, s2) => s2.bobFault c q d.dst k 8 lv
      | (.moving, s2) => s2.modCore c fun k => { k with bobs := k.bobs ++ [{ q := q, halted := true }] }
      | (.uncorrectable, s2) => s2.threadUncorrectable c q.thr
      | (.ok dp _, s2) =>
        if badSpadRange sp d.len || badSpadRange dp d.len then s2.programFault c q.thr cDescriptor
        else match (s2.heldAt p sp q.lc).or (s2.heldAt p dp q.lc), s2.paRead sp d.len with
          | some r, _ =>
            (s2.holdRequest p r q.lc d.len (.bobbin c)).modCore c fun k => { k with bobs := k.bobs ++ [{ q := q, halted := true }] }
          | none, .bad => s2.programFault c q.thr cPermission
          | none, .ok bs poison =>
            let s2 := (s2.unheld p 0 (.bobbin c)).unheld p 1 (.bobbin c)
            if poison then
              let s3 := match paRange sp with
                | .spad _ o => (s2.spadUe c (((s2.core c).spadBad o d.len).getD (o / 64))).ueEvent c
                | _ => s2.linesUe sp d.len
              s3.threadUncorrectable c q.thr
            else
              let s2 := (s2.sendRemote p (64 * c + 34) sp d.len [] q.lc).sendRemote p (64 * c + 34) dp d.len bs q.lc
              let s3 := (((s2.paReadFx sp d.len).chargeMem p sp d.len).chargeMem p dp d.len).paWrite dp bs
              let own := match paRange dp with
                | .spad _ o => fun (k : CoreSt) => k.claim q.lc { start := o, len := d.len }
                | _ => id
              (s3.modCore c own).modCore c fun k => { k with bobs := k.bobs ++ [{ q := q, srcPa := sp, dstPa := dp }] }

/-- The Bobbin goes on: a transfer that was halted, held or waited for a MOVE is repeated whole; otherwise the engine, with
fewer than four transfers in flight, takes its next entry (R238). While a transfer is halted no other starts (log entry 24). -/
def State.bobbinGo (s : State) (c : Nat) : State :=
  let k := s.core c
  match k.bobs.find? (·.halted) with
  | some b =>
    if s.xl.halted.any fun h => h.agent == 64 * c + 34 && !h.note then s
    else (s.modCore c fun k => { k with bobs := k.bobs.filter fun b => !b.halted }).bobMove c b.q
  | none =>
    if 4 ≤ k.bobs.length then s
    else match k.engHead 6 with
      | none => s
      | some q => (s.takeEntry c 6 q).bobMove c q

/-- BOBBIN (R238). -/
def execBobbin (c : Fin 64) (s : State) : Host.Outcome State Fault Refusal :=
  .next (s.bobbinGo c)

/-- BOBBIN_COMPLETE: the oldest transfer's write is complete and its completion is signalled (R238). A transfer of a job
that was stopped completes unsignalled (R83). -/
def execBobbinComplete (c : Fin 64) (s : State) : Host.Outcome State Fault Refusal :=
  .next (match (s.core c).bobs.find? fun b => !b.halted with
    | none => s
    | some b =>
      let s1 := s.modCore c fun k => { k with bobs := dropFirst (fun b => !b.halted) k.bobs, bobOps := (k.bobOps + 1) % 2 ^ 32 }
      if b.q.job = 0 then s1 else s1.completeOp c b.q 0 0)

end Sys2Proof.Machine
end

