-- ==== Sys2Proof/Machine/Sched.lean ====
section
/-! DEFINITION. Scheduling of best-effort work (R248-R256): resuming in place, time slices, full saves and restores; and the
regulators' releases and pins (R258, R260). -/

namespace Sys2Proof.Machine

/-- A restored stream goes on: its pending fault is raised again before any row is requested; a multicast stream once its leader
and every member are back (R236, R252). Tiles that landed while it was saved are done now. -/
def State.streamGoesOn (s : State) (c e : Nat) : State :=
  let st := s.strm c e
  if st.pendKind ≠ 0 then
    (s.modStrm c e fun st => { st with pendKind := 0, pendLevel := 0 }).streamFault c e st.faultVa.toNat st.pendKind st.pendLevel
  else
    let s2 := pump c e pumpFuel (s.afterLanding c e)
    if strmMode st = 4 then
      let m := s2.mct (strmGroup st)
      if m.active then pump m.lead (m.leadEng - 3) pumpFuel s2 else s2
    else s2

/-- No latency-critical entry waits at an engine and none runs in it (R251). -/
def CoreSt.lcIdle (k : CoreSt) (eng : Nat) : Bool :=
  !((tget k.queues eng []).any (·.lc)) &&
    (if eng = 3 ∨ eng = 4 then !(tget k.streams (eng - 3) {}).busy else !thas k.running eng && (eng != 0 || k.rmd.isEmpty))

/-- IN_PLACE_RESUME (R251): the engine restores the context from the core's copy. -/
def execInPlaceResume (c : Fin 64) (eng : Fin 7) (s : State) : Host.Outcome State Fault Refusal :=
  .next (
    let k := s.core c
    if !k.lcIdle eng then s
    else if eng.val = 3 ∨ eng.val = 4 then
      match tfind k.strmPre (eng - 3) with
      | none => s
      | some st =>
        (s.modCore c fun k => { k with strmPre := tdel k.strmPre (eng - 3), streams := tset k.streams (eng - 3) st }).streamGoesOn
          c (eng - 3)
    else if eng.val = 0 ∧ !k.rmdPre.isEmpty then
      s.modCore c fun k => { k with rmd := k.rmdPre, rmdPre := [], rmdFirst := true }
    else match tfind k.preempted eng with
      | none => s
      | some o => s.modCore c fun k => { k with preempted := tdel k.preempted eng, running := tset k.running eng o })

/-- Full-save frames not in use nor promised to a save in progress (R253). -/
def State.freeFrames (s : State) : Nat :=
  1984 - s.sh.frames.length - (s.cores.filter fun e => e.2.saving).length

/-- A frame number that is free. -/
def State.freeFrame (s : State) : Nat :=
  ((List.range 1984).map (· + 64)).find? (fun f => !(s.sh.frames.any fun x => x.idx == f) && !(s.cores.any fun e => e.2.saving && e.2.saveFrame == f))
    |>.getD 64

/-- May a frame be restored on a core, apart from the core's holder (R255)? -/
def State.frameFits (s : State) (f : Frame) (c : Nat) : Bool :=
  (match s.job f.job with
   | some j => bitN (s.ptn j.ptn).cores.toNat c
   | none => false) && !s.coreRetired c && (!f.bound || f.core == c) && (f.rmd.isEmpty || (s.core c).width == f.width) && f.gen == s.warp.gen

/-- The frame of a job that waits longest. -/
def State.frameOf (s : State) (job : Nat) : Option Frame := s.sh.frames.find? fun f => f.job == job

/-- Is a core eligible for what a waiting job waits for: its oldest ready task, or its saved image (R256)? -/
def State.coreEligible (s : State) (j : Job) (c : Nat) : Bool :=
  bitN (s.ptn j.ptn).cores.toNat c && !s.coreRetired c &&
    (match (s.sh.readyBe.filterMap fun n => s.sh.tasks.find? fun t => t.handle == n && t.job == j.id).head? with
     | some t => t.core == 0xFF || t.core == c
     | none => match s.frameOf j.id with
       | some f => s.frameFits f c
       | none => false)

/-- The cores that are saved with a core: the members of the multicast groups that its holder's streams carry (R256). -/
def State.saveSet (s : State) (c : Nat) : List Nat :=
  let gs := ((s.core c).streams ++ (s.core c).strmPre).filterMap fun e =>
    if e.2.busy && !e.2.q.lc && (strmMode e.2 == 3 || strmMode e.2 == 4) then some (strmGroup e.2) else none
  let more := gs.flatMap fun g => s.members g ++ (if (s.mct g).active then [(s.mct g).lead] else [])
  c :: (more.filter fun x => x != c && (s.core x).holder != 0).eraseDups

/-- The core that time slicing takes for a waiting job: of those eligible and held for a millisecond by another job, the
one whose holder has held it the longest (R256). -/
def State.sliceCore (s : State) (j : Job) : Option Nat :=
  let cs := (List.range 64).filter fun c =>
    let k := s.core c
    k.holder != 0 && k.holder != j.id && !k.saving && decide (k.heldSince + 1000000 ≤ s.now) && s.coreEligible j c
  let least := (cs.map fun c => (s.core c).heldSince).foldl min (s.now + 1)
  cs.find? fun c => (s.core c).heldSince == least

/-- A full save of a core begins (R254 step 1). -/
def State.beginSave (s : State) (c job : Nat) : State :=
  let f := s.freeFrame
  s.modCore c fun k => { k with saving := true, saveFrame := f, saveFor := job }

/-- A core that is being saved beside another one, and that no job has been given yet (R256). -/
def State.spareCore (s : State) (j : Job) : Option Nat :=
  (List.range 64).find? fun c => (s.core c).saving && (s.core c).saveFor == 0 && (s.core c).holder != j.id && s.coreEligible j c

/-- TIME_SLICE (R256): at a millisecond boundary, the waiting jobs in the order of their waits. A core that is saved only because
it is of a multicast group goes to a later job. -/
def execTimeSlice (s : State) : Host.Outcome State Fault Refusal :=
  .next (
    let js := sortBy (fun a b => decide (a.waitSince ≤ b.waitSince)) (s.updateWaits.sh.jobs.filter fun j => j.waitSince != 0)
    s.updateWaits.each js fun s j =>
      match s.spareCore j with
      | some c => s.modCore c fun k => { k with saveFor := j.id }
      | none =>
        match s.sliceCore j with
        | none => s
        | some c =>
          let cs := (s.saveSet c).filter fun x => !(s.core x).saving
          if s.freeFrames < cs.length then s
          else s.each cs fun s x => s.beginSave x (if x = c then j.id else 0))

/-- A best-effort thread has an instruction in flight that ends before it is saved (R254 steps 1 and 2). -/
def Thread.inFlight (th : Thread) : Bool :=
  match th.pend with
  | .access _ => true
  | .uncached _ _ => true
  | .fetch _ _ => true
  | .sread _ => true
  | _ => false

/-- Has everything ended on a core that ends before its save is complete (R250, R254)? An operation that has reached its end
completes first. -/
def State.saveReady (s : State) (c : Nat) : Bool :=
  let k := s.core c
  let leads := ((k.streams ++ k.strmPre).filter fun e => e.2.busy && strmMode e.2 == 4).map fun e => (s.mct (strmGroup e.2)).lead
  !(k.threads.any fun e => e.2.held && !e.2.lc && e.2.inFlight) &&
    !((k.streams ++ k.strmPre).any fun e => !e.2.q.lc && !e.2.fly.isEmpty) && !(k.bobs.any fun b => !b.q.lc) &&
    !(k.running.any fun e => !e.2.q.lc && e.2.done) && !(k.rmd.any fun p => !p.q.lc && p.done) &&
    leads.all fun l => (s.core l).streams.all fun e => e.2.fly.isEmpty

/-- A thread as it is saved (R252, R254): a wait whose release is on its way completes first, any other wait is cancelled;
a halted thread keeps its fault pending; PC stays at the instruction it waits on. -/
def State.saveThread (s : State) (c t : Nat) : Thread × State :=
  let released := s.sync.wakes.find? fun w => w.1 == c && w.2.1 == t
  let th := s.thr c t
  let th1 := match th.pend, released with
    | .sync _ _, some w => th.doneRd th.insn.rd (BitVec.ofNat 64 w.2.2)
    | _, _ => th
  let s1 := (s.dropWaiter (.thread c t)).modSync fun q => { q with wakes := q.wakes.filter fun w => !(w.1 == c && w.2.1 == t) }
  let s2 := (s1.modXl fun x => { x with halted := x.halted.filter fun h => h.agent != 64 * c + t }).modJob th.job fun j =>
    { j with flags := j.flags ||| th.flags }
  ({ th1 with st := tSaved, pend := .none, flags := 0, opsFlagged := 0, faultPending := th.st == tHalted }, s2)

/-- The bytes of a row-and-group of the accumulator store (R253). -/
def groupBytes (acc : Tab (BitVec 48)) (g : Nat) : List Byte :=
  (List.range 32).flatMap fun i => bytesLE 6 (tget acc (32 * g + i) 0).toNat

/-- The valid bits of `n` numbers. -/
def validBits (n : Nat) (has : Nat → Bool) : List Byte :=
  (List.range (n / 8)).map fun i => BitVec.ofNat 8 ((List.range 8).foldl (fun a j => a + b2n (has (8 * i + j)) * 2 ^ j) 0)

/-- Engines whose private contexts a frame holds (R253). -/
def Frame.contexts (f : Frame) : List Nat := (if f.rmd.isEmpty then [] else [0]) ++ f.running.map fun e => e.1

/-- Writes a full frame (R253, R254 step 5): the records and stores at their places; the other contexts are private. -/
def State.writeFrame (s : State) (f : Frame) : State :=
  let base := s.frameAt f.idx
  let s1 := (s.fillPrivate base 4096).each f.threads fun s e => s.paWrite (base + 0x1000 + 272 * e.1) (threadRecord e.2)
  let s2 := s1.each f.streams fun s e => s.paWrite (base + 0x5000 + 64 * e.1) (streamRecord e.2)
  let s3 := if f.queues.all fun e => e.2.isEmpty then s2 else s2.fillPrivate (base + 0x4000) 4096
  let s4 := s3.each f.contexts fun s e =>
    s.fillPrivate (base + (frameContext e).1) (frameContext e).2
  let s5 := s4.each f.spad fun s e => s.paWrite (base + 0x10000 + 64 * e.1) (bytesLE 64 e.2.data.toNat)
  let s6 := s5.each f.accValid fun s e => s.paWrite (base + 0x70000 + 192 * e.1) (groupBytes f.acc e.1)
  s6.paWrite (base + 0xA0000) (validBits 6144 (thas f.spad) ++ validBits 1024 (thas f.accValid))

/-- The rows of a core that a full save leaves: those last written for latency-critical work (R254 step 5; log entry 26). -/
def CoreSt.lcRows (k : CoreSt) : CoreSt :=
  { k with
    spad := k.spad.filter fun e => thas k.lcSpad e.1
    acc := k.acc.filter fun e => thas k.lcAcc (e.1 / 32)
    accValid := k.accValid.filter fun e => thas k.lcAcc e.1
    accBad := k.accBad.filter fun e => thas k.lcAcc (e.1 / 32)
    books := k.books.filter fun e => thas k.lcSpad (e.1 / 2) }

/-- What a save takes off a core: everything best-effort of its holder (R254). Its threads are SAVED, with the PC they are
saved at, until a task starts on them or their frame is gone (R73; log entry 26). -/
def CoreSt.stripped (k : CoreSt) (f : Frame) : CoreSt :=
  let rows := k.lcRows
  { rows with
    threads := k.threads.map fun e =>
      (e.1, if e.2.held && !e.2.lc then { st := tSaved, pc := (tget f.threads e.1 e.2).pc, job := f.job } else e.2)
    queues := k.queues.map fun e => (e.1, e.2.filter (·.lc))
    running := k.running.filter fun e => e.2.q.lc
    preempted := []
    streams := k.streams.map fun e => (e.1, if e.2.q.lc then e.2 else {})
    strmPre := []
    rmd := k.rmd.filter fun r => r.q.lc
    rmdPre := []
    rmdFirst := k.rmdFirst && k.rmd.any fun r => r.q.lc
    saving := false
    saveFor := 0
    saveFrame := 0
    holder := 0 }

/-- Captures a core into its frame (R254). -/
def State.captureCore (s : State) (c : Nat) : Frame × State :=
  let k := s.core c
  let job := k.holder
  let ts := (k.threads.filter fun e => e.2.held && !e.2.lc).map (·.1)
  let saved := ts.foldl (fun acc t => let r := acc.2.saveThread c t; (tset acc.1 t r.1, r.2)) (([] : Tab Thread), s)
  let streams := (k.streams.filter fun e => e.2.busy && !e.2.q.lc).map (fun e => (e.1, s.captureStream c e.1 e.2)) ++
    k.strmPre.filter fun e => e.2.busy
  let s1 := streams.foldl (fun s e => s.dropWaiter (.stream c (strmWaiter e.1 false))) saved.2
  let s2 := s1.modXl fun x => { x with halted := x.halted.filter fun h =>
    !(h.agent == 64 * c + 32 && (tget k.streams 0 {}).busy && !(tget k.streams 0 {}).q.lc) &&
      !(h.agent == 64 * c + 33 && (tget k.streams 1 {}).busy && !(tget k.streams 1 {}).q.lc) }
  let joins := streams.any fun e => strmMode e.2 == 4
  let named := s.sh.tasks.any fun t => t.job == job && t.st == 2 && t.core != 0xFF && (saved.1.any fun e => e.2.task == t.handle)
  ({ idx := k.saveFrame, job := job, core := c, width := k.width, gen := s.warp.gen, bound := joins || named, threads := saved.1,
     queues := k.queues.map fun e => (e.1, e.2.filter fun q => !q.lc), running := (k.running.filter fun e => !e.2.q.lc) ++ k.preempted, streams := streams,
     rmd := (k.rmd ++ k.rmdPre).filter fun r => r.q.job == job,
     spad := k.spad.filter fun e => !thas k.lcSpad e.1,
     acc := k.acc.filter fun e => !thas k.lcAcc (e.1 / 32),
     accValid := k.accValid.filter fun e => !thas k.lcAcc e.1,
     books := k.books.filter fun e => !thas k.lcSpad (e.1 / 2),
     poisoned := (k.spad.any fun e => e.2.bad && !thas k.lcSpad e.1) || (k.accBad.any fun e => !thas k.lcAcc (e.1 / 32)),
     since := s.now }, s2)

/-- Puts a frame back onto a core (R255): its contents, its valid bits exactly as saved beside the latency-critical rows, its
engines, a remainder set whose pass runs first (R171); its threads are READY. -/
def CoreSt.putFrame (k : CoreSt) (f : Frame) (now : Nat) : CoreSt :=
  let rows := k.lcRows
  let mxBusy := thas k.running 0 || !k.rmd.isEmpty
  { rows with
    threads := f.threads.foldl (fun t e => tset t e.1 { e.2 with st := tReady, faultPending := false }) k.threads
    queues := f.queues.foldl (fun t e => tset t e.1 (tget t e.1 [] ++ e.2)) k.queues
    preempted := f.running.foldl (fun t e => if thas k.running e.1 then tset t e.1 e.2 else t) k.preempted
    running := f.running.foldl (fun t e => if thas k.running e.1 then t else tset t e.1 e.2) k.running
    rmd := if mxBusy then k.rmd else f.rmd
    rmdPre := if mxBusy then f.rmd else k.rmdPre
    rmdFirst := if mxBusy then k.rmdFirst else !f.rmd.isEmpty
    spad := f.spad.foldl (fun t e => tset t e.1 e.2) rows.spad
    acc := f.acc.foldl (fun t e => tset t e.1 e.2) rows.acc
    accValid := f.accValid.foldl (fun t e => tset t e.1 ()) rows.accValid
    books := f.books.foldl (fun t e => tset t e.1 e.2) rows.books
    holder := f.job
    heldSince := now }

/-- A stream of a frame takes its engine again, or waits pre-empted; it enrols on its AVAIL_OBJ, and a leader's group learns
where it stands (R236, R255). -/
def State.putStream (s : State) (c e : Nat) (st : StreamSt) : State :=
  let lcRuns := (s.strm c e).busy
  let s1 := s.modCore c fun k =>
    if lcRuns then { k with strmPre := tset k.strmPre e st } else { k with streams := tset k.streams e st }
  let d := st.d
  let s2 := if d.mode != 3 && d.availObj != 0x1FFF then
      s1.syncArrive c ((s1.ptn (s1.partOf c)).syncBase + d.availObj) (.wait (.stream c (strmWaiter e false)))
    else s1
  let s3 := if d.mode = 3 then s2.modMct d.group fun m => { m with lead := c, leadEng := e + 3 } else s2
  if lcRuns then s3 else s3.streamGoesOn c e

/-- Has a memory error struck the copy of a frame (R135, R254)? -/
def State.frameStruck (s : State) (idx : Nat) : Bool :=
  s.xl.poison.any fun e => decide (s.frameAt idx ≤ e.1 * 64) && decide (e.1 * 64 < s.frameAt idx + 2 ^ 20)

/-- Bytes of a save or a restore, charged to the partition (R254, R255, R261). -/
def Frame.bytes (f : Frame) : Nat :=
  4096 + 272 * f.threads.length + 64 * f.streams.length + (if f.queues.all fun e => e.2.isEmpty then 0 else 4096) +
    (f.contexts.map fun e => (frameContext e).2).foldl (· + ·) 0 +
    64 * f.spad.length + 192 * f.accValid.length + 896

/-- Restores a frame onto a core (R255); one whose copy is poisoned stops its job instead (R254). -/
def State.restoreFrame (s : State) (f : Frame) (c : Nat) : State :=
  let s1 := (s.modSh fun h => { h with frames := dropFirst (fun x => x.idx == f.idx) h.frames }).unsave f.core f.job
  if f.poisoned || s.frameStruck f.idx then s1.stopJob f.job stRestart
  else
    let s2 := (s1.charge (s1.partOf c) 8 (some 1) f.bytes).modCore c fun k => k.putFrame f s.now
    (s2.each f.streams fun s e => s.putStream c e.1 e.2).updateWaits

/-- The running best-effort operations of a core stop at their next points for a save (R254 step 4). -/
def State.stopLanes (s : State) (c : Nat) : State :=
  s.each ((s.core c).running.filter fun e => e.1 != 0 && !e.2.q.lc && !e.2.done) fun s e =>
    let r := s.laneStop c e.1 e.2
    r.2.modCore c fun k => { k with running := tset k.running e.1 r.1 }

/-- FULL_SAVE_COMPLETE (R254, R256): the engines stop at their points; the frame is complete; the core goes to the job it was
taken for. A save waits for an operation whose next point is its end. -/
def execFullSaveComplete (c : Fin 64) (s0 : State) : Host.Outcome State Fault Refusal :=
  .next (
    let s := if (s0.core c).saving && s0.saveReady c then s0.stopLanes c else s0
    let k := s.core c
    if !k.saving || !s.saveReady c then s
    else
      let p := s.partOf c
      s.atPoint p 1 false (s.captureCore c).1.bytes (.save c) fun s =>
      let r := s.captureCore c
      let s1 := (r.2.modCore c fun k => (k.stripped r.1).roomWakes).modSh fun h =>
        { h with frames := h.frames ++ [r.1], fullSaves := h.fullSaves + 1 }
      let s2 := (s1.writeFrame r.1).charge p 8 (some 1) r.1.bytes
      match s2.job k.saveFor with
      | none => s2.updateWaits
      | some j =>
        if s2.sh.readyBe.any (fun n => s2.sh.tasks.any fun t => t.handle == n && t.job == j.id) then
          (s2.modCore c fun k => { k with holder := j.id, heldSince := s.now }).updateWaits
        else match s2.frameOf j.id with
          | some f => if s2.frameFits f c then s2.restoreFrame f c else s2.updateWaits
          | none => s2.updateWaits)

/-- FULL_RESTORE (R255): onto a core without a holder, the image that has waited longest and fits it. -/
def execFullRestore (c : Fin 64) (s : State) : Host.Outcome State Fault Refusal :=
  .next (
    let k := s.core c
    if k.holder ≠ 0 ∨ k.saving then s
    else match s.sh.frames.find? fun f => s.frameFits f c with
      | none => s
      | some f => s.atPoint (s.partOf c) 1 false f.bytes (.save c) fun s => s.restoreFrame f c)

/-- A write to PTN_LC_PIN (R258): every core walks the page and locks it, or lets the page go that it held. -/
def State.lcPin (s : State) (p i v : Nat) : State :=
  let old : PinSt := tget (s.ptn p).pins i {}
  let s1 := if old.en then
      let mine := fun (l : Leaf) => l.ptn == p && decide (l.agent < 64) && l.covers p l.agent (old.va.toNat * 65536)
      s.modXl fun x => { x with leaves := x.leaves.map fun l => if mine l then { l with pinned := false } else l }
    else s
  let s2 := s1.modPtn p fun q => { q with pins := tset q.pins i { en := bitN v 63, va := BitVec.ofNat 32 (fld v 16 32) } }
  let s3 := s2.each (s2.ptn p).pins fun s e =>
    if e.2.en then s.each (s.coresOf p) fun s c => s.pinCore p c (e.2.va.toNat * 65536) else s
  s3.pinRefresh p

/-- LC_PIN_WRITE (R258). -/
def execLcPinWrite (p : Fin 32) (i : Fin 4) (v : BitVec 64) (s : State) : Host.Outcome State Fault Refusal :=
  .next (if s.pwr.domainUp then s.lcPin p i v.toNat else s)

end Sys2Proof.Machine
end

