-- ==== Sys2Proof/Machine/Csr.lean ====
section
/-! DEFINITION. The CSR window (R7-R12): which register lies at an offset, and what it reads as. -/

namespace Sys2Proof.Machine

/-- A register of the CSR window, or two adjacent 32-bit ones, by the chapters' names; the numbers are their indices. -/
inductive Csr where
  | clkStatus | clkFault | fwStatus | fwVer | logStatus | keyStatus | slStatus | resetCause | powerStatus | sensor (i : Nat)
  | warpCtl | srcAddr | srcLen | activeId | stagedId | warpStatus | warpFmt | warpGen | lockErr | sessionTag
  | fabPort (p : Nat) | snapCtl | snapData | mcastMembers (g : Nat) | mcastStatus | syncSignal | modelStatus | modelId | modelLen
  | mcastTokens (g : Nat) | shuttleStatus | shuttleCount | lcWorst | saveBase | measured | unattributed | recon | searchStatus
  | syncCount (n : Nat) | syncCtl (n : Nat)
  | ptnClass (p : Nat) | ptnCores (p : Nat) | syncRange (p : Nat) | rate (p r : Nat) | regStatus (p r : Nat) | tenantTag (p : Nat)
  | ptRoot (p : Nat) | faultBase (p : Nat) | faultCfg (p : Nat) | faultProd (p : Nat) | faultCons (p : Nat)
  | ringBase (p kind : Nat) | ringCfg (p kind : Nat) | xreqStatus (p : Nat) | scanStatus (p : Nat) | fieldRingStatus (p : Nat)
  | schedStatus (p : Nat) | lcPin (p i : Nat) | acctCtl (p : Nat) | acct (p k : Nat) | lnkKey (p : Nat) | lnkJob (p : Nat) | lnkExport (p : Nat)
  | coreWidth (c : Nat) | colLo (c : Nat) | colHi (c : Nat) | mxStatus (c : Nat) | spadEcc (c : Nat) | vuStatus (c : Nat) | sfuStatus (c : Nat)
  | sfuEcc (c : Nat) | strmStatus (c i : Nat) | bobStatus (c : Nat) | thrState (c t : Nat) | thrFlags (c t : Nat)
  | qnStatus (ch : Nat) | qnCount (ch : Nat) | qnLookups (ch : Nat) | poolCtl (d : Nat) | pool (d i : Nat) | millpond (d : Nat)
  | wear (d : Nat) | mediaErr (d : Nat) | mapStatus (d : Nat)
  | lnkStatus (l : Nat) | lnkPartner (l : Nat) | lnkErr (l : Nat) | lnkSnapCtl (l : Nat) | lnkSnapData (l : Nat)
  | timeNow | timeSet | timeApply | timeStatus | ppsIn
  | fieldDo | fieldDi | diCount (n : Nat) | inh (i : Nat) | btn | chain | port (p k : Nat)
  | mbCmd | mbStatus | mbArg (i : Nat) | mbReply (i : Nat)
  | noticeBase (r : Nat) | noticeCfg (r : Nat) | noticeProd (r : Nat) | noticeCons (r : Nat) | noticeLost (r : Nat) | wmCfg (w : Nat)
  | wmStatus (w : Nat) | eccCount (h : Nat) | dirStatus
  deriving DecidableEq, Repr

/-! Where each register lies: `o` is an offset in the block, a multiple of 8. -/

/-- The registers of a run of equal steps. -/
def regsAt (o base n : Nat) (f : Nat → Csr) : Option Csr :=
  if base ≤ o ∧ o < base + 8 * n then some (f ((o - base) / 8)) else none

/-- The first of several. -/
def firstCsr : List (Option Csr) → Option Csr
  | [] => none
  | some r :: _ => some r
  | none :: rest => firstCsr rest

/-- One register. -/
def oneAt (o at_ : Nat) (r : Csr) : Option Csr := if o = at_ then some r else none

/-- The MOD block. -/
def modCsr (o : Nat) : Option Csr :=
  firstCsr [oneAt o 0x100 .clkStatus, oneAt o 0x108 .clkFault, oneAt o 0x200 .fwStatus, oneAt o 0x208 .fwVer, oneAt o 0x210 .logStatus,
            oneAt o 0x218 .keyStatus, oneAt o 0x300 .slStatus, oneAt o 0x308 .resetCause, oneAt o 0x310 .powerStatus,
            regsAt o 0x1000 162 .sensor]

/-- The WARP block. -/
def warpCsr (o : Nat) : Option Csr :=
  firstCsr [oneAt o 0 .warpCtl, oneAt o 8 .srcAddr, oneAt o 0x10 .srcLen, oneAt o 0x18 .activeId, oneAt o 0x20 .stagedId,
            oneAt o 0x28 .warpStatus, oneAt o 0x30 .warpFmt, oneAt o 0x38 .warpGen, oneAt o 0x40 .lockErr, oneAt o 0x48 .sessionTag]

/-- The HUB block. -/
def hubCsr (o : Nat) : Option Csr :=
  firstCsr [regsAt o 0x1000 31 .fabPort, oneAt o 0x2000 .snapCtl, oneAt o 0x2008 .snapData, regsAt o 0x3000 32 .mcastMembers,
            oneAt o 0x3100 .mcastStatus, oneAt o 0x4000 .syncSignal, oneAt o 0x5000 .modelStatus, oneAt o 0x5008 .modelId,
            oneAt o 0x5010 .modelLen, regsAt o 0x5100 32 .mcastTokens, oneAt o 0x6000 .shuttleStatus, oneAt o 0x6008 .shuttleCount,
            oneAt o 0x6010 .lcWorst, oneAt o 0x6018 .saveBase, oneAt o 0x7000 .measured, oneAt o 0x7008 .unattributed, oneAt o 0x7010 .recon,
            oneAt o 0x8000 .searchStatus]

/-- The SYNC block: 16 bytes an object. -/
def syncCsr (o : Nat) : Option Csr :=
  if o / 16 < 8192 then some (if o % 16 = 0 then .syncCount (o / 16) else .syncCtl (o / 16)) else none

/-- A partition's 4 KiB of the PTN block. -/
def ptnCsr (p o : Nat) : Option Csr :=
  firstCsr [oneAt o 0 (.ptnClass p), oneAt o 8 (.ptnCores p), oneAt o 0x10 (.syncRange p), regsAt o 0x40 6 (.rate p), regsAt o 0x70 6 (.regStatus p),
            oneAt o 0xF8 (.tenantTag p), oneAt o 0x100 (.ptRoot p), oneAt o 0x108 (.faultBase p), oneAt o 0x110 (.faultCfg p),
            oneAt o 0x118 (.faultProd p), oneAt o 0x120 (.faultCons p), oneAt o 0x128 (.ringBase p 0), oneAt o 0x130 (.ringCfg p 0),
            oneAt o 0x138 (.xreqStatus p), oneAt o 0x140 (.ringBase p 1), oneAt o 0x148 (.ringCfg p 1), oneAt o 0x150 (.scanStatus p),
            oneAt o 0x180 (.schedStatus p), regsAt o 0x1C0 4 (.lcPin p), oneAt o 0x200 (.acctCtl p), regsAt o 0x208 15 (.acct p),
            oneAt o 0x300 (.lnkKey p), oneAt o 0x308 (.lnkJob p), oneAt o 0x310 (.lnkExport p), oneAt o 0x320 (.ringBase p 2),
            oneAt o 0x328 (.ringCfg p 2), oneAt o 0x340 (.ringBase p 3), oneAt o 0x348 (.ringCfg p 3), oneAt o 0x350 (.fieldRingStatus p)]

/-- A core's 64 KiB of the CT block. -/
def coreCsr (c o : Nat) : Option Csr :=
  firstCsr [oneAt o 0x100 (.coreWidth c), oneAt o 0x108 (.colLo c), oneAt o 0x110 (.colHi c), oneAt o 0x118 (.mxStatus c), oneAt o 0x120 (.spadEcc c),
            oneAt o 0x200 (.vuStatus c), oneAt o 0x208 (.sfuStatus c), oneAt o 0x210 (.sfuEcc c), regsAt o 0x300 2 (.strmStatus c),
            oneAt o 0x310 (.bobStatus c), regsAt o 0x8000 32 (.thrState c), regsAt o 0x8100 32 (.thrFlags c)]

/-- A die's 256 KiB of the FC block. -/
def fcCsr (d o : Nat) : Option Csr :=
  if 0x1000 ≤ o ∧ o < 0x1200 then
    let ch := 8 * d + (o - 0x1000) / 0x40
    firstCsr [oneAt (o % 0x40) 0 (.qnStatus ch), oneAt (o % 0x40) 8 (.qnCount ch), oneAt (o % 0x40) 0x10 (.qnLookups ch)]
  else firstCsr [oneAt o 0x2000 (.poolCtl d), regsAt o 0x2008 3 (.pool d), oneAt o 0x2020 (.millpond d), oneAt o 0x2028 (.wear d),
                 oneAt o 0x2030 (.mediaErr d), oneAt o 0x2038 (.mapStatus d)]

/-- A link's 4 KiB of the LNK block. -/
def lnkCsr (l o : Nat) : Option Csr :=
  firstCsr [oneAt o 0 (.lnkStatus l), oneAt o 8 (.lnkPartner l), oneAt o 0x10 (.lnkErr l), oneAt o 0x20 (.lnkSnapCtl l), oneAt o 0x28 (.lnkSnapData l)]

/-- The TIME block. -/
def timeCsr (o : Nat) : Option Csr :=
  firstCsr [oneAt o 0 .timeNow, oneAt o 8 .timeSet, oneAt o 0x10 .timeApply, oneAt o 0x18 .timeStatus, oneAt o 0x20 .ppsIn]

/-- The FIELD block. -/
def fieldCsr (o : Nat) : Option Csr :=
  firstCsr [oneAt o 0 .fieldDo, oneAt o 8 .fieldDi, regsAt o 0x10 2 .inh, oneAt o 0x20 .btn, oneAt o 0x30 .chain, regsAt o 0x40 8 .diCount,
            regsAt o 0x80 4 (.port 0), regsAt o 0xA0 4 (.port 1)]

/-- The MGMT block. -/
def mgmtCsr (o : Nat) : Option Csr := firstCsr [oneAt o 0 .mbCmd, oneAt o 8 .mbStatus, regsAt o 0x1000 512 .mbArg, regsAt o 0x2000 512 .mbReply]

/-- The NOTICE block. -/
def noticeCsr (o : Nat) : Option Csr :=
  if o < 0x40 * 33 then
    let r := o / 0x40
    firstCsr [oneAt (o % 0x40) 0 (.noticeBase r), oneAt (o % 0x40) 8 (.noticeCfg r), oneAt (o % 0x40) 0x10 (.noticeProd r),
              oneAt (o % 0x40) 0x18 (.noticeCons r), oneAt (o % 0x40) 0x20 (.noticeLost r)]
  else if 0x4000 ≤ o ∧ o < 0x4000 + 16 * 256 then some (if o % 16 = 0 then .wmCfg ((o - 0x4000) / 16) else .wmStatus ((o - 0x4000) / 16))
  else none

/-- The MEM block. -/
def memCsr (o : Nat) : Option Csr := firstCsr [regsAt o 0 2 .eccCount, oneAt o 0x100 .dirStatus]

/-- The register whose 8 bytes hold an offset of the window; none where no block defines it (R9). -/
def csrAt (off : Nat) : Option Csr :=
  let o := off / 8 * 8
  if o < 0x100000 then modCsr o
  else if o < 0x200000 then warpCsr (o - 0x100000)
  else if o < 0x400000 then hubCsr (o - 0x200000)
  else if o < 0x800000 then syncCsr (o - 0x400000)
  else if o < 0x820000 then ptnCsr ((o - 0x800000) / 0x1000) (o % 0x1000)
  else if 0x1000000 ≤ o ∧ o < 0x1400000 then coreCsr ((o - 0x1000000) / 0x10000) (o % 0x10000)
  else if 0x2000000 ≤ o ∧ o < 0x2200000 then fcCsr ((o - 0x2000000) / 0x40000) (o % 0x40000)
  else if 0x3000000 ≤ o ∧ o < 0x3030000 then lnkCsr ((o - 0x3000000) / 0x1000) (o % 0x1000)
  else if 0x3800000 ≤ o ∧ o < 0x3900000 then timeCsr (o - 0x3800000)
  else if 0x3900000 ≤ o ∧ o < 0x3A00000 then fieldCsr (o - 0x3900000)
  else if 0x3A00000 ≤ o ∧ o < 0x3B00000 then mgmtCsr (o - 0x3A00000)
  else if 0x3B00000 ≤ o ∧ o < 0x3C00000 then noticeCsr (o - 0x3B00000)
  else if 0x3C00000 ≤ o ∧ o < 0x3D00000 then memCsr (o - 0x3C00000)
  else none

/-- Registers of 32 bits with none beside them: the upper four bytes belong to no register. -/
def Csr.half : Csr → Bool
  | .warpCtl => true
  | .ptnClass _ => true
  | .syncRange _ => true
  | .faultProd _ => true
  | .faultCons _ => true
  | .timeApply => true
  | .diCount _ => true
  | .noticeProd _ => true
  | .noticeCons _ => true
  | .noticeLost _ => true
  | _ => false

/-- Does a block define the register at an offset (R9)? -/
def csrDefined (off : Nat) : Bool :=
  match csrAt off with
  | some r => off % 8 < 4 || !r.half
  | none => false

/-! What they read as, 64 bits each. -/

/-- Fields placed by their lowest bit and width. -/
def fields (fs : List (Nat × Nat × Nat)) : Nat := fs.foldl (fun a f => a + f.2.2 % 2 ^ f.2.1 * 2 ^ f.1) 0

/-- UNIT of a sensor (R395). -/
def sensorUnit (i : Nat) : Nat :=
  if !isSensor i then 0 else if i < 56 then 1
  else if i = 56 ∨ i = 59 ∨ i = 61 ∨ 128 ≤ i then 2 else if i = 58 then 4 else if i = 62 then 5 else 3

/-- A MOD_SENSOR word. -/
def State.sensorWord (s : State) (i : Nat) : Nat :=
  let x : Sensor := tget s.mgt.sensors i {}
  fields [(63, 1, b2n x.valid), (32, 8, sensorUnit i), (0, 32, x.value.toNat)]

/-- NSIDs with an ACTIVE key, as bits. -/
def MgtSt.keyed (m : MgtSt) : Nat :=
  ((List.range 32).filter fun n => m.keys.any fun k => k.holds (n + 1) 0x3F).foldl (fun a n => a + 2 ^ n) 0

/-- Links that are UP. -/
def State.linksUp (s : State) : Nat := ((List.range 48).filter fun l => (s.link l).st == 2).length

/-- The MOD block. -/
def State.readMod (s : State) : Csr → Nat
  | .clkStatus => fields [(16, 16, s.clk.unlocks), (7, 1, b2n s.clk.onXclk), (6, 1, b2n s.clk.lock), (0, 6, s.clk.ok.toNat)]
  | .clkFault => s.clk.faults.toNat
  | .fwStatus => let m := s.mgt
    fields [(63, 1, b2n m.held), (62, 1, b2n m.untested), (61, 1, b2n m.trial), (56, 2, m.bootSlot), (54, 2, m.nextSlot),
            (40, 8, m.stepping.toNat), (32, 8, m.secverMin)]
  | .fwVer => fields [(48, 16, s.mgt.mgtVer.toNat), (32, 16, s.mgt.fcVer.toNat), (16, 16, s.mgt.hubVer.toNat)]
  | .logStatus => let l := s.mgt.log
    fields [(32, 32, l.nextSeq.toNat), (16, 8, l.queue.length + b2n l.progOn), (7, 9, l.sectors.length), (1, 1, b2n l.archiving), (0, 1, b2n l.gap)]
  | .keyStatus => fields [(32, 32, s.mgt.erasePending.toNat), (0, 32, s.mgt.keyed)]
  | .slStatus => let p := s.pwr
    fields [(60, 4, p.level), (59, 1, b2n s.mgt.held), (58, 1, b2n p.lockout), (32, 16, p.ctOk.toNat), (24, 8, p.stackOk.toNat), (22, 2, p.mhOk.toNat),
            (14, 8, p.fcOk.toNat), (13, 1, b2n p.hubOk), (12, 1, b2n p.hioOk), (9, 3, p.lkOk.toNat), (3, 6, s.linksUp)]
  | .resetCause => let p := s.pwr
    fields [(56, 8, p.kind), (48, 8, p.cause), (32, 16, p.source.toNat), (24, 8, (p.fails.filter fun t => decide (s.now < t + 600 * oneSec)).length)]
  | .powerStatus => let p := s.pwr
    fields [(62, 2, p.holdup), (61, 1, b2n p.capping), (60, 1, b2n (p.acting.any fun a => a.2 == 1)), (48, 4, p.gate), (32, 16, p.pfails), (16, 16, p.avgW)]
  | .sensor i => s.sensorWord i
  | _ => 0

/-- The WARP block. -/
def State.readWarp (s : State) : Csr → Nat
  | .srcAddr => s.warp.srcAddr.toNat
  | .srcLen => s.warp.srcLen.toNat
  | .activeId => (s.warp.activeImg.map fun i => i.id.toNat).getD 0
  | .stagedId => (s.warp.stagedImg.map fun i => i.id.toNat).getD 0
  | .warpStatus => let w := s.warp
    fields [(56, 8, w.errStatus), (48, 8, w.errSection), (20, 24, w.errOffset), (16, 1, b2n w.busyRefused), (8, 4, w.shadow), (4, 4, w.active)]
  | .warpFmt => fields [(32, 16, s.warp.activeFmt), (16, 16, 0x0102), (0, 16, 0x0100)]
  | .warpGen => s.warp.gen.toNat
  | .lockErr => let w := s.warp
    fields [(63, 1, b2n w.lockErr), (60, 3, w.lockSrc), (44, 16, w.lockCount), (0, 28, w.lockAddr.toNat)]
  | .sessionTag => s.warp.tag.toNat
  | _ => 0

/-- Jobs that wait for a core. -/
def State.jobsWaiting (s : State) : List Job := s.sh.jobs.filter fun j => j.waitSince != 0

/-- The smallest token count among the joined members of a group (R233). -/
def McastTok.minTokens (m : McastTok) : Nat := (m.joined.map fun x => tget m.tokens x.1 0).foldl min 4

/-- Versions that are not current and still referenced (R272). -/
def State.oldVersions (s : State) : Nat :=
  (s.search.indexes.flatMap fun i => i.vers.flatMap fun l => l.2.filter fun v => v.vend.isSome).length

/-- A port's status word (R49). -/
def State.portWord (s : State) (p : Nat) : Nat :=
  let q := s.port p
  fields [(48, 16, q.crcRetries), (32, 16, q.retrains), (16, 6, q.lanesUp), (3, 1, b2n q.failed), (2, 1, b2n (p == 30 && s.pwr.isolated)),
          (1, 1, b2n q.training), (0, 1, b2n q.up)]

/-- The HUB block. -/
def State.readHub (s : State) : Csr → Nat
  | .fabPort p => s.portWord p
  | .snapCtl => let b := s.fab
    fields [(22, 1, b2n b.snapBusy), (16, 3, b.snapVc.toNat), (15, 1, b2n b.snapDir), (8, 5, b.snapPort.toNat), (0, 6, b.snapLane.toNat)]
  | .snapData => s.fab.snapData.toNat
  | .mcastMembers g => (tget s.fab.members g 0).toNat
  | .mcastStatus => fields [(32, 32, s.fab.dropCopies), (0, 32, s.fab.emptyDrops)]
  | .syncSignal => fields [(32, 32, s.sync.sigAdd.toNat), (0, 13, s.sync.sigObj.toNat)]
  | .modelStatus => fields [(48, 16, s.model.fmt), (32, 16, 0x0101), (16, 16, 0x0100), (8, 1, b2n s.model.mismatch), (0, 4, s.model.st)]
  | .modelId => s.model.id.toNat
  | .modelLen => s.model.len.toNat
  | .mcastTokens g => let m : McastTok := tget s.mctok g {}
    if m.active then fields [(63, 1, 1), (62, 1, b2n m.halted), (56, 6, m.lead), (48, 7, m.joined.length), (45, 3, m.minTokens), (0, 32, m.started)] else 0
  | .shuttleStatus => let h := s.sh
    fields [(51, 13, h.jobs.length), (39, 12, h.frames.length), (24, 15, (h.tasks.filter fun t => t.st == 0).length),
            (12, 12, min h.readyLc.length 0xFFF), (0, 12, min (s.jobsWaiting.filter fun j => !j.lc).length 0xFFF)]
  | .shuttleCount => fields [(32, 32, s.sh.lcPreempts.toNat), (0, 32, s.sh.fullSaves.toNat)]
  | .lcWorst => s.sh.lcWorst.toNat
  | .saveBase => s.sh.saveBase.toNat
  | .measured => s.sh.measured.toNat
  | .unattributed => s.sh.unattrib.toNat
  | .recon => fields [(32, 32, s.sh.recons.toNat), (17, 1, b2n s.sh.sensorLost), (0, 17, s.sh.lastScale)]
  | .searchStatus => fields [(48, 16, min s.oldVersions 0xFFFF), (16, 13, (s.search.indexes.flatMap fun i => i.snaps).length),
                             (0, 10, (s.search.indexes.filter fun i => i.opened.isSome).length)]
  | _ => 0

/-- A CFG word of a record ring or fault queue (R114, R120). -/
def cfgWord (en : Bool) (obj : BitVec 13) (size : Nat) : Nat := fields [(31, 1, b2n en), (16, 13, obj.toNat), (0, 4, size)]

/-- Level of a bucket in KiB, rounded down (R260). -/
def Regul.kib (g : Regul) : Int := g.level / (1600 * 1024)

/-- PTN_SCHED_STATUS of a partition. -/
def State.schedWord (s : State) (p : Nat) : Nat :=
  let cs := bitsOf 64 (s.ptn p).cores.toNat
  let ready := ((s.sh.readyLc ++ s.sh.readyBe).filter fun h => s.sh.tasks.any fun t => t.handle == h && t.ptn == p).length
  fields [(57, 7, (cs.filter fun c => (s.core c).holdsLc).length), (46, 11, (s.jobsOf p).length),
          (35, 11, ((s.jobsOf p).filter fun j => (s.frameOf j.id).isSome).length), (23, 12, (s.jobsWaiting.filter fun j => j.ptn == p).length),
          (7, 16, min ready 0xFFFF), (0, 7, (cs.filter fun c => (s.core c).holder != 0).length)]

/-- The PTN block. -/
def State.readPtn (s : State) : Csr → Nat
  | .ptnClass p => let q := s.ptn p
    fields [(16, 11, q.beWeight), (8, 7, q.lcLimit), (3, 1, b2n q.bePermit), (2, 1, b2n q.lcPermit), (1, 1, b2n q.modelUser), (0, 1, b2n q.enable)]
  | .ptnCores p => (s.ptn p).cores.toNat
  | .syncRange p => fields [(16, 14, (s.ptn p).syncCount), (0, 13, (s.ptn p).syncBase)]
  | .rate p r => let g : Regul := tget (s.ptn p).regs r {}
    fields [(32, 32, g.burst), (0, 32, g.rate)]
  | .regStatus p r => let g : Regul := tget (s.ptn p).regs r {}
    fields [(32, 32, g.held), (0, 32, wrapN 32 g.kib)]
  | .tenantTag p => (s.ptn p).tag.toNat
  | .ptRoot p => fields [(16, 34, (s.ptn p).ptRoot.toNat), (0, 1, b2n (s.ptn p).ptEn)]
  | .faultBase p => (s.ptn p).fault.base.toNat
  | .faultCfg p => let f := (s.ptn p).fault; cfgWord f.enable f.obj f.size
  | .faultProd p => (s.ptn p).fault.prod.toNat
  | .faultCons p => (s.ptn p).fault.cons.toNat
  | .ringBase p k => ((s.ptn p).recRing k).base.toNat
  | .ringCfg p k => let r := (s.ptn p).recRing k; cfgWord r.enable r.obj r.size
  | .xreqStatus p => let q := s.ptn p
    fields [(48, 16, q.xreq.errors), (32, 16, q.xStale), (16, 16, q.xLate), (0, 16, q.xreq.taken)]
  | .scanStatus p => let q := s.ptn p
    fields [(48, 16, q.scan.errors), (32, 16, q.scanLost), (16, 7, s.scanPending p), (0, 16, q.scan.taken)]
  | .fieldRingStatus p => let q := s.ptn p
    fields [(48, 16, q.fring.errors), (32, 1, b2n q.wdogExpired), (16, 16, q.wdogPeriod), (0, 16, q.fring.taken)]
  | .schedStatus p => s.schedWord p
  | .lcPin p i => let x : PinSt := tget (s.ptn p).pins i {}
    fields [(63, 1, b2n x.en), (62, 1, b2n x.ok), (16, 32, x.va.toNat)]
  | .acctCtl p => b2n (s.ptn p).acctBusy
  | .acct p k => tget (s.ptn p).acctSnap k 0
  | .lnkKey p => (s.ptn p).lnkKey.toNat
  | .lnkJob p => let q := s.ptn p
    fields [(63, 1, b2n q.lnkEn), (48, 11, q.lnkCoord.toNat), (0, 16, q.lnkDropped)]
  | .lnkExport p => let q := s.ptn p
    fields [(63, 1, b2n q.expWrite), (62, 1, b2n q.expRead), (32, 22, q.expPages.toNat), (0, 32, q.expBase.toNat)]
  | _ => 0

/-- Filling, full and free slots of a stream (R229). -/
def StreamSt.slots (st : StreamSt) : Nat × Nat × Nat :=
  let filling := min 4 (st.nextTile - st.landed)
  if !st.busy then (0, 0, 0)
  else if strmMode st = 1 then
    let free := min (4 - filling) (st.taken - st.nextTile)
    (filling, 4 - filling - free, free)
  else
    let full := min (4 - filling) (st.landed - st.taken)
    (filling, full, 4 - filling - full)

/-- CT_STRM_STATUS of a stream. -/
def CoreSt.strmWord (k : CoreSt) (leadHalted : Nat → Bool) (i : Nat) : Nat :=
  let st : StreamSt := tget k.streams i {}
  let n := st.slots
  let mode := strmMode st
  let q := (tget k.queues (3 + i) []).length
  if st.busy then fields [(48, 16, st.nextTile), (40, 8, st.row), (37, 3, n.2.2), (34, 3, n.1), (31, 3, n.2.1), (20, 4, q), (16, 3, mode),
                          (8, 5, if mode = 3 ∨ mode = 4 then strmGroup st else 0), (2, 1, b2n (st.halted || (mode == 4 && leadHalted (strmGroup st)))), (1, 1, b2n (mode == 3 || mode == 4)), (0, 1, 1)]
  else fields [(20, 4, q)]

/-- The CT block. -/
def State.readCore (s : State) : Csr → Nat
  | .coreWidth c => let k := s.core c
    fields [(16, 1, b2n k.stripOk), (8, 8, 128 - popN 128 k.colMap.toNat), (0, 8, k.width)]
  | .colLo c => (s.core c).colMap.toNat % 2 ^ 64
  | .colHi c => (s.core c).colMap.toNat / 2 ^ 64
  | .mxStatus c => let k := s.core c
    fields [(32, 32, k.mxOps), (16, 8, (k.rmd.map fun r => r.cols).foldl (· + ·) 0), (8, 4, k.rmd.length), (0, 5, (tget k.queues 0 []).length)]
  | .spadEcc c => let k := s.core c
    fields [(48, 16, k.eccCe), (40, 8, k.eccSpadUe), (32, 8, k.eccAccUe), (16, 10, k.eccLastRow), (8, 3, k.eccLastSector), (0, 1, b2n k.eccLastAcc)]
  | .vuStatus c => let k := s.core c
    let row := (k.running ++ k.preempted).any fun e =>
      let op := (vuDecode e.2.q.desc.toNat).op
      e.1 == 1 && decide (14 ≤ op) && decide (op ≤ 18)
    fields [(32, 32, k.vuOps), (8, 1, b2n row), (0, 5, (tget k.queues 1 []).length)]
  | .sfuStatus c => let k := s.core c
    fields [(32, 32, k.sfuOps), (16, 16, k.sfuValid.toNat), (12, 1, b2n (!k.sfuReloading.isEmpty)), (8, 4, k.sfuLastSlot), (0, 5, (tget k.queues 2 []).length)]
  | .sfuEcc c => let k := s.core c
    fields [(48, 16, k.sfuCe), (40, 8, k.sfuUe), (0, 8, k.sfuLastSeg)]
  | .strmStatus c i => (s.core c).strmWord (fun g => (s.mct g).active && (s.mct g).halted) i
  | .bobStatus c => let k := s.core c
    fields [(32, 32, k.bobOps), (9, 1, b2n (k.bobs.any fun b => b.halted)), (5, 3, k.bobs.length), (0, 5, (tget k.queues 6 []).length)]
  | .thrState c t => let th := s.thr c t
    if th.st = tFree then 0 else fields [(60, 4, th.st.toNat), (59, 1, b2n th.lc), (0, 48, th.pc.toNat)]
  | .thrFlags c t => let th := s.thr c t
    fields [(16, 16, th.opsFlagged), (0, 8, th.flags.toNat)]
  | _ => 0

/-- Blocks in service of a die: those not retired. -/
def State.wears (s : State) (d : Nat) : List Nat := (((s.dieBlocks d).filter fun e => e.2.pool != .retired).map fun e => e.2.wear)

/-- Open rows whose parity block a die owns (R305). -/
def State.openRowsOf (s : State) (d : Nat) : Nat := (s.flash.rows.filter fun r => !r.closed && fcOf (blockChan r.parity) == d).length

/-- Batches resident in an engine (R282). -/
def State.batchesAt (s : State) (ch : Nat) : Nat :=
  (s.search.batches.filter fun b => b.placed && !b.fetch && b.chans.contains ch && !b.reported.contains ch).length

/-- The FC block. Blocks not listed have wear 0, so the smallest wear of a die with such a block is 0. -/
def State.readFc (s : State) : Csr → Nat
  | .qnStatus ch => let e := s.eng ch
    let lc := e.queue.any (·.lc)
    fields [(32, 8, s.batchesAt ch), (24, 7, e.queue.length), (16, 6, e.beFree), (8, 4, e.lcFree), (2, 3, e.sets.length), (1, 1, b2n lc),
            (0, 1, b2n (!e.queue.isEmpty))]
  | .qnCount ch => fields [(16, 48, (s.eng ch).entries.toNat), (0, 16, (s.eng ch).pagesLost)]
  | .qnLookups ch => (s.eng ch).lookups.toNat
  | .poolCtl _ => b2n s.flash.poolBusy
  | .pool d i => let q := (s.fcd d).snap
    if i = 0 then fields [(32, 32, q.getD 0 0), (0, 32, q.getD 1 0)] else if i = 1 then fields [(32, 32, q.getD 2 0), (0, 32, q.getD 3 0)]
    else fields [(32, 32, q.getD 4 0), (0, 32, 262144)]
  | .millpond d =>
    let used := (s.flash.map.filter fun e => e.2.valid && e.2.millpond && fcOf (blockChan (unitBlock e.2.unit)) == d).length
    fields [(32, 32, s.flash.capUser / 8 / 2 ^ 20), (0, 32, used * 4096 / 2 ^ 20)]
  | .wear d => let ws := s.wears d
    let least := if (s.dieBlocks d).length < 262144 then 0 else ws.foldl min (ws.headD 0)
    fields [(48, 16, ws.foldl max 0 / 20), (32, 16, least / 20), (16, 16, min (s.meanWear d) 0xFFFF), (8, 8, s.pctUsed d), (0, 8, (s.fcd d).spare)]
  | .mediaErr d => let x := s.fcd d
    fields [(48, 16, x.retries), (32, 16, x.soft), (16, 16, x.rebuilds), (0, 16, x.lost)]
  | .mapStatus d => let x := s.fcd d
    fields [(32, 32, x.misses.toNat), (8, 4, min (s.openRowsOf d) 8), (1, 1, b2n x.readOnly), (0, 1, b2n x.partnerLost)]
  | _ => 0

/-- The LNK block. -/
def State.readLnk (s : State) : Csr → Nat
  | .lnkStatus l => let k := s.link l
    fields [(60, 4, k.st), (48, 8, k.cause), (32, 16, k.version), (16, 16, k.retrains), (0, 3, k.dir)]
  | .lnkPartner l => fields [(32, 11, (s.link l).pMod), (0, 6, (s.link l).pLink)]
  | .lnkErr l => let k := s.link l
    fields [(48, 16, k.crc), (32, 16, k.fec), (16, 16, k.refused), (0, 16, k.dropped)]
  | .lnkSnapCtl l => let k := s.link l
    fields [(22, 1, b2n k.snapBusy), (16, 3, k.snapVc.toNat), (15, 1, b2n k.snapDir)]
  | .lnkSnapData l => (s.link l).snapData.toNat
  | _ => 0

/-- The TIME block. -/
def State.readTime (s : State) : Csr → Nat
  | .timeNow => s.timeNow.toNat
  | .timeSet => s.time.setVal.toNat
  | .timeApply => 2 * b2n s.time.pending
  | .timeStatus => let t := s.time
    fields [(63, 1, b2n t.valid), (62, 1, b2n t.pending), (61, 1, b2n t.setErr), (56, 4, t.st), (52, 4, t.source), (32, 20, wrapN 20 t.rate),
            (0, 32, wrapN 32 t.offset)]
  | .ppsIn => s.time.pps.toNat
  | _ => 0

/-- The FIELD block. -/
def State.readField (s : State) : Csr → Nat
  | .fieldDo => let f := s.field
    fields [(32, 1, b2n f.supplyLost), (24, 8, f.fault.toNat), (16, 8, bits8 s.doHeld), (8, 8, f.commanded.toNat), (0, 8, bits8 s.driven)]
  | .fieldDi => s.field.di.toNat
  | .diCount n => (tget s.field.diCount n 0).toNat
  | .inh i => let x := s.field.inhOf i
    fields [(48, 16, x.faults), (32, 16, min (x.disagree / 1000000) 0xFFFF), (16, 16, x.disc), (7, 1, b2n x.ackRefused), (6, 1, b2n x.sawR),
            (5, 1, b2n x.sawD), (4, 1, b2n x.bRel), (3, 1, b2n x.aRel), (0, 2, x.stateNum)]
  | .btn => let f := s.field
    fields [(32, 32, f.btnPresses), (2, 30, f.btnHold), (0, 2, f.btnState)]
  | .chain => let c := s.chain
    fields [(48, 16, c.crcErrors), (32, 16, c.evDropped), (17, 1, b2n c.downUp), (16, 1, b2n c.upUp), (8, 8, c.position), (7, 1, b2n c.confirmed),
            (0, 6, c.addr)]
  | .port p k => let e := s.eth p
    if k = 0 then fields [(32, 32, e.reqs), (0, 32, e.replies)] else if k = 1 then fields [(32, 32, e.dropped), (0, 32, e.late)]
    else if k = 2 then fields [(32, 32, e.ingDrops), (0, 32, e.unclaimed)]
    else fields [(63, 1, b2n e.linkUp), (60, 3, e.fec), (0, 32, e.fcsErr)]
  | _ => 0

/-- The MGMT block. -/
def State.readMgmt (s : State) : Csr → Nat
  | .mbCmd => let m := s.mgt
    fields [(63, 1, b2n m.mbGo), (32, 13, m.mbArgLen), (0, 16, m.mbCode.toNat)]
  | .mbStatus => let m := s.mgt
    fields [(63, 1, b2n m.mbBusy), (62, 1, b2n m.mbDone), (48, 8, m.mbStatus), (32, 13, m.mbReplyLen), (0, 32, m.mbLogSeq.toNat)]
  | .mbArg i => leNat ((List.range 8).map fun j => tget s.mgt.mbArg (8 * i + j) 0)
  | .mbReply i => leAt s.mgt.mbReply (8 * i) 8
  | _ => 0

/-- The NOTICE block. -/
def State.readNotice (s : State) : Csr → Nat
  | .noticeBase r => (s.nring r).base.toNat
  | .noticeCfg r => fields [(31, 1, b2n (s.nring r).enable), (0, 4, (s.nring r).size)]
  | .noticeProd r => (s.nring r).prod.toNat
  | .noticeCons r => (s.nring r).cons.toNat
  | .noticeLost r => (s.nring r).lost
  | .wmCfg w => let m : WmSt := tget s.notice.wms w {}
    fields [(63, 1, b2n m.enable), (62, 1, b2n m.dir), (56, 3, m.kind), (32, 13, m.index), (0, 32, m.mark)]
  | .wmStatus w => let m : WmSt := tget s.notice.wms w {}
    fields [(63, 1, b2n m.hit), (0, 32, m.peak)]
  | _ => 0

/-- The MEM block. -/
def State.readMem (s : State) : Csr → Nat
  | .eccCount h => let x := s.xl
    fields [(48, 16, tget x.eccStackUe h 0), (32, 16, tget x.eccBoardUe h 0), (16, 16, tget x.eccStackCe h 0), (0, 16, tget x.eccBoardCe h 0)]
  | .dirStatus => fields [(32, 32, s.dir.evictions), (0, 10, (s.dir.entries.filter fun e => e.2.busy.isSome).length)]
  | _ => 0

/-- The SYNC block. -/
def State.readSync (s : State) : Csr → Nat
  | .syncCount n => fields [(32, 32, (s.obj n).thresh), (0, 32, (s.obj n).count)]
  | .syncCtl n => (s.syncCtl n).toNat
  | _ => 0

/-- The 64 bits that a register reads as; each belongs to one block. -/
def State.csr (s : State) (r : Csr) : Nat :=
  (s.readMod r ||| s.readWarp r ||| s.readHub r ||| s.readSync r) ||| (s.readPtn r ||| s.readCore r ||| s.readFc r ||| s.readLnk r) |||
    (s.readTime r ||| s.readField r ||| s.readMgmt r ||| s.readNotice r ||| s.readMem r)

/-- The 8 bytes at an offset (R9). -/
def State.csr64 (s : State) (off : Nat) : Nat :=
  match csrAt off with
  | some r => s.csr r
  | none => 0

/-- A read of the window by an interface (R9, R10), with the latch of TIME_NOW (R446): a size other than 4 or 8, another
alignment and an offset that no block defines read 0. -/
def State.csrRead (s : State) (iface off n : Nat) : Nat × State :=
  if (n ≠ 4 ∧ n ≠ 8) ∨ off % n ≠ 0 ∨ csrDefined off = false then (0, s)
  else if n = 8 then (s.csr64 off, s)
  else if csrAt off = some .timeNow then
    (if off % 8 < 4 then (let r := s.timeLowRead iface; (r.1.toNat, r.2)) else (let r := s.timeHighRead iface; (r.1.toNat, r.2)))
  else (s.csr64 off / 2 ^ (8 * (off % 8)) % 2 ^ 32, s)

end Sys2Proof.Machine
end

