-- ==== Sys2Proof/Machine/RegWrite.lean ====
section
/-! DEFINITION. Writes of the CSR window by every route (R7-R10, R69, R70). -/

namespace Sys2Proof.Machine

/-- A write of the CSR window: its source, its offset, 8 or 4 bytes, the data. -/
structure CsrWr where
  src : Src := .bar2
  off : Nat := 0
  wide : Bool := false
  data : Nat := 0

/-- Does the write reach the low half of its 8 bytes? -/
def CsrWr.lo (w : CsrWr) : Bool := w.wide || decide (w.off % 8 < 4)

/-- Does it reach the high half? -/
def CsrWr.hi (w : CsrWr) : Bool := w.wide || decide (4 ≤ w.off % 8)

/-- The bits it writes, at their places in the 8 bytes; those of a half it does not reach are 0. -/
def CsrWr.bits (w : CsrWr) : Nat :=
  if w.wide then w.data % 2 ^ 64 else if w.lo then w.data % 2 ^ 32 else w.data % 2 ^ 32 * 2 ^ 32

/-- A register of 64 bits after the write: a half it does not reach keeps its bits (R10). -/
def CsrWr.onto (w : CsrWr) (old : Nat) : Nat :=
  if w.wide then w.data % 2 ^ 64
  else if w.lo then old / 2 ^ 32 * 2 ^ 32 + w.data % 2 ^ 32
  else old % 2 ^ 32 + w.data % 2 ^ 32 * 2 ^ 32

/-! Late writes (R70). -/

/-- WARP_LOCKERR.SRC of a source. -/
def lockSrcOf : Src → Nat
  | .weft _ => 1
  | .mailbox => 2
  | .chain _ => 3
  | .mgt => 4
  | _ => 0

/-- A late or conflicting write is dropped: counted, captured while LOCKERR is 0 with one module notice, and logged at most
once per source per second. -/
def State.lateWrite (s : State) (w : CsrWr) (held : Nat) : State :=
  let n := lockSrcOf w.src
  let s1 := s.modWarp fun x => { x with lockCount := satAdd 16 x.lockCount 1 }
  let s2 := if s.warp.lockErr then s1
    else (s1.modWarp fun x => { x with lockErr := true, lockSrc := n, lockAddr := BitVec.ofNat 28 w.off }).notifyModule 0x1004 n (BitVec.ofNat 64 w.off)
  s2.logFolded (rateKey 0x1004 w.src.code.toNat) oneSec w.src.code 0x1004 fun k =>
    bytesLE 4 w.off ++ bytesLE 2 w.src.code.toNat ++ bytesLE 2 (min k 0xFFFF) ++ bytesLE 8 w.bits ++ bytesLE 8 held

/-- A WO1 register of 64 bits, judged in halves (R70): its value and which halves hold a written value; none for a
conflict. -/
def CsrWr.once (w : CsrWr) (held : Nat) (lo hi : Bool) : Option (Nat × Bool × Bool) :=
  let v := w.onto held
  if (w.lo && lo && v % 2 ^ 32 != held % 2 ^ 32) || (w.hi && hi && v / 2 ^ 32 != held / 2 ^ 32) then none
  else some (v, lo || w.lo, hi || w.hi)

/-- A write to an LK register of a partition (R69, R70): it takes effect until the first commit. -/
def State.lkWrite (s : State) (w : CsrWr) (held : Nat) (p : Nat) (f : PtnSt → PtnSt) : Bool × State :=
  if s.warp.locked then (false, s.lateWrite w held) else (true, s.modPtn p f)

/-- A write to PTN_LNK_KEY, PTN_LNK_JOB or PTN_LNK_EXPORT (R379). -/
def State.lnkWrite (s : State) (p : Nat) (f : PtnSt → PtnSt) : State :=
  if (s.jobsOf p).isEmpty then s.modPtn p f else s.modPtn p fun q => { q with lnkDropped := satAdd 16 q.lnkDropped 1 }

/-! Registers with more than one field. -/

/-- SYNC_CTL: OVF and MODE, through input 79 as every CSR write to the block (R86, R88). -/
def State.syncCtlWrite (s : State) (n : Nat) (w : CsrWr) : State :=
  if !w.hi then s
  else
    let m := fld w.bits 32 3
    s.syncArrive 79 n (.setCtl (if m < 3 then some m else none) (bitN w.bits 63))

/-- MGMT_MB_CMD (R393): dropped while BUSY. -/
def State.mbCmdWrite (s : State) (w : CsrWr) : State :=
  if s.mgt.mbBusy then s
  else
    let v := w.onto (s.csr .mbCmd)
    s.modMgt fun m => { m with mbCode := BitVec.ofNat 16 (fld v 0 16), mbArgLen := fld v 32 13, mbGo := m.mbGo || bitN w.bits 63 }

/-- MGMT_MB_ARG (R393): dropped while BUSY. -/
def State.mbArgWrite (s : State) (i : Nat) (w : CsrWr) : State :=
  if s.mgt.mbBusy then s
  else
    let v := w.onto (s.csr (.mbArg i))
    s.modMgt fun m => { m with mbArg := (List.range 8).foldl (fun t j => tset t (8 * i + j) (BitVec.ofNat 8 (fld v (8 * j) 8))) m.mbArg }

/-- NOTICE_RING_BASE and NOTICE_RING_CFG (R98). -/
def State.noticeCfgWrite (s : State) (r : Nat) (w : CsrWr) : State :=
  let v := w.onto (s.csr (.noticeCfg r))
  let s1 := s.modNring r fun q => { q with enable := bitN v 31, size := fld v 0 4 }
  if bitN v 31 then s1.drainRing r else s1

/-- PTN_FAULT_CFG (R120): OBJ and SIZE_LOG2 take effect while ENABLE = 0 (spec/05, Registers). -/
def State.faultCfgWrite (s : State) (p : Nat) (w : CsrWr) : State :=
  let v := w.onto (s.csr (.faultCfg p))
  let s1 := s.modPtn p fun q =>
    if q.fault.enable then { q with fault := { q.fault with enable := bitN v 31 } }
    else { q with fault := { q.fault with enable := bitN v 31, obj := BitVec.ofNat 13 (fld v 16 13), size := fld v 0 4 } }
  if bitN v 31 then drainFaults p s1.xl.halted s1 else s1

/-- FIELD_INH: ACK_REFUSED is cleared, then ACK acts, whose refusal sets it again (R8, R437). -/
def State.inhWrite (s : State) (i : Nat) (w : CsrWr) : State :=
  let s1 := if bitN w.bits 7 then s.modInh i fun x => { x with ackRefused := false } else s
  if bitN w.bits 8 then (s1.inhAckOp i w.src.code).2 else s1

/-- An address field in units of 64 bytes. -/
def addr64 (v : Nat) : BitVec 50 := BitVec.ofNat 50 (fld v 6 44 * 64)

/-- The effect of a write on a register whose writes R70 does not judge (R7); a register without a writable field keeps its
value. -/
def State.csrPlain (s : State) (r : Csr) (w : CsrWr) : State :=
  let v := w.onto (s.csr r)
  let b := w.bits
  match r with
  | .clkFault => s.modClk fun c => { c with faults := c.faults &&& ~~~(BitVec.ofNat 6 b) }
  | .logStatus => if bitN b 0 then s.modLog fun l => { l with gap := false } else s
  | .warpCtl => s.warpCtl w.src b
  | .srcAddr => s.modWarp fun x => { x with srcAddr := BitVec.ofNat 50 v }
  | .srcLen => s.modWarp fun x => { x with srcLen := BitVec.ofNat 21 v }
  | .warpStatus => if bitN b 16 then s.modWarp fun x => { x with busyRefused := false } else s
  | .lockErr => if bitN b 63 then s.lockClear else s
  | .snapCtl => if w.lo then s.snapWrite (BitVec.ofNat 32 b) else s
  | .syncSignal => if w.wide then hubSyncSignalFx b s else s
  | .lcWorst => s.modSh fun h => { h with lcWorst := BitVec.ofNat 32 v }
  | .recon => if bitN b 17 then s.modSh fun h => { h with sensorLost := false } else s
  | .syncCount n => syncCsrWriteFx n (if w.lo then 0 else 1) w.wide (w.data % 2 ^ 64) s
  | .syncCtl n => s.syncCtlWrite n w
  | .ptRoot p => s.modPtn p fun q => { q with ptRoot := BitVec.ofNat 34 (fld v 16 34), ptEn := bitN v 0 }
  | .faultBase p => s.modPtn p fun q => if q.fault.enable then q else { q with fault := { q.fault with base := addr64 v } }
  | .faultCfg p => s.faultCfgWrite p w
  | .faultCons p => s.faultCons p (BitVec.ofNat 32 v)
  | .ringBase p k => s.ringBase p k v
  | .ringCfg p k => if w.lo then s.ringCfg p k v else s
  | .lcPin p i => s.lcPin p i v
  | .acctCtl p => if bitN b 1 then s.acctGo p else s
  | .lnkKey p => s.lnkWrite p fun q => { q with lnkKey := BitVec.ofNat 64 v }
  | .lnkJob p => s.lnkWrite p fun q => { q with lnkEn := bitN v 63, lnkCoord := BitVec.ofNat 11 (fld v 48 11) }
  | .lnkExport p => s.lnkWrite p fun q => { q with
      expWrite := bitN v 63, expRead := bitN v 62, expPages := BitVec.ofNat 22 (fld v 32 22), expBase := BitVec.ofNat 32 v }
  | .poolCtl _ => if bitN b 1 then s.poolGo else s
  | .lnkSnapCtl l => if w.lo then s.lnkSnapWrite l (BitVec.ofNat 32 b) else s
  | .timeSet => s.modTime fun t => { t with setVal := BitVec.ofNat 64 v }
  | .timeApply => s.timeApplyWrite w.src.code (bitN b 0) (bitN b 1)
  | .timeStatus => if bitN b 61 then s.modTime fun t => { t with setErr := false } else s
  | .fieldDo => s.clearFaults (BitVec.ofNat 8 (fld b 24 8))
  | .inh i => s.inhWrite i w
  | .mbCmd => s.mbCmdWrite w
  | .mbStatus => if bitN b 62 then s.modMgt fun m => { m with mbDone := false } else s
  | .mbArg i => s.mbArgWrite i w
  | .noticeBase r => s.modNring r fun q => { q with base := addr64 v }
  | .noticeCfg r => s.noticeCfgWrite r w
  | .noticeCons r => s.noticeCons r (BitVec.ofNat 32 v)
  | .wmCfg m => s.wmCfg m v
  | .wmStatus m => if bitN b 63 then s.wmClear m else s
  | _ => s

/-- A write to a register: false where R70 drops it. -/
def State.csrReg (s : State) (r : Csr) (w : CsrWr) : Bool × State :=
  let held := s.csr r
  let v := w.onto held
  match r with
  | .ptnClass p => s.lkWrite w held p fun q => { q with
      beWeight := fld v 16 11, lcLimit := fld v 8 7, bePermit := bitN v 3, lcPermit := bitN v 2, modelUser := bitN v 1, enable := bitN v 0 }
  | .ptnCores p => s.lkWrite w held p fun q => { q with cores := BitVec.ofNat 64 v }
  | .syncRange p => s.lkWrite w held p fun q => { q with syncCount := fld v 16 14, syncBase := fld v 0 13 }
  | .rate p i => s.lkWrite w held p fun q => { q with
      regs := tset q.regs i { tget q.regs i {} with rate := fld v 0 32, burst := fld v 32 32 } }
  | .sessionTag => match w.once held s.warp.tagLo s.warp.tagHi with
    | some x => (true, s.modWarp fun q => { q with tag := BitVec.ofNat 64 x.1, tagLo := x.2.1, tagHi := x.2.2 })
    | none => (false, s.lateWrite w held)
  | .tenantTag p => match w.once held (s.ptn p).tagLo (s.ptn p).tagHi with
    | some x => (true, s.modPtn p fun q => { q with tag := BitVec.ofNat 64 x.1, tagLo := x.2.1, tagHi := x.2.2 })
    | none => (false, s.lateWrite w held)
  | _ => (true, s.csrPlain r w)

/-- How a write of the window ends (R9, R70). -/
inductive WrEnd where
  | taken | undefined | locked
  deriving DecidableEq, Repr

/-- Is an access naturally aligned (R9)? -/
def aligned (off : Nat) (wide : Bool) : Bool := off % (if wide then 8 else 4) == 0

/-- A write of the CSR window (R9): where no block defines the offset, and at any other alignment, it is dropped. -/
def State.csrWrite (s : State) (w : CsrWr) : WrEnd × State :=
  match csrAt w.off with
  | none => (.undefined, s)
  | some r =>
    if !csrDefined w.off || !aligned w.off w.wide then (.undefined, s)
    else (let x := s.csrReg r w; (if x.1 then .taken else .locked, x.2))

end Sys2Proof.Machine
end

