-- ==== Sys2Proof/Machine/Mgmt.lean ====
section
/-! DEFINITION. The management commands (R392-R394, R407, R413, R416, R421, R424, R457): what each does, and the routes by
which they come. -/

namespace Sys2Proof.Machine

/-- What MGT does once the reply has gone (R394). -/
inductive MgmtThen where
  | nothing | moduleReset | powerCycle | reopen
  deriving DecidableEq, Repr

/-- What a management command does: its answer (none while a firmware bank is being written), the state, and what follows
the reply. -/
structure MgmtRes where
  ans : Option MgmtAns := none
  st : State
  next : MgmtThen := .nothing

/-- Only a status. -/
def mgmtSt (status : Nat) (s : State) : MgmtRes := { ans := some { status := status }, st := s }

/-- A reply with OK. -/
def mgmtBytes (bs : List Byte) (s : State) : MgmtRes := { ans := some { bytes := bs }, st := s }

/-- An argument out of its range. -/
def mgmtInvalid (s : State) : MgmtRes := mgmtSt stInvalidField s

/-- The least bytes of a command's argument; none for a code outside the tables (R394, R457). The mailbox and the chain carry
the requests of R65 and accesses of the CSR window (R70, R446) too; the spec gives them no code there, and they have the
codes of R367 (DESIGN CHOICE, log entry 51). -/
def mgmtArgLen (code : Nat) (arg : List Byte) : Option Nat :=
  match code with
  | 1 => some 5
  | 2 => some 16
  | 0x10 => some 12
  | 0x11 => some 0
  | 0x12 => some 0
  | 0x13 => some 0
  | 0x100 => some 0
  | 0x110 => some 4
  | 0x120 => some 8
  | 0x200 => some 4
  | 0x201 => some 2
  | 0x210 => some 8
  | 0x211 => some 1
  | 0x300 => some 4
  | 0x400 => some 1
  | 0x500 => some 0
  | 0x501 => some 1
  | 0x502 => some 1
  | 0x510 => some (8 + 8 * leAt arg 6 1)
  | 0x511 => some (16 + 8 * leAt arg 1 1)
  | 0x520 => some 9
  | 0x521 => some 4
  | 0x530 => some 0
  | 0x700 => some 4
  | _ => none

/-- The LONG commands (R394). -/
def State.mgmtLong (s : State) (code : Nat) : Bool := code == 0x201 || code == 0x300 || code == 0x700 || (code == 0x200 && s.sl1Alone)

/-! The commands. -/

/-- STATUS: six words of 8 bytes. -/
def State.mgmtStatusBytes (s : State) : List Byte :=
  [Csr.fwStatus, .fwVer, .logStatus, .keyStatus, .clkStatus, .slStatus].flatMap fun r => bytesLE 8 (s.csr r)

/-- SENSOR_READ (R394). -/
def State.mgmtSensors (s : State) (first count : Nat) : MgmtRes :=
  if 162 < first + count then mgmtInvalid s
  else mgmtBytes ((List.range count).flatMap fun i => bytesLE 8 (s.sensorWord (first + i))) s

/-- The entry of a SEQ that is held (R407): in SRAM, in the window, or in the archive at SL2 or above. -/
def State.logEntry (s : State) (seq : BitVec 32) : Option LogEnt :=
  let l := s.mgt.log
  let at_ := fun (es : List LogEnt) => es.find? fun e => e.seq == seq && e.real
  ((at_ l.queue).or (at_ l.sectors.flatten)).or (if 2 ≤ s.pwr.level then at_ (l.pages.flatMap fun p => p.2) else none)

/-- The 64 bytes LOG_READ returns for a SEQ (R407). -/
def State.logReadEntry (s : State) (seq : BitVec 32) : List Byte :=
  match s.logEntry seq with
  | some e => if e.bad then List.replicate 64 0xFF#8 else e.bytes
  | none => zeros 64

/-- LOG_READ (R407): the reply is cut to the space. -/
def State.mgmtLogRead (s : State) (arg : List Byte) (space : Nat) : MgmtRes :=
  let seq := leAt arg 0 4
  let count := leAt arg 4 4
  if count = 0 ∨ 1024 < count then mgmtInvalid s
  else mgmtBytes (((List.range (min count (space / 64 + 1))).flatMap fun i => s.logReadEntry (BitVec.ofNat 32 (seq + i))).take space) s

/-- FW_DOWNLOAD (R410). -/
def State.mgmtDownload (s : State) (src : Src) (arg : List Byte) : MgmtRes :=
  let r := s.stagePiece src (leAt arg 0 4) (arg.drop 4)
  mgmtSt (if r.1 then stOk else stInvalidField) r.2

/-- FW_COMMIT (R411): the answer comes when the bank is written. -/
def State.mgmtCommit (s : State) (src : Src) (tag : Nat) (arg : List Byte) : MgmtRes :=
  let action := leAt arg 1 1
  if 2 < action then mgmtInvalid s
  else
    let r := s.fwCommitOp src tag (leAt arg 0 1) action
    { ans := r.1.map fun e => { status := e.mgmt }, st := r.2 }

/-- OVERRIDE_UNTESTED (R416): MGT leaves held mode at once, and the level rises as far as its units allow. -/
def State.mgmtOverride (s : State) (src : Src) (arg : List Byte) : MgmtRes :=
  let comb := BitVec.ofNat 64 (leAt arg 0 8)
  if comb ≠ s.mgt.combination then mgmtInvalid s
  else
    let s1 := s.modMgt fun m => { m with override := some comb, untested := true, held := false }
    mgmtSt stOk (((s1.log src.code 0x7007 (bytesLE 8 comb.toNat ++ bytesLE 2 src.code.toNat)).raiseLevel).checkWarn)

/-- RAISE_SECVER (R413). -/
def State.mgmtSecver (s : State) (src : Src) (arg : List Byte) : MgmtRes :=
  let v := leAt arg 0 1
  let old := s.mgt.secverMin
  if v ≤ old ∨ ((s.mgt.slot s.mgt.bootSlot).any fun i => decide (i.secver < v)) then mgmtInvalid s
  else mgmtSt stOk ((s.modMgt fun m => { m with secverMin := v }).log src.code 0x7008 (bytesLE 1 old ++ bytesLE 1 v))

/-- NSIDs of the namespaces that stand, rising. -/
def State.nsidsUp (s : State) : List Nat := (List.range 33).filter fun n => (s.nsOf n).isSome

/-- CRYPTO_ERASE (R421): one namespace, or every one in rising NSID order, after the NVMe commands fetched earlier. -/
def State.mgmtErase (s : State) (src : Src) (arg : List Byte) : MgmtRes :=
  let n := leAt arg 0 4
  if n = 0xFFFFFFFF then mgmtSt stOk (s.settleWrites.each s.nsidsUp fun s n => s.eraseNs src n)
  else if (s.nsOf n).isSome then mgmtSt stOk (s.settleWrites.eraseNs src n)
  else mgmtInvalid s

/-- RESET (R394): log 0x700C; the reset follows the reply. -/
def State.mgmtResetOp (s : State) (src : Src) (arg : List Byte) : MgmtRes :=
  let kind := leAt arg 0 1
  if 1 < kind then mgmtInvalid s
  else { ans := some {}, st := s.log src.code 0x700C (bytesLE 1 kind ++ bytesLE 2 src.code.toNat)
         next := if kind = 0 then .moduleReset else .powerCycle }

/-- Steps 1 to 4 of DEBUG_REOPEN (R424): every key goes as in steps 1 to 3 of an erase, then the root key. -/
def State.debugReopenOp (s : State) (src : Src) (arg : List Byte) : MgmtRes :=
  if leAt arg 0 4 ≠ 0xDEB60FF0 then mgmtInvalid s
  else
    let s1 := s.settleWrites.each s.nsidsUp fun s n => (let k := (s.releaseNs n).makeKey n; if k.1 then k.2 else k.2.killKey n)
    let s2 := s1.modMgt fun m => { m with rootKilled := true, debugOpen := true, keyRegs := [], keys := m.keys.map fun k => { k with bad := true } }
    { ans := some {}, st := s2.log src.code 0x700B [], next := .reopen }

/-- FIELD_STATUS: the FIELD registers from 0x000 to 0x0FF (R457). -/
def State.fieldBytes (s : State) : List Byte := (List.range 32).flatMap fun i => bytesLE 8 (s.csr64 (0x3900000 + 8 * i))

/-- INH_ACK (R437, R457). -/
def State.mgmtInhAck (s : State) (src : Src) (arg : List Byte) : MgmtRes :=
  let i := leAt arg 0 1
  if 1 < i then mgmtInvalid s else (let r := s.inhAckOp i src.code; mgmtSt r.1 r.2)

/-- PORT_CFG (R457): a MAC address as a number whose lowest byte is the octet sent last. -/
def State.mgmtPort (s : State) (arg : List Byte) : MgmtRes :=
  let p := leAt arg 0 1
  let n := leAt arg 6 1
  let at_ := fun i => 8 + 8 * i
  if 1 < p ∨ 2 < leAt arg 1 1 ∨ 7 < leAt arg 2 1 ∨ leAt arg 3 1 ≠ 0 ∨ leAt arg 7 1 ≠ 0 ∨ 16 < n ∨
      ((List.range n).any fun i => leAt arg (at_ i + 6) 2 != 0) then mgmtInvalid s
  else mgmtSt stOk (s.modEth p fun e => { e with
    fecCfg := leAt arg 1 1, pcp := leAt arg 2 1, station := leAt arg 4 2
    groups := (List.range n).map fun i => BitVec.ofNat 48 (beNat ((arg.drop (at_ i)).take 6)) })

/-- QBV_SET (R441, R457): the list waits for its first cycle start. -/
def State.mgmtQbv (s : State) (arg : List Byte) : MgmtRes :=
  let p := leAt arg 0 1
  let n := leAt arg 1 1
  let cycle := leAt arg 4 4
  let at_ := fun i => 16 + 8 * i
  if 1 < p ∨ 64 < n ∨ leAt arg 2 2 ≠ 0 ∨ (n ≠ 0 ∧ (cycle < 10000 ∨ 1000000000 < cycle)) ∨
      ((List.range n).any fun i => leAt arg (at_ i + 1) 3 != 0) then mgmtInvalid s
  else
    let g : Gates := { base := BitVec.ofNat 64 (leAt arg 8 8), cycleNs := cycle
                       ents := (List.range n).map fun i => (BitVec.ofNat 8 (leAt arg (at_ i) 1), leAt arg (at_ i + 4) 4) }
    mgmtSt stOk (s.modEth p fun e => { e with gatesNew := some g })

/-- TIME_SETAPPLY (R447, R457). -/
def State.mgmtSetApply (s : State) (src : Src) (arg : List Byte) : MgmtRes :=
  let v := BitVec.ofNat 64 (leAt arg 0 8)
  let mode := leAt arg 8 1
  if mode ≠ 1 ∧ mode ≠ 2 then mgmtInvalid s
  else mgmtSt (if 1000000000 ≤ timeNs v then stInvalidField else stOk)
    ((s.modTime fun t => { t with setVal := v }).timeApplyWrite src.code (mode == 1) (mode == 2))

/-- TIME_CFG (R448, R457): the servo begins anew with the source selected. -/
def State.mgmtTimeCfg (s : State) (arg : List Byte) : MgmtRes :=
  let source := leAt arg 0 1
  if 3 < source ∨ 1 < leAt arg 1 1 ∨ 127 < leAt arg 2 1 ∨ leAt arg 3 1 ≠ 0 then mgmtInvalid s
  else mgmtSt stOk (s.modTime fun t => { t with
    source := source, profile := leAt arg 1 1, domain := leAt arg 2 1, measured := false, goodRun := 0, utcOffset := none
    st := if t.st = 4 then 4 else if source = 0 then 0 else 1 })

/-! Register accesses and warp requests by the mailbox or the chain (R65, R70, R446). -/

/-- Registers that MGT reaches while its bridge is isolated: its own, of the MOD, TIME, FIELD and MGMT blocks (R15). -/
def mgtOwn (off : Nat) : Bool := decide (off < 0x100000) || (decide (0x3800000 ≤ off) && decide (off < 0x3B00000))

/-- The interface a read of the window counts as (R446): 1 the mailbox, 2 the chain. -/
def readIface : Src → Nat
  | .mailbox => 1
  | _ => 2

/-- CSR_READ: OFFSET (4), SIZE (1). -/
def State.mgmtCsrRead (s : State) (src : Src) (arg : List Byte) : MgmtRes :=
  let off := leAt arg 0 4
  let n := leAt arg 4 1
  if (n ≠ 4 ∧ n ≠ 8) ∨ off % n ≠ 0 then mgmtInvalid s
  else if s.pwr.isolated && !mgtOwn off then mgmtSt stHeldMode s
  else (let r := s.csrRead (readIface src) off n; mgmtBytes (bytesLE n r.1) r.2)

/-- CSR_WRITE: OFFSET (4), SIZE (1), 3 reserved bytes, VALUE (8). -/
def State.mgmtCsrWrite (s : State) (src : Src) (arg : List Byte) : MgmtRes :=
  let off := leAt arg 0 4
  let n := leAt arg 4 1
  if (n ≠ 4 ∧ n ≠ 8) ∨ off % n ≠ 0 ∨ leAt arg 5 3 ≠ 0 then mgmtInvalid s
  else if s.pwr.isolated && !mgtOwn off then mgmtSt stHeldMode s
  else
    let r := s.csrWrite { src := src, off := off, wide := n == 8, data := leAt arg 8 8 }
    mgmtSt (match r.1 with
      | .taken => stOk
      | .locked => stLockViolation
      | .undefined => stInvalidField) r.2

/-- STAGE from a device physical address: ADDR (8), LEN (4); the answer comes when the staging ends. -/
def State.mgmtStage (s : State) (src : Src) (tag : Nat) (arg : List Byte) : MgmtRes :=
  let a := leAt arg 0 8
  let n := leAt arg 8 4
  let bad := if !warpSourceOk a then some 0 else if 1048576 < n then some 8 else none
  if s.pwr.isolated then mgmtSt stHeldMode s
  else if s.warpBusy then mgmtSt stNoResource s
  else { st := s.warpCopy src tag n (if bad.isSome then [] else pagePieces a n) bad }

/-- Another request of the loader. -/
def State.mgmtWarp (s : State) (src : Src) (go : State → Src → Nat × State) : MgmtRes :=
  if s.pwr.isolated then mgmtSt stHeldMode s else (let r := go s src; mgmtSt r.1 r.2)

/-- A command whose code and argument length stand in the table. -/
def State.mgmtOp (s : State) (src : Src) (tag code : Nat) (arg : List Byte) (space : Nat) : MgmtRes :=
  match code with
  | 1 => s.mgmtCsrRead src arg
  | 2 => s.mgmtCsrWrite src arg
  | 0x10 => s.mgmtStage src tag arg
  | 0x11 => s.mgmtWarp src State.warpCommitBy
  | 0x12 => s.mgmtWarp src State.warpResetBy
  | 0x13 => s.mgmtWarp src State.warpDiscardBy
  | 0x100 => mgmtBytes s.mgmtStatusBytes s
  | 0x110 => s.mgmtSensors (leAt arg 0 2) (leAt arg 2 2)
  | 0x120 => s.mgmtLogRead arg space
  | 0x200 => s.mgmtDownload src arg
  | 0x201 => s.mgmtCommit src tag arg
  | 0x210 => s.mgmtOverride src arg
  | 0x211 => s.mgmtSecver src arg
  | 0x300 => s.mgmtErase src arg
  | 0x400 => s.mgmtResetOp src arg
  | 0x500 => mgmtBytes s.fieldBytes s
  | 0x501 => s.mgmtInhAck src arg
  | 0x502 => mgmtSt stOk (s.clearFaults (BitVec.ofNat 8 (leAt arg 0 1)))
  | 0x510 => s.mgmtPort arg
  | 0x511 => s.mgmtQbv arg
  | 0x520 => s.mgmtSetApply src arg
  | 0x521 => s.mgmtTimeCfg arg
  | 0x530 => mgmtBytes (bytesLE 8 (s.csr .chain)) s
  | _ => s.debugReopenOp src arg

/-- The codes the ROM serves in recovery (R412). -/
def romServes (code : Nat) : Bool := code == 0x100 || code == 0x120 || code == 0x200 || code == 0x201

/-- A management command (R392, R394): its code, a second LONG command, the length of its argument, and its effect; the reply
names the entry that records it and keeps to its space. -/
def State.mgmtRun (s : State) (src : Src) (tag code : Nat) (arg : List Byte) (space : Nat) : MgmtRes :=
  match mgmtArgLen code arg with
  | none => mgmtInvalid s
  | some n =>
    if s.mgt.recovery && !romServes code then mgmtInvalid s
    else if s.mgmtLong code && s.mgt.long.isSome then mgmtSt stNoResource s
    else if arg.length < n then mgmtInvalid s
    else
      let r := s.mgmtOp src tag code arg space
      { r with ans := r.ans.map fun a => { a with bytes := a.bytes.take space, seq := seqSince s r.st } }

/-- What follows the reply (R394, R424). -/
def State.mgmtAfter (s : State) (n : MgmtThen) (src : Src) : State :=
  match n with
  | .nothing => s
  | .moduleReset => s.moduleReset 4 src.code
  | .powerCycle => s.powerCycle 4 src.code
  | .reopen => s.moduleReset 4 src.code

/-! The mailbox (R393). -/

/-- The argument bytes. -/
def MgtSt.mbArgs (m : MgtSt) : List Byte := (List.range m.mbArgLen).map fun i => tget m.mbArg i 0

/-- The mailbox's command is accepted, when the host can reach it and its row is the one that comes. -/
def State.mailboxCmd (s : State) (code : Nat) : State :=
  let m := s.mgt
  let mine := m.mbCode.toNat == code || (mgmtArgLen m.mbCode.toNat []).isNone
  if !m.mbGo || !s.pwr.domainUp || !m.running || !mine then s
  else
    let r := (s.modMgt fun m => { m with mbGo := false, mbBusy := true }).mgmtRun .mailbox 0 m.mbCode.toNat m.mbArgs 4096
    match r.ans with
    | none => r.st
    | some a => (r.st.mbAnswer a).mgmtAfter r.next .mailbox

/-! The Weft MGMT opcode (R367). -/

/-- The effect of a Weft management command once its argument is read and its reply buffer mapped. -/
def State.weftMgmt (s : State) (j : Job) (code : Nat) (arg : List Byte) (space : Nat) (ps : List (Nat × Nat)) : State :=
  let r := s.mgmtRun (.weft j.ptn) j.id code arg space
  match r.ans with
  | none => r.st.modJob j.id fun j => { j with stage := .running }
  | some a => ((State.writePieces j.ptn ps a.bytes r.st).endJob j.id a.status a.bytes.length).mgmtAfter r.next (.weft j.ptn)

/-- A Weft management command: the argument is read, the reply buffer is mapped for what the reply holds, then it acts. -/
def State.weftCmd (s : State) (id code : Nat) : State :=
  match s.admitted id 0x0C with
  | none => s
  | some j =>
    let c := leAt j.entry 4 2
    if c < 0x100 || !(c == code || (mgmtArgLen c []).isNone) then s
    else
      let argVa := leAt j.entry 8 8
      let repVa := leAt j.entry 0x18 8
      let space := if repVa = 0 then 0 else leAt j.entry 0x14 4
      let rd := if argVa = 0 then (some [], s) else s.bufRead j 0 argVa (leAt j.entry 0x10 4)
      match rd with
      | (none, s1) => s1
      | (some arg, s1) =>
        let n := ((s1.mgmtRun (.weft j.ptn) j.id c arg space).ans.map fun a => a.bytes.length).getD 0
        if n = 0 then s1.weftMgmt j c arg space []
        else match s1.bufMapAs j (argVa != 0) 0 repVa n true with
          | (none, s2) => s2
          | (some ps, s2) => s2.weftMgmt j c arg space ps

/-- A row of the table of R394 or R457 with its code, by its route. -/
def State.mgmtRow (s : State) (code : Nat) (r : Route) : State :=
  match r with
  | .mailbox => s.mailboxCmd code
  | .weft job => s.weftCmd job.toNat code

/-! The rows. -/

/-- STATUS (R394). -/
def execMgmtStatus (r : Route) (s : State) : Host.Outcome State Fault Refusal := .next (s.mgmtRow 0x100 r)
/-- SENSOR_READ (R394). -/
def execSensorRead (r : Route) (s : State) : Host.Outcome State Fault Refusal := .next (s.mgmtRow 0x110 r)
/-- LOG_READ (R407). -/
def execLogRead (r : Route) (s : State) : Host.Outcome State Fault Refusal := .next (s.mgmtRow 0x120 r)
/-- FW_DOWNLOAD (R410). -/
def execFwDownload (r : Route) (s : State) : Host.Outcome State Fault Refusal := .next (s.mgmtRow 0x200 r)
/-- FW_COMMIT (R411). -/
def execFwCommit (r : Route) (s : State) : Host.Outcome State Fault Refusal := .next (s.mgmtRow 0x201 r)
/-- OVERRIDE_UNTESTED (R416). -/
def execOverrideUntested (r : Route) (s : State) : Host.Outcome State Fault Refusal := .next (s.mgmtRow 0x210 r)
/-- RAISE_SECVER (R413). -/
def execRaiseSecver (r : Route) (s : State) : Host.Outcome State Fault Refusal := .next (s.mgmtRow 0x211 r)
/-- CRYPTO_ERASE (R421). -/
def execCryptoErase (r : Route) (s : State) : Host.Outcome State Fault Refusal := .next (s.mgmtRow 0x300 r)
/-- RESET (R394). -/
def execMgmtReset (r : Route) (s : State) : Host.Outcome State Fault Refusal := .next (s.mgmtRow 0x400 r)
/-- DEBUG_REOPEN (R424). -/
def execDebugReopen (r : Route) (s : State) : Host.Outcome State Fault Refusal := .next (s.mgmtRow 0x700 r)
/-- FIELD_STATUS (R457). -/
def execFieldStatus (r : Route) (s : State) : Host.Outcome State Fault Refusal := .next (s.mgmtRow 0x500 r)
/-- INH_ACK (R437, R457). -/
def execInhAck (r : Route) (s : State) : Host.Outcome State Fault Refusal := .next (s.mgmtRow 0x501 r)
/-- DO_CLEAR (R433, R457). -/
def execDoClear (r : Route) (s : State) : Host.Outcome State Fault Refusal := .next (s.mgmtRow 0x502 r)
/-- PORT_CFG (R457). -/
def execPortCfg (r : Route) (s : State) : Host.Outcome State Fault Refusal := .next (s.mgmtRow 0x510 r)
/-- QBV_SET (R441, R457). -/
def execQbvSet (r : Route) (s : State) : Host.Outcome State Fault Refusal := .next (s.mgmtRow 0x511 r)
/-- TIME_SETAPPLY (R447, R457). -/
def execTimeSetapply (r : Route) (s : State) : Host.Outcome State Fault Refusal := .next (s.mgmtRow 0x520 r)
/-- TIME_CFG (R448, R457). -/
def execTimeCfg (r : Route) (s : State) : Host.Outcome State Fault Refusal := .next (s.mgmtRow 0x521 r)
/-- CHAIN_STATUS (R457). -/
def execChainStatus (r : Route) (s : State) : Host.Outcome State Fault Refusal := .next (s.mgmtRow 0x530 r)

/-- RANDOM_SOURCE_HEALTH_FAILURE (R417): key generation is refused until the tests `pass` again; log 0x700A. Which test failed is open. -/
def execRandomSourceHealthFailure (pass : Bool) (s : State) : Host.Outcome State Fault Refusal :=
  .next (
    if !s.mgt.running then s
    else if pass then s.modMgt fun m => { m with rngOk := true }
    else if !s.mgt.rngOk then s
    else
      let c := s.fresh
      (c.2.modMgt fun m => { m with rngOk := false }).log Src.mgt.code 0x700A (bytesLE 1 (Config.freeNat 95 [c.1] % 256)))

end Sys2Proof.Machine
end

