-- ==== Sys2Proof/Machine/Chain.lean ====
section
/-! DEFINITION. The management chain (R451-R456): frames, enumeration, commands by the chain, and the ports. -/

namespace Sys2Proof.Machine

/-- The firmware or the ROM that serves the chain runs (R453). -/
def State.chainOn (s : State) : Bool := s.pwr.standby && (s.mgt.running || s.mgt.recovery)

/-- A frame arrives on a port: on CHAIN_UP when it travels down, on CHAIN_DOWN when it travels up. -/
def State.chainRx (s : State) (down : Bool) : Bool := s.chainOn && (if down then s.chain.upUp else s.chain.downUp)

/-- The payload of an ENUM breaks the table of R454, or runs against its RETURN flag. -/
def enumBad (down : Bool) (f : ChainFrame) : Bool :=
  let p := f.payload
  let walk := leAt p 0 1
  let flags := leAt p 1 1
  let claimed := leAt p 8 8
  p.length != 16 || fld f.dst.toNat 0 6 != 63 || !(walk == 1 || walk == 2) || decide (4 ≤ flags) || decide (62 < leAt p 2 1) ||
    leAt p 3 5 != 0 || bitN claimed 0 || bitN claimed 63 || bitN flags 1 == down

/-- A frame with a bad CRC or bad fields (R452). -/
def frameBad (down : Bool) (f : ChainFrame) : Bool :=
  !f.crcOk || bitN f.dst.toNat 6 || bitN f.src.toNat 6 || f.type == 0 || decide (6 < f.type.toNat) || f.rsv != 0 ||
    decide (4112 < f.payload.length) || (f.type == 1 && enumBad down f) || (f.type == 2 && decide (f.payload.length < 4))

/-- A discarded frame is counted (R452). -/
def State.chainDrop (s : State) : State := s.modChain fun c => { c with crcErrors := satAdd 16 c.crcErrors 1 }

/-- Stores a frame and forwards it, where the next port is UP (R452). -/
def State.chainForward (s : State) (down : Bool) (f : ChainFrame) : State :=
  let g := { f with hops := f.hops + 1 }
  if down then (if s.chain.downUp then s.modChain fun c => { c with outDown := c.outDown ++ [g] } else s) else s.chainUp g

/-! Enumeration (R453, R454). -/

/-- An ENUM payload. -/
def enumBytes (walk flags count claimed : Nat) : List Byte := bytesLE 1 walk ++ bytesLE 1 flags ++ bytesLE 1 count ++ zeros 5 ++ bytesLE 8 claimed

/-- The lowest free address; none when all are claimed. -/
def freeAddr (claimed : Nat) : Option Nat := (List.range 63).find? fun a => decide (0 < a) && !bitN claimed a

/-- The address a module takes, and whether it overflows (R453, R454). -/
def State.enumTake (s : State) (walk count claimed : Nat) : Nat × Bool :=
  if count = 62 then (0, true)
  else if walk = 1 || s.chain.won then (s.chain.addr, false)
  else match freeAddr claimed with
    | some a => (a, false)
    | none => (0, true)

/-- The module records what walk 2 gives it (R453). -/
def State.enumRecord (s : State) (a pos : Nat) : State :=
  let old := s.chain.addr
  let s1 := s.modChain fun c => { c with addr := a, position := pos, confirmed := a != 0, won := false }
  let s2 := s1.log Src.mgt.code 0x6401 (bytesLE 1 a ++ bytesLE 1 pos)
  let s3 := if a = old then s2 else s2.log Src.mgt.code 0x6405 (bytesLE 1 old ++ bytesLE 1 a)
  if a = 0 then s3.log Src.mgt.code 0x6402 (bytesLE 1 pos) else s3

/-- An ENUM that travels down: the module's step, then the frame goes on, or back up from the last module. -/
def State.enumStep (s : State) (f : ChainFrame) : State :=
  let p := f.payload
  let walk := leAt p 0 1
  let count := leAt p 2 1
  let claimed := leAt p 8 8
  let t := s.enumTake walk count claimed
  let claims := walk == 1 && !t.2 && t.1 != 0 && !bitN claimed t.1
  let s1 := if walk = 1 then s.modChain fun c => { c with won := claims, addr := t.1, confirmed := c.confirmed && t.1 != 0 } else s.enumRecord t.1 count
  let claimed2 := if t.1 = 0 ∨ bitN claimed t.1 then claimed else claimed + 2 ^ t.1
  let flags := if t.2 then leAt p 1 1 ||| 1 else leAt p 1 1
  let last := !s.chain.downUp
  let g : ChainFrame := { f with payload := enumBytes walk (if last then flags ||| 2 else flags) (min (count + 1) 62) claimed2 }
  s1.chainForward (!last) g

/-- ENUM (R453, R454): a frame with RETURN goes up unchanged. -/
def execEnumFrame (down : Bool) (f : ChainFrame) (s : State) : Host.Outcome State Fault Refusal :=
  .next (
    if !s.chainRx down then s
    else if frameBad down f then s.chainDrop
    else if f.type ≠ 1 then s
    else if down then s.enumStep f else s.chainForward false f)

/-- WON_FLAG_EXPIRY (R454): 1 s after walk 1. -/
def execWonFlagExpiry (s : State) : Host.Outcome State Fault Refusal := .next (s.modChain fun c => { c with won := false })

/-! Commands (R456). -/

/-- Is a frame kept: addressed to the confirmed address of the module, or to every one? -/
def State.chainMine (s : State) (f : ChainFrame) : Bool :=
  let a := fld f.dst.toNat 0 6
  !bitN f.dst.toNat 7 && (a == 63 || (s.chain.confirmed && a == s.chain.addr))

/-- A CMD is served as a command of the chain route; one to every module draws no reply. -/
def State.chainServe (s : State) (f : ChainFrame) : State :=
  let all := fld f.dst.toNat 0 6 == 63
  let src : Src := .chain (if bitN f.src.toNat 7 then 0 else fld f.src.toNat 0 6)
  let tag := if all then 256 else f.tag.toNat
  if !s.chain.confirmed then s
  else
    let r := s.mgmtRun src tag (leAt f.payload 0 2) (f.payload.drop 4) 4096
    match r.ans with
    | none => r.st
    | some a => (r.st.chainReply tag a).mgmtAfter r.next src

/-- CHAIN_CMD (R452, R456): a CMD for this module, or for every module, which is forwarded as well. -/
def execChainCmd (down : Bool) (f : ChainFrame) (s : State) : Host.Outcome State Fault Refusal :=
  .next (
    if !s.chainRx down then s
    else if frameBad down f then s.chainDrop
    else if f.type ≠ 2 ∨ !s.chainMine f then s
    else (if fld f.dst.toNat 0 6 = 63 then s.chainForward down f else s).chainServe f)

/-- CHAIN_FRAME_FORWARD (R452): a frame that is not for this module is forwarded. -/
def execChainFrameForward (down : Bool) (f : ChainFrame) (s : State) : Host.Outcome State Fault Refusal :=
  .next (
    if !s.chainRx down then s
    else if frameBad down f then s.chainDrop
    else if f.type = 1 ∨ (f.type = 2 ∧ s.chainMine f) then s
    else if s.chainMine f && fld f.dst.toNat 0 6 != 63 then s
    else s.chainForward down f)

/-! The ports (R451, R455). -/

/-- CHAIN_PORT_UP (R451, R455): ATTACH goes up when CHAIN_UP comes up. -/
def execChainPortUp (down : Bool) (s : State) : Host.Outcome State Fault Refusal :=
  .next (
    if !s.chainOn then s
    else if down then s.modChain fun c => { c with downUp := true }
    else
      let s1 := s.modChain fun c => { c with upUp := true }
      let a := BitVec.ofNat 8 s.chain.addr
      let f : ChainFrame := { dst := 0x80#8, src := a, type := 5, payload := bytesLE 1 s.chain.addr ++ zeros 3 ++ bytesLE 16 s.fac.serial.toNat }
      (s1.chainUp f).log Src.mgt.code 0x6403 (bytesLE 1 s.chain.addr))

/-- CHAIN_PORT_DOWN (R451, R455): DETACH goes up when CHAIN_DOWN goes down. -/
def execChainPortDown (down : Bool) (s : State) : Host.Outcome State Fault Refusal :=
  .next (
    if !s.chainOn then s
    else if !down then s.modChain fun c => { c with upUp := false }
    else
      let s1 := s.modChain fun c => { c with downUp := false }
      let c := s.chain
      let a := if c.confirmed then c.addr else 0
      let f : ChainFrame := { dst := 0x80#8, src := BitVec.ofNat 8 c.addr, type := 6, payload := bytesLE 1 c.position ++ bytesLE 1 a ++ zeros 2 }
      (s1.chainUp f).log Src.mgt.code 0x6404 (bytesLE 1 c.position ++ bytesLE 1 a))

end Sys2Proof.Machine
end

