-- ==== Sys2Proof/Machine/CkptOps.lean ====
section
/-! DEFINITION. CHECKPOINT and RESTORE (R364, R387-R390): the steps at a module, and at the coordinator of a key. The
coordinator's answer to the query of step 1 comes with the command, and counts where the coordinator is another module. -/

namespace Sys2Proof.Machine

/-- The checkpoint area (R388). -/
def State.ckptArea (s : State) : Option NsSt := s.flash.nss.find? fun n => n.purpose == 4 && n.attached

/-- The entry breaks the rules of R388 on JOB_KEY. -/
def State.ckptKeyBad (s : State) (p : Nat) (e : List Byte) : Bool :=
  let key := ckptKey e
  if key = 0 then leAt e 0x14 2 != 1 else (s.ptn p).lnkKey != key

/-- The last committed CKPT_ID as step 1 learns it: from the module's own slots where it coordinates the key itself (R389). -/
def State.askLast (s : State) (p : Nat) (e : List Byte) (last : BitVec 64) : Nat × State :=
  let m := s.coordOf p e
  if m = s.links.torus.number then (s.lastCommitted (ckptKey e), s)
  else (last.toNat, s.sendLink (.query m (ckptKey e)))

/-- The coordinator of an entry can be asked (R377, R383). -/
def State.coordThere (s : State) (p : Nat) (e : List Byte) : Bool :=
  let m := s.coordOf p e
  s.links.torus.inside m && s.links.reaches m

/-- An entry of the extent list (R364). -/
def extentOf (x : List Byte) : Nat × Nat := (leAt x 0 8, leAt x 8 4)

/-- An extent list out of its form (R364). -/
def extentsBad (b : List Byte) : Bool :=
  (chunks 16 (b.length / 16) b).any fun x => leAt x 0 8 % 65536 != 0 || rsvBad x 12 4 || decide (2 ^ 48 < leAt x 0 8 + 65536 * leAt x 8 4)

/-- The pages of an extent list, in list order. -/
def extentVas (b : List Byte) : List Nat :=
  (chunks 16 (b.length / 16) b).flatMap fun x => (List.range (leAt x 8 4)).map fun i => leAt x 0 8 + 65536 * i

/-- How the translation of the listed pages ends. -/
def State.mapPages (s : State) (p : Nat) (need : Need) (pages : List Nat) : BufXl × State :=
  State.bufXlate p { need with free := true } (pages.map fun va => (va, 65536)) [] s

/-- The regulator that holds a checkpoint's transfer, if any: that of the pages' memory, or that of flash programs (R260). -/
def State.ckptHeld (s : State) (j : Job) (ps : List (Nat × Nat)) : Option Nat :=
  (ps.findSome? fun x => s.heldAt j.ptn x.1 j.lc).or (if (tget (s.ptn j.ptn).regs 3 {}).holds 3 j.lc then some 3 else none)

/-- No request of a job waits at a regulator any longer. -/
def State.jobPassed (s : State) (p id : Nat) : State := s.each (List.range 4) fun s r => s.unheld p r (.job id)

/-- Is a slot being written by a checkpoint in progress? -/
def State.slotInUse (s : State) (i : Nat) : Bool :=
  let k := s.ckSlot i
  k.st == 1 && s.sh.jobs.any fun j => leAt j.entry 0 1 == 0x08 && j.stage == .running && ckptId j.entry == k.id && ckptKey j.entry == k.key

/-- The slot that a checkpoint writes (R389 step 1): the one that does not hold L; where neither holds it, one that is not
COMMITTED before one that is (log entry 32). -/
def State.writeSlot (s : State) (key : BitVec 64) (last : Nat) : Option Nat :=
  match s.slotOf key last [3] with
  | some i => if s.slotInUse (1 - i) then none else some (1 - i)
  | none =>
    let free := [0, 1].filter fun i => !s.slotInUse i
    match free.find? fun i => (s.ckSlot i).st != 3 with
    | some i => some i
    | none => free.head?

/-- First logical block of a slot, and the pages it has room for after its header (R388). -/
def slotBase (n : NsSt) (i : Nat) : Nat := i * (n.size / 2)
def slotRoom (n : NsSt) : Nat := (n.size / 2 - 1) / 16

/-- A checkpoint fails at this module with a status (R389). -/
def State.ckptFail (s : State) (j : Job) (status : Nat) : State := (s.ckptStopped j status).endJob j.id (jobStatus status) 0

/-- Running checkpoints of a key and CKPT_ID here. -/
def State.ckptJobs (s : State) (key : BitVec 64) (id : Nat) : List Job :=
  s.sh.jobs.filter fun j => leAt j.entry 0 1 == 0x08 && j.stage == .running && ckptKey j.entry == key && ckptId j.entry == id

/-- Running checkpoints of a key and CKPT_ID complete; one that fails writes its log (R389). -/
def State.endCkpts (s : State) (key : BitVec 64) (id status : Nat) : State :=
  s.each (s.ckptJobs key id) fun s j => (if status = stOk then s else s.logCkptFail key id status).endJob j.id status 0

/-- A PREPARED slot becomes COMMITTED. -/
def State.commitSlot (s : State) (key : BitVec 64) (id : Nat) : State :=
  match s.slotOf key id [2] with
  | some i => s.setSlotState i 3
  | none => s

/-- The coordinator decides once MODULES distinct modules, itself included, are PREPARED (R389 step 4). -/
def State.coordDecide (s : State) (key : BitVec 64) : State :=
  let c := s.coord key
  let own := s.links.torus.number
  let mods := (c.prepared.map (·.1)).eraseDups
  if c.cur ≠ 0 ∧ c.modules ≤ mods.length ∧ own ∈ mods then
    let s1 := (s.commitSlot key c.cur).log (Src.code .hub) 0x5008 (bytesLE 8 key.toNat ++ bytesLE 8 c.cur)
    let s2 := s1.each (mods.filter (· != own)) fun s m => s.sendLink (.commit m key c.cur)
    (s2.setCoord { c with cur := 0, prepared := [], aborted := (0, 0) }).endCkpts key c.cur stOk
  else s

/-- A report whose CKPT_ID differs from the coordinator's aborts the checkpoint with INVALID_FIELD (R389). -/
def State.coordCheck (s : State) (key : BitVec 64) : State :=
  let c := s.coord key
  if c.cur ≠ 0 ∧ c.prepared.any (fun p => p.2 != c.cur) then (s.coordAbort key stInvalidField).endCkpts key c.cur stInvalidField
  else s.coordDecide key

/-- The coordinator takes a report (R389 steps 3 and 4): one of a checkpoint already decided or aborted gets that answer. -/
def State.coordPrepared (s : State) (mod : Nat) (key : BitVec 64) (id : Nat) : State :=
  let c := s.coord key
  if c.cur = 0 ∧ id ≠ 0 ∧ s.lastCommitted key = id then s.sendLink (.commit mod key id)
  else if c.cur = 0 ∧ id ≠ 0 ∧ c.aborted.1 = id then s.sendLink (.abort mod key id c.aborted.2)
  else (s.setCoord { c with prepared := (c.prepared.filter fun p => p.1 != mod) ++ [(mod, id)] }).coordCheck key

/-- PREPARED (R389). -/
def execPrepared (mod : Fin 2048) (key id : BitVec 64) (s : State) : Host.Outcome State Fault Refusal :=
  .next (s.coordPrepared mod key id.toNat)

/-- CHECKPOINT_COMMIT (R389 step 5). -/
def execCheckpointCommit (key id : BitVec 64) (s : State) : Host.Outcome State Fault Refusal :=
  .next ((s.commitSlot key id.toNat).endCkpts key id.toNat stOk)

/-- CHECKPOINT_ABORT (R389): a participant completes with the status; a coordinator that hears it from a participant does
not decide and tells the others. -/
def execCheckpointAbort (key id : BitVec 64) (status : BitVec 8) (s : State) : Host.Outcome State Fault Refusal :=
  .next (
    let s1 := if (s.coord key).cur = id.toNat ∧ id ≠ 0 then s.coordAbort key status.toNat else s
    s1.endCkpts key id.toNat status.toNat)

/-- LAST_COMMITTED_QUERY (R389 step 1). -/
def execLastCommittedQuery (mod : Fin 2048) (key : BitVec 64) (s : State) : Host.Outcome State Fault Refusal :=
  .next (s.sendLink (.lastIs mod key (s.lastCommitted key)))

/-- Writes the listed pages after a slot's header, as 64 KiB pages in list order, charged to the partition (R389 step 2). None: the
medium cannot take them now (R313). -/
def State.savePages (s : State) (p : Nat) (n : NsSt) (slot : Nat) (ps : List (Nat × Nat)) : Option State :=
  (List.range ps.length).foldl (fun (acc : Option State) i => acc.bind fun s =>
    match s.paRead (ps.getD i (0, 0)).1 65536 with
    | .ok bs _ => s.nsWriteFor p n.nsid (slotBase n slot + 1 + 16 * i) bs
    | .bad => some s) (some s)

/-- Step 2 (R389): the listed pages are read by translation and written to the slot; a fault or an uncorrectable error fails
the checkpoint. A page in motion makes it wait (R124), and so does a medium that takes no write (R313). -/
def State.ckptPages (s s0 : State) (j : Job) (n : NsSt) (slot : Nat) (list : List Byte) : State :=
  match s.mapPages j.ptn { r := true } (extentVas list) with
  | (.stop _ .moving, _) => s0
  | (.stop va (.fault k lv), s1) =>
    (s1.noteFault { ptn := j.ptn, agent := hubAgent 0, va := BitVec.ofNat 64 va, job := j.id, kind := k, access := 12, level := lv }).ckptFail
      j stAbortFault
  | (.stop _ _, s1) => s1.ckptFail j stAbortUncorrectable
  | (.ok ps, s1) =>
    match s1.ckptHeld j ps with
    | some r => s0.holdRequest j.ptn r j.lc (65536 * ps.length) (.job j.id)
    | none =>
      if (s1.readPieces ps).isNone then (s1.piecesUe ps).ckptFail j stAbortUncorrectable
      else (((s1.jobPassed j.ptn j.id).piecesFx j.ptn ps).savePages j.ptn n slot ps).getD (s0.noteWait s0.writeChan)

/-- CHECKPOINT, steps 1 and 2 (R389). -/
def State.ckptStart (s : State) (j : Job) (last : BitVec 64) : State :=
  let e := j.entry
  let key := ckptKey e
  if s.ckptKeyBad j.ptn e then s.endJob j.id stInvalidField 0
  else match s.bufRead j 0 (leAt e 8 8) (16 * leAt e 0x10 4) with
    | (none, s1) => s1
    | (some list, s1) =>
      if extentsBad list then s1.endJob j.id stInvalidField 0
      else if !s1.coordThere j.ptn e then s1.ckptFail j stAbortLink
      else
        let a := s1.askLast j.ptn e last
        let s2 := a.2.commitSlot key a.1
        if ckptId e ≤ a.1 then s2.endJob j.id stInvalidField 0
        else
          let s3 := if s2.coordOf j.ptn e = s2.links.torus.number then
              s2.setCoord { s2.coord key with cur := ckptId e, modules := leAt e 0x14 2, aborted := (0, 0) }
            else s2
          match s3.ckptArea, s3.writeSlot key a.1 with
          | some n, some i =>
            let pages := (extentVas list).length
            if slotRoom n < pages then s3.ckptFail j stNoResource
            else
              let k : CkSlot := { id := ckptId e, key := key, st := 1, pages := pages, digest := BitVec.ofNat 256 (leNat (sha256 list)) }
              let s4 := (s3.modLinks fun l => { l with slots := tset l.slots i k }).journal 0 (.ckpt i 1)
              let s5 := (s4.modJob j.id fun j => { j with stage := .running }).coordCheck key
              if (s5.job j.id).isNone then s5 else s5.ckptPages s { j with stage := .running } n i list
          | _, _ => s3.ckptFail j stNoResource

/-- CHECKPOINT (R364, R389). -/
def execCheckpoint (job : BitVec 32) (last : BitVec 64) (s : State) : Host.Outcome State Fault Refusal :=
  .next (match s.admitted job.toNat 0x08 with
    | none => s
    | some j => s.flashJob j.id fun s => s.ckptStart j last)

/-- CHECKPOINT_PAGES_WRITTEN (R389 step 3): the slot is PREPARED and the coordinator learns of it. -/
def execCheckpointPagesWritten (job : BitVec 32) (s : State) : Host.Outcome State Fault Refusal :=
  .next (match s.job job.toNat with
    | none => s
    | some j =>
      let e := j.entry
      if leAt e 0 1 ≠ 0x08 ∨ j.stage ≠ .running then s
      else match s.slotOf (ckptKey e) (ckptId e) [1] with
        | none => s
        | some i =>
          let s1 := s.setSlotState i 2
          let m := s1.coordOf j.ptn e
          if m = s1.links.torus.number then s1.coordPrepared m (ckptKey e) (ckptId e)
          else s1.sendLink (.prepared m (ckptKey e) (ckptId e)))

/-- Reads the pages of a slot back: each 64 KiB page, none where a block is lost. -/
def State.savedPage (s : State) (p : Nat) (n : NsSt) (slot i : Nat) : Option (List Byte) × State :=
  let r := s.nsReadFor p n.nsid (slotBase n slot + 1 + 16 * i) 16
  (r.1.foldl (fun acc x => match acc, x with
    | some bs, .data d => some (bs ++ bytesLE 4096 d.toNat)
    | _, _ => none) (some []), r.2)

/-- One page of a restore (R135, R390): false where it ends, or stops, the job. -/
def State.restorePage (s : State) (j : Job) (n : NsSt) (slot va i : Nat) : Bool × State :=
  match State.engXlate j.ptn 64 { w := true, free := true } va 65536 s with
  | (.ok pa tier, s1) =>
    if tier = 5 then (false, s1.endJob j.id stAbortFault 0)
    else match s1.savedPage j.ptn n slot i with
      | (some bs, s2) => (true, State.writePieces j.ptn [(pa, 65536)] bs s2)
      | (none, s2) => (false, s2.abortJob j.id stAbortUncorrectable)
  | (.fault k lv, s1) =>
    (false, (s1.noteFault { ptn := j.ptn, agent := hubAgent 0, va := BitVec.ofNat 64 va, job := j.id, kind := k, access := 14, level := lv }).endJob
      j.id (kindStatus k) 0)
  | (.moving, s1) => (false, s1)
  | (.uncorrectable, s1) => (false, s1.abortJob j.id stAbortUncorrectable)

/-- Writes the pages of a slot back, in list order; one that flash has lost ends the job (R135, R390). -/
def State.restorePages (j : Job) (n : NsSt) (slot : Nat) : List Nat → Nat → (State → State) → State → State
  | [], _, done, s => done s
  | va :: vas, i, done, s =>
    match s.restorePage j n slot va i with
    | (true, s1) => State.restorePages j n slot vas (i + 1) done s1
    | (false, s1) => s1

/-- RESTORE (R390). -/
def State.restoreStart (s : State) (j : Job) (last : BitVec 64) : State :=
  let e := j.entry
  if s.ckptKeyBad j.ptn e then s.endJob j.id stInvalidField 0
  else match s.bufRead j 0 (leAt e 8 8) (16 * leAt e 0x10 4) with
    | (none, s1) => s1
    | (some list, s1) =>
      if extentsBad list then s1.endJob j.id stInvalidField 0
      else if !s1.coordThere j.ptn e then s1.endJob j.id stAbortLink 0
      else
        let a := s1.askLast j.ptn e last
        match a.2.ckptArea, a.2.slotOf (ckptKey e) (ckptId e) [2, 3] with
        | some n, some i =>
          if a.1 ≠ ckptId e then a.2.endJob j.id stNoResource 0
          else if (a.2.ckSlot i).digest ≠ BitVec.ofNat 256 (leNat (sha256 list)) then a.2.endJob j.id stInvalidField 0
          else
            let s2 := a.2.modLinks fun l => { l with abortSeen := l.abortSeen.filter fun k => k != ckptKey e }
            s2.atPoint j.ptn 2 j.lc (65536 * (extentVas list).length) (.job j.id) fun s =>
              State.restorePages j n i (extentVas list) 0 (fun s => s.endJob j.id stOk 0) s
        | _, _ => a.2.endJob j.id stNoResource 0

/-- RESTORE (R364, R390). -/
def execRestore (job : BitVec 32) (last : BitVec 64) (s : State) : Host.Outcome State Fault Refusal :=
  .next (match s.admitted job.toNat 0x09 with
    | none => s
    | some j => s.flashJob j.id fun s => s.restoreStart j last)

end Sys2Proof.Machine
end

