-- ==== Sys2Proof/Machine/Coll.lean ====
section
/-! DEFINITION. The collective ring (R384, R385): the records, agreement within the group, ALLREDUCE, BROADCAST and BARRIER.
The other members' records and data come with the command, as the module number, its 64-byte record and its elements. -/

namespace Sys2Proof.Machine

/-- COLL_ENABLE: a write to PTN_COLL_CFG (R384). -/
def execCollEnable (p : Fin 32) (v : BitVec 32) (s : State) : Host.Outcome State Fault Refusal := .next (if s.pwr.domainUp then s.ringCfg p 2 v.toNat else s)

/-- A collective record in its fields (R384). -/
structure CollRec where
  op : Nat := 0
  red : Nat := 0
  fmt : Nat := 0
  dims : Nat := 0
  doneObj : Nat := 0
  doneAdd : Nat := 0
  seq : Nat := 0
  count : Nat := 0
  root : Nat := 0
  rsv : Nat := 0
  src : Nat := 0
  dst : Nat := 0
  scratch : Nat := 0
  rsv2 : Nat := 0
  deriving DecidableEq, Repr

/-- Reads a collective record (R384). -/
def collRecOf (x : List Byte) : CollRec :=
  { op := leAt x 0 1, red := leAt x 1 1, fmt := leAt x 2 1, dims := leAt x 3 1, doneObj := leAt x 4 2, doneAdd := leAt x 6 2,
    seq := leAt x 8 8, count := leAt x 0x10 4, root := leAt x 0x14 2, rsv := leAt x 0x16 2, src := leAt x 0x18 8,
    dst := leAt x 0x20 8, scratch := leAt x 0x28 8, rsv2 := leAt x 0x30 16 }

/-- Bytes of an element (R384). -/
def CollRec.size (r : CollRec) : Nat := fmtBits r.fmt / 8

/-- Bytes of a member's elements. -/
def CollRec.bytes (r : CollRec) : Nat := r.count * r.size

/-- The members of a record's group (R384): the modules that share the issuer's coordinates in the dimensions left out. -/
def LinkSet.group (k : LinkSet) (dims : Nat) : List Nat :=
  let vals := fun (i : Nat) => if bitN dims i then List.range (k.dim i) else [k.pos i]
  (vals 2).flatMap fun z => (vals 1).flatMap fun y => (vals 0).map fun x => modNumber x y z

/-- Does a scratch range lie in tier 0 or 1 (R384)? -/
def State.scratchOk (s : State) (p va n : Nat) : Bool :=
  (pagePieces va n).all fun x => match (s.translate p 64 x.1 { w := true } true).1 with
    | .ok _ tier => tier == 0 || tier == 1
    | .fault k _ => resolvable k
    | _ => true

/-- A field outside the table of R384. -/
def State.collBad (s : State) (p : Nat) (r : CollRec) : Bool :=
  let q := s.ptn p
  r.op == 0 || decide (3 < r.op) || decide (2 < r.red) || (r.op != 1 && r.red != 0) || decide (2 < r.fmt) || r.dims == 0 ||
    decide (7 < r.dims) || (r.doneObj != 0xFFFF && !q.objOk r.doneObj) || r.rsv != 0 || r.rsv2 != 0 ||
    (if r.op = 2 then !(s.links.torus.group r.dims).contains r.root else r.root != 0) ||
    (if r.op = 3 then r.fmt != 0 || r.count != 0 || r.src != 0 || r.dst != 0 || r.scratch != 0
     else r.count == 0 || decide (2 ^ 26 < r.count) || decide (2 ^ 48 < r.src + r.bytes) || decide (2 ^ 48 < r.dst + r.bytes) ||
       decide (2 ^ 48 < r.scratch + 2 * r.bytes) || !s.scratchOk p r.scratch (2 * r.bytes))

/-- The other member's record agrees (R384). -/
def CollRec.agrees (r o : CollRec) : Bool :=
  r.op == o.op && r.red == o.red && r.fmt == o.fmt && r.dims == o.dims && r.count == o.count && r.root == o.root

/-- The collective at the front of the ring: once every other member's record of the same SEQ is there it runs, or ends
without DONE where the records disagree; until then its engine waits (R384). -/
def State.takeColl (s : State) (p op : Nat) (others : List (Nat × List Byte)) (run : CollRec → List (Nat × List Byte) → State → State) :
    State :=
  match s.ringFront p 2 64 with
  | none => s
  | some (slot, bs) =>
    let r := collRecOf bs
    if s.collBad p r then s.recPoint p 2 64 fun s => s.ringSkip p 2 0x5010 slot (leAt bs 8 8)
    else if r.op ≠ op ∨ s.xl.halted.any (fun h => h.agent == collAgent && h.ptn == p) then s
    else
      let os := others.filter fun o => (collRecOf o.2).seq == r.seq
      let ms := (s.links.torus.group r.dims).filter fun m => m != s.links.torus.number
      if !ms.all (fun m => os.any fun o => o.1 == m) then s
      else if os.any (fun o => ms.contains o.1 && !r.agrees (collRecOf o.2)) then
        s.collPoint p fun s => (s.collTaken p).notify p 0x5010 slot (BitVec.ofNat 64 r.seq)
      else s.collPoint p (run r ((os.filter fun o => ms.contains o.1).map fun o => (o.1, o.2.drop 64)))

/-- Maps a range for the engine: a fault halts it with the record still at the front, or ends the collective without DONE. -/
def State.collMap (s : State) (p va n : Nat) (write : Bool) (go : List (Nat × Nat) → State → State) : State :=
  match State.bufXlate p { r := !write, w := write, free := write } (pagePieces va n) [] s with
  | (.ok ps, s1) => go ps s1
  | (.stop at_ (.fault k lv), s1) =>
    (match s1.takeFault { ptn := p, agent := collAgent, va := BitVec.ofNat 64 at_, kind := k, access := if write then 14 else 13, level := lv } with
     | (.halted, s2) => s2
     | (.abort, s2) => s2.collEnd p)
  | (.stop _ .uncorrectable, s1) => s1.collEnd p
  | (.stop _ _, s1) => s1

/-- Reads a range for the engine. -/
def State.collRead (s : State) (p va n : Nat) (go : List Byte → State → State) : State :=
  s.collMap p va n false fun ps s => match s.readPieces ps with
    | some bs => go bs (s.piecesFx p ps)
    | none => (s.piecesUe ps).collEnd p

/-- The collective has completed at this member. -/
def State.collDone (s : State) (p : Nat) (r : CollRec) : State := (s.collTaken p).signalDone 79 p r.doneObj r.doneAdd

/-- Element `i` of a member's data as a number. -/
def CollRec.elem (r : CollRec) (bs : List Byte) (i : Nat) : Num := decodeNum r.fmt (leAt bs (i * r.size) r.size)

/-- The sum of an element's values (R385): one rounding of FP32 for each addition in an order the spec does not state, so
any value within the bound, rounded once to FMT; exact where no addition rounds. -/
def collSum (place : Nat) (xs : List Num) : Num :=
  let total := match xs with
    | [] => .zero
    | x :: rest => rest.foldl Num.plus x
  let mags := (xs.map Num.abs).foldl Num.plus .zero
  let bound := match mags with
    | .fin _ m e => Num.fin false ((xs.length - 1) * m) (e - 24)
    | x => x
  nearNum place (xs.flatMap Num.key) total bound

/-- The reduction of an element's values in the order of the members' numbers (R385). -/
def CollRec.reduce (r : CollRec) (place : Nat) (xs : List Num) : Num :=
  if r.red = 0 then collSum place xs
  else match xs with
    | [] => .zero
    | x :: rest => rest.foldl (if r.red = 1 then maxNum else minNum) x

/-- The result of ALLREDUCE: each element reduced and converted to FMT once. The conversion mode beyond the format is a free
value (log entry 33). -/
def CollRec.result (r : CollRec) (data : List (List Byte)) : List Byte :=
  (List.range r.count).flatMap fun i =>
    let x := r.reduce 75 (data.map fun d => r.elem d i)
    bytesLE r.size (encodeNum r.fmt (Config.freeNat 74 [r.fmt] % 2) x).1

/-- What the scratch holds afterwards is free. -/
def scratchBytes (n k : Nat) : List Byte := (List.range n).map fun i => BitVec.ofNat 8 (Config.freeNat 73 [k, i])

/-- Payload bytes that a member sends: on each ring of k members of the group's dimensions, twice (k - 1) parts of k
(R385; log entry 33). -/
def LinkSet.reduceBytes (k : LinkSet) (dims n : Nat) : Nat :=
  ((List.range 3).map fun i => if bitN dims i ∧ 1 < k.dim i then 2 * (k.dim i - 1) * ((n + k.dim i - 1) / k.dim i) else 0).foldl (· + ·) 0

/-- ALLREDUCE (R385). -/
def execAllreduce (p : Fin 32) (others : List (Nat × List (BitVec 8))) (s : State) : Host.Outcome State Fault Refusal :=
  .next (s.takeColl p 1 others fun r os s =>
    s.collRead p r.src r.bytes fun bs s =>
      s.collMap p r.scratch (2 * r.bytes) true fun sps s =>
        s.collMap p r.dst r.bytes true fun dps s =>
          let all := sortBy (fun a b => decide (a.1 ≤ b.1)) ((s.links.torus.number, bs) :: os)
          let k := s.fresh
          let s1 := State.writePieces p sps (scratchBytes (2 * r.bytes) k.1) k.2
          let s2 := State.writePieces p dps (r.result (all.map (·.2))) s1
          (s2.charge p 12 (some 5) (s.links.torus.reduceBytes r.dims r.bytes)).collDone p r)

/-- BROADCAST (R385): ROOT's input reaches every member's output. -/
def execBroadcast (p : Fin 32) (others : List (Nat × List (BitVec 8))) (s : State) : Host.Outcome State Fault Refusal :=
  .next (s.takeColl p 2 others fun r os s =>
    let put := fun (bs : List Byte) (s : State) =>
      s.collMap p r.scratch (2 * r.bytes) true fun sps s =>
        s.collMap p r.dst r.bytes true fun dps s =>
          let k := s.fresh
          let s1 := State.writePieces p sps (scratchBytes (2 * r.bytes) k.1) k.2
          (State.writePieces p dps bs s1).collDone p r
    if r.root = s.links.torus.number then
      s.collRead p r.src r.bytes fun bs s => put bs (if os.isEmpty then s else s.charge p 12 (some 5) r.bytes)
    else match os.find? fun o => o.1 == r.root with
      | some o => put (padTo r.bytes o.2) s
      | none => s)

/-- BARRIER (R385): complete once every member has posted its record. -/
def execBarrier (p : Fin 32) (others : List (Nat × List (BitVec 8))) (s : State) : Host.Outcome State Fault Refusal :=
  .next (s.takeColl p 3 others fun r _ s => s.collDone p r)

end Sys2Proof.Machine
end

