-- ==== Sys2Proof/Machine/Dir.lean ====
section
/-! DEFINITION. The coherence messages (R126-R133, R135): each command is the arrival of one message in flight. -/

namespace Sys2Proof.Machine

/-- Is a message in flight? -/
def State.inFly (s : State) (m : CohMsg) : Bool := s.dir.msgs.contains m

/-- Takes a message out of flight. -/
def State.take (s : State) (m : CohMsg) : State := s.modDir fun d => { d with msgs := dropFirst (fun x => x == m) d.msgs }

/-- Bit of a core in a sharer map. -/
def coreBit (c : Nat) : BitVec 64 := BitVec.ofNat 64 (2 ^ c)

/-- The set of 16 entries that a line's entry must fit in (R126; log entry 21). -/
def dirSetOf (line : Nat) : Nat := line % 8192

/-- Entries of a set that hold a line or serve a request. -/
def State.dirSet (s : State) (line : Nat) : Tab DirEntry :=
  s.dir.entries.filter fun e => dirSetOf e.1 == dirSetOf line && (e.2.st != .inv || e.2.busy.isSome)

/-- Lines BUSY or SNOOPING now (R128, MEM_DIR_STATUS). -/
def State.busyLines (s : State) : Nat := (s.dir.entries.filter fun e => e.2.busy.isSome).length

/-- Marks a line in service and sends the snoops that the service needs, one to each core of `targets`. -/
def State.snoop (s : State) (line : Nat) (b : DirBusy) (targets : List Nat) (msg : Nat → CohMsg) : State :=
  let w := (targets.map coreBit).foldl (· ||| ·) 0
  (s.modDirEnt line fun e => { e with busy := some { b with waiting := w } }).each targets fun s c => s.send (msg c)

/-- Sends the fill or the grant and waits for COMP (R126, R127); the line becomes `next` then, and the core is the one that the
bank last granted (R128, R130). -/
def State.grantTo (s : State) (line : Nat) (b : DirBusy) (msg : CohMsg) (next : DirSt) : State :=
  ((s.modDir fun d => { d with lastCore := tset d.lastCore (line % 16) b.req.src }).modDirEnt line fun e => { e with busy := some { b with waiting := 0, granted := true, next := next, poison := s.poisoned line } }).send msg

/-- The sharers of a line. -/
def DirSt.sharers : DirSt → BitVec 64
  | .shared m => m
  | _ => 0

/-- A sharer map as a state. -/
def sharedOr (m : BitVec 64) : DirSt := if m = 0 then .inv else .shared m

/-- An answer that reads memory's copy of a poisoned line counts and logs the error (R135). -/
def State.answerUe (s : State) (line : Nat) (b : DirBusy) : State :=
  if b.backInv then s
  else match b.req.kind with
    | .wrU _ _ => s
    | .upgr => if (s.dirEnt line).st.sharers &&& coreBit b.req.src ≠ 0 then s else s.lineUe line
    | _ => s.lineUe line

/-- What the requester gets (R127, R131, R132). -/
def State.answerWith (s : State) (line : Nat) (b : DirBusy) : State :=
  let e := s.dirEnt line
  let d := s.memLine line
  let p := s.poisoned line
  let done := fun (s : State) => s.modDirEnt line fun e => { e with busy := none }
  if b.backInv then done s
  else match b.req.kind with
    | .rdS =>
      let c := b.req.src
      if e.st.sharers = 0 then s.grantTo line b (.dataE c line d p) (.excl (Fin.ofNat 64 c))
      else s.grantTo line b (.dataS c line d p) (.shared (e.st.sharers ||| coreBit c))
    | .rdX => s.grantTo line b (.dataX b.req.src line d p) (.excl (Fin.ofNat 64 b.req.src))
    | .upgr =>
      let c := b.req.src
      if e.st.sharers &&& coreBit c ≠ 0 then s.grantTo line b (.grant c line) (.excl (Fin.ofNat 64 c))
      else (s.chargeCore c (line * 64) 64).grantTo line b (.dataX c line d p) (.excl (Fin.ofNat 64 c))
    | .rdU => done (s.send (.doneU b.req.src line d p))
    | .wrU mask data =>
      let s1 := s.putLine line (maskLine d data mask)
      let s2 := if mask = BitVec.allOnes 64 then s1.unpoison line else s1
      done (s2.send (.doneU b.req.src line data false))

/-- The end of a service once no snoop answer is outstanding; the entry's state is what the snoops left. -/
def State.answerReq (s : State) (line : Nat) (b : DirBusy) : State := (s.answerUe line b).answerWith line b

/-- Starts a service by the line's state (R127, R130-R132). -/
def State.startReq (s : State) (line : Nat) (r : DirReq) : State :=
  let e := s.dirEnt line
  let b : DirBusy := { req := r }
  let s0 := s.modDir fun d => { d with clock := d.clock + 1 }
  let s1 := s0.modDirEnt line fun e => { e with lru := s.dir.clock, busy := some b }
  match r.kind, e.st with
  | .rdS, .excl o => s1.snoop line b [o.val] fun c => .snpShare c line
  | .rdU, .excl o => s1.snoop line b [o.val] fun c => .snpShare c line
  | .rdX, .excl o => s1.snoop line b [o.val] fun c => .snpOwn c line
  | .upgr, .excl o => s1.snoop line b [o.val] fun c => .snpOwn c line
  | .wrU _ _, .excl o => s1.snoop line b [o.val] fun c => .snpOwn c line
  | .rdX, .shared m =>
    let ts := bitsOf 64 (m &&& ~~~coreBit r.src).toNat
    if ts.isEmpty then s1.answerReq line b else s1.snoop line b ts fun c => .snpInv c line
  | .upgr, .shared m =>
    let ts := bitsOf 64 (m &&& ~~~coreBit r.src).toNat
    if ts.isEmpty then s1.answerReq line b else s1.snoop line b ts fun c => .snpInv c line
  | .wrU _ _, .shared m => s1.snoop line b (bitsOf 64 m.toNat) fun c => .snpInv c line
  | _, _ => s1.answerReq line b

/-- The least recently used entry of a full set that serves nothing (R133). -/
def State.victim (s : State) (line : Nat) : Option Nat :=
  let cs := (s.dirSet line).filter fun e => e.2.busy.isNone
  (cs.foldl (fun (best : Option (Nat × Nat)) e => match best with
    | none => some (e.1, e.2.lru)
    | some (_, u) => if e.2.lru < u then some (e.1, e.2.lru) else best) none).map (·.1)

/-- A back-invalidation (R133): SNP_OWN to an owner, SNP_INV to sharers; the entry is SNOOPING throughout. -/
def State.backInvalidate (s : State) (line : Nat) : State :=
  let e := s.dirEnt line
  let b : DirBusy := { backInv := true }
  let s1 := s.modDir fun d => { d with evictions := satAdd 32 d.evictions 1 }
  match e.st with
  | .excl o => s1.snoop line b [o.val] fun c => .snpOwn c line
  | .shared m => s1.snoop line b (bitsOf 64 m.toNat) fun c => .snpInv c line
  | .inv => s1

/-- Does a line need a new entry in a full set? -/
def State.setFull (s : State) (line : Nat) : Bool :=
  (s.dirEnt line).st == .inv && (s.dirEnt line).busy.isNone && decide (16 ≤ (s.dirSet line).length)

/-- The core that a request comes from, if a core sends it (R119, R128). -/
def DirReq.core (r : DirReq) : Option Nat :=
  match r.kind with
  | .rdU => if r.src < 0x1000 then some (r.src / 64) else none
  | .wrU _ _ => if r.src < 0x1000 then some (r.src / 64) else none
  | _ => some r.src

/-- Has a line's queue a place for a request: fewer than 64 in it, and none of its core (R128)? -/
def DirEntry.takes (e : DirEntry) (r : DirReq) : Bool :=
  decide (e.queue.length < 64) && (r.core.isNone || e.queue.all fun q => q.core != r.core)

/-- A request at the directory (R128, R133): queued behind the line's service, held at its source while 512 lines are
busy, the line's queue has no place for it or the set is full, else served. -/
def State.dirRequest (s : State) (line : Nat) (r : DirReq) : State :=
  if s.lineBusy line then
    if (s.dirEnt line).takes r then s.modDirEnt line fun e => { e with queue := e.queue ++ [r] }
    else s.modDir fun d => { d with srcWait := d.srcWait ++ [(r, line)] }
  else if 512 ≤ s.busyLines then s.modDir fun d => { d with srcWait := d.srcWait ++ [(r, line)] }
  else if s.setFull line then
    let s1 := s.modDir fun d => { d with srcWait := d.srcWait ++ [(r, line)] }
    match s.victim line with
    | some v => s1.backInvalidate v
    | none => s1
  else s.startReq line r

/-- How far behind the core last granted by its bank a request stands in round-robin order; requests of other agents stand
after the cores' (R128; log entry 21). -/
def Directory.turn (d : Directory) (w : DirReq × Nat) : Nat :=
  match w.1.core with
  | some c => (c + 128 - 1 - tget d.lastCore (w.2 % 16) 63) % 64
  | none => 64

/-- Requests held at their source try again at one instant, each once: those of one bank in round-robin order, starting after
the core that the bank last granted (R128). -/
def State.retrySources (s : State) : State :=
  let ws := sortBy (fun a b => decide (s.dir.turn a ≤ s.dir.turn b)) s.dir.srcWait
  (s.modDir fun d => { d with srcWait := [] }).each ws fun s w => s.dirRequest w.2 w.1

/-- Serves the next request of a line's queue once the line is free; an uncached service ends at once, so the next one
follows. `fuel` is the queue's length. -/
def State.serveQueue : Nat → State → Nat → State
  | 0, s, _ => s
  | fuel + 1, s, line =>
    if s.lineBusy line then s
    else match (s.dirEnt line).queue with
      | [] => s
      | r :: rs => State.serveQueue fuel ((s.modDirEnt line fun e => { e with queue := rs }).startReq line r) line

/-- The line is free again: its queue is served, then the sources. -/
def State.lineFreed (s : State) (line : Nat) : State :=
  (State.serveQueue ((s.dirEnt line).queue.length + 1) s line).retrySources

/-- A core's part in a service is answered (R129): the line leaves SNOOPING after the last answer. `keeps` says that the
core keeps the line in S. -/
def State.snoopDone (s : State) (c line : Nat) (keeps : Bool) : State :=
  match (s.dirEnt line).busy with
  | none => s
  | some b =>
    if b.waiting &&& coreBit c = 0 then s
    else
      let b1 := { b with waiting := b.waiting &&& ~~~coreBit c, evictSeen := b.evictSeen &&& ~~~coreBit c,
                         goneSeen := b.goneSeen &&& ~~~coreBit c }
      let st := match (s.dirEnt line).st with
        | .excl o => if o.val = c then (if keeps then .shared (coreBit c) else .inv) else .excl o
        | .shared m => if keeps then .shared m else sharedOr (m &&& ~~~coreBit c)
        | .inv => .inv
      let s1 := s.modDirEnt line fun e => { e with st := st, busy := some b1 }
      if b1.waiting = 0 then
        let s2 := s1.answerReq line b1
        if s2.lineBusy line then s2 else s2.lineFreed line
      else s1

/-- Is the outstanding snoop of a line SNP_SHARE, which leaves the owner in S (R132)? -/
def DirBusy.shares (b : DirBusy) : Bool :=
  !b.backInv && (match b.req.kind with
    | .rdS => true
    | .rdU => true
    | _ => false)

/-- A request of a thread is served when its message is in flight; an engine's or another agent's as it comes (log
entry 22). -/
def threadAgent (a : Nat) : Bool := decide (a < 0x1000) && decide (a % 64 < 32)

/-- Threads of a core that wait for a line. -/
def CoreSt.waitingOn (k : CoreSt) (line : Nat) : List Nat :=
  (k.threads.filter fun e => e.2.st == tExec && e.2.pend == .access line).map (·.1)

/-- Payload that a request reads or writes in memory: the bytes a write marks, and of a read the line; an UPGR none, unless it
turns into a fill (R131, R261). -/
def DirReqKind.bytes (k : DirReqKind) : Nat :=
  match k with
  | .wrU mask _ => (bitsOf 64 mask.toNat).length
  | .upgr => 0
  | _ => 64

/-- Class of a request in flight: its thread's, or for a line of the L1 latency-critical where such a thread waits for it
(log entry 15). -/
def State.reqLc (s : State) (r : DirReq) (line : Nat) : Bool :=
  match r.kind with
  | .rdU => (s.thr (r.src / 64) (r.src % 64)).lc
  | .wrU _ _ => (s.thr (r.src / 64) (r.src % 64)).lc
  | _ => ((s.core r.src).waitingOn line).any fun t => (s.thr r.src t).lc

/-- Partition whose access a core's request is. -/
def State.reqPtn (s : State) (r : DirReq) : Nat := (r.core.bind s.coreOwner).getD 32

/-- A request arrives: one of a core passes the admission of its memory hub, where a regulator may hold it, or else charges it
(R260, R261). What other agents access is charged where they account for it. -/
def reqArrives (kind : DirReqKind) (src line : Nat) (free : Bool) (s : State) : State :=
  let r : DirReq := { kind := kind, src := src }
  if s.inFly (.req kind src line) then
    s.memPoint (s.reqPtn r) (line * 64) (s.reqLc r line) kind.bytes (.line kind src line) fun s =>
      (s.take (.req kind src line)).dirRequest line r
  else if free then s.dirRequest line { kind := kind, src := src }
  else s

/-- RD_S (R127). -/
def execRdS (c : Fin 64) (line : BitVec 44) (s : State) : Host.Outcome State Fault Refusal :=
  .next (reqArrives .rdS c line.toNat false s)

/-- RD_X (R130). -/
def execRdX (c : Fin 64) (line : BitVec 44) (s : State) : Host.Outcome State Fault Refusal :=
  .next (reqArrives .rdX c line.toNat false s)

/-- UPGR (R131): served as RD_X when the core is no longer a sharer. -/
def execUpgr (c : Fin 64) (line : BitVec 44) (s : State) : Host.Outcome State Fault Refusal :=
  .next (reqArrives .upgr c line.toNat false s)

/-- RD_U (R132). -/
def execRdU (agent : BitVec 16) (line : BitVec 44) (s : State) : Host.Outcome State Fault Refusal :=
  .next (reqArrives .rdU agent.toNat line.toNat (!threadAgent agent.toNat) s)

/-- WR_U (R132). -/
def execWrU (agent : BitVec 16) (line : BitVec 44) (mask : BitVec 64) (data : BitVec 512) (s : State) :
    Host.Outcome State Fault Refusal :=
  .next (reqArrives (.wrU mask data) agent.toNat line.toNat (!threadAgent agent.toNat) s)

/-- The directory takes an eviction (R126, R129): data to memory, EVICT_ACK, and the answer to a snoop it crossed. -/
def evictionTaken (c line : Nat) (dirty : Bool) (x : L1Line) (s : State) : State :=
  let s1 := s.modDir fun d => { d with msgs := d.msgs.filter fun m => match m with
    | .evictDirty k l _ => !(k == c && l == line)
    | .evictClean k l => !(k == c && l == line)
    | _ => true }
  let s2 := if dirty then
      (s1.putLine line x.data).modXl fun q => { q with poison := if x.poison then tset q.poison line () else tdel q.poison line }
    else s1
  let s3 := (s2.setL1 c line (some { x with st := .WB, dirty := dirty })).send (.evictAck c line)
  match (s3.dirEnt line).busy with
  | some b =>
    if b.waiting &&& coreBit c = 0 then s3
    else if b.goneSeen &&& coreBit c ≠ 0 then s3.snoopDone c line false
    else s3.modDirEnt line fun e => { e with busy := some { b with evictSeen := b.evictSeen ||| coreBit c } }
  | none => s3.modDirEnt line fun e => match e.st with
    | .excl o => if o.val = c then { e with st := .inv } else e
    | _ => e

/-- A core's dirty eviction passes the admission of its memory hub (R129, R260, R261). -/
def evictDirtyArrives (c line : Nat) (s : State) : State :=
  match s.l1Line c line with
  | some x =>
    if s.inFly (.evictAck c line) then s
    else if x.st = .M ∨ (x.st = .WB ∧ x.dirty) then
      s.memPoint ((s.coreOwner c).getD 32) (line * 64) (s.core c).holdsLc 64 (.evict c line) fun s => evictionTaken c line true x s
    else s
  | none => s

/-- EVICT_DIRTY (R129): of a line in M, or in WB with data. -/
def execEvictDirty (c : Fin 64) (line : BitVec 44) (s : State) : Host.Outcome State Fault Refusal :=
  .next (evictDirtyArrives c line.toNat s)

/-- EVICT_CLEAN (R129): of a line in E, or in WB without data. -/
def execEvictClean (c : Fin 64) (line : BitVec 44) (s : State) : Host.Outcome State Fault Refusal :=
  .next (match s.l1Line c line.toNat with
    | some x =>
      if s.inFly (.evictAck c line.toNat) then s
      else if x.st = .E ∨ (x.st = .WB ∧ !x.dirty) then evictionTaken c line.toNat false x s
      else s
    | none => s)

/-- A core answers a snoop (R129-R132): GONE for a line in WB, ACK_DATA with dirty data, else ACK; `keep` leaves S. -/
def snoopCore (c line : Nat) (m : CohMsg) (keep : Bool) (s : State) : State :=
  if !s.inFly m then s
  else
    let s1 := s.take m
    match s1.l1Line c line with
    | none => s1.send (.ack c line)
    | some x =>
      if x.st = .WB then s1.send (.gone c line)
      else
        let s2 := s1.setL1 c line (if keep then some { x with st := .S, dirty := false } else none)
        if x.st = .M then s2.send (.ackData c line x.data) else s2.send (.ack c line)

/-- SNP_INV (R131). -/
def execSnpInv (c : Fin 64) (line : BitVec 44) (s : State) : Host.Outcome State Fault Refusal :=
  .next (snoopCore c line.toNat (.snpInv c line.toNat) false s)

/-- SNP_SHARE (R132). -/
def execSnpShare (c : Fin 64) (line : BitVec 44) (s : State) : Host.Outcome State Fault Refusal :=
  .next (snoopCore c line.toNat (.snpShare c line.toNat) true s)

/-- SNP_OWN (R130). -/
def execSnpOwn (c : Fin 64) (line : BitVec 44) (s : State) : Host.Outcome State Fault Refusal :=
  .next (snoopCore c line.toNat (.snpOwn c line.toNat) false s)

/-- Does the snoop a line waits on leave its owner in S? -/
def State.snoopShares (s : State) (line : Nat) : Bool :=
  match (s.dirEnt line).busy with
  | some b => b.shares
  | none => false

/-- ACK: no copy or clean (R127). -/
def execSnoopAck (c : Fin 64) (line : BitVec 44) (s : State) : Host.Outcome State Fault Refusal :=
  let m : CohMsg := .ack c line.toNat
  .next (if s.inFly m then (s.take m).snoopDone c line.toNat (s.snoopShares line.toNat) else s)

/-- Dirty data of a core in flight for a line. -/
def State.ackDataOf (s : State) (c line : Nat) : Option (BitVec 512) :=
  s.dir.msgs.findSome? fun m => match m with
    | .ackData k l d => if k = c ∧ l = line then some d else none
    | _ => none

/-- ACK_DATA: dirty data, written to memory (R130, R132). -/
def execSnoopAckData (c : Fin 64) (line : BitVec 44) (s : State) : Host.Outcome State Fault Refusal :=
  .next (match s.ackDataOf c line.toNat with
    | none => s
    | some d =>
      let s1 := ((s.take (.ackData c line.toNat d)).putLine line.toNat d).chargeCore c (line.toNat * 64) 64
      (s1.unpoison line.toNat).snoopDone c line.toNat (s.snoopShares line.toNat))

/-- GONE: the eviction of the line is in flight, or has arrived (R129). -/
def execGone (c : Fin 64) (line : BitVec 44) (s : State) : Host.Outcome State Fault Refusal :=
  let m : CohMsg := .gone c line.toNat
  .next (if s.inFly m then
      let s1 := s.take m
      match (s1.dirEnt line.toNat).busy with
      | some b =>
        if b.evictSeen &&& coreBit c ≠ 0 then s1.snoopDone c line.toNat false
        else s1.modDirEnt line.toNat fun e => { e with busy := some { b with goneSeen := b.goneSeen ||| coreBit c } }
      | none => s1
    else s)

/-- Lines an L1 of 64 KiB holds (R126). -/
def l1Lines : Nat := 1024

/-- Room in a full L1: a line leaves, which one the spec does not say (log entry 23): S drops silently, M and E go to the
eviction buffer. -/
def State.makeRoom (s : State) (c : Nat) : State :=
  let cand := (s.core c).l1.filter fun e => e.2.st != .WB
  if (s.core c).l1.length < l1Lines then s
  else
    let f := s.fresh
    match cand[(Config.freeNat 23 [f.1, c]) % cand.length]? with
    | none => s
    | some (line, x) =>
      let s1 := f.2
      match x.st with
      | .M => (s1.setL1 c line (some { x with st := .WB, dirty := true })).send (.evictDirty c line x.data)
      | .E => (s1.setL1 c line (some { x with st := .WB, dirty := false })).send (.evictClean c line)
      | _ => s1.setL1 c line none

/-- A fill reaches its core (R127, R135): installed, or with POISON not installed and its accesses aborted; COMP follows. -/
def fillCore (c line : Nat) (m : CohMsg) (st : L1State) (d : BitVec 512) (poison : Bool) (s : State) : State :=
  let s1 := (s.take m).modCore c fun k => { k with l1Req := tdel k.l1Req line }
  let s2 := s1.send (.comp c line)
  if poison then s2.each ((s2.core c).waitingOn line) fun s t => s.threadUncorrectable c t
  else (s2.makeRoom c).setL1 c line (some { st := st, data := d })

/-- The fill of a kind in flight to a core for a line. -/
def State.fillOf (s : State) (c line : Nat) (st : L1State) : Option (CohMsg × BitVec 512 × Bool) :=
  s.dir.msgs.findSome? fun m => match m, st with
    | .dataS k l d p, .S => if k = c ∧ l = line then some (m, d, p) else none
    | .dataE k l d p, .E => if k = c ∧ l = line then some (m, d, p) else none
    | .dataX k l d p, .M => if k = c ∧ l = line then some (m, d, p) else none
    | _, _ => none

/-- A fill arrives. -/
def fillArrives (c line : Nat) (st : L1State) (s : State) : State :=
  match s.fillOf c line st with
  | some (m, d, p) => fillCore c line m st d p s
  | none => s

/-- DATA_S (R127). -/
def execDataS (c : Fin 64) (line : BitVec 44) (s : State) : Host.Outcome State Fault Refusal :=
  .next (fillArrives c line.toNat .S s)

/-- DATA_E (R127). -/
def execDataE (c : Fin 64) (line : BitVec 44) (s : State) : Host.Outcome State Fault Refusal :=
  .next (fillArrives c line.toNat .E s)

/-- DATA_X (R127): a fill in M. -/
def execDataX (c : Fin 64) (line : BitVec 44) (s : State) : Host.Outcome State Fault Refusal :=
  .next (fillArrives c line.toNat .M s)

/-- GRANT: S to M without data (R127). -/
def execGrant (c : Fin 64) (line : BitVec 44) (s : State) : Host.Outcome State Fault Refusal :=
  let m : CohMsg := .grant c line.toNat
  .next (if s.inFly m then
      let s1 := ((s.take m).modCore c fun k => { k with l1Req := tdel k.l1Req line.toNat }).send (.comp c line.toNat)
      match s1.l1Line c line.toNat with
      | some x => s1.setL1 c line.toNat (some { x with st := .M })
      | none => s1
    else s)

/-- EVICT_ACK: the WB line is free, and a request that waited for it is sent (R126). -/
def execEvictAck (c : Fin 64) (line : BitVec 44) (s : State) : Host.Outcome State Fault Refusal :=
  let m : CohMsg := .evictAck c line.toNat
  .next (if s.inFly m then
      let s1 := (s.take m).setL1 c line.toNat none
      match (s1.core c).waitingOn line.toNat with
      | [] => s1
      | t :: _ => s1.l1Miss c t (line.toNat * 64) (s1.inFlight c t) (if (s1.inFlight c t).op = 0x08 then .rdS else .rdX)
    else s)

/-- COMP: the line leaves BUSY in the state granted, or stays as it was after a poisoned fill, and its queue is served
(R126, R128, R135). -/
def execComp (c : Fin 64) (line : BitVec 44) (s : State) : Host.Outcome State Fault Refusal :=
  let m : CohMsg := .comp c line.toNat
  .next (if s.inFly m then
      let s1 := s.take m
      match (s1.dirEnt line.toNat).busy with
      | some b =>
        if b.granted ∧ b.req.src = c.val then
          (s1.modDirEnt line.toNat fun e =>
            { e with busy := none, st := if b.poison then sharedOr (e.st.sharers &&& ~~~coreBit c) else b.next }).lineFreed line.toNat
        else s1
      | none => s1
    else s)

/-- The completion of an uncached request in flight to an agent. -/
def State.doneOf (s : State) (agent line : Nat) : Option (CohMsg × BitVec 512 × Bool) :=
  s.dir.msgs.findSome? fun m => match m with
    | .doneU a l d p => if a = agent ∧ l = line then some (m, d, p) else none
    | _ => none

/-- DONE_U: an uncached request is complete; a thread's data waits for its LOAD_DATA_RETURN (R132). -/
def execDoneU (agent : BitVec 16) (line : BitVec 44) (s : State) : Host.Outcome State Fault Refusal :=
  .next (match s.doneOf agent.toNat line.toNat with
    | none => s
    | some (m, d, p) =>
      let s1 := s.take m
      if threadAgent agent.toNat then
        (s1.modCore (agent.toNat / 64) fun k => { k with l1Req := tdel k.l1Req line.toNat }).modThr (agent.toNat / 64) (agent.toNat % 64) fun th => match th.pend with
          | .uncached pa none => if pa / 64 = line.toNat then { th with pend := .uncached pa (some (d, p)) } else th
          | .fetch l none => if l = line.toNat then { th with pend := .fetch l (some (d, p)) } else th
          | _ => th
      else s1)

end Sys2Proof.Machine
end

