-- ==== Sys2Proof/Machine/Quern.lean ====
section
/-! DEFINITION. The scan ring and the Quern engines (R275-R277, R281-R289): the dispatcher takes records, places batches and
sends extent descriptors; the engines scan pages, keep the top-R sets and report. -/

namespace Sys2Proof.Machine

/-- SCAN_ENABLE: a write to PTN_SCAN_CFG (R275). -/
def execScanEnable (p : Fin 32) (v : BitVec 32) (s : State) : Host.Outcome State Fault Refusal := .next (if s.pwr.domainUp then s.ringCfg p 1 v.toNat else s)

/-- A scan-ring record in its fields (R276). -/
structure ScanRec where
  op : Nat
  flags : Nat
  index : Nat
  doneObj : Nat
  doneAdd : Nat
  snap : Nat
  nq : Nat
  rm1 : Nat
  prefetch : Nat
  rsv : Nat
  count : Nat
  a : Nat
  b : Nat
  c : Nat
  d : Nat
  e : Nat
  deriving DecidableEq, Repr

/-- Reads a scan-ring record (R276). -/
def scanRecOf (x : List Byte) : ScanRec :=
  { op := leAt x 0 1, flags := leAt x 1 1, index := leAt x 2 2, doneObj := leAt x 4 2, doneAdd := leAt x 6 2, snap := leAt x 8 8,
    nq := leAt x 0x10 1, rm1 := leAt x 0x11 1, prefetch := leAt x 0x12 1, rsv := leAt x 0x13 1, count := leAt x 0x14 4,
    a := leAt x 0x18 8, b := leAt x 0x20 8, c := leAt x 0x28 8, d := leAt x 0x30 8, e := leAt x 0x38 8 }

/-- Class of a record. -/
def ScanRec.lc (r : ScanRec) : Bool := bitN r.flags 0

/-- An OP, field or reserved byte outside R276. -/
def PtnSt.scanBad (q : PtnSt) (r : ScanRec) : Bool :=
  r.op == 0 || decide (4 < r.op) || decide (1 < r.flags) || r.rsv != 0 || (r.doneObj != 0xFFFF && !q.objOk r.doneObj) ||
    (if r.op = 1 then
       r.nq == 0 || decide (32 < r.nq) || (r.lc && decide (8 < r.nq)) || decide (r.rm1 + 1 < r.prefetch) || (r.prefetch == 0 && r.e != 0)
     else
       r.nq != 0 || r.rm1 != 0 || r.prefetch != 0 || r.c != 0 || r.e != 0 ||
       (if r.op = 2 then r.snap == 0 || r.count == 0 || decide (65536 < r.count) || r.d != 0 else r.snap != 0 || r.b != 0))

/-- A range of a partition's virtual addresses as the dispatcher reads it, which does not halt (R277). -/
def State.peek (s : State) (p va n : Nat) : Option (List Byte) :=
  if 2 ^ 48 < va + n then none
  else match (State.bufXlate p { r := true, free := true } (pagePieces va n) [] s).1 with
    | .ok ps => s.readPieces ps
    | .stop _ _ => none

/-- Can a range be written? -/
def State.canWrite (s : State) (p va n : Nat) : Bool :=
  decide (va + n ≤ 2 ^ 48) && (match (State.bufXlate p { w := true, free := true } (pagePieces va n) [] s).1 with
    | .ok _ => true
    | .stop _ _ => false)

/-- The dispatcher copies an array: what the read does to caches and accounts. -/
def State.peekFx (s : State) (p va n : Nat) : State :=
  match State.bufXlate p { r := true, free := true } (pagePieces va n) [] s with
  | (.ok ps, s1) => s1.piecesFx p ps
  | (.stop _ _, s1) => s1

/-- The arrays that a record reads: address and length. -/
def ScanRec.arrays (r : ScanRec) (ix : IndexSt) : List (Nat × Nat) :=
  match r.op with
  | 1 => [(r.a, 16384 * r.nq)] ++ (if r.b = 0 then [] else [(r.b, 256 * r.nq)]) ++ [(r.c, 8 * r.count)]
  | 2 => [(r.a, 8 * r.count)]
  | 3 => [(r.a, ix.insLen * r.count)]
  | _ => [(r.a, 8 * r.count)]

/-- The list set breaks its rules (R276): LIST rises strictly within the index, QMASK is not 0 and lies below NQ. -/
def listSetBad (ix : IndexSt) (nq : Nat) : List (List Byte) → Nat → Bool
  | [], _ => false
  | e :: es, lo =>
    let l := leAt e 0 4
    let m := leAt e 4 4
    decide (l < lo) || decide (ix.lists ≤ l) || m == 0 || decide (2 ^ nq ≤ m) || listSetBad ix nq es (l + 1)

/-- Why the dispatcher skips a record: the cause of R277, the first that holds in this order: 1, 2, 3, 4, 6, then what the
arrays hold (log entry 27). -/
def State.scanCause (s : State) (p : Nat) (r : ScanRec) : Option Nat :=
  let q := s.ptn p
  if q.scanBad r then some 1
  else match s.openIndex p r.index with
    | none => some 2
    | some ix =>
      if r.lc ∧ !q.lcPermit then some 3
      else if r.snap ≠ 0 ∧ !(ix.snaps.any fun e => e.2 == r.snap && (match s.job e.1 with
          | some j => j.ptn == p
          | none => false)) then some 4
      else if (r.arrays ix).any (fun x => (s.peek p x.1 x.2).isNone) then some 6
      else if (r.op = 3 ∨ r.op = 4) ∧ !s.canWrite p r.d (16 * r.count) then some 6
      else if r.op = 2 ∧ !s.canWrite p r.a (8 * r.count) then some 6
      else
        let arr := fun (va n : Nat) => (s.peek p va n).getD []
        if r.op = 1 ∧ r.b ≠ 0 ∧ (recsOf 256 r.nq (arr r.b (256 * r.nq))).any filterBad then some 1
        else if r.op = 2 ∧ (recsOf 8 r.count (arr r.a (8 * r.count))).any (fun x => decide (63 < leAt x 0 1) || leAt x 1 3 != 0) then some 1
        else if r.op = 1 ∧ listSetBad ix r.nq (recsOf 8 r.count (arr r.c (8 * r.count))) 0 then some 5
        else none

/-- A page of an array of a record, or of where it is to be written, is in motion: the dispatcher waits (R124). -/
def State.scanWaits (s : State) (p : Nat) (r : ScanRec) : Bool :=
  match s.openIndex p r.index with
  | none => false
  | some ix => ((r.arrays ix).any fun x => s.movesAt p x.1 x.2 { r := true }) ||
      ((r.op == 3 || r.op == 4) && s.movesAt p r.d (16 * r.count) { w := true }) || (r.op == 2 && s.movesAt p r.a (8 * r.count) { w := true })

/-- Takes a scan-ring record for one OP (R275, R277); none while 64 records are pending, or while a page it needs is in motion. -/
def State.takeScan (s : State) (p op : Nat) (run : ScanRec → IndexSt → State → State) : State :=
  if 64 ≤ s.scanPending p ∨ ((s.ringFront p 1 64).map fun x => s.scanWaits p (scanRecOf x.2)) = some true then s
  else s.takeRec p 1 64 (fun x => (s.scanCause p (scanRecOf x)).isSome)
    (fun slot x s => s.ringSkip p 1 0x3405 slot ((s.scanCause p (scanRecOf x)).getD 0))
    (fun x => (scanRecOf x).op == op)
    fun _ x s => match s.openIndex p (scanRecOf x).index with
      | some ix =>
        let r := scanRecOf x
        run r ix (s.each (r.arrays ix) fun s a => s.peekFx p a.1 a.2)
      | none => s

/-- A batch from a record, with its snapshot pinned where SNAP is 0 (R274, R276). -/
def State.addBatch (s : State) (h : Nat) (snap : Nat) (b : Batch) : Nat × State :=
  let tag := s.search.nextTag
  let f := ((s.index h).map (·.csn)).getD 0
  let s1 := s.modSearch fun q => { q with
    batches := q.batches ++ [{ b with tag := tag, snap := if snap = 0 then f else snap, ownPin := snap == 0 }], nextTag := tag + 1 }
  (tag, if snap = 0 then s1.modIndex h fun i => { i with snaps := i.snaps ++ [(batchHolder tag, f)] } else s1)

/-- SCAN (R275, R276): the record and its arrays are copied and its batch is queued. -/
def execScan (p : Fin 32) (s : State) : Host.Outcome State Fault Refusal :=
  .next (s.takeScan p 1 fun r ix s =>
    let arr := fun (va n : Nat) => (s.peek p va n).getD []
    (s.addBatch ix.handle r.snap
      { ptn := p, index := ix.handle, lc := r.lc, nq := r.nq, r := r.rm1 + 1, prefetch := r.prefetch,
        lists := (recsOf 8 r.count (arr r.c (8 * r.count))).map fun x => (leAt x 0 4, BitVec.ofNat 32 (leAt x 4 4))
        tables := arr r.a (16384 * r.nq)
        filters := if r.b = 0 then [] else arr r.b (256 * r.nq)
        dVa := r.d, eVa := r.e, doneObj := r.doneObj, doneAdd := r.doneAdd }).2)

/-- AGENT of the Quern engine of a channel (R119): the port of its die and its local number. -/
def quernAgent (ch : Nat) : Nat := 0x1000 + 16 * (16 + fcOf ch) + ch % 8

/-- An engine of a batch is halted. -/
def State.quernHalted (s : State) (tag ch : Nat) : Bool := s.xl.halted.any fun h => h.batch == tag && h.agent == quernAgent ch

/-- One write of an engine (R288): done, or the fault halts it or ends the batch with ABORT_FAULT. The first write of a result is
the one that a regulator can hold; with `free` the write goes with it (log entry 15). -/
def State.quernWrite (s : State) (b : Batch) (free : Bool) (ch va : Nat) (bs : List Byte) : Bool × State :=
  match State.bufXlate b.ptn { w := true, lc := b.lc, free := free } (pagePieces (va % 2 ^ 48) bs.length) [] s with
  | (.ok ps, s1) => (true, State.writePieces b.ptn ps bs s1)
  | (.stop at_ (.fault k lv), s1) =>
    if s1.quernHalted b.tag ch then (false, s1)
    else
      let h : HaltRec := { ptn := b.ptn, agent := quernAgent ch, va := BitVec.ofNat 64 at_, kind := k, access := 10, level := lv,
                           lc := b.lc, batch := b.tag }
      (match s1.takeFault h with
       | (.halted, s2) => (false, s2)
       | (.abort, s2) => (false, s2.modBatch b.tag fun b => { b with status := stAbortFault }))
  | (.stop _ .uncorrectable, s1) => (false, s1.modBatch b.tag fun b => { b with status := stAbortUncorrectable })
  | (.stop _ _, s1) => (false, s1)

/-- The writes of one result, in order, up to the first that does not end well (R288). -/
def State.quernWrites (s : State) (b : Batch) (ch : Nat) (ws : List (Nat × List Byte)) : Bool × State :=
  ((List.range ws.length).zip ws).foldl (fun acc w => if acc.1 then acc.2.quernWrite b (w.1 != 0) ch w.2.1 w.2.2 else acc) (true, s)

/-- Has a batch ended early? -/
def State.batchAborted (s : State) (tag : Nat) : Bool :=
  ((s.batch tag).map fun b => b.status == stAbortFault || b.status == stAbortUncorrectable).getD true

/-- A scan-ring INSERT or DELETE (R293-R295). -/
def State.scanChange (s : State) (p : Nat) (r : ScanRec) (ix : IndexSt) (len : Nat) (one : IndexSt → List Byte → IndexSt × Verdict) : State :=
  let bs := (s.peek p r.a (len * r.count)).getD []
  let x := ix.judge one (recsOf len r.count bs)
  ((s.commitIndex p ix x.1).poke p r.d (x.2.flatMap Verdict.bytes)).signalDone 79 p r.doneObj r.doneAdd

/-- SCAN_INSERT (R294). -/
def execScanInsert (p : Fin 32) (s : State) : Host.Outcome State Fault Refusal :=
  .next (s.takeScan p 3 fun r ix s => s.scanChange p r ix ix.insLen fun ix x => ix.insertOne false x)

/-- SCAN_DELETE (R294). -/
def execScanDelete (p : Fin 32) (s : State) : Host.Outcome State Fault Refusal :=
  .next (s.takeScan p 4 fun r ix s => s.scanChange p r ix 8 fun ix x => ix.deleteOne (leNat x))

/-! Batches on the engines. -/

/-- The 64 bytes of a descriptor (R283). -/
def ExtDesc.bytes (d : ExtDesc) : List Byte :=
  bytesLE 4 d.tag ++ bytesLE 4 d.qmask.toNat ++ bytesLE 4 d.list ++ bytesLE 1 d.run ++ bytesLE 1 (b2n d.lc + 2 * b2n d.pq4 + 4 * b2n d.last) ++
    bytesLE 2 d.slotBase ++ bytesLE 8 d.vstart ++ bytesLE 8 d.entryUnit ++ bytesLE 4 d.pages ++ bytesLE 4 d.entries ++ bytesLE 8 d.recUnit ++
    bytesLE 2 d.recSize64 ++ zeros 14

/-- The extents of a batch (R272, R283), their units as the map has them: channel and descriptor, in rising LIST and RUN. -/
def State.extentsOf (s : State) (ix : IndexSt) (b : Batch) : List (Nat × ExtDesc) :=
  b.lists.flatMap fun l => match ix.versionAt l.1 b.snap with
    | none => []
    | some v => v.runs.map fun r =>
      let n := (ix.runEnts v r.1).length
      (ix.runChan l.1 r.1, { tag := b.tag, qmask := l.2, list := l.1, run := r.1, lc := b.lc, vstart := v.vstart,
                             entryUnit := s.pageUnit ix.handle r.2.1, recUnit := s.pageUnit ix.handle r.2.2, pages := (n + 340) / 341,
                             entries := n, pq4 := ix.code == 1, recSize64 := ix.recSize / 64 })

/-- Channels of a batch, in rising order. -/
def extentChans (ds : List (Nat × ExtDesc)) : List Nat := (List.range 64).filter fun c => ds.any fun d => d.1 == c

/-- The lowest NQ query slots of a class in a row that are free on an engine (R281, R283; log entry 27). -/
def QuernEng.slotBase (g : QuernEng) (lc : Bool) (nq : Nat) : Option Nat :=
  (List.range ((if lc then 8 else 32) + 1 - nq)).find? fun a =>
    g.slots.all fun x => x.2.1 != lc || decide (a + nq ≤ x.2.2.1) || decide (x.2.2.1 + x.2.2.2 ≤ a)

/-- A batch may be placed now (R282). -/
def State.placeable (s : State) (b : Batch) (chans : List Nat) : Bool :=
  chans.all fun c =>
    let g := s.eng c
    (g.slotBase b.lc b.nq).isSome && (g.sets.any (fun x => x.1 == b.index) || decide (g.sets.length < 4))

/-- The batch at the front of a class. -/
def State.frontBatch (s : State) (lc : Bool) : Option Batch := s.search.batches.find? fun b => b.lc == lc && !b.placed && !b.fetch

/-- A batch takes its slots and its tombstone set on one engine, and its descriptors are sent (R282, R283). -/
def State.placeOn (s : State) (b : Batch) (tombs : List Tomb) (ch : Nat) (ds : List ExtDesc) : State :=
  let base := ((s.eng ch).slotBase b.lc b.nq).getD 0
  let put := ((List.range ds.length).zip ds).map fun d => { d.2 with last := d.1 + 1 == ds.length, slotBase := base }
  let s1 := s.modEng ch fun g =>
    let top := max (((g.sets.find? fun x => x.1 == b.index).map fun x => x.2.1).getD 0) b.snap
    { g with
      beFree := if b.lc then g.beFree else g.beFree - b.nq
      lcFree := if b.lc then g.lcFree - b.nq else g.lcFree
      slots := g.slots ++ [(b.tag, b.lc, base, b.nq)]
      sets := g.sets.filter (fun x => x.1 != b.index) ++ [(b.index, top, tombs.filter fun t => decide (t.csn ≤ top))]
      pend := g.pend ++ put }
  s1.each put fun s d => (s.holdRun d.entryUnit true).holdRun d.recUnit true

/-- The front batch of a class, with its extents, where it can be placed. -/
def State.readyBatch (s : State) (lc : Bool) : Option (Batch × IndexSt × List (Nat × ExtDesc)) :=
  (s.frontBatch lc).bind fun b => (s.index b.index).bind fun ix =>
    let ds := s.extentsOf ix b
    if s.placeable b (extentChans ds) then some (b, ix, ds) else none

/-- Latency-critical pending work that can be dispatched, which goes before all best-effort work (R275). -/
def State.lcPending (s : State) : Bool :=
  (s.readyBatch true).isSome || s.search.batches.any fun b => b.fetch && b.lc && !b.placed

/-- A batch all of whose engines have reported, and whose header waits for a page in motion. -/
def Batch.endWaits (b : Batch) : Bool := b.allReported && (b.job == 0 || !b.headed)

/-- BATCH_PLACE (R275, R282): the front batch of a class is placed once its slots and sets are free on every engine; a
best-effort batch only while no latency-critical work can be dispatched. A batch without extents ends at once. -/
def execBatchPlace (lc : Bool) (s : State) : Host.Outcome State Fault Refusal :=
  .next (
    if s.nvme.ps = 2 ∨ (!lc && s.lcPending) then s
    else match s.search.batches.find? fun b => b.endWaits && b.chans.isEmpty && b.lc == lc with
    | some b => s.finishBatch b
    | none => match s.readyBatch lc with
      | none => s
      | some (b, ix, ds) =>
        let chans := extentChans ds
        let s1 := s.each chans fun s c => s.placeOn b ix.tombs c ((ds.filter fun d => d.1 == c).map (·.2))
        let s2 := s1.modBatch b.tag fun b => { b with placed := true, chans := chans }
        match s2.batch b.tag with
        | some b => if chans.isEmpty then s2.finishBatch b else s2
        | none => s2)

/-! FETCH. -/

/-- The FETCH of a partition that goes on next: a latency-critical one first, then the oldest; none while its engine is halted, and
no best-effort one begins while latency-critical work can be dispatched (R275, R289). -/
def State.fetchFront (s : State) (p : Nat) : Option Batch :=
  let mine := s.search.batches.filter fun b => b.fetch && b.ptn == p && !(s.xl.halted.any fun h => h.batch == b.tag)
  (mine.find? (·.lc)).or (mine.find? fun b => b.placed || !s.lcPending)

/-- A FETCH is dispatched: the record page of each locator is found through the map and read, and its run is held (R289, R317). -/
def State.beginFetch (s : State) (b : Batch) (ix : IndexSt) : State :=
  let us := ((List.range b.locs.length).zip b.locs).filterMap fun e =>
    (ix.recAt b.snap e.2.1 e.2.2).map fun x => (e.1, s.pageUnit ix.handle x.1)
  let runs := us.foldl (fun (rs : List Nat) u => match s.unitRun u.2 with
    | some r => if rs.contains r.unit then rs else rs ++ [r.unit]
    | none => rs) []
  ((s.each runs fun s u => s.holdRun u true).recFx b.ptn ix b.snap b.locs).modBatch b.tag fun b =>
    { b with placed := true, pages := us.foldl (fun t u => tset t u.1 u.2) [], heldRuns := runs }

/-- The record of a locator as a FETCH writes it, and the mark in its locator: bit 63 where the snapshot does not hold it, bit 62
where its page is lost (R289). -/
def State.fetchRecord (s : State) (b : Batch) (ix : IndexSt) (i ch loc : Nat) : List Byte × Nat :=
  match ix.recAt b.snap ch loc with
  | none => (zeros ix.recSize, 2 ^ 31)
  | some x =>
    let u := tget b.pages i 0
    if s.pageLost u then (zeros ix.recSize, 2 ^ 30) else (((s.pageBytes u).drop (ix.recSize * x.2)).take ix.recSize, 0)

/-- One record of a FETCH is written, with its mark; a fault, or a page in motion, leaves it to be written again (R288, R289). -/
def State.fetchOne (s : State) (b : Batch) (ix : IndexSt) (i ch loc : Nat) : State :=
  let r := s.fetchRecord b ix i ch loc
  let va := b.dVa + 8 * i + 4
  let w := s.quernWrite b false ch (b.eVa + i * ix.recSize) r.1
  if !w.1 || (r.2 != 0 && w.2.movesAt b.ptn va 4 { w := true }) then w.2
  else (if r.2 = 0 then w.2 else w.2.poke b.ptn va (bytesLE 4 (loc ||| r.2))).modBatch b.tag fun b => { b with written := tset b.written i () }

/-- A FETCH goes on (R289): every record not yet written is; once all are, or the batch has ended early, it ends. -/
def State.fetchRun (s : State) (b : Batch) : State :=
  match s.index b.index with
  | none => s.dropBatch b
  | some ix =>
    s.atPoint b.ptn 2 b.lc (if b.placed then 0 else 16384 * b.locs.length) (.batch b.tag 64) fun s =>
    let s0 := if b.placed then s else s.beginFetch b ix
    let b0 := (s0.batch b.tag).getD b
    let s1 := s0.each ((List.range b.locs.length).zip b.locs) fun s e => if thas b.written e.1 then s else s.fetchOne b0 ix e.1 e.2.1 e.2.2
    match s1.batch b.tag with
    | none => s1
    | some b1 =>
      if s1.batchAborted b.tag || (List.range b.locs.length).all (thas b1.written) then
        (s1.dropBatch b1).signalDone 79 b.ptn b.doneObj b.doneAdd
      else s1

/-- FETCH (R275, R289): a record is taken and queued, and the FETCH at the front goes on. A fetch's locators stand at its D address
in the model, its record buffer at E. -/
def execFetchRecords (p : Fin 32) (s : State) : Host.Outcome State Fault Refusal :=
  .next (
    let s1 := s.takeScan p 2 fun r ix s =>
      let ls := recsOf 8 r.count ((s.peek p r.a (8 * r.count)).getD [])
      (s.addBatch ix.handle r.snap
        { ptn := p, index := ix.handle, lc := r.lc, fetch := true, locs := ls.map fun x => (leAt x 0 1, leAt x 4 4),
          dVa := r.a, eVa := r.b, doneObj := r.doneObj, doneAdd := r.doneAdd }).2
    match (if s.nvme.ps = 2 then none else s1.fetchFront p) with
    | some b => s1.fetchRun b
    | none => s1)

/-! Scanning. -/

/-- EXTENT_DESCRIPTOR (R281, R283): the engine receives the next descriptor and queues its page reads. -/
def execExtentDescriptor (ch : Fin 64) (s : State) : Host.Outcome State Fault Refusal :=
  .next (match (s.eng ch).pend with
    | [] => s
    | d :: ds => if 64 ≤ (s.eng ch).queue.length then s else s.modEng ch fun g => { g with pend := ds, queue := g.queue ++ [d] })

/-- A candidate offered to a top-R set (R284). -/
def offer (r : Nat) (top : List Cand) (c : Cand) : List Cand :=
  if top.any fun x => x.score == c.score && x.ident == c.ident then top else (insertBy Cand.le c top).take r

/-- One entry against the queries of a descriptor (R284): the batch's top-R sets, and how many queries' filters it passes. -/
def scanEntry (ix : IndexSt) (ch : Nat) (mask : BitVec 32) (b : Batch) (e : Entry) : Batch × Nat :=
  let qs := (bitsOf 32 mask.toNat).filter fun q => decide (q < b.nq) && passes b.filters q e.attr
  ({ b with tops := qs.foldl (fun t q =>
      tset t (64 * q + ch) (offer b.r (tget t (64 * q + ch) []) { score := ix.score b.tables q e, ident := e.ident, chan := ch,
                                                                  loc := ix.locOf b.snap ch e.ident })) b.tops }, qs.length)

/-- A page is lost to a scan (R286). -/
def State.scanLost (s : State) (b : Batch) (ch : Nat) (d : ExtDesc) (unit code : Nat) : State :=
  let s1 := s.modBatch b.tag fun b =>
    { b with pagesLost := b.pagesLost + 1, lostQ := (bitsOf 32 d.qmask.toNat).foldl (fun t q => tset t (64 * q + ch) ()) b.lostQ }
  let s2 := (s1.modEng ch fun g => { g with pagesLost := satAdd 16 g.pagesLost 1 }).modPtn b.ptn fun q =>
    { q with scanLost := satAdd 16 q.scanLost 1 }
  s2.log (fcSource (fcOf ch)) code (bytesLE 1 ch ++ bytesLE 5 unit ++ bytesLE 4 d.tag)

/-- Partition of a descriptor's batch. -/
def State.descPtn (s : State) (d : ExtDesc) : Nat := ((s.batch d.tag).map (·.ptn)).getD 32

/-- The regulator of flash reads holds the next page of a descriptor (R260). -/
def State.descHeld (s : State) (d : ExtDesc) : Bool :=
  d.at_ == 0 && decide (s.descPtn d < 32) && (tget (s.ptn (s.descPtn d)).regs 2 {}).holds 2 d.lc

/-- The descriptor that an engine's arbiter grants next among those that no regulator holds (R259, R260, R285). -/
def State.grantScan (s : State) (ch : Nat) : Option ExtDesc × Arb :=
  let g := s.eng ch
  let ds := g.queue.filter fun d => !s.descHeld d
  let r := g.arb.grant (fun p => s.weight p * 64) (ds.map fun d => (s.descPtn d, d.lc))
  (r.1.bind fun i => ds[i]?, r.2)

/-- The trailer of a page agrees with a descriptor (R284, R286). -/
def ExtDesc.trailerOk (d : ExtDesc) (page : List Byte) : Bool :=
  leAt page 16368 4 == d.list && leAt page 16372 1 == d.run && leAt page 16376 8 == d.vstart

/-- Entries of a page are scanned (R284): the top-R sets, the engine's counts, and its time (R285). -/
def State.scanEntries (s : State) (b : Batch) (ix : IndexSt) (ch : Nat) (d : ExtDesc) (es : List Entry) : State :=
  let set := (((s.eng ch).sets.find? fun x => x.1 == b.index).map fun x => x.2.2).getD []
  let r := (es.filter fun e => !dead set e.ident b.snap).foldl (fun (acc : Batch × List Nat) e =>
    let x := scanEntry ix ch d.qmask acc.1 e
    (x.1, acc.2 ++ [x.2])) (b, [])
  let dropped := es.length - r.2.length
  let cycles := (r.2.map fun n => max 1 ((n * ix.subs + 63) / 64)).foldl (· + ·) dropped
  let looks := (r.2.map fun n => n * ix.subs).foldl (· + ·) 0
  let s1 := (s.modBatch b.tag fun _ => r.1).modEng ch fun g =>
    { g with entries := g.entries + BitVec.ofNat 48 es.length, lookups := g.lookups + BitVec.ofNat 64 looks
             arb := if d.lc then g.arb else g.arb.spend b.ptn cycles }
  s1.charge b.ptn 6 none cycles

/-- A descriptor goes on at a later place: in its page, at its next page, or not at all, its extent being done. -/
def State.scanTo (s : State) (ch : Nat) (d next : ExtDesc) : State :=
  if next.done < d.pages then s.modEng ch fun g => { g with queue := modFirst (· == d) (fun _ => next) g.queue }
  else (s.modEng ch fun g => { g with queue := dropFirst (· == d) g.queue }).dropDesc d

/-- How many of the entries left of a page an engine scans before it looks at its queue again: all for a latency-critical
descriptor; else a latency-critical one may arrive at any entry boundary and take the engine there, a free choice (R285; log
entry 27). -/
def State.scanShare (s : State) (d : ExtDesc) (left : Nat) : Nat := if d.lc then left else 1 + Config.freeNat 106 [s.free, d.tag] % max left 1

/-- The page of a descriptor is in the engine: it is lost where it is uncorrectable or its trailer disagrees (R286), else entries
of it are scanned (R284). -/
def State.scanPage (s : State) (b : Batch) (ix : IndexSt) (ch : Nat) (d : ExtDesc) : State :=
  let unit := d.entryUnit + 4 * d.done
  let page := s.pageBytes unit
  let next := { d with done := d.done + 1, at_ := 0 }
  if s.pageLost unit then (s.scanLost b ch d unit 0x3401).scanTo ch d next
  else if !d.trailerOk page then (s.scanLost b ch d unit 0x3402).scanTo ch d next
  else
    let count := min 341 (leAt page 16374 2)
    let n := s.scanShare d (count - d.at_)
    let s1 := (s.setFree (s.free + 1)).scanEntries b ix ch d (((List.range count).drop d.at_ |>.take n).map (pageEntry page))
    s1.scanTo ch d (if count ≤ d.at_ + n then next else { d with at_ := d.at_ + n })

/-- An uncorrectable error of table memory: it ends the batch that owns the word (R281), whose descriptors are scanned no more. -/
def State.tableUe (s : State) (ch tag : Nat) : State :=
  match s.batch tag with
  | none => s
  | some b =>
    if !b.resident ch || s.batchAborted tag then s
    else ((s.each b.chans fun s c => s.dropDescs tag c).modBatch tag fun b => { b with status := stAbortUncorrectable }).log
      (fcSource (fcOf ch)) 0x3403 (bytesLE 1 ch ++ bytesLE 4 tag)

/-- The engine goes on with the descriptor it grants: a page of it is read and scanned, or its scan goes on. Descriptors whose next
page a regulator holds wait (R260). -/
def State.pageGo (s : State) (ch : Nat) : State :=
  let s0 := s.each ((s.eng ch).queue.filter s.descHeld) fun s d => s.holdRequest (s.descPtn d) 2 d.lc 16384 (.page ch)
  match (if s0.nvme.ps = 2 then (none, {}) else s0.grantScan ch) with
  | (none, _) => s0
  | (some d, arb) =>
    let s1 := s0.modEng ch fun g => { g with arb := arb }
    match (s1.batch d.tag).bind fun b => (s1.index b.index).map fun ix => (b, ix) with
    | none => s1.scanTo ch d { d with done := d.pages }
    | some (b, ix) =>
      if d.at_ ≠ 0 then s1.scanPage b ix ch d
      else
        (((s1.unheld b.ptn 2 (.page ch)).modBlk (unitBlock (d.entryUnit + 4 * d.done)) fun b => { b with reads := b.reads + 1 }).charge
          b.ptn 9 (some 2) 16384).scanPage b ix ch d

/-- ENTRY_PAGE_READ (R281, R284-R286): the page of the descriptor that the engine serves arrives, and is scanned or lost; or its
scan goes on. `ue` names the batch that owns a word of table memory found uncorrectable. -/
def execEntryPageRead (ch : Fin 64) (ue : Option (BitVec 32)) (s : State) : Host.Outcome State Fault Refusal :=
  .next (State.pageGo (match ue with
    | some t => s.tableUe ch t.toNat
    | none => s) ch)

/-- The batch whose extents an engine has finished and not reported. -/
def State.reportDue (s : State) (ch : Nat) : Option Batch :=
  let g := s.eng ch
  s.search.batches.find? fun b => b.resident ch && !((g.queue ++ g.pend).any fun d => d.tag == b.tag) && !s.quernHalted b.tag ch

/-- The 16 bytes of a candidate (R287). -/
def Cand.bytes (c : Cand) : List Byte := bytesLE 8 c.ident.toNat ++ bytesLE 4 (c.score % 2 ^ 24 + c.chan % 64 * 2 ^ 24) ++ bytesLE 4 c.loc

/-- What an engine writes for one query of a batch (R287, R288): count word, block, and the prefetched records; second, a
record page was lost. -/
def State.queryWrites (s : State) (b : Batch) (ix : IndexSt) (ch q : Nat) : List (Nat × List Byte) × Bool :=
  let i := 64 * q + ch
  let cs := tget b.tops i []
  let recs := (cs.take b.prefetch).map fun c => s.recBytes ix b.snap ch c.loc
  let lost := recs.any fun r => match r with
    | some (_, true) => true
    | _ => false
  let word := cs.length + b2n (lost || thas b.lostQ i) * 2 ^ 31
  let rw := ((List.range recs.length).zip recs).map fun r =>
    (b.eVa + (i * b.prefetch + r.1) * ix.recSize, match r.2 with
      | some (bs, false) => bs
      | _ => s.openBytes 49 ix.recSize)
  ([(b.dVa + 0x40 + 4 * i, bytesLE 4 word), (b.dVa + 0x2040 + i * 16 * b.r, cs.flatMap Cand.bytes)] ++ rw, lost)

/-- An engine writes the results of the queries it has not yet written; those that a fault or a page in motion stops are repeated,
and the others go on (R288). -/
def State.reportQueries (s : State) (b : Batch) (ix : IndexSt) (ch : Nat) : State :=
  s.each ((List.range b.nq).filter fun q => !thas b.written (64 * q + ch)) fun s q =>
    let r := s.quernWrites b ch ((s.queryWrites b ix ch q).1.filter fun w => !w.2.isEmpty)
    if r.1 then r.2.modBatch b.tag fun b => { b with written := tset b.written (64 * q + ch) () } else r.2

/-- The record pages of an engine's first PREFETCH candidates are read, once (R288 step 2); a lost one marks its query (R286). -/
def State.prefetch (s : State) (b : Batch) (ix : IndexSt) (ch : Nat) : State :=
  if b.fetched.contains ch then s
  else
    let lost := (List.range b.nq).filter fun q => (s.queryWrites b ix ch q).2
    let pre := (List.range b.nq).flatMap fun q => ((tget b.tops (64 * q + ch) []).take b.prefetch).map fun c => (ch, c.loc)
    ((s.recFx b.ptn ix b.snap pre).setFree (s.free + 1)).modBatch b.tag fun b =>
      { b with fetched := b.fetched ++ [ch], lostQ := lost.foldl (fun t q => tset t (64 * q + ch) ()) b.lostQ }

/-- An engine of a batch has written its results, or the batch has ended early: it reports and frees its slots, and the last report
ends the batch (R288 step 3). -/
def State.reportDone (s : State) (ch : Nat) (b : Batch) : State :=
  if s.batchAborted b.tag || (List.range b.nq).all fun q => thas b.written (64 * q + ch) then
    let s1 := s.leaveEngine b ch
    match s1.batch b.tag with
    | some b => if b.allReported then s1.finishBatch b else s1
    | none => s1
  else s

/-- ENGINE_REPORT (R288): after its last extent an engine reads its prefetched records, writes its results and reports; or a batch
whose header had to wait ends. -/
def execEngineReport (ch : Fin 64) (s : State) : Host.Outcome State Fault Refusal :=
  .next (match s.reportDue ch with
    | none => (match s.search.batches.find? fun b => b.endWaits && b.chans.contains ch.val with
      | some b => s.finishBatch b
      | none => s)
    | some b => match s.index b.index with
      | none => s.dropBatch b
      | some ix =>
        let report := fun (s : State) => match s.batch b.tag with
          | some b => s.reportDone ch b
          | none => s
        if s.batchAborted b.tag then report s
        else s.atPoint b.ptn 2 b.lc (if b.fetched.contains ch.val then 0 else 16384 * b.prefetch) (.batch b.tag ch) fun s =>
          let s1 := s.prefetch b ix ch
          report (s1.reportQueries ((s1.batch b.tag).getD b) ix ch))

end Sys2Proof.Machine
end

