-- ==== Sys2Proof/Machine/Regs.lean ====
section
/-! DEFINITION. Register accesses (R7-R10): reads and writes of the CSR window by Weft (R367), the other BARs (R333, R335,
R349), and PCIe link training (R331). -/

namespace Sys2Proof.Machine

/-! By Weft (R367). -/

/-- CSR_READ by Weft (R367): SIZE bytes go to REPLY_VA; an offset that no block defines reads 0. -/
def State.weftRead (s : State) (job : Nat) : State :=
  match s.mgmtJob job 1 with
    | none => s
    | some j =>
      let n := leAt j.entry 0x28 1
      let va := leAt j.entry 0x18 8
      let off := leAt j.entry 0x24 4
      if va = 0 then (s.csrRead (4 + j.ptn) off n).2.endJob j.id stOk 0
      else match s.bufMap j 0 va n true with
        | (none, s1) => s1
        | (some ps, s1) =>
          let r := s1.csrRead (4 + j.ptn) off n
          (State.writePieces j.ptn ps (bytesLE n r.1) r.2).endJob j.id stOk n

/-- CSR_WRITE by Weft (R367): dropped under R70 it completes with LOCK_VIOLATION, at an undefined offset with INVALID_FIELD. -/
def State.weftWrite (s : State) (job : Nat) : State :=
  match s.mgmtJob job 2 with
    | none => s
    | some j =>
      let r := s.csrWrite { src := .weft j.ptn, off := leAt j.entry 0x24 4, wide := leAt j.entry 0x28 1 == 8, data := leAt j.entry 0x30 8 }
      match r.1 with
      | .taken => r.2.endJob j.id stOk 0
      | .locked => r.2.endJob j.id stLockViolation 0
      | .undefined => r.2.endJob j.id stInvalidField 0

/-- CSR_READ (R367, R446), by Weft or the mailbox. -/
def execCsrRead (r : Route) (s : State) : Host.Outcome State Fault Refusal :=
  .next (match r with
    | .weft job => s.weftRead job.toNat
    | .mailbox => s.mailboxCmd 1)

/-- CSR_WRITE (R70, R367), by Weft or the mailbox. -/
def execCsrWrite (r : Route) (s : State) : Host.Outcome State Fault Refusal :=
  .next (match r with
    | .weft job => s.weftWrite job.toNat
    | .mailbox => s.mailboxCmd 2)

/-! The warp requests of Weft and the mailbox (R65, R367). -/

/-- STAGE by Weft (R62, R367): HUB translates the range page by page before the copy; without a buffer there is no byte to copy. -/
def State.weftStage (s : State) (job : Nat) : State :=
  match s.mgmtJob job 0x10 with
    | none => s
    | some j =>
      let va := leAt j.entry 8 8
      let n := leAt j.entry 0x10 4
      let run := fun (s : State) => s.modJob j.id fun j => { j with stage := .running }
      if s.warpBusy then s.endJob j.id stNoResource 0
      else if 1048576 < n then run (s.warpCopy (.weft j.ptn) j.id n [] (some 8))
      else if va = 0 then run (s.warpCopy (.weft j.ptn) j.id n [] (some 0))
      else match s.bufMap j 1 va n false with
        | (none, s1) => s1
        | (some ps, s1) => (run (s1.warpCopy (.weft j.ptn) j.id n ps none)).piecesFx j.ptn ps

/-- A Weft request completes with the loader's status. -/
def State.warpWeft (s : State) (id code : Nat) (go : State → Src → Nat × State) : State :=
  match s.mgmtJob id code with
  | none => s
  | some j => let r := go s (.weft j.ptn); r.2.endJob j.id r.1 0

/-- WARP_STAGE (R62, R65, R367), by Weft or the mailbox. -/
def execWarpStage (r : Route) (s : State) : Host.Outcome State Fault Refusal :=
  .next (match r with
    | .weft job => s.weftStage job.toNat
    | .mailbox => s.mailboxCmd 0x10)

/-- A request of one code, by Weft or the mailbox (R65, R367). -/
def State.warpRow (s : State) (r : Route) (code : Nat) (go : State → Src → Nat × State) : State :=
  match r with
  | .weft job => s.warpWeft job.toNat code go
  | .mailbox => s.mailboxCmd code

/-- WARP_COMMIT (R65, R367): by Weft a session exists only under a committed image, so the request is not allowed. -/
def execWarpCommit (r : Route) (s : State) : Host.Outcome State Fault Refusal := .next (s.warpRow r 0x11 State.warpCommitBy)

/-- WARP_STRUCT_RESET (R65, R367): completes once the loader accepts the request. -/
def execWarpStructReset (r : Route) (s : State) : Host.Outcome State Fault Refusal := .next (s.warpRow r 0x12 State.warpResetBy)

/-- WARP_DISCARD (R65, R367). -/
def execWarpDiscard (r : Route) (s : State) : Host.Outcome State Fault Refusal := .next (s.warpRow r 0x13 State.warpDiscardBy)

/-! The doorbell pages of PF1 BAR0 (R349). -/

/-- A ring's base address (R349). -/
def baseOver (w : CsrWr) (old : BitVec 50) : BitVec 50 := BitVec.ofNat 50 (fld (w.onto old.toNat) 12 38 * 4096)

/-- A write to DB_HELLO (R349, R350): 64 bits start a hello; 32 bits only replace their half. -/
def State.helloReg (s : State) (p : Nat) (w : CsrWr) : State :=
  if w.wide then s.helloWrite p (BitVec.ofNat 64 w.data)
  else if w.lo then s.modPage p fun g => { g with verMin := BitVec.ofNat 16 w.data, verMax := BitVec.ofNat 16 (fld w.data 16 16) }
  else s.modPage p fun g => { g with hostTag := BitVec.ofNat 32 w.data }

/-- A write at an offset of a partition's page (R349). -/
def State.pageWrite (s : State) (p : Nat) (w : CsrWr) : State :=
  let o := w.off % 0x10000
  let r := o / 8 % 8
  let q := s.wring p r
  let b := w.bits
  if o < 0x40 then (if w.lo then s.sqTailWrite p r b else s)
  else if o < 0x80 then (if w.lo then s.cqHeadWrite p r b else s)
  else if o < 0x100 then s
  else if o < 0x140 then s.ringConfig p r b fun x => { x with sqBase := baseOver w q.sqBase }
  else if o < 0x180 then s.ringConfig p r b fun x => { x with cqBase := baseOver w q.cqBase }
  else if o < 0x1C0 then (if w.lo then s.ringConfig p r b fun x => { x with thresh := BitVec.ofNat 8 (fld b 8 8), time := BitVec.ofNat 8 b } else s)
  else if o = 0x200 ∨ o = 0x204 then s.helloReg p w
  else if o = 0x218 then s.modPage p fun g => { g with sticky := g.sticky &&& ~~~(BitVec.ofNat 4 b) }
  else s

/-! PF0 BAR0 (R333, R335) and the MSI-X tables. -/

/-- A dword of an MSI-X table is replaced; an entry not written is masked (log entry 6). -/
def msixPut (t : Tab (BitVec 128)) (o : Nat) (wide : Bool) (data : Nat) : Tab (BitVec 128) :=
  let old := bytesLE 16 (tget t (o / 16) (BitVec.ofNat 128 (2 ^ 96))).toNat
  tset t (o / 16) (BitVec.ofNat 128 (leNat (patch old (o % 16) (bytesLE (if wide then 8 else 4) data))))

/-- A doorbell of the NVMe controller: SQ y tail at 8y, CQ y head at 8y + 4 (log entry 6); a queue that does not stand, or a
value it does not have, is dropped. -/
def State.nvDoorbell (s : State) (o v : Nat) : State :=
  let y := o / 8
  if o % 8 = 0 then match tfind s.nvme.sqs y with
    | some q => if v % 65536 < q.size then s.modNvme fun n => { n with sqs := tset n.sqs y { q with tail := v % 65536 } } else s
    | none => s
  else match tfind s.nvme.cqs y with
    | some q => if v % 65536 < q.size then s.modNvme fun n => { n with cqs := tset n.cqs y { q with head := v % 65536 } } else s
    | none => s

/-- A write to PF0 BAR0, 4 bytes at a time. -/
def State.nvReg (s : State) (o v : Nat) : State :=
  let b := BitVec.ofNat 32 v
  if o = 0x0C then s.modNvme fun n => { n with intm := n.intm ||| b }
  else if o = 0x10 then s.modNvme fun n => { n with intm := n.intm &&& ~~~b }
  else if o = 0x14 then (s.ccWrite b).shnWrite b
  else if o = 0x24 then s.modNvme fun n => { n with aqa := b &&& 0x0FFF0FFF#32 }
  else if o = 0x28 then s.modNvme fun n => { n with asq := BitVec.ofNat 64 (n.asq.toNat / 2 ^ 32 * 2 ^ 32 + fld v 12 20 * 4096) }
  else if o = 0x2C then s.modNvme fun n => { n with asq := BitVec.ofNat 64 (n.asq.toNat % 2 ^ 32 + v % 2 ^ 32 * 2 ^ 32) }
  else if o = 0x30 then s.modNvme fun n => { n with acq := BitVec.ofNat 64 (n.acq.toNat / 2 ^ 32 * 2 ^ 32 + fld v 12 20 * 4096) }
  else if o = 0x34 then s.modNvme fun n => { n with acq := BitVec.ofNat 64 (n.acq.toNat % 2 ^ 32 + v % 2 ^ 32 * 2 ^ 32) }
  else if 0x1000 ≤ o ∧ o < 0x1000 + 8 * 129 then s.nvDoorbell (o - 0x1000) v
  else if 0x4000 ≤ o ∧ o < 0x4000 + 16 * 129 then s.modHost fun h => { h with msix0 := msixPut h.msix0 (o - 0x4000) false v }
  else s

/-- REGISTER_WRITE (R7, R9, R10): a plain write through a BAR, which the host reaches while the domain is up. -/
def execRegisterWrite (a : RegAccess) (s : State) : Host.Outcome State Fault Refusal :=
  .next (
    let o := a.off.toNat
    let v := a.data.toNat
    let w : CsrWr := { off := o, wide := a.wide, data := v }
    if !s.pwr.domainUp || !a.fits || !aligned o a.wide then s
    else match a.bar with
      | 0 => if a.wide then (s.nvReg o (v % 2 ^ 32)).nvReg (o + 4) (v / 2 ^ 32) else s.nvReg o (v % 2 ^ 32)
      | 1 => if o < 0x200000 then s.pageWrite (o / 0x10000) w else s
      | 2 => (s.csrWrite w).2
      | 3 => if o < 16 * 144 then s.modHost fun h => { h with msix1 := msixPut h.msix1 o a.wide (if a.wide then v else v % 2 ^ 32) } else s)

/-! PCIe link training. -/

/-- A rate and width the port has (R331): 64 GT/s is FLIT mode alone. -/
def pcieOk (r : PcieRes) : Bool :=
  (r.rate == 64 && r.flit || r.rate == 32 || r.rate == 16) && (r.width == 16 || r.width == 8 || r.width == 4 || r.width == 2 || r.width == 1)

/-- PCIE_LINK_TRAINING (R331): the link comes up at what the training reached, or stays down with log 0x7201. -/
def execPcieLinkTraining (res : Option PcieRes) (s : State) : Host.Outcome State Fault Refusal :=
  .next (
    if !s.pwr.domainUp || s.host.linkUp then s
    else match res with
      | some r =>
        if pcieOk r then s.modHost fun h => { h with linkUp := true, rate := r.rate, width := r.width, flit := r.flit }
        else s.log Src.mgt.code 0x7201 []
      | none => s.log Src.mgt.code 0x7201 [])

end Sys2Proof.Machine
end

