-- ==== Sys2Proof/Machine/Release.lean ====
section
/-! DEFINITION. Held requests go on (R260). -/

namespace Sys2Proof.Machine

/-- A held request is served (R260): a stream's row, a coherence message, an eviction, a transfer of the Bobbin, a page of a scan
or an NVMe command at once; the packets of a port and of a link as their arbiters grant them. What HUB does in a command of its own
(a walk, a buffer, a record, an entry, a batch, a job, a save) goes on with that command, which no longer waits (log entry 15). -/
def State.serveHeld (s : State) (e : HeldReq) : State :=
  match e with
  | .row c e => s.serveRow c e
  | .line k src line => reqArrives k src line false s
  | .evict c line => evictDirtyArrives c line s
  | .bobbin c => s.bobbinGo c
  | .page ch => s.pageGo ch
  | .nvme _ => s.nvGo
  | .store n => s.flushStore (s.nsOwner n) n
  | .port _ => s.pumpFabric
  | .walk _ => s
  | .buf _ => s
  | .entry _ => s
  | .record _ => s
  | .batch _ _ => s
  | .job _ => s
  | .save _ => s

/-- REGULATOR_RELEASE (R260): the first held request whose bucket has risen above its level is served. -/
def execRegulatorRelease (p : Fin 32) (r : Fin 6) (s : State) : Host.Outcome State Fault Refusal :=
  .next (
    let g : Regul := tget (s.ptn p).regs r {}
    let s1 := match g.waiting.find? fun w => !g.holds r w.1 with
      | none => s
      | some w => (s.unheld p r w.2.2).serveHeld w.2.2
    if r.val = 5 then s1.drainLinks else s1)

end Sys2Proof.Machine
end

