-- ==== Sys2Proof/Machine/Dispatch.lean ====
section
/-! DEFINITION. Every command meets its meaning. -/

namespace Sys2Proof.Machine

def exec (i : Instr) (s : State) : Host.Outcome State Fault Refusal :=
  match i with
  | .powerOnReset e => Sys2Proof.Machine.execPowerOnReset e s
  | .pllLockRetry locks => Sys2Proof.Machine.execPllLockRetry locks s
  | .clockFailure clks lockLost => Sys2Proof.Machine.execClockFailure clks lockLost s
  | .pllLockReturn => Sys2Proof.Machine.execPllLockReturn s
  | .xclkLoss => Sys2Proof.Machine.execXclkLoss s
  | .trialTimeout e => Sys2Proof.Machine.execTrialTimeout e s
  | .domainRestart e => Sys2Proof.Machine.execDomainRestart e s
  | .input54vFail high => Sys2Proof.Machine.execInput54vFail high s
  | .input54vReturn => Sys2Proof.Machine.execInput54vReturn s
  | .standbyFail => Sys2Proof.Machine.execStandbyFail s
  | .holdupReady => Sys2Proof.Machine.execHoldupReady s
  | .holdupFault => Sys2Proof.Machine.execHoldupFault s
  | .powerCapStep avg => Sys2Proof.Machine.execPowerCapStep avg s
  | .temperatureLimit sensor limit => Sys2Proof.Machine.execTemperatureLimit sensor limit s
  | .temperatureRelease sensor limit => Sys2Proof.Machine.execTemperatureRelease sensor limit s
  | .railOutOfRange rail high => Sys2Proof.Machine.execRailOutOfRange rail high s
  | .lowFlow => Sys2Proof.Machine.execLowFlow s
  | .healthPollMiss u => Sys2Proof.Machine.execHealthPollMiss u s
  | .mgtWatchdogExpiry => Sys2Proof.Machine.execMgtWatchdogExpiry s
  | .sensorSample vals => Sys2Proof.Machine.execSensorSample vals s
  | .energyEstimate acts => Sys2Proof.Machine.execEnergyEstimate acts s
  | .energyReconcile meas => Sys2Proof.Machine.execEnergyReconcile meas s
  | .fabricPacket p => Sys2Proof.Machine.execFabricPacket p s
  | .creditReturn port lane dir vc => Sys2Proof.Machine.execCreditReturn port lane dir vc s
  | .flitCrcFail port lane dir again retrain => Sys2Proof.Machine.execFlitCrcFail port lane dir again retrain s
  | .creditSnapGo w => Sys2Proof.Machine.execCreditSnapGo w s
  | .lnkCreditSnapGo l w => Sys2Proof.Machine.execLnkCreditSnapGo l w s
  | .stage => Sys2Proof.Machine.execStage s
  | .stageComplete h => Sys2Proof.Machine.execStageComplete h s
  | .commit => Sys2Proof.Machine.execCommit s
  | .structReset => Sys2Proof.Machine.execStructReset s
  | .discard => Sys2Proof.Machine.execDiscard s
  | .drainWindowExpiry => Sys2Proof.Machine.execDrainWindowExpiry s
  | .configStoreWrite ok => Sys2Proof.Machine.execConfigStoreWrite ok s
  | .registerWrite a => Sys2Proof.Machine.execRegisterWrite a s
  | .lockerrClear => Sys2Proof.Machine.execLockerrClear s
  | .alu c t => Sys2Proof.Machine.execAlu c t s
  | .lui c t => Sys2Proof.Machine.execLui c t s
  | .ld c t => Sys2Proof.Machine.execLd c t s
  | .st c t => Sys2Proof.Machine.execSt c t s
  | .amo c t => Sys2Proof.Machine.execAmo c t s
  | .loadDataReturn c t hits => Sys2Proof.Machine.execLoadDataReturn c t hits s
  | .br c t => Sys2Proof.Machine.execBr c t s
  | .jal c t => Sys2Proof.Machine.execJal c t s
  | .jalr c t => Sys2Proof.Machine.execJalr c t s
  | .exitTask c t => Sys2Proof.Machine.execExitTask c t s
  | .yieldTurn c t => Sys2Proof.Machine.execYieldTurn c t s
  | .trap c t => Sys2Proof.Machine.execTrap c t s
  | .spr c t => Sys2Proof.Machine.execSpr c t s
  | .issue c t => Sys2Proof.Machine.execIssue c t s
  | .signal c t => Sys2Proof.Machine.execSignal c t s
  | .waitObj c t => Sys2Proof.Machine.execWaitObj c t s
  | .setc c t => Sys2Proof.Machine.execSetc c t s
  | .sett c t => Sys2Proof.Machine.execSett c t s
  | .sread c t => Sys2Proof.Machine.execSread c t s
  | .taskPost c t => Sys2Proof.Machine.execTaskPost c t s
  | .fence c t => Sys2Proof.Machine.execFence c t s
  | .fenceEngines c t => Sys2Proof.Machine.execFenceEngines c t s
  | .waitTimeout c t => Sys2Proof.Machine.execWaitTimeout c t s
  | .syncUpdate bank => Sys2Proof.Machine.execSyncUpdate bank s
  | .wakeDelivery c t => Sys2Proof.Machine.execWakeDelivery c t s
  | .syncCsrWrite obj off wide v => Sys2Proof.Machine.execSyncCsrWrite obj off wide v s
  | .hubSyncSignalWrite v => Sys2Proof.Machine.execHubSyncSignalWrite v s
  | .taskDispatch lc => Sys2Proof.Machine.execTaskDispatch lc s
  | .noticeRingConsWrite ring v => Sys2Proof.Machine.execNoticeRingConsWrite ring v s
  | .wmHitClear w => Sys2Proof.Machine.execWmHitClear w s
  | .wmCfgWrite w v => Sys2Proof.Machine.execWmCfgWrite w v s
  | .xreqEnable p v => Sys2Proof.Machine.execXreqEnable p v s
  | .shootRange p => Sys2Proof.Machine.execShootRange p s
  | .shootAll p => Sys2Proof.Machine.execShootAll p s
  | .shootdownAck p agent => Sys2Proof.Machine.execShootdownAck p agent s
  | .resume p => Sys2Proof.Machine.execResume p s
  | .resumePage p => Sys2Proof.Machine.execResumePage p s
  | .abortAgent p => Sys2Proof.Machine.execAbortAgent p s
  | .movePage p => Sys2Proof.Machine.execMovePage p s
  | .moveCopyDone p => Sys2Proof.Machine.execMoveCopyDone p s
  | .resumeWindowExpiry agent => Sys2Proof.Machine.execResumeWindowExpiry agent s
  | .faultQueueConsWrite p v => Sys2Proof.Machine.execFaultQueueConsWrite p v s
  | .rdS c line => Sys2Proof.Machine.execRdS c line s
  | .rdX c line => Sys2Proof.Machine.execRdX c line s
  | .upgr c line => Sys2Proof.Machine.execUpgr c line s
  | .evictDirty c line => Sys2Proof.Machine.execEvictDirty c line s
  | .evictClean c line => Sys2Proof.Machine.execEvictClean c line s
  | .rdU agent line => Sys2Proof.Machine.execRdU agent line s
  | .wrU agent line mask data => Sys2Proof.Machine.execWrU agent line mask data s
  | .snpInv c line => Sys2Proof.Machine.execSnpInv c line s
  | .snpShare c line => Sys2Proof.Machine.execSnpShare c line s
  | .snpOwn c line => Sys2Proof.Machine.execSnpOwn c line s
  | .snoopAck c line => Sys2Proof.Machine.execSnoopAck c line s
  | .snoopAckData c line => Sys2Proof.Machine.execSnoopAckData c line s
  | .gone c line => Sys2Proof.Machine.execGone c line s
  | .dataS c line => Sys2Proof.Machine.execDataS c line s
  | .dataE c line => Sys2Proof.Machine.execDataE c line s
  | .dataX c line => Sys2Proof.Machine.execDataX c line s
  | .grant c line => Sys2Proof.Machine.execGrant c line s
  | .evictAck c line => Sys2Proof.Machine.execEvictAck c line s
  | .comp c line => Sys2Proof.Machine.execComp c line s
  | .doneU agent line => Sys2Proof.Machine.execDoneU agent line s
  | .mma c hits => Sys2Proof.Machine.execMma c hits s
  | .accLoad c => Sys2Proof.Machine.execAccLoad c s
  | .accStore c hits => Sys2Proof.Machine.execAccStore c hits s
  | .accClear c => Sys2Proof.Machine.execAccClear c s
  | .remainderPass c => Sys2Proof.Machine.execRemainderPass c s
  | .matrixComplete c => Sys2Proof.Machine.execMatrixComplete c s
  | .compareAndCount c hits => Sys2Proof.Machine.execCompareAndCount c hits s
  | .vAdd c => Sys2Proof.Machine.execVAdd c s
  | .vSub c => Sys2Proof.Machine.execVSub c s
  | .vMul c => Sys2Proof.Machine.execVMul c s
  | .vFma c => Sys2Proof.Machine.execVFma c s
  | .vMin c => Sys2Proof.Machine.execVMin c s
  | .vMax c => Sys2Proof.Machine.execVMax c s
  | .vAbs c => Sys2Proof.Machine.execVAbs c s
  | .vNeg c => Sys2Proof.Machine.execVNeg c s
  | .vClt c => Sys2Proof.Machine.execVClt c s
  | .vCeq c => Sys2Proof.Machine.execVCeq c s
  | .vCopy c => Sys2Proof.Machine.execVCopy c s
  | .vFill c => Sys2Proof.Machine.execVFill c s
  | .rsum c => Sys2Proof.Machine.execRsum c s
  | .rmax c => Sys2Proof.Machine.execRmax c s
  | .stats c => Sys2Proof.Machine.execStats c s
  | .lnorm c => Sys2Proof.Machine.execLnorm c s
  | .rnorm c => Sys2Proof.Machine.execRnorm c s
  | .smaxSum c => Sys2Proof.Machine.execSmaxSum c s
  | .smaxNorm c => Sys2Proof.Machine.execSmaxNorm c s
  | .vectorComplete c hits => Sys2Proof.Machine.execVectorComplete c hits s
  | .sfuOp c hits => Sys2Proof.Machine.execSfuOp c hits s
  | .sfuComplete c => Sys2Proof.Machine.execSfuComplete c s
  | .sfuSlotReload c => Sys2Proof.Machine.execSfuSlotReload c s
  | .streamLoad c e => Sys2Proof.Machine.execStreamLoad c e s
  | .streamStore c e => Sys2Proof.Machine.execStreamStore c e s
  | .streamGather c e => Sys2Proof.Machine.execStreamGather c e s
  | .mcLead c e => Sys2Proof.Machine.execMcLead c e s
  | .mcJoin c e => Sys2Proof.Machine.execMcJoin c e s
  | .streamRowLanded c e hits => Sys2Proof.Machine.execStreamRowLanded c e hits s
  | .fetchToken g c => Sys2Proof.Machine.execFetchToken g c s
  | .bobbin c => Sys2Proof.Machine.execBobbin c s
  | .bobbinComplete c => Sys2Proof.Machine.execBobbinComplete c s
  | .inPlaceResume c eng => Sys2Proof.Machine.execInPlaceResume c eng s
  | .timeSlice => Sys2Proof.Machine.execTimeSlice s
  | .fullSaveComplete c => Sys2Proof.Machine.execFullSaveComplete c s
  | .fullRestore c => Sys2Proof.Machine.execFullRestore c s
  | .regulatorRelease p r => Sys2Proof.Machine.execRegulatorRelease p r s
  | .lcPinWrite p n v => Sys2Proof.Machine.execLcPinWrite p n v s
  | .acctSnapshotGo p => Sys2Proof.Machine.execAcctSnapshotGo p s
  | .dbSqTailWrite p r v => Sys2Proof.Machine.execDbSqTailWrite p r v s
  | .dbCqHeadWrite p r v => Sys2Proof.Machine.execDbCqHeadWrite p r v s
  | .hello p v => Sys2Proof.Machine.execHello p v s
  | .entryFetch p r => Sys2Proof.Machine.execEntryFetch p r s
  | .cqIrqTimer p r => Sys2Proof.Machine.execCqIrqTimer p r s
  | .runTask job => Sys2Proof.Machine.execRunTask job s
  | .searchJob job => Sys2Proof.Machine.execSearchJob job s
  | .insertJob job => Sys2Proof.Machine.execInsertJob job s
  | .deleteJob job => Sys2Proof.Machine.execDeleteJob job s
  | .createIx job => Sys2Proof.Machine.execCreateIx job s
  | .openIx job => Sys2Proof.Machine.execOpenIx job s
  | .mergeIx job => Sys2Proof.Machine.execMergeIx job s
  | .mergePublish job bad => Sys2Proof.Machine.execMergePublish job bad s
  | .dropIx job => Sys2Proof.Machine.execDropIx job s
  | .statIx job => Sys2Proof.Machine.execStatIx job s
  | .ingestBind job => Sys2Proof.Machine.execIngestBind job s
  | .unbind job => Sys2Proof.Machine.execUnbind job s
  | .weftFence job => Sys2Proof.Machine.execWeftFence job s
  | .checkpoint job last => Sys2Proof.Machine.execCheckpoint job last s
  | .checkpointPagesWritten job => Sys2Proof.Machine.execCheckpointPagesWritten job s
  | .restore job last => Sys2Proof.Machine.execRestore job last s
  | .queryAccounts job => Sys2Proof.Machine.execQueryAccounts job s
  | .loadImage job => Sys2Proof.Machine.execLoadImage job s
  | .imageUnload job => Sys2Proof.Machine.execImageUnload job s
  | .loadDrainEnd h => Sys2Proof.Machine.execLoadDrainEnd h s
  | .loadCopyDone h => Sys2Proof.Machine.execLoadCopyDone h s
  | .csrRead r => Sys2Proof.Machine.execCsrRead r s
  | .csrWrite r => Sys2Proof.Machine.execCsrWrite r s
  | .warpStage r => Sys2Proof.Machine.execWarpStage r s
  | .warpCommit r => Sys2Proof.Machine.execWarpCommit r s
  | .warpStructReset r => Sys2Proof.Machine.execWarpStructReset r s
  | .warpDiscard r => Sys2Proof.Machine.execWarpDiscard r s
  | .cancelJob job => Sys2Proof.Machine.execCancelJob job s
  | .scanEnable p v => Sys2Proof.Machine.execScanEnable p v s
  | .scan p => Sys2Proof.Machine.execScan p s
  | .fetchRecords p => Sys2Proof.Machine.execFetchRecords p s
  | .scanInsert p => Sys2Proof.Machine.execScanInsert p s
  | .scanDelete p => Sys2Proof.Machine.execScanDelete p s
  | .batchPlace lc => Sys2Proof.Machine.execBatchPlace lc s
  | .extentDescriptor ch => Sys2Proof.Machine.execExtentDescriptor ch s
  | .entryPageRead ch ue => Sys2Proof.Machine.execEntryPageRead ch ue s
  | .engineReport ch => Sys2Proof.Machine.execEngineReport ch s
  | .nvmeWrite q cmd => Sys2Proof.Machine.execNvmeWrite q cmd s
  | .nvmeRead q cmd => Sys2Proof.Machine.execNvmeRead q cmd s
  | .nvmeFlush q cmd => Sys2Proof.Machine.execNvmeFlush q cmd s
  | .writeZeroes q cmd => Sys2Proof.Machine.execWriteZeroes q cmd s
  | .datasetManagement q cmd => Sys2Proof.Machine.execDatasetManagement q cmd s
  | .orderedWrite q cmd => Sys2Proof.Machine.execOrderedWrite q cmd s
  | .orderedRead q cmd => Sys2Proof.Machine.execOrderedRead q cmd s
  | .createIoSq cmd => Sys2Proof.Machine.execCreateIoSq cmd s
  | .createIoCq cmd => Sys2Proof.Machine.execCreateIoCq cmd s
  | .deleteIoSq cmd => Sys2Proof.Machine.execDeleteIoSq cmd s
  | .deleteIoCq cmd => Sys2Proof.Machine.execDeleteIoCq cmd s
  | .getLogPage cmd => Sys2Proof.Machine.execGetLogPage cmd s
  | .identify cmd => Sys2Proof.Machine.execIdentify cmd s
  | .nvmeAbort cmd => Sys2Proof.Machine.execNvmeAbort cmd s
  | .setFeatures cmd => Sys2Proof.Machine.execSetFeatures cmd s
  | .getFeatures cmd => Sys2Proof.Machine.execGetFeatures cmd s
  | .asyncEventRequest cmd => Sys2Proof.Machine.execAsyncEventRequest cmd s
  | .firmwareImageDownload cmd => Sys2Proof.Machine.execFirmwareImageDownload cmd s
  | .firmwareCommit cmd => Sys2Proof.Machine.execFirmwareCommit cmd s
  | .formatNvm cmd => Sys2Proof.Machine.execFormatNvm cmd s
  | .controllerEnable cc => Sys2Proof.Machine.execControllerEnable cc s
  | .shutdown cc => Sys2Proof.Machine.execShutdown cc s
  | .powerStateTransitionDone => Sys2Proof.Machine.execPowerStateTransitionDone s
  | .flrPf0 => Sys2Proof.Machine.execFlrPf0 s
  | .flrPf1 => Sys2Proof.Machine.execFlrPf1 s
  | .hotReset => Sys2Proof.Machine.execHotReset s
  | .wordlineGatherExpiry ch => Sys2Proof.Machine.execWordlineGatherExpiry ch s
  | .nandProgramComplete ch ok => Sys2Proof.Machine.execNandProgramComplete ch ok s
  | .eraseComplete block ok => Sys2Proof.Machine.execEraseComplete block ok s
  | .nandPageRead unit res => Sys2Proof.Machine.execNandPageRead unit res s
  | .fold die bad => Sys2Proof.Machine.execFold die bad s
  | .garbageCollection die bad => Sys2Proof.Machine.execGarbageCollection die bad s
  | .refresh block bad => Sys2Proof.Machine.execRefresh block bad s
  | .journalFlush die => Sys2Proof.Machine.execJournalFlush die s
  | .poolSnapshotGo => Sys2Proof.Machine.execPoolSnapshotGo s
  | .linkTraining l ok => Sys2Proof.Machine.execLinkTraining l ok s
  | .linkTrainingRetry l ok => Sys2Proof.Machine.execLinkTrainingRetry l ok s
  | .identityExchange l id => Sys2Proof.Machine.execIdentityExchange l id s
  | .linkReplay l fec fail => Sys2Proof.Machine.execLinkReplay l fec fail s
  | .laneLockLoss l => Sys2Proof.Machine.execLaneLockLoss l s
  | .linkDownRetrain l ok => Sys2Proof.Machine.execLinkDownRetrain l ok s
  | .reachabilityMessage m => Sys2Proof.Machine.execReachabilityMessage m s
  | .remoteRequest r => Sys2Proof.Machine.execRemoteRequest r s
  | .remoteRefusal agent => Sys2Proof.Machine.execRemoteRefusal agent s
  | .jobAbortMessage l key => Sys2Proof.Machine.execJobAbortMessage l key s
  | .collEnable p v => Sys2Proof.Machine.execCollEnable p v s
  | .allreduce p others => Sys2Proof.Machine.execAllreduce p others s
  | .broadcast p others => Sys2Proof.Machine.execBroadcast p others s
  | .barrier p others => Sys2Proof.Machine.execBarrier p others s
  | .prepared mod key id => Sys2Proof.Machine.execPrepared mod key id s
  | .checkpointCommit key id => Sys2Proof.Machine.execCheckpointCommit key id s
  | .checkpointAbort key id status => Sys2Proof.Machine.execCheckpointAbort key id status s
  | .mgmtStatus r => Sys2Proof.Machine.execMgmtStatus r s
  | .sensorRead r => Sys2Proof.Machine.execSensorRead r s
  | .logRead r => Sys2Proof.Machine.execLogRead r s
  | .fwDownload r => Sys2Proof.Machine.execFwDownload r s
  | .fwCommit r => Sys2Proof.Machine.execFwCommit r s
  | .overrideUntested r => Sys2Proof.Machine.execOverrideUntested r s
  | .raiseSecver r => Sys2Proof.Machine.execRaiseSecver r s
  | .cryptoErase r => Sys2Proof.Machine.execCryptoErase r s
  | .mgmtReset r => Sys2Proof.Machine.execMgmtReset r s
  | .debugReopen r => Sys2Proof.Machine.execDebugReopen r s
  | .norOpComplete bank ok => Sys2Proof.Machine.execNorOpComplete bank ok s
  | .norDailyScan finds => Sys2Proof.Machine.execNorDailyScan finds s
  | .logEntryProgram => Sys2Proof.Machine.execLogEntryProgram s
  | .logArchivePage ok => Sys2Proof.Machine.execLogArchivePage ok s
  | .fieldRingEnable p v => Sys2Proof.Machine.execFieldRingEnable p v s
  | .slotWrite p => Sys2Proof.Machine.execSlotWrite p s
  | .doWrite p => Sys2Proof.Machine.execDoWrite p s
  | .wdog p => Sys2Proof.Machine.execWdog p s
  | .fieldWatchdogExpiry p => Sys2Proof.Machine.execFieldWatchdogExpiry p s
  | .fieldSupplyLoss => Sys2Proof.Machine.execFieldSupplyLoss s
  | .fieldSupplyRestore => Sys2Proof.Machine.execFieldSupplyRestore s
  | .doOverload n => Sys2Proof.Machine.execDoOverload n s
  | .doFaultClear mask => Sys2Proof.Machine.execDoFaultClear mask s
  | .doClear r => Sys2Proof.Machine.execDoClear r s
  | .diChange n level => Sys2Proof.Machine.execDiChange n level s
  | .inhChannelChange n chB released => Sys2Proof.Machine.execInhChannelChange n chB released s
  | .inhDisagreeExpiry n => Sys2Proof.Machine.execInhDisagreeExpiry n s
  | .inhAgreeExpiry n => Sys2Proof.Machine.execInhAgreeExpiry n s
  | .inhAck r => Sys2Proof.Machine.execInhAck r s
  | .fieldInhAck n => Sys2Proof.Machine.execFieldInhAck n s
  | .buttonRelease holdMs => Sys2Proof.Machine.execButtonRelease holdMs s
  | .buttonStuck => Sys2Proof.Machine.execButtonStuck s
  | .buttonUnstick => Sys2Proof.Machine.execButtonUnstick s
  | .fieldFrameRx port f fcsOk => Sys2Proof.Machine.execFieldFrameRx port f fcsOk s
  | .cyclicRequest port => Sys2Proof.Machine.execCyclicRequest port s
  | .cyclicReplyTransmit port late => Sys2Proof.Machine.execCyclicReplyTransmit port late s
  | .qbvListActivate port => Sys2Proof.Machine.execQbvListActivate port s
  | .ptpMessage m => Sys2Proof.Machine.execPtpMessage m s
  | .ptpHoldover => Sys2Proof.Machine.execPtpHoldover s
  | .ppsInEdge => Sys2Proof.Machine.execPpsInEdge s
  | .timeApplyNow => Sys2Proof.Machine.execTimeApplyNow s
  | .timeApplyAtSecond => Sys2Proof.Machine.execTimeApplyAtSecond s
  | .secondBoundaryApply => Sys2Proof.Machine.execSecondBoundaryApply s
  | .timeNowLowRead iface => Sys2Proof.Machine.execTimeNowLowRead iface s
  | .fieldStatus r => Sys2Proof.Machine.execFieldStatus r s
  | .portCfg r => Sys2Proof.Machine.execPortCfg r s
  | .qbvSet r => Sys2Proof.Machine.execQbvSet r s
  | .timeSetapply r => Sys2Proof.Machine.execTimeSetapply r s
  | .timeCfg r => Sys2Proof.Machine.execTimeCfg r s
  | .chainStatus r => Sys2Proof.Machine.execChainStatus r s
  | .enumFrame down f => Sys2Proof.Machine.execEnumFrame down f s
  | .chainCmd down f => Sys2Proof.Machine.execChainCmd down f s
  | .chainPortUp down => Sys2Proof.Machine.execChainPortUp down s
  | .chainPortDown down => Sys2Proof.Machine.execChainPortDown down s
  | .wonFlagExpiry => Sys2Proof.Machine.execWonFlagExpiry s
  | .buttonPress => Sys2Proof.Machine.execButtonPress s
  | .xclkReturn => Sys2Proof.Machine.execXclkReturn s
  | .pcieLinkTraining res => Sys2Proof.Machine.execPcieLinkTraining res s
  | .fieldPortLink port up => Sys2Proof.Machine.execFieldPortLink port up s
  | .chainFrameForward down f => Sys2Proof.Machine.execChainFrameForward down f s
  | .lastCommittedQuery mod key => Sys2Proof.Machine.execLastCommittedQuery mod key s
  | .randomSourceHealthFailure pass => Sys2Proof.Machine.execRandomSourceHealthFailure pass s

end Sys2Proof.Machine
end

