-- ==== Sys2Proof/Machine/Tick.lean ====
section
/-! DEFINITION. What 5 ns without a command do (log entry 1): the time base, the cores' cycle counts, the regulator
buckets and the interlock timers advance, send queues drain (R375), and a snapshot in progress is complete (R46, R264, R306). -/

namespace Sys2Proof.Machine

/-- Adds nanoseconds to TIME_NOW; nanoseconds roll over into the next second (R446). -/
def TimeSt.add (t : TimeSt) (n : Nat) : TimeSt :=
  { t with sec := (t.sec + (t.ns + n) / 1000000000) % 2 ^ 34, ns := (t.ns + n) % 1000000000 }

/-- 5 ns of the dies' copies: an applied time reaches them, and a second boundary realigns them (R38, R447). -/
def TimeSt.copiesFrame (old t : TimeSt) : TimeSt :=
  { t with copies := if old.sec = t.sec then (t.copies.filter fun c => decide (5 < c.2.2)).map fun c => (c.1, c.2.1, c.2.2 - 5) else [] }

/-- One 5 ns frame of the time base (R446, R450): the rate correction, in parts per thousand million, adds whole
nanoseconds as they accrue; on XCLK the count advances by 40 ns on every eighth frame. -/
def TimeSt.frame (t : TimeSt) (onXclk : Bool) : TimeSt :=
  let t1 := { t with mono := t.mono + 5 }
  if onXclk then
    if t.xsub = 7 then ({ t1 with xsub := 0 }).add 40 else { t1 with xsub := t.xsub + 1 }
  else
    let f := t.fracPpb + 5 * t.rate
    let whole := f / 1000000000
    ({ t1 with fracPpb := f - whole * 1000000000 }).add (5 + whole).toNat

/-- A regulator's bucket over one frame of 8 FCLK cycles: the level rises by RATE units of 1/1600 byte a cycle, to BURST
at most (R260). -/
def Regul.frame (r : Regul) : Regul :=
  { r with level := min (r.level + 8 * (r.rate : Int)) ((r.burst * 1024 * 1600 : Nat) : Int) }

/-- The interlock timers over one frame (R436): DISAGREE runs while the channels differ, AGREE while they agree and
DISAGREE is not 0. -/
def InhSt.frame (i : InhSt) : InhSt :=
  if i.aRel != i.bRel then { i with disagree := i.disagree + 5, agree := 0 }
  else if i.disagree ≠ 0 then { i with agree := i.agree + 5 }
  else i

/-- Engine time of 5 ns, in ACLK cycles, of a core's engines: counters 1-5 of the accounts (R262). -/
def CoreSt.engineTime (k : CoreSt) : List (Nat × Nat) :=
  let on := fun (e : Nat) => b2n (thas k.running e) * 6
  [(1, on 0), (2, on 1), (3, on 2), (4, (k.streams.filter fun e => e.2.busy).length * 6), (5, on 5 + b2n (!k.bobs.isEmpty) * 6)]

/-- Charges the engine time of a core to the partition that owns it (R262). -/
def State.chargeTime (s : State) (c : Nat) (k : CoreSt) : State :=
  if k.running.isEmpty && k.streams.isEmpty && k.bobs.isEmpty then s
  else match s.coreOwner c with
    | some p => s.modPtn p fun q => { q with acct := k.engineTime.foldl (fun a e => tset a e.1 ((tget a e.1 0 + e.2) % 2 ^ 64)) q.acct }
    | none => s

/-- A derived clock runs: the root PLL is locked and the clock monitor finds it in range (R33, R35). -/
def ClkSt.runs (k : ClkSt) (bit : Nat) : Bool := k.lock && bitN k.ok.toNat bit

/-- Nothing is commanded for 5 ns. No derived clock toggles before lock (R33): ACLK counts the cores' cycles and engine
time, FCLK fills the buckets and ends the snapshots. -/
def State.tick (s : State) : State :=
  let s1 := s.setTime (s.time.copiesFrame (s.time.frame s.clk.onXclk))
  let s2 := if s.clk.runs 5 then s1.setCores (s1.cores.map fun e => (e.1, { e.2 with aclk := e.2.aclk + 6 })) else s1
  let s3 := if s.clk.runs 4 then
      s2.setPtns (s2.ptns.map fun e => (e.1, { e.2 with regs := e.2.regs.map fun r => (r.1, r.2.frame), acctBusy := false })) else s2
  let s4 := if s.clk.runs 5 then s3.each s3.cores fun s e => s.chargeTime e.1 e.2 else s3
  let s5 := if s.clk.runs 4 then (s4.modFab fun f => { f with snapBusy := false }).modFlash fun f => { f with poolBusy := false } else s4
  let s6 := s5.drainLinks.modLinks fun l => { l with links := l.links.map fun k => (k.1, { k.2 with snapBusy := false }) }
  let s7 := s6.modPwr fun p => { p with lossRunning := false }
  s7.modField fun f => { f with inh := f.inh.map fun i => (i.1, i.2.frame) }

end Sys2Proof.Machine
end

