-- ==== Sys2Proof/Safety.lean ====
section
/-! DEFINITION. The terms the statements use: that a command completes, what else stays the same, when a thread starts an
instruction, and the spec's tables in integer arithmetic. -/

namespace Sys2Proof.Machine

/-- A step of the machine answers a next state. -/
def State.goesOn (s : State) : Prop := ∃ t, step s = .next t

/-- The invariant of the plain data: memory in canonical form. -/
def State.memOk (s : State) : Prop := s.mem.wf = true

/-- The command answers a next state, and that state is as `P` says. -/
def Completes (c : Instr) (s : State) (P : State → Prop) : Prop := ∃ u, exec c s = .next u ∧ P u

/-- Every byte of memory reads in `u` as in `s`. -/
def SameBytes (s u : State) : Prop := ∀ a, u.mb a = s.mb a

/-- The issue stage picks thread `t` of core `c` for the instruction `i` its PC names (R72): the core is owned, it is the
thread's turn among the READY threads, and the instruction cache holds the word. -/
def Picks (s : State) (c t : Nat) (i : TInstr) : Prop :=
  (s.coreOwner c).isSome = true ∧ (s.core c).turn = some t ∧ ∃ w, s.fetchWord c t = some w ∧ tdecode w = i

/-- The picked word is neither illegal nor non-zero in an unused part (R75, R76): the instruction starts. -/
def Starts (s : State) (c t : Nat) (i : TInstr) : Prop := Picks s c t i ∧ opIllegal i = false ∧ opRsv i = false

/-- Outside thread `t` of core `c` nothing changes but whose turn it is: every other part of the state, every other core,
everything else of the core, and every other thread of it but what it waits for after a YIELD. -/
def OnlyThread (s u : State) (c t : Nat) : Prop :=
  SameBytes s u ∧ u = s.setCores u.cores ∧ (∀ d, d ≠ c → u.core d = s.core d) ∧
    u.core c = { s.core c with threads := (u.core c).threads, rrLc := (u.core c).rrLc, rrBe := (u.core c).rrBe } ∧
    ∀ v, v ≠ t → u.thr c v = { s.thr c v with yieldMask := (u.thr c v).yieldMask }

/-- The registers of a thread after `v` was written to `rd`: g0 stays 0 (R71). -/
def RegWritten (th th' : Thread) (rd : Nat) (v : BitVec 64) : Prop :=
  ∀ r, th'.g r = if r = rd ∧ r ≠ 0 then v else th.g r

/-- An instruction of thread `t` completes: `v` in `rd`, PC at `pc`, READY, nothing else of the thread and of the machine. -/
def Advances (s u : State) (c t : Nat) (rd : Nat) (v : BitVec 64) (pc : BitVec 48) : Prop :=
  RegWritten (s.thr c t) (u.thr c t) rd v ∧
    u.thr c t = { s.thr c t with st := tReady, pc := pc, pend := .none, regs := (u.thr c t).regs,
                                 yieldMask := (u.thr c t).yieldMask } ∧
    OnlyThread s u c t

/-- The functions of R77 on integers: the number that g[RD] receives. -/
def aluTable (fn : Nat) (a b : BitVec 64) : Int :=
  let sh := b.toNat % 64
  match fn with
  | 0 => a.toNat + b.toNat
  | 1 => (a.toNat : Int) - b.toNat
  | 2 => a.toNat &&& b.toNat
  | 3 => a.toNat ||| b.toNat
  | 4 => a.toNat ^^^ b.toNat
  | 5 => a.toNat * 2 ^ sh
  | 6 => a.toNat / 2 ^ sh
  | 7 => a.toInt / 2 ^ sh
  | 8 => a.toNat * b.toNat
  | 9 => a.toNat * b.toNat / 2 ^ 64
  | 10 => min a.toInt b.toInt
  | 11 => max a.toInt b.toInt
  | 12 => min a.toNat b.toNat
  | 13 => max a.toNat b.toNat
  | 14 => if a.toInt < b.toInt then 1 else 0
  | _ => if a.toNat < b.toNat then 1 else 0

/-- The conditions of BR on integers (R76). -/
def branchHolds (fn : Nat) (a b : BitVec 64) : Prop :=
  match fn with
  | 0 => a = b
  | 1 => a ≠ b
  | 2 => a.toInt < b.toInt
  | 3 => b.toInt ≤ a.toInt
  | 4 => a.toNat < b.toNat
  | 5 => b.toNat ≤ a.toNat
  | _ => True

/-- sext(IMM) as an integer (R75). -/
def immInt (i : TInstr) : Int := (BitVec.ofNat 32 i.imm).toInt

/-- PC + 8 × sext(IMM), a 48-bit address (R71, R76). -/
def jumpTo (pc : BitVec 48) (i : TInstr) : BitVec 48 := BitVec.ofInt 48 (pc.toNat + 8 * immInt i)

/-- Byte `k` of a line, the first at the lowest address (R2). -/
def lineByte (d : BitVec 512) (k : Nat) : Nat := d.toNat / 2 ^ (8 * k) % 256

/-- What LD delivers from the `n` bytes at offset `o` of a line (R76): FN[2] = 1 extends the sign, 0 fills with zeros. -/
def loadValue (i : TInstr) (d : BitVec 512) (o : Nat) : BitVec 64 :=
  let n := 2 ^ (i.fn % 4)
  let v := d.toNat / 2 ^ (8 * o) % 2 ^ (8 * n)
  if i.fn / 4 % 2 = 1 then BitVec.ofInt 64 (BitVec.ofNat (8 * n) v).toInt else BitVec.ofNat 64 v

/-- Core `c`'s L1 copy of the line of `pa` in `u` is the one `x` of before with `n` bytes at `pa` replaced by those of `v`,
little-endian, and it is M (R126); every other L1 line is as in `s`. -/
def LineStored (s u : State) (c pa n : Nat) (v : Nat) (x : L1Line) : Prop :=
  (∃ y, u.l1Line c (pa / 64) = some y ∧ y.st = .M ∧
    ∀ k, k < 64 → lineByte y.data k =
      if pa % 64 ≤ k ∧ k < pa % 64 + n then v / 2 ^ (8 * (k - pa % 64)) % 256 else lineByte x.data k) ∧
  (∀ l, l ≠ pa / 64 → u.l1Line c l = s.l1Line c l) ∧ SameBytes s u ∧ u = s.setCores u.cores ∧
    ∀ d, d ≠ c → u.core d = s.core d

/-- Thread `t` of core `c` completes an instruction with `v` in `rd` and PC + 8; the other threads of the core are as in `s`. -/
def ThreadDone (s u : State) (c t rd : Nat) (v : BitVec 64) : Prop :=
  RegWritten (s.thr c t) (u.thr c t) rd v ∧
    u.thr c t = { s.thr c t with st := tReady, pc := (s.thr c t).pc + 8, pend := .none, regs := (u.thr c t).regs } ∧
    ∀ w, w ≠ t → u.thr c w = s.thr c w

/-- The directory may serve the line at once (R128, R133): it serves nothing for it, fewer than 512 lines are in service,
and the line's set has room. -/
def DirIdle (s : State) (line : Nat) : Prop :=
  (s.dirEnt line).busy = none ∧ s.busyLines < 512 ∧ s.setFull line = false

/-- No regulator of the partition holds HUB's read of the record at the front of a ring (R260). -/
def State.recOpen (s : State) (p kind size : Nat) : Prop :=
  s.heldAt p (s.recAt p kind size) false = none

/-- The messages in flight once `m` has been taken out. -/
def without (m : CohMsg) (ms : List CohMsg) : List CohMsg := dropFirst (fun x => x == m) ms

/-- The engine runs nothing that a latency-critical descriptor could pre-empt (R250). -/
def CoreSt.idleEngine (k : CoreSt) (eng : Nat) : Prop :=
  tfind k.running eng = none ∧ k.rmd = [] ∧ ∀ e, (tget k.streams e {}).busy = false

/-- Engine `eng` of core `c` is free and takes entry `e` next (R249). -/
def EngineTakes (s : State) (c eng : Nat) (e : QEntry) : Prop :=
  (s.core c).engHead eng = some e ∧ tfind (s.core c).running eng = none

/-- The engine has taken the entry out of its queue and runs it as `P` says. Nothing changes outside the core, no byte of memory
either. -/
def Ran (s u : State) (c eng : Nat) (e : QEntry) (P : EngOp → Prop) : Prop :=
  (∃ o, tfind (u.core c).running eng = some o ∧ o.q = e ∧ P o) ∧
    tget (u.core c).queues eng [] = dropFirst (fun x => x == e) (tget (s.core c).queues eng []) ∧
    SameBytes s u ∧ u = s.setCores u.cores ∧ ∀ d, d ≠ c → u.core d = s.core d

/-- The engine runs an operation that has come to a pre-emption point, and whose inputs from there on are clean (R213, R250). -/
def Halfway (s : State) (c eng : Nat) (o : EngOp) : Prop :=
  tfind (s.core c).running eng = some o ∧ o.done = false ∧ o.pos < laneLen eng o.q.desc ∧ o.pos % lanePoint eng o.q.desc = 0 ∧
    (s.core c).runsBad (laneInputs eng o.q.desc o.pos (laneLen eng o.q.desc - o.pos)) = none

/-- Completing the operation of the entry ends neither its task nor its job. -/
def GoesOn (s : State) (c : Nat) (q : QEntry) : Prop :=
  (∀ x, (s.thr c q.thr).pend ≠ .exit x) ∧ ∀ j, s.job q.job = some j → j.rootEnded = none

/-- Outside a result run of a core nothing of its scratchpad and accumulator store changes (R194). -/
def OutsideRun (s u : State) (c : Nat) (acc : Bool) (row bytes n : Nat) : Prop :=
  (∀ o, acc = true ∨ o < 512 * row ∨ 512 * row + bytes ≤ o → (u.core c).spadBytes o 1 = (s.core c).spadBytes o 1) ∧
    ∀ r q, q < 128 → acc = false ∨ 128 * r + q < 128 * row ∨ 128 * row + n ≤ 128 * r + q → (u.core c).accGet r q = (s.core c).accGet r q

/-- The job of identifier `id` ends with `status` and `result` in the state that `P` describes (R245, R354). -/
def EndsJob (u : State) (id status result : Nat) (P : State → Prop) : Prop := ∃ v : State, u = v.endJob id status result ∧ P v

/-- The host's mailbox holds the command `code`, and MGT takes it (R393): MGT runs outside recovery, the domain is up, and no
LONG command is in progress. -/
def MailboxReady (s : State) (code : Nat) : Prop :=
  s.mgt.mbGo = true ∧ s.mgt.mbCode.toNat = code ∧ s.mgt.running = true ∧ s.mgt.recovery = false ∧ s.pwr.domainUp = true ∧
    s.mgt.long = none

/-- The mailbox shows an answer: not BUSY, DONE, STATUS and the reply; module vector 129 is raised (R393). -/
def Answered (u : State) (status : Nat) (bytes : List Byte) : Prop :=
  u.mgt.mbGo = false ∧ u.mgt.mbBusy = false ∧ u.mgt.mbDone = true ∧ u.mgt.mbStatus = status ∧ u.mgt.mbReply = bytes ∧
    u.mgt.mbReplyLen = bytes.length ∧ u.host.raised.getLsbD 129 = true

/-- The mailbox shows the reply `bytes` with OK, and nothing else of the machine changes. -/
def OnlyReply (s u : State) (bytes : List Byte) : Prop :=
  u = (s.setMgt { s.mgt with mbGo := false, mbBusy := false, mbDone := true, mbStatus := stOk, mbReplyLen := bytes.length
                             mbReply := bytes, mbLogSeq := 0 }).raise 129

/-- The mailbox shows `status`, and of the rest only `field` and the log change. -/
def AnsweredField (s u : State) (status : Nat) (field : FieldSt) : Prop :=
  Answered u status [] ∧ u.field = field ∧ u.time = s.time ∧ u.pwr = s.pwr ∧ u.flash = s.flash ∧ u.sh = s.sh ∧ SameBytes s u

/-- An NVMe command of queue `q` completes with `status` and `dw0` in the state that `P` describes (R341, R370). -/
def EndsCmd (u : State) (q : Nat) (c : NvmeCmd) (status dw0 : Nat) (P : State → Prop) : Prop :=
  ∃ v : State, u = v.nvComplete q c status dw0 ∧ P v

/-- The controller is ready and takes the I/O command `c` with opcode `op` from queue `q`. -/
def IoReady (s : State) (q : BitVec 16) (c : NvmeCmd) (op : BitVec 8) : Prop :=
  s.nvme.rdy = true ∧ q ≠ 0 ∧ (s.sq q.toNat).isSome = true ∧ c.opcode = op

/-- As IoReady, for a command that nothing refuses or delays: no other command is outstanding and the flash side is awake. -/
def IoAlone (s : State) (q : BitVec 16) (c : NvmeCmd) (op : BitVec 8) : Prop :=
  IoReady s q c op ∧ s.nvIoBad c = none ∧ s.nvme.outs = [] ∧ s.nvme.ps ≠ 2

/-- The controller is ready and takes the admin command `c` with opcode `op`. -/
def AdminReady (s : State) (c : NvmeCmd) (op : BitVec 8) : Prop :=
  s.nvme.rdy = true ∧ (s.sq 0).isSome = true ∧ c.opcode = op ∧ c.psdt = 0

/-- TIME_NOW is a time of R446: fewer than 10^9 nanoseconds, and seconds of 34 bits. -/
def State.timeOk (s : State) : Prop := s.time.ns < 1000000000 ∧ s.time.sec < 2 ^ 34

/-- The invariant of the machine: memory in canonical form, and TIME_NOW a time of R446. -/
def State.Inv (s : State) : Prop := s.memOk ∧ s.timeOk

end Sys2Proof.Machine
end

