-- ==== Sys2Proof/Certificates/Slice0/Obligations.lean ====
section
/-! DEFINITION. The statements for the provers. -/

open Sys2Proof Sys2Proof.Machine

/-- R77: the sixteen ALU functions, on integers, with the frame. -/
def Obligations.AluWritesFunction : Prop :=
  ∀ (c : Fin 64) (t : Fin 32) (s : State) (i : TInstr), Picks s c t i → i.op = 0x01 →
    (i.fn < 16 → Completes (.alu c t) s fun u =>
      Advances s u c t i.rd
        (BitVec.ofInt 64 (aluTable i.fn ((s.thr c t).g i.ra) ((s.thr c t).g i.rb + BitVec.ofInt 64 (immInt i))))
        ((s.thr c t).pc + 8)) ∧
    (16 ≤ i.fn → Completes (.alu c t) s fun u => u = (s.modCore c fun k => k.picked t).programFault c t 0x01)

/-- R76, R78, R137: the rows that write PC, a constant or no register. -/
def Obligations.JumpsConstantsAndFences : Prop :=
  ∀ (c : Fin 64) (t : Fin 32) (s : State) (i : TInstr), Starts s c t i →
    let th := s.thr c t
    (i.op = 0x02 → Completes (.lui c t) s fun u =>
      Advances s u c t i.rd ((BitVec.ofNat 64 i.imm <<< 32) ||| (th.g i.ra &&& 0xFFFFFFFF#64)) (th.pc + 8)) ∧
    (i.op = 0x18 → ∀ p, s.coreOwner c = some p → Completes (.spr c t) s fun u =>
      Advances s u c t i.rd
        (([BitVec.ofNat 64 t, BitVec.ofNat 64 c, BitVec.ofNat 64 p, BitVec.ofNat 64 th.task, BitVec.ofNat 64 th.job,
          BitVec.ofNat 64 (s.ptn p).syncCount, BitVec.ofNat 64 (s.core c).aclk,
          s.dieTime (c / 4), if th.lc then 1 else 0] : List (BitVec 64)).getD i.imm 0) (th.pc + 8)) ∧
    (i.op = 0x11 → Completes (.jal c t) s fun u =>
      Advances s u c t i.rd (BitVec.zeroExtend 64 (th.pc + 8)) (jumpTo th.pc i)) ∧
    (i.op = 0x12 → ∀ target, target = BitVec.ofInt 48 ((th.g i.ra).toNat + immInt i) → target.toNat % 8 = 0 →
      Completes (.jalr c t) s fun u => Advances s u c t i.rd (BitVec.zeroExtend 64 (th.pc + 8)) target) ∧
    (i.op = 0x10 → Completes (.br c t) s fun u =>
      (branchHolds i.fn (th.g i.ra) (th.g i.rb) → Advances s u c t 0 0 (jumpTo th.pc i)) ∧
      (¬ branchHolds i.fn (th.g i.ra) (th.g i.rb) → Advances s u c t 0 0 (th.pc + 8))) ∧
    (i.op = 0x14 → Completes (.yieldTurn c t) s fun u =>
      Advances s u c t 0 0 (th.pc + 8) ∧
      ∀ v : Fin 32, v ≠ t → (s.thr c v).st = tReady → (s.thr c v).lc = th.lc → (u.core c).yieldHolds t = true) ∧
    (i.op = 0x3C → i.fn ≠ 4 → th.remoteW = 0 → th.remoteBad = false → th.remoteGone = false →
      Completes (.fence c t) s fun u => Advances s u c t 0 0 (th.pc + 8)) ∧
    (i.op = 0x3C → i.fn = 4 → th.outst = 0 →
      Completes (.fenceEngines c t) s fun u => Advances s u c t 0 0 (th.pc + 8))

/-- R76, R126: accesses that hit, and data that returns. Pages map to pages, so an address and what it translates to agree in their low bits. -/
def Obligations.LoadsAndStores : Prop :=
  (∀ (c : Fin 64) (t : Fin 32) (s : State) (i : TInstr) (pa tier : Nat) (s1 : State) (x : L1Line), Starts s c t i →
    let th := s.thr c t
    let va := (BitVec.ofInt 48 ((th.g i.ra).toNat + immInt i)).toNat
    (s.modCore c fun k => k.picked t).translate (s.partOf c) c va { accNeed i with lc := th.lc } false = (.ok pa tier, s1) →
    paCoherent pa = true → tier ≠ 2 → tier ≠ 3 → s1.l1Line c (pa / 64) = some x → x.st ≠ .WB → va % 8 = pa % 8 →
    let th1 := s1.thr c t
    (i.op = 0x08 → va % 2 ^ (i.fn % 4) = 0 → Completes (.ld c t) s fun u =>
      ThreadDone s1 u c t i.rd (loadValue i x.data (pa % 64)) ∧ OnlyThread s1 u c t) ∧
    (i.op = 0x09 → va % 2 ^ (i.fn % 4) = 0 → x.st ≠ .S → Completes (.st c t) s fun u =>
      ThreadDone s1 u c t 0 0 ∧ LineStored s1 u c pa (2 ^ (i.fn % 4)) (th1.g i.rb).toNat x) ∧
    (i.op = 0x0A → va % 8 = 0 → x.st ≠ .S → Completes (.amo c t) s fun u =>
      let old := BitVec.ofNat 64 (x.data.toNat / 2 ^ (8 * (pa % 64)))
      ThreadDone s1 u c t i.rd old ∧
      (i.fn = 0 → LineStored s1 u c pa 8 (th1.g i.rb).toNat x) ∧
      (i.fn = 1 → LineStored s1 u c pa 8 (old + th1.g i.rb).toNat x) ∧
      (i.fn = 2 → old = th1.g i.rd → LineStored s1 u c pa 8 (th1.g i.rb).toNat x) ∧
      (i.fn = 2 → old ≠ th1.g i.rd → OnlyThread s1 u c t))) ∧
  (∀ (c : Fin 64) (t : Fin 32) (hits : List MemHit) (s0 : State),
    let s := s0.memHits hits
    (∀ line i x, (s.thr c t).pend = .access line → (s.thr c t).insn = i → i.op = 0x08 →
      s.l1Line c line = some x → x.st ≠ .WB →
      let o := (s.thr c t).va i % 64
      Completes (.loadDataReturn c t hits) s0 fun u =>
        ThreadDone s u c t i.rd (loadValue i x.data o) ∧ OnlyThread s u c t) ∧
    (∀ line d, (s.thr c t).pend = .fetch line (some (d, false)) → Completes (.loadDataReturn c t hits) s0 fun u =>
      (u.thr c t) = { s.thr c t with st := tReady, pend := .none } ∧
      tfind (u.core c).icache ((s.thr c t).pc.toNat / 64) = some d ∧
      (∀ v, v ≠ t.val → u.thr c v = s.thr c v) ∧ (∀ e, e ≠ c.val → u.core e = s.core e) ∧
      u = s.setCores u.cores ∧ SameBytes s u))

/-- R81, R249: handing over a descriptor. -/
def Obligations.IssueQueuesDescriptor : Prop :=
  ∀ (c : Fin 64) (t : Fin 32) (s : State) (i : TInstr), Starts s c t i → i.op = 0x20 → i.fn < 7 →
    let th := s.thr c t
    let g := (th.g i.rd).toNat
    let eng := i.fn
    let q := tget (s.core c).queues eng []
    let cap := if eng = 3 ∨ eng = 4 ∨ eng = 5 then 8 else 16
    let room := if th.lc then q.length < cap else q.length + 2 < cap
    g / 2 ^ 13 % 8 = 0 → g / 2 ^ 32 = 0 → (g / 2 ^ 16 ≠ 0 → g % 2 ^ 13 < (s.ptn (s.partOf c)).syncCount) →
    th.remoteW = 0 → th.remoteBad = false → th.remoteGone = false →
    Completes (.issue c t) s fun u =>
      RegWritten th (u.thr c t) 0 0 ∧
      (∀ v, v ≠ t.val → u.thr c v = { s.thr c v with yieldMask := (u.thr c v).yieldMask }) ∧
      (th.lc = false ∨ (s.core c).idleEngine eng → SameBytes s u ∧ (∀ d, d ≠ c.val → u.core d = s.core d) ∧ u = s.setCores u.cores) ∧
      (room → (u.thr c t).st = tReady ∧ (u.thr c t).pc = th.pc + 8 ∧ (u.thr c t).outst = th.outst + 1 ∧
        tget (u.core c).queues eng [] = q ++
          [{ desc := th.g i.rb ++ th.g i.ra, thr := t, job := th.job, lc := th.lc, obj := g % 2 ^ 13, add := g / 2 ^ 16 }]) ∧
      (¬ room → (u.thr c t).st = tEngine ∧ (u.thr c t).pc = th.pc ∧ tget (u.core c).queues eng [] = q)

/-- R127, R130-R132: requests at the directory. -/
def Obligations.DirectoryServesRequests : Prop :=
  ∀ (c : Fin 64) (line : BitVec 44) (agent : BitVec 16) (s : State), DirIdle s line.toNat →
    let l := line.toNat
    let st := (s.dirEnt l).st
    let bit := fun (k : Nat) => BitVec.ofNat 64 (2 ^ k)
    let req := fun (k : DirReqKind) (src : Nat) => ({ kind := k, src := src } : DirReq)
    let free := fun (k : DirReqKind) (src : Nat) => s.heldAt (s.reqPtn (req k src)) (l * 64) (s.reqLc (req k src) l) = none
    let charged := fun (k : DirReqKind) (src : Nat) =>
      if s.inFly (.req k src l) then
        s.memPoint (s.reqPtn (req k src)) (l * 64) (s.reqLc (req k src) l) k.bytes (.line k src l) id
      else s
    let served := fun (k : DirReqKind) (src : Nat) (out : List CohMsg) (u : State) =>
      let v := charged k src
      u.dir.msgs = without (.req k src l) s.dir.msgs ++ out ∧ SameBytes s u ∧ (s.poisoned l = false → u = v.setDir u.dir) ∧
        u = ((v.setDir u.dir).setXl u.xl).setMgt u.mgt
    let granted := fun (next : DirSt) (u : State) => ∃ b, (u.dirEnt l).busy = some b ∧ b.granted = true ∧ b.next = next
    let snooping := fun (w : BitVec 64) (u : State) => ∃ b, (u.dirEnt l).busy = some b ∧ b.granted = false ∧ b.waiting = w
    (s.inFly (.req .rdS c l) = true → free .rdS c →
      (st = .inv → Completes (.rdS c line) s fun u =>
        served .rdS c [.dataE c l (s.memLine l) (s.poisoned l)] u ∧ granted (.excl c) u) ∧
      (∀ m, st = .shared m → m ≠ 0 → Completes (.rdS c line) s fun u =>
        served .rdS c [.dataS c l (s.memLine l) (s.poisoned l)] u ∧ granted (.shared (m ||| bit c)) u) ∧
      (∀ o, st = .excl o → Completes (.rdS c line) s fun u =>
        served .rdS c [.snpShare o l] u ∧ snooping (bit o) u)) ∧
    (s.inFly (.req .rdX c l) = true → free .rdX c →
      (st = .inv ∨ st = .shared (bit c) → Completes (.rdX c line) s fun u =>
        served .rdX c [.dataX c l (s.memLine l) (s.poisoned l)] u ∧ granted (.excl c) u) ∧
      (∀ m, st = .shared m → m &&& ~~~ bit c ≠ 0 → Completes (.rdX c line) s fun u =>
        served .rdX c ((bitsOf 64 (m &&& ~~~ bit c).toNat).map fun k => .snpInv k l) u ∧ snooping (m &&& ~~~ bit c) u) ∧
      (∀ o, st = .excl o → Completes (.rdX c line) s fun u =>
        served .rdX c [.snpOwn o l] u ∧ snooping (bit o) u)) ∧
    (s.inFly (.req .upgr c l) = true → free .upgr c → st = .shared (bit c) → Completes (.upgr c line) s fun u =>
      served .upgr c [.grant c l] u ∧ granted (.excl c) u) ∧
    (s.inFly (.req .rdU agent.toNat l) = true ∨ threadAgent agent.toNat = false → free .rdU agent.toNat → (∀ o, st ≠ .excl o) →
      Completes (.rdU agent line) s fun u =>
        served .rdU agent.toNat [.doneU agent.toNat l (s.memLine l) (s.poisoned l)] u ∧ (u.dirEnt l).busy = none ∧
        (s.poisoned l = true → s.newer l = none → paRange (l * 64) = .stack →
          let h := l * 64 / 2 ^ 36 % 8 / 4
          tget u.xl.eccStackUe h 0 = min (tget s.xl.eccStackUe h 0 + 1) 0xFFFF)) ∧
    (∀ mask data, s.inFly (.req (.wrU mask data) agent.toNat l) = true ∨ threadAgent agent.toNat = false →
      free (.wrU mask data) agent.toNat → st = .inv →
      Completes (.wrU agent line mask data) s fun u =>
        u.dir.msgs = without (.req (.wrU mask data) agent.toNat l) s.dir.msgs ++ [.doneU agent.toNat l data false] ∧
        (∀ k, k < 64 → (u.mb (l * 64 + k)).toNat =
          if mask.toNat / 2 ^ k % 2 = 1 then lineByte data k else (s.mb (l * 64 + k)).toNat) ∧
        (∀ a, a / 64 ≠ l → u.mb a = s.mb a) ∧ u.cores = s.cores ∧ (u.dirEnt l).busy = none)

/-- R129-R132: snoops at a core. -/
def Obligations.CoreAnswersSnoop : Prop :=
  ∀ (c : Fin 64) (line : BitVec 44) (s : State),
    let l := line.toNat
    let answers := fun (m : CohMsg) (keep : Bool) (u : State) =>
      u = (s.setCores u.cores).setDir { s.dir with msgs := u.dir.msgs } ∧ SameBytes s u ∧
      (∀ d, d ≠ c.val → u.core d = s.core d) ∧ (∀ k, k ≠ l → u.l1Line c k = s.l1Line c k) ∧
      match s.l1Line c l with
      | none => u.dir.msgs = without m s.dir.msgs ++ [.ack c l] ∧ u.l1Line c l = none
      | some x =>
        if x.st = .WB then u.dir.msgs = without m s.dir.msgs ++ [.gone c l] ∧ u.l1Line c l = some x
        else u.dir.msgs = without m s.dir.msgs ++ [if x.st = .M then .ackData c l x.data else .ack c l] ∧
          u.l1Line c l = if keep then some { x with st := .S, dirty := false } else none
    (s.inFly (.snpInv c l) = true → Completes (.snpInv c line) s (answers (.snpInv c l) false)) ∧
    (s.inFly (.snpOwn c l) = true → Completes (.snpOwn c line) s (answers (.snpOwn c l) false)) ∧
    (s.inFly (.snpShare c l) = true → Completes (.snpShare c line) s (answers (.snpShare c l) true))

/-- R126-R132: what reaches the directory from a core. -/
def Obligations.DirectoryTakesAnswers : Prop :=
  ∀ (c : Fin 64) (line : BitVec 44) (s : State),
    let l := line.toNat
    let bit := BitVec.ofNat 64 (2 ^ c.val)
    let lineIs := fun (d : BitVec 512) (u : State) =>
      (∀ k, k < 64 → (u.mb (l * 64 + k)).toNat = lineByte d k) ∧ ∀ a, a / 64 ≠ l → u.mb a = s.mb a
    (∀ b, s.inFly (.ack c l) = true → (s.dirEnt l).busy = some b → b.waiting &&& bit ≠ 0 →
      (b.waiting &&& ~~~bit ≠ 0 → Completes (.snoopAck c line) s fun u =>
        u.dir.msgs = without (.ack c l) s.dir.msgs ∧ SameBytes s u ∧
        ∃ b', (u.dirEnt l).busy = some b' ∧ b'.waiting = b.waiting &&& ~~~bit) ∧
      (b.waiting &&& ~~~bit = 0 → b.backInv = false → b.req.kind = .rdX → Completes (.snoopAck c line) s fun u =>
        u.dir.msgs = without (.ack c l) s.dir.msgs ++ [.dataX b.req.src l (s.memLine l) (s.poisoned l)] ∧ SameBytes s u)) ∧
    (∀ b d, s.ackDataOf c l = some d → (s.dirEnt l).busy = some b → b.waiting = bit → b.backInv = false →
      b.req.kind = .rdX → Completes (.snoopAckData c line) s fun u =>
        u.dir.msgs = without (.ackData c l d) s.dir.msgs ++ [.dataX b.req.src l d false] ∧ lineIs d u) ∧
    (∀ b, s.inFly (.gone c l) = true → (s.dirEnt l).busy = some b → b.waiting &&& bit ≠ 0 →
      (b.evictSeen &&& bit = 0 → Completes (.gone c line) s fun u =>
        u.dir.msgs = without (.gone c l) s.dir.msgs ∧ SameBytes s u ∧
        ∃ b', (u.dirEnt l).busy = some b' ∧ b'.goneSeen = b.goneSeen ||| bit ∧ b'.waiting = b.waiting) ∧
      (b.evictSeen &&& bit ≠ 0 → b.waiting &&& ~~~bit ≠ 0 → Completes (.gone c line) s fun u =>
        u.dir.msgs = without (.gone c l) s.dir.msgs ∧ SameBytes s u ∧
        ∃ b', (u.dirEnt l).busy = some b' ∧ b'.waiting = b.waiting &&& ~~~bit)) ∧
    (∀ x, s.l1Line c l = some x → s.inFly (.evictAck c l) = false → (s.dirEnt l).busy = none → (s.dirEnt l).st = .excl c →
      (x.st = .M → s.heldAt ((s.coreOwner c).getD 32) (l * 64) (s.core c).holdsLc = none → Completes (.evictDirty c line) s fun u =>
        (.evictAck c l) ∈ u.dir.msgs ∧ lineIs x.data u ∧ (u.dirEnt l).st = .inv ∧
        (∃ y, u.l1Line c l = some y ∧ y.st = .WB) ∧ ∀ d, d ≠ c.val → u.core d = s.core d) ∧
      (x.st = .E → Completes (.evictClean c line) s fun u =>
        (.evictAck c l) ∈ u.dir.msgs ∧ SameBytes s u ∧ (u.dirEnt l).st = .inv ∧
        (∃ y, u.l1Line c l = some y ∧ y.st = .WB) ∧ ∀ d, d ≠ c.val → u.core d = s.core d)) ∧
    (∀ b, s.inFly (.comp c l) = true → (s.dirEnt l).busy = some b → b.granted = true → b.req.src = c.val →
      b.poison = false → (s.dirEnt l).queue = [] → s.dir.srcWait = [] → Completes (.comp c line) s fun u =>
        u.dir.msgs = without (.comp c l) s.dir.msgs ∧ (u.dirEnt l).busy = none ∧ (u.dirEnt l).st = b.next ∧
        SameBytes s u ∧ u = s.setDir u.dir)

/-- R126, R127, R132: what reaches a core or an agent. -/
def Obligations.FillsReachTheirAgent : Prop :=
  ∀ (c : Fin 64) (line : BitVec 44) (s : State),
    let l := line.toNat
    let filled := fun (st : L1State) (m : CohMsg) (d : BitVec 512) (u : State) =>
      u.l1Line c l = some { st := st, data := d } ∧ u.dir.msgs = without m s.dir.msgs ++ [.comp c l] ∧
      tfind (u.core c).l1Req l = none ∧ SameBytes s u ∧ (∀ k, k ≠ l → u.l1Line c k = s.l1Line c k) ∧
      ∀ e, e ≠ c.val → u.core e = s.core e
    ((s.core c).l1.length < 1024 →
      (∀ d, s.fillOf c l .S = some (.dataS c l d false, d, false) →
        Completes (.dataS c line) s (filled .S (.dataS c l d false) d)) ∧
      (∀ d, s.fillOf c l .E = some (.dataE c l d false, d, false) →
        Completes (.dataE c line) s (filled .E (.dataE c l d false) d)) ∧
      (∀ d, s.fillOf c l .M = some (.dataX c l d false, d, false) →
        Completes (.dataX c line) s (filled .M (.dataX c l d false) d))) ∧
    (∀ x, s.inFly (.grant c l) = true → s.l1Line c l = some x → Completes (.grant c line) s fun u =>
      u.l1Line c l = some { x with st := .M } ∧ u.dir.msgs = without (.grant c l) s.dir.msgs ++ [.comp c l] ∧
      SameBytes s u ∧ ∀ k, k ≠ l → u.l1Line c k = s.l1Line c k) ∧
    (s.inFly (.evictAck c l) = true → (s.core c).waitingOn l = [] →
      Completes (.evictAck c line) s fun u =>
        u.l1Line c l = none ∧ u.dir.msgs = without (.evictAck c l) s.dir.msgs ∧ SameBytes s u ∧
        ∀ k, k ≠ l → u.l1Line c k = s.l1Line c k) ∧
    (∀ agent : BitVec 16, ∀ m d p, s.doneOf agent.toNat l = some (m, d, p) → Completes (.doneU agent line) s fun u =>
      u.dir.msgs = without m s.dir.msgs ∧ SameBytes s u ∧
      (threadAgent agent.toNat = false → u = s.setDir u.dir) ∧
      (threadAgent agent.toNat = true → ∀ pa, (s.thr (agent.toNat / 64) (agent.toNat % 64)).pend = .uncached pa none →
        pa / 64 = l → (u.thr (agent.toNat / 64) (agent.toNat % 64)).pend = .uncached pa (some (d, p))))

/-- R76, R84, R86, R91, R93: what reaches the sync store. -/
def Obligations.SyncRequestsArrive : Prop :=
  ∀ (c : Fin 64) (t : Fin 32) (s : State),
    (∀ i, Starts s c t i →
      let th := s.thr c t
      let n := (th.g i.ra + BitVec.ofInt 64 (immInt i)).toNat
      let q := s.ptn (s.partOf c)
      let arrives := fun (op : SyncOp) (st : BitVec 4) (pc : BitVec 48) (u : State) =>
        u.sync = { s.sync with arrivals := s.sync.arrivals ++ [{ input := c, obj := q.syncBase + n, op := op }] } ∧
        u = (s.setCores u.cores).setSync u.sync ∧ SameBytes s u ∧ (u.thr c t).st = st ∧ (u.thr c t).pc = pc ∧
        RegWritten th (u.thr c t) 0 0 ∧ (∀ d, d ≠ c.val → u.core d = s.core d) ∧
        ∀ v, v ≠ t.val → u.thr c v = { s.thr c v with yieldMask := (u.thr c v).yieldMask }
      let low := (th.g i.rb).toNat % 2 ^ 32
      (n < q.syncCount →
        (i.op = 0x30 → th.remoteW = 0 → th.remoteBad = false → th.remoteGone = false →
          Completes (.signal c t) s (arrives (.add (th.g i.rb + BitVec.ofNat 64 i.fn).toNat) tReady (th.pc + 8))) ∧
        (i.op = 0x32 → Completes (.setc c t) s (arrives (.setC low) tReady (th.pc + 8))) ∧
        (i.op = 0x33 → Completes (.sett c t) s
          (arrives (.setT low (if i.fn / 8 % 2 = 1 then some (i.fn % 8) else none)) tReady (th.pc + 8))) ∧
        (i.op = 0x31 → Completes (.waitObj c t) s
          (arrives (if i.fn = 1 ∧ th.g i.rb = 0 then .test (.thread c t) else .wait (.thread c t)) tSync th.pc)) ∧
        (i.op = 0x34 → Completes (.sread c t) s (arrives (.read c t (i.fn == 1)) tExec th.pc))) ∧
      (q.syncCount ≤ n → ∀ k, k ∈ ([(0x30, Instr.signal c t), (0x31, .waitObj c t), (0x32, .setc c t), (0x33, .sett c t),
          (0x34, .sread c t)] : List (Nat × Instr)) → i.op = k.1 →
        Completes k.2 s fun u => u = (s.modCore c fun k => k.picked t).programFault c t 0x04)) ∧
    (s.pwr.domainUp = true → ∀ (obj : BitVec 13) (wide : Bool) (v : BitVec 64),
      let lo := v.toNat % 2 ^ 32
      let hi := v.toNat / 2 ^ 32
      let arrives := fun (o : Nat) (op : SyncOp) (u : State) =>
        u = s.setSync { u.sync with arrivals := s.sync.arrivals ++ [{ input := 79, obj := o, op := op }] } ∧
        u.sync.objs = s.sync.objs ∧ u.sync.wakes = s.sync.wakes
      Completes (.syncCsrWrite obj 0 wide v) s (arrives obj.toNat (if wide then .setCT lo hi else .setC lo)) ∧
      Completes (.syncCsrWrite obj 1 false v) s (arrives obj.toNat (.setT lo none)) ∧
      Completes (.hubSyncSignalWrite v) s (arrives (v.toNat % 2 ^ 13) (.add hi)))

/-- R87-R90: the update of one object. -/
def Obligations.SyncUpdateSumsAndReleases : Prop :=
  ∀ (bank : Fin 32) (s : State) (n : Nat), bankObject bank s.sync.arrivals = some n →
    let us := updateSet n s.sync.arrivals
    let o := s.obj n
    (∀ a, a ∈ us → ∃ k, a.op = .add k) → (∀ w, w ∈ o.fifo → ∃ c t, w = .thread c t) →
    let total := o.count + (us.map fun a => min (addOf a.op) 0xFFFFFFFF).sum
    let sum := min total 0xFFFFFFFF
    let after := fun (k count : Nat) (u : State) =>
      (u.obj n).count = count ∧ (u.obj n).fifo = o.fifo.drop k ∧ (u.obj n).thresh = o.thresh ∧ (u.obj n).mode = o.mode ∧
      (u.obj n).ovf = (o.ovf || decide (0xFFFFFFFF < total)) ∧
      u.sync.wakes = s.sync.wakes ++ (o.fifo.take k).map (fun w => match w with
        | .thread c t => (c, t, 0)
        | _ => (0, 0, 0)) ∧
      u.sync.arrivals = afterUpdate n s.sync.arrivals ∧ ∀ m, m ≠ n → u.obj m = s.obj m
    (o.mode = 0 → Completes (.syncUpdate bank) s (after (if o.thresh ≤ sum then o.fifo.length else 0) sum)) ∧
    (o.mode = 1 → Completes (.syncUpdate bank) s fun u =>
      ∃ k, after k (sum - k * o.thresh) u ∧ k ≤ o.fifo.length ∧ k * o.thresh ≤ sum ∧
        (k = o.fifo.length ∨ sum < (k + 1) * o.thresh)) ∧
    (o.mode = 2 → Completes (.syncUpdate bank) s
      (if o.thresh ≤ sum ∧ o.fifo ≠ [] then after o.fifo.length 0 else after 0 sum))

/-- R91, R92, R96: waits end and tasks begin. -/
def Obligations.WakesAndDispatch : Prop :=
  (∀ (c : Fin 64) (t : Fin 32) (s : State) v n b, s.sync.wakes.find? (fun w => w.1 == c.val && w.2.1 == t.val) = some (c.val, t.val, v) →
    (s.thr c t).pend = .sync n b ∨ (s.thr c t).pend = .sread n →
    Completes (.wakeDelivery c t) s fun u =>
      ThreadDone s u c t (s.inFlight c t).rd (BitVec.ofNat 64 v) ∧ SameBytes s u ∧
      u = (s.setCores u.cores).setSync { s.sync with wakes := dropFirst (fun x => x == (c.val, t.val, v)) s.sync.wakes } ∧
      ∀ d, d ≠ c.val → u.core d = s.core d) ∧
  (∀ (c : Fin 64) (t : Fin 32) (s : State) n, (s.thr c t).pend = .sync n true →
    Completes (.waitTimeout c t) s fun u =>
      u = s.setSync { s.sync with arrivals := s.sync.arrivals ++ [{ input := c, obj := n, op := .cancel (.thread c t) }] }) ∧
  (∀ (s : State) (lc : Bool) (k : Task) (h : Nat) (rest : List Nat) (c : Nat),
    (if lc then s.sh.readyLc else s.sh.readyBe) = h :: rest → s.sh.tasks.find? (fun t => t.handle == h) = some k → k.lc = lc →
    s.taskMayStart k = true → (if lc then s.lcCore k else s.beCore k) = some c →
    Completes (.taskDispatch lc) s fun u =>
      ∃ t, (s.thr c t).held = false ∧ (u.thr c t).st = tReady ∧ (u.thr c t).pc = k.pc ∧ (u.thr c t).lc = lc ∧
        (u.thr c t).task = h ∧ (u.thr c t).job = k.job ∧
        (∀ r, (u.thr c t).g r = if 1 ≤ r ∧ r ≤ 6 then k.args.getD (r - 1) 0 else if r = 7 then BitVec.ofNat 64 h else 0) ∧
        (∀ v, v ≠ t → u.thr c v = s.thr c v) ∧ (∀ d, d ≠ c → u.core d = s.core d) ∧ SameBytes s u ∧
        u = (s.setCores u.cores).setSh u.sh)

/-- R94, R95: posting a task. -/
def Obligations.TaskPostAnswers : Prop :=
  ∀ (c : Fin 64) (t : Fin 32) (s : State) (i : TInstr) (pa tier : Nat) (s1 : State) (bs : List Byte), Starts s c t i →
    i.op = 0x38 →
    let th := s.thr c t
    let p := s.partOf c
    let va := th.va i
    th.remoteW = 0 → th.remoteBad = false → th.remoteGone = false → va % 64 = 0 →
    (s.modCore c fun k => k.picked t).translate p c va { r := true, lc := th.lc } false = (.ok pa tier, s1) →
    (∀ a o, paRange pa ≠ .spad a o) → s1.paRead pa 64 = .ok bs false →
    let s2 := (s1.paReadFx pa 64).chargeMem p pa 64
    let q := s2.ptn p
    let entry := leAt bs 0 8
    let input := leAt bs 8 2
    let core := leAt bs 10 1
    let cls := leAt bs 11 1
    let bad := entry % 8 ≠ 0 ∨ leAt bs 12 4 ≠ 0 ∨ 1 < cls ∨ (input ≠ 0xFFFF ∧ q.syncCount ≤ input) ∨
      (core ≠ 0xFF ∧ q.cores.toNat / 2 ^ core % 2 = 0) ∨ (cls = 1 ∧ q.lcPermit = false) ∨ (cls = 0 ∧ q.bePermit = false)
    let noRoom := 16384 ≤ (s2.sh.tasks.filter fun k => k.st == 0).length ∨ (core ≠ 0xFF ∧ s2.coreRetired core = true)
    let answered := fun (v : BitVec 64) (u : State) =>
      RegWritten (s2.thr c t) (u.thr c t) i.rd v ∧ (u.thr c t).pc = (s2.thr c t).pc + 8 ∧ (u.thr c t).st = tReady
    (bad → Completes (.taskPost c t) s fun u => answered (BitVec.ofNat 64 (2 ^ 63 + 0x09)) u ∧ u.sh = s2.sh ∧ SameBytes s2 u) ∧
    (¬ bad → noRoom → Completes (.taskPost c t) s fun u =>
      answered (BitVec.ofNat 64 (2 ^ 63 + 0x08)) u ∧ u.sh = s2.sh ∧ SameBytes s2 u) ∧
    (¬ bad → ¬ noRoom → Completes (.taskPost c t) s fun u =>
      ∃ h k, answered (BitVec.ofNat 64 h) u ∧ k ∈ u.sh.tasks ∧ k.handle = h ∧ k.pc = BitVec.ofNat 48 entry ∧
        k.core = core ∧ k.ptn = p ∧ k.job = (s2.thr c t).job ∧
        k.args = (List.range 6).map (fun m => BitVec.ofNat 64 (leAt bs (16 + 8 * m) 8)) ∧
        u.sh.tasks.length = s2.sh.tasks.length + 1 ∧ SameBytes s2 u)

/-- R97-R100, R120: rings of the notice engine and fault queues. -/
def Obligations.NoticeRingsAndConsumers : Prop :=
  (∀ (s : State) (r : Nat) (rec : NoticeRec),
    let q := s.nring r
    let slots := 2 ^ max q.size 6
    let a := q.base.toNat + 16 * (q.prod.toNat % slots)
    let out := s.sendNotice r rec
    (q.enable = true → q.held = [] → (q.prod - q.cons).toNat < slots → 0x1000000000000 ≤ a → a + 16 ≤ 0x2000000000000 →
      (∀ k, k < 16 → out.mb (a + k) =
        (bytesLE 2 rec.code ++ bytesLE 2 rec.source ++ [if q.prod.toNat / slots % 2 = 0 then 1#8 else 0#8] ++ zeros 3 ++
          bytesLE 8 rec.data.toNat).getD k 0) ∧
      (∀ b, b < a ∨ a + 16 ≤ b → out.mb b = s.mb b) ∧ (out.nring r).prod = q.prod + 1 ∧ (out.nring r).cons = q.cons ∧
      (out.nring r).lost = q.lost ∧ (out.nring r).held = [] ∧
      out.host.raised = s.host.raised ||| BitVec.ofNat 144 (2 ^ s.noticeVec r)) ∧
    (q.enable = false → (out.nring r).lost = min (q.lost + 1) 0xFFFFFFFF ∧ (out.nring r).prod = q.prod ∧
      (∀ r', r' ≠ r → out.nring r' = s.nring r') ∧ SameBytes s out ∧ out = s.setNotice out.notice)) ∧
  (∀ (s : State) (ring : Fin 33) (v : BitVec 32), s.pwr.domainUp = true →
    let q := s.nring ring
    let slots := 2 ^ max q.size 6
    ((v - q.cons).toNat ≤ (q.prod - q.cons).toNat → (q.prod - v).toNat ≤ slots → q.held = [] → Completes (.noticeRingConsWrite ring v) s fun u =>
      (u.nring ring).cons = v ∧ (u.nring ring).base = q.base ∧ (u.nring ring).size = q.size ∧ u.sync = s.sync ∧ u.time = s.time) ∧
    ((q.prod - q.cons).toNat < (v - q.cons).toNat ∨ slots < (q.prod - v).toNat →
      Completes (.noticeRingConsWrite ring v) s fun u => u = s)) ∧
  (∀ (s : State) (p : Fin 32) (v : BitVec 32), s.pwr.domainUp = true →
    let q := (s.ptn p).fault
    let slots := 2 ^ max q.size 4
    ((v - q.cons).toNat ≤ (q.prod - q.cons).toNat → (q.prod - v).toNat ≤ slots → (∀ h, h ∈ s.xl.halted → h.ptn = p.val → h.written = true) →
      Completes (.faultQueueConsWrite p v) s fun u =>
        (u.ptn p).fault = { q with cons := v } ∧ u = s.setPtns u.ptns ∧ SameBytes s u ∧ ∀ p', p' ≠ p.val → u.ptn p' = s.ptn p') ∧
    ((q.prod - q.cons).toNat < (v - q.cons).toNat ∨ slots < (q.prod - v).toNat →
      Completes (.faultQueueConsWrite p v) s fun u => u = s))

/-- R101, R102: the registers of a monitor. -/
def Obligations.WatermarkLatches : Prop :=
  ∀ (s : State) (w : Fin 256), s.pwr.domainUp = true →
    let m : WmSt := tget s.notice.wms w {}
    let after := fun (u : State) => (tget u.notice.wms w {} : WmSt)
    (let lv := s.levelOf m.kind m.index
     m.enable = true → 1 ≤ m.kind → m.kind ≤ 4 →
      ((if m.dir then m.mark ≤ lv else lv ≤ m.mark) → Completes (.wmHitClear w) s fun u =>
        after u = { m with hit := false } ∧ u = s.setNotice u.notice ∧ SameBytes s u) ∧
      (¬ (if m.dir then m.mark ≤ lv else lv ≤ m.mark) → Completes (.wmHitClear w) s fun u =>
        (after u).hit = true ∧ (m.kind ≠ 3 → after u = { m with hit := true, peak := lv }) ∧ u.sync = s.sync)) ∧
    (∀ v : BitVec 64,
      let n : WmSt := { m with enable := v.toNat / 2 ^ 63 % 2 == 1, dir := v.toNat / 2 ^ 62 % 2 == 1, kind := v.toNat / 2 ^ 56 % 8,
                               index := v.toNat / 2 ^ 32 % 2 ^ 13, mark := v.toNat % 2 ^ 32 }
      let lv := s.levelOf n.kind n.index
      (m.hit = true ∨ n.enable = false ∨ n.kind = 0 ∨ 5 ≤ n.kind → Completes (.wmCfgWrite w v) s fun u =>
        after u = n ∧ u = s.setNotice u.notice ∧ SameBytes s u) ∧
      (m.hit = false → n.enable = true → 1 ≤ n.kind → n.kind ≤ 4 →
        ((if n.dir then n.mark ≤ lv else lv ≤ n.mark) → Completes (.wmCfgWrite w v) s fun u =>
          after u = n ∧ u = s.setNotice u.notice ∧ SameBytes s u) ∧
        (¬ (if n.dir then n.mark ≤ lv else lv ≤ n.mark) → Completes (.wmCfgWrite w v) s fun u =>
          (after u).hit = true ∧ (n.kind ≠ 3 → after u = { n with hit := true, peak := lv }) ∧ u.sync = s.sync)))

/-- R114: the enable rule shared by the four rings. -/
def Obligations.RingEnableRule : Prop :=
  ∀ (p : Fin 32) (v : BitVec 32) (s : State), s.pwr.domainUp = true →
    ∀ e, e ∈ ([(0, Instr.xreqEnable p v), (1, .scanEnable p v), (2, .collEnable p v), (3, .fieldRingEnable p v)] : List (Nat × Instr)) →
    let r := (s.ptn p).recRing e.1
    let obj := v.toNat / 2 ^ 16 % 2 ^ 13
    let on := v.toNat / 2 ^ 31 % 2 = 1
    let frame := fun (u : State) => u = (s.setPtns u.ptns).setSync u.sync ∧ SameBytes s u ∧ (∀ p', p' ≠ p.val → u.ptn p' = s.ptn p') ∧
      ∀ k, k < 4 → k ≠ e.1 → (u.ptn p).recRing k = (s.ptn p).recRing k
    (r.enable = false → on → Completes e.2 s fun u => frame u ∧
      (u.ptn p).recRing e.1 = { r with enable := true, obj := BitVec.ofNat 13 obj, size := v.toNat % 16, next := 0, avail := 0 } ∧
      (if obj ≠ 0x1FFF ∧ obj < (s.ptn p).syncCount then
        u.sync = { s.sync with arrivals := s.sync.arrivals ++
          [{ input := 79, obj := (s.ptn p).syncBase + obj, op := .setAll 0 1 1 },
           { input := 79, obj := (s.ptn p).syncBase + obj, op := .wait (.ring p e.1) }] }
       else u.sync = s.sync)) ∧
    (r.enable = true → ¬ on → Completes e.2 s fun u => frame u ∧
      ((u.ptn p).recRing e.1).enable = false ∧ ((u.ptn p).recRing e.1).base = r.base ∧ ((u.ptn p).recRing e.1).taken = r.taken ∧
      ∀ n, .ring p e.1 ∉ (u.obj n).fifo)

/-- R115, R116: shootdowns. -/
def Obligations.ShootdownsWaitAndRemove : Prop :=
  ∀ (p : Fin 32) (s : State),
    (∀ slot bs, s.ringFront p 0 32 = some (slot, bs) → s.recOpen p 0 32 → (s.ptn p).xreqBad (xreqOf bs) = false →
      let r := xreqOf bs
      let taken := fun (lo hi : Nat) (u : State) =>
        (∃ q, q ∈ u.xl.shoots ∧ q.ptn = p.val ∧ q.vaLo = lo ∧ q.vaHi = hi ∧ q.waiting = s.shootAgents p ∧
          q.doneObj = r.doneObj ∧ q.doneAdd = r.doneAdd) ∧
        (u.ptn p).xreq.avail = (s.ptn p).xreq.avail - 1 ∧ (u.ptn p).xreq.taken = ((s.ptn p).xreq.taken + 1) % 2 ^ 16 ∧
        (u.ptn p).xreq.errors = (s.ptn p).xreq.errors ∧ SameBytes s u ∧ u.xl.leaves = s.xl.leaves ∧ u.cores = s.cores
      (r.op = 1 → Completes (.shootRange p) s (taken r.va (r.va + 65536 * r.count))) ∧
      (r.op = 2 → Completes (.shootAll p) s (taken 0 (2 ^ 48)))) ∧
    (∀ q, s.xl.shoots = [q] → q.ptn = p.val → q.waiting = [64] → q.why ≠ 1 →
      Completes (.shootdownAck p 64) s fun u =>
        u.xl.shoots = [] ∧ SameBytes s u ∧
        (∀ l, l ∈ u.xl.leaves → l.ptn = p.val → l.agent = 64 →
          l.va + (if l.big then 2 ^ 29 else 2 ^ 16) ≤ q.vaLo ∨ q.vaHi ≤ l.va) ∧
        (∀ l, l ∈ s.xl.leaves → (l.ptn ≠ p.val ∨ l.agent ≠ 64) → l ∈ u.xl.leaves) ∧
        u.sync = (if q.doneObj ≠ 0xFFFF ∧ q.doneObj < (s.ptn p).syncCount ∧ q.doneAdd ≠ 0 then
          { s.sync with arrivals := s.sync.arrivals ++
            [{ input := if q.why = 2 then 72 else 79, obj := (s.ptn p).syncBase + q.doneObj, op := .add q.doneAdd }] } else s.sync))

/-- R121, R122: halted agents. -/
def Obligations.HaltedAgentsResumeOrAbort : Prop :=
  (∀ (p : Fin 32) (s : State) slot bs, s.ringFront p 0 32 = some (slot, bs) → s.recOpen p 0 32 → (s.ptn p).xreqBad (xreqOf bs) = false →
    let r := xreqOf bs
    let holds := fun (h : HaltRec) => h.ptn == p.val && h.token.toNat == r.va && r.va != 0 && !h.note
    (r.op = 3 → ∀ h, s.xl.halted.find? holds = some h → h.agent < 0x1000 → h.agent % 64 < 32 → Completes (.resume p) s fun u =>
      u.xl.halted = dropFirst (fun x => x == h) s.xl.halted ∧
      (u.thr (h.agent / 64) (h.agent % 64)) = { s.thr (h.agent / 64) (h.agent % 64) with st := tReady, pend := .none } ∧ SameBytes s u) ∧
    (r.op = 3 → s.xl.halted.find? holds = none → Completes (.resume p) s fun u =>
      (u.ptn p).xStale = min ((s.ptn p).xStale + 1) 0xFFFF ∧ u.xl.halted = s.xl.halted ∧ u.cores = s.cores ∧ SameBytes s u) ∧
    (r.op = 5 → s.xl.halted.find? holds = none → Completes (.abortAgent p) s fun u =>
      (u.ptn p).xStale = min ((s.ptn p).xStale + 1) 0xFFFF ∧ u.xl.halted = s.xl.halted ∧ u.cores = s.cores ∧ SameBytes s u) ∧
    (r.op = 5 → ∀ h, s.xl.halted.find? holds = some h → 0x1000 ≤ h.agent → h.agent ≠ collAgent → h.batch ≠ 0 →
      Completes (.abortAgent p) s fun u =>
        u.xl.halted = dropFirst (fun x => x == h) s.xl.halted ∧ u.cores = s.cores ∧ SameBytes s u) ∧
    (r.op = 4 → (∀ h, h ∈ s.xl.halted → h.ptn = p.val → h.va.toNat / 65536 ≠ r.va / 65536) → Completes (.resumePage p) s fun u =>
      u.xl.halted = s.xl.halted ∧ u.cores = s.cores ∧ SameBytes s u) ∧
    (r.op = 4 → ∀ h, s.xl.halted = [h] → h.note = false → h.ptn = p.val → h.va.toNat / 65536 = r.va / 65536 → h.kind = 1 ∨ h.kind = 2 →
      h.agent < 0x1000 → h.agent % 64 < 32 → Completes (.resumePage p) s fun u =>
        u.xl.halted = [] ∧ (u.thr (h.agent / 64) (h.agent % 64)).st = tReady ∧ SameBytes s u)) ∧
  (∀ (agent : BitVec 16) (s : State) h, s.haltOf agent.toNat = some h →
    let s1 := if h.written then s else s.modPtn h.ptn fun q => { q with xLate := min (q.xLate + 1) 0xFFFF }
    (0x1000 ≤ h.agent → h.agent ≠ collAgent → h.batch ≠ 0 → Completes (.resumeWindowExpiry agent) s fun u =>
      u.xl.halted = dropFirst (fun x => x == h) s.xl.halted ∧ u.ptns = s1.ptns ∧ u.cores = s.cores ∧ SameBytes s u) ∧
    (h.agent < 0x1000 → h.agent % 64 < 32 → Completes (.resumeWindowExpiry agent) s fun u =>
      u = (s1.modXl fun x => { x with halted := dropFirst (fun y => y == h) x.halted }).programFaultAs (h.agent / 64) (h.agent % 64)
        (if h.kind = 1 ∨ h.kind = 2 then 0x08 else 0x09) (kindStatus h.kind)))

/-- R124: the steps of a tier move. -/
def Obligations.MoveSteps : Prop :=
  ∀ (p : Fin 32) (s : State),
    (∀ slot bs l at_ raw s1, s.ringFront p 0 32 = some (slot, bs) → s.recOpen p 0 32 → (s.ptn p).xreqBad (xreqOf bs) = false → (xreqOf bs).op = 6 →
      (xreqOf bs).va / 2 ^ 42 % 64 ≠ 63 → ((s.recPoint p 0 32 id).ringTaken p 0).walk p 64 (xreqOf bs).va { free := true } = (.leaf l at_ raw, s1) → l.big = false →
      (∀ k lv, s1.leafCheck l (xreqOf bs).va {} true ≠ .fault k lv) →
      Completes (.movePage p) s fun u =>
        (∃ m, m ∈ u.xl.moves ∧ m.ptn = p.val ∧ m.va = (xreqOf bs).va ∧ m.src = l.pa ∧ m.dst = (xreqOf bs).dest ∧ m.leafPa = at_) ∧
        ∃ q, q ∈ u.xl.shoots ∧ q.ptn = p.val ∧ q.why = 1 ∧ q.vaLo = (xreqOf bs).va ∧ q.vaHi = (xreqOf bs).va + 65536 ∧
          64 ∈ q.waiting) ∧
    (∀ m q bs, s.xl.moves.find? (fun m => m.ptn == p.val) = some m → s.xl.shoots.find? (fun q => q.ptn == p.val && q.why == 1) = some q →
      q.waiting = [] → s.paRead m.src 65536 = .ok bs false → s.paUsable m.dst 65536 = true → s.xl.shoots = [q] →
      Completes (.moveCopyDone p) s fun u =>
        u.xl.moves = dropFirst (fun y => y == m) s.xl.moves ∧
        ∃ q', u.xl.shoots = [q'] ∧ q'.why = 2 ∧ q'.vaLo = q.vaLo ∧ q'.vaHi = q.vaHi ∧ 64 ∈ q'.waiting)

/-- R191, R192, R213: OP 0-13. -/
def Obligations.VectorElementwise : Prop :=
  ∀ (c : Fin 64) (desc : BitVec 128),
    let d := vuDecode desc.toNat
    let n := min d.len 4096
    let a := fun (k : CoreSt) (i : Nat) => (toFp32 d.afmt d.cvt ((k.runPats d.aAcc d.aRow d.afmt 0 d.len).getD i 0)).1
    let b := fun (k : CoreSt) (i : Nat) =>
      if d.bScalar then f32 d.scalar else (toFp32 d.bfmt d.cvt ((k.runPats false d.bRow d.bfmt 0 d.len).getD i 0)).1
    let x := fun (k : CoreSt) (i : Nat) =>
      (toFp32 d.ofmt d.cvt ((k.runPats d.oAcc (if d.oAcc then d.oRow else d.cRow) d.ofmt 0 d.len).getD i 0)).1
    let elem := fun (f : CoreSt → Nat → Machine.Num) (k k' : CoreSt) (lo hi : Nat) =>
      ∀ i, lo ≤ i → i < hi → k'.runPats d.oAcc d.oRow d.ofmt i 1 = [(encodeNum d.ofmt d.cvt (f k i)).1]
    let single := fun (v : Machine.Num) (k' : CoreSt) => k'.runPats d.oAcc d.oRow d.ofmt 0 1 = [(encodeNum d.ofmt d.cvt v).1]
    let sum := fun (k : CoreSt) (lo hi : Nat) (start : BitVec 48) =>
      (accSum 3 [(desc.toNat : Int), (k.width : Int), (lo : Int)] (decodeAcc start.toNat) ((List.range (hi - lo)).map fun i => a k (lo + i))).1
    let most := fun (k : CoreSt) (lo hi : Nat) (start : Machine.Num) => ((List.range (hi - lo)).map fun i => a k (lo + i)).foldl maxNum start
    let table : List (Nat × Instr × (CoreSt → Nat → Machine.Num)) :=
      [(0, .vAdd c, fun k i => (addNum (a k i) (b k i)).1), (1, .vSub c, fun k i => (addNum (a k i) (b k i).neg).1),
       (2, .vMul c, fun k i => (mulNum (a k i) (b k i)).1), (3, .vFma c, fun k i => (addNum (mulNum (a k i) (b k i)).1 (x k i)).1),
       (4, .vMin c, fun k i => minNum (a k i) (b k i)), (5, .vMax c, fun k i => maxNum (a k i) (b k i)),
       (6, .vAbs c, fun k i => (a k i).abs), (7, .vNeg c, fun k i => (a k i).neg),
       (8, .vClt c, fun k i => if (a k i).isNan = false ∧ (b k i).isNan = false ∧ ltNum (a k i) (b k i) = true then one else .zero),
       (9, .vCeq c, fun k i => if (a k i).isNan = false ∧ (b k i).isNan = false ∧ eqNum (a k i) (b k i) = true then one else .zero),
       (10, .vCopy c, fun k i => decodeNum d.afmt ((k.runPats d.aAcc d.aRow d.afmt 0 d.len).getD i 0)),
       (11, .vFill c, fun _ _ => f32 d.scalar)]
    (∀ (s : State) (e : QEntry), EngineTakes s c 1 e → e.desc = desc → d.bad = false →
      let k := s.core c
      k.runsBad (d.inputs ++ if d.op = 3 ∧ d.oAcc then [d.outRun] else []) = none →
      let begun := fun (u : State) => Ran s u c 1 e (fun o => o.pos = n ∧ o.done = decide (d.len ≤ 4096)) ∧
        OutsideRun s u c d.oAcc d.oRow (runBytes d.ofmt d.outLen) d.outLen
      (∀ r, r ∈ table → d.op = r.1 → Completes r.2.1 s fun u => elem r.2.2 k (u.core c) 0 n ∧ begun u) ∧
      (d.op = 12 → Completes (.rsum c) s fun u => begun u ∧ (d.len ≤ 4096 → single (sum k 0 d.len 0) (u.core c)) ∧
        (4096 < d.len → (u.core c).spad = k.spad ∧ (u.core c).acc = k.acc ∧ ∃ o, tfind (u.core c).running 1 = some o ∧
          o.part = BitVec.ofNat 48 (encodeNum fAcc 1 (sum k 0 4096 0)).1)) ∧
      (d.op = 13 → Completes (.rmax c) s fun u => begun u ∧ (d.len ≤ 4096 → single (most k 0 d.len (.inf true)) (u.core c)) ∧
        (4096 < d.len → (u.core c).spad = k.spad ∧ (u.core c).acc = k.acc ∧ ∃ o, tfind (u.core c).running 1 = some o ∧
          o.part = BitVec.ofNat 48 (encodeNum fFp32 1 (most k 0 4096 (.inf true))).1))) ∧
    (∀ (hits : List CoreHit) (s0 : State) (o : EngOp),
      let s := s0.coreHits c hits
      let k := s.core c
      Halfway s c 1 o → o.q.desc = desc → d.bad = false → d.op ≤ 13 → GoesOn s c o.q → o.record = [] → Completes (.vectorComplete c hits) s0 fun u =>
        tfind (u.core c).running 1 = none ∧ SameBytes s u ∧
        (∀ r, r ∈ table → d.op = r.1 → elem r.2.2 k (u.core c) o.pos d.len) ∧
        (d.op = 12 → single (sum k o.pos d.len o.part) (u.core c)) ∧
        (d.op = 13 → single (most k o.pos d.len (decodeNum fFp32 o.part.toNat)) (u.core c)))

/-- R203-R209, R213: OP 14-18. -/
def Obligations.RowOperations : Prop :=
  ∀ (c : Fin 64) (desc : BitVec 128),
    let d := vuDecode desc.toNat
    let n := min d.len 4096
    let all := fun (v : Machine.Num) (lo hi : Nat) (u : State) =>
      ∀ i, lo ≤ i → i < hi → (u.core c).runPats d.oAcc d.oRow d.ofmt i 1 = [(encodeNum d.ofmt d.cvt v).1]
    (∀ (s : State) (e : QEntry), EngineTakes s c 1 e → e.desc = desc → d.bad = false →
      let k := s.core c
      let old := k.spadBytes d.recOff 32
      let count := if d.first then 0 else leAt old 0 4
      (d.first = true ∧ (d.op = 14 ∨ d.op = 17) ∨ k.runsBad [d.recRun] = none) → k.runsBad d.inputs = none → count + d.len ≤ 2 ^ 24 →
      let begun := fun (P : EngOp → Prop) (u : State) => Ran s u c 1 e (fun o => o.pos = n ∧ o.done = decide (d.len ≤ 4096) ∧ P o) ∧
        OutsideRun s u c d.oAcc d.oRow (runBytes d.ofmt d.len) d.len
      let sums := fun (o : EngOp) => o.record.length = 32 ∧ leAt o.record 0 4 = count + n
      let nanSeen := fun (o : Nat) => leAt old o 2 % 2 = 1
      let same := fun (u : State) => (u.core c).spad = k.spad ∧ (u.core c).acc = k.acc
      (d.op = 14 → Completes (.stats c) s fun u => same u ∧ begun sums u) ∧
      (d.op = 17 → Completes (.smaxSum c) s fun u => same u ∧ begun (fun o => sums o ∧ o.flags = 0) u) ∧
      (∀ r, r ∈ ([(15, Instr.lnorm c), (16, .rnorm c)] : List (Nat × Instr)) → d.op = r.1 →
        Completes r.2 s fun u => begun (fun o => nanSeen 4 ∨ leAt old 0 4 = 0 → o.flags = BitVec.ofNat 8 flInv) u ∧
          (nanSeen 4 ∨ leAt old 0 4 = 0 → all .nan 0 n u)) ∧
      (d.op = 18 → Completes (.smaxNorm c) s fun u =>
        begun (fun o => (nanSeen 12 → o.flags = BitVec.ofNat 8 flInv) ∧
          (¬ nanSeen 12 → leAt old 4 4 = 0 → o.flags.toNat / 16 % 2 = 1)) u ∧
        (nanSeen 12 → all .nan 0 n u) ∧ (¬ nanSeen 12 → leAt old 4 4 = 0 → all .zero 0 n u))) ∧
    (∀ (hits : List CoreHit) (s0 : State) (o : EngOp),
      let s := s0.coreHits c hits
      let old := (s.core c).spadBytes d.recOff 32
      Halfway s c 1 o → o.q.desc = desc → d.bad = false → GoesOn s c o.q →
      (d.op = 14 ∨ d.op = 17 → o.record.length = 32 → leAt o.record 0 4 + (d.len - o.pos) < 2 ^ 32 →
        Completes (.vectorComplete c hits) s0 fun u => SameBytes s u ∧ tfind (u.core c).running 1 = none ∧
          leAt ((u.core c).spadBytes d.recOff 32) 0 4 = leAt o.record 0 4 + (d.len - o.pos) ∧ (u.core c).acc = (s.core c).acc) ∧
      (d.op = 15 ∨ d.op = 16 → o.record = [] → leAt old 4 2 % 2 = 1 ∨ leAt old 0 4 = 0 →
        Completes (.vectorComplete c hits) s0 fun u => SameBytes s u ∧ tfind (u.core c).running 1 = none ∧ all .nan o.pos d.len u) ∧
      (d.op = 18 → o.record = [] → Completes (.vectorComplete c hits) s0 fun u => SameBytes s u ∧ tfind (u.core c).running 1 = none ∧
        (leAt old 12 2 % 2 = 1 → all .nan o.pos d.len u) ∧
        (leAt old 12 2 % 2 = 0 → leAt old 4 4 = 0 → all .zero o.pos d.len u)))

/-- R162, R173, R177: entries of the accumulator store. -/
def Obligations.AccumulatorOperations : Prop :=
  ∀ (c : Fin 64) (hits : List CoreHit) (s0 : State) (e : QEntry),
    let s := s0.coreHits c hits
    let d := mxDecode e.desc.toNat
    let named := fun (r q : Nat) => d.accRow ≤ r ∧ r < d.accRow + d.m ∧ q ∈ d.columns
    let others := fun (s u : State) => ∀ r q, q < 128 → ¬ named r q → (u.core c).accGet r q = (s.core c).accGet r q
    (EngineTakes s0 c 0 e → (s0.core c).rmd = [] → d.bad = false →
      let k := s0.core c
      (d.kind = 3 → Completes (.accClear c) s0 fun u =>
        (∀ r q, named r q → (u.core c).accGet r q = 0) ∧ others s0 u ∧ (u.core c).spad = k.spad ∧
          Ran s0 u c 0 e fun o => o.done = true ∧ o.flags = 0) ∧
      (d.kind = 1 → k.spadBad (d.aRow * 512) (d.m * runBytes d.afmt 128) = none → Completes (.accLoad c) s0 fun u =>
        (∀ i q, i < d.m → q ∈ d.columns → (u.core c).accGet (d.accRow + i) q =
          BitVec.ofNat 48 (encodeNum 11 1 (decodeNum d.afmt
            (runElem d.afmt (k.spadBytes (d.aRow * 512 + i * runBytes d.afmt 128) (runBytes d.afmt 128)) q))).1) ∧
        others s0 u ∧ (u.core c).spad = k.spad ∧ Ran s0 u c 0 e fun o => o.done = true)) ∧
    (EngineTakes s c 0 e → (s.core c).rmd = [] → d.bad = false →
      let k := s.core c
      (d.kind = 2 → k.accBadIn d.accRow d.m d.columns = none → Completes (.accStore c hits) s0 fun u =>
        (∀ r q, (u.core c).accGet r q = k.accGet r q) ∧ Ran s u c 0 e fun o => o.done = true) ∧
      (d.kind = 0 →
        let tile := k.tileBytes d
        let outs := outliers d.wfmt tile
        outs.length ≤ 4 → k.tileBad d outs.length = none → k.actBad d = none → restColumns k.width d outs = [] →
        (d.fresh = true ∨ k.accBadIn d.accRow d.m d.columns = none) → Completes (.mma c hits) s0 fun u =>
          (∀ i q, i < d.m → q ∈ d.columns → (u.core c).accGet (d.accRow + i) q =
            BitVec.ofNat 48 (encodeNum 11 1 (accSum 2 [(e.desc.toNat : Int), (k.width : Int), (i : Int), (q : Int)]
              (if d.fresh then .zero else decodeAcc (k.accGet (d.accRow + i) q).toNat)
              ((List.range (depthOf d.wfmt)).map fun j =>
                (mulNum (tileWeight d.wfmt tile outs j q) (decodeNum d.afmt (runElem d.afmt (k.actVec d (q / 32) i) j))).1)).1).1) ∧
          others s u ∧ (d.out = false → (u.core c).spad = k.spad) ∧ Ran (s.lcMeasure e.lc) u c 0 e fun o => o.done = true))

/-- R169, R170, R185-R187, R196, R202, R213. -/
def Obligations.RemainderCompareAndSfu : Prop :=
  (∀ (c : Fin 64) (s : State),
    let k := s.core c
    k.rmdDue = true → (∀ p, p ∈ k.rmd →
        let d := mxDecode p.q.desc.toNat
        p.done = false ∧ k.actBad d = none ∧ (d.fresh = true ∨ k.accBadIn d.accRow d.m d.columns = none)) →
      Completes (.remainderPass c) s fun u =>
        (u.core c).rmd.map (·.q) = k.rmd.map (·.q) ∧ (∀ p, p ∈ (u.core c).rmd → p.done = true) ∧
        SameBytes s u ∧ u = s.setCores u.cores ∧ ∀ d, d ≠ c.val → u.core d = s.core d) ∧
  (∀ (c : Fin 64) (hits : List CoreHit) (s0 : State),
    let s := s0.coreHits c hits
    let k := s.core c
    let matched := fun (d : CcDesc) (lo hi : Nat) (xs : List Nat) => xs.Nodup ∧ ∀ i, i ∈ xs ↔ lo ≤ i ∧ i < hi ∧
      d.hit (leNat (k.spadBytes (d.srcRow * 512 + i * etypeBytes d.etype) (etypeBytes d.etype))) = true
    (∀ e, EngineTakes s c 5 e →
      let d := ccDecode e.desc.toNat
      let size := etypeBytes d.etype
      let n := min d.elems (32768 / size)
      d.bad e.add = false → k.spadBad (d.srcRow * 512) (d.elems * size) = none →
      Completes (.compareAndCount c hits) s0 fun u => ∃ xs, matched d 0 n xs ∧
        (Ran s u c 5 e fun o => o.pos = n ∧ o.done = decide (d.elems ≤ 32768 / size) ∧ o.extra = if d.sig then xs.length else 0) ∧
        (d.mask = true → ∀ i, i < n → (leNat ((u.core c).spadBytes (d.dstRow * 512 + i / 8) 1) / 2 ^ (i % 8) % 2 = 1 ↔ i ∈ xs))) ∧
    (∀ o, Halfway s c 5 o → GoesOn s c o.q →
      let d := ccDecode o.q.desc.toNat
      d.bad o.q.add = false → Completes (.compareAndCount c hits) s0 fun u => ∃ xs, matched d o.pos d.elems xs ∧ tfind (u.core c).running 5 = none ∧ SameBytes s u ∧
        u.sync = (if o.q.add = 0 then s.sync else { s.sync with arrivals := s.sync.arrivals ++
          [{ input := c, obj := (s.ptn (s.partOf c)).syncBase + o.q.obj
             op := .add (o.q.add + if d.sig then o.extra + xs.length else 0) }] })) ∧
    (∀ (d : CcDesc) (x : Nat), d.etype ≤ 7 → d.key < 2 ^ 64 → x < 2 ^ (8 * etypeBytes d.etype) →
      let w := 8 * etypeBytes d.etype
      let lo := if w = 64 then d.key else d.key % 2 ^ w
      let hi := if w = 64 then d.key else d.key / 2 ^ 32 % 2 ^ w
      let val := fun (y : Nat) => if d.etype ≤ 3 then (y : Int) else (BitVec.ofNat w y).toInt
      (d.hit x = true ↔ match d.op with
        | 0 => val x = val lo
        | 1 => val x ≠ val lo
        | 2 => val x < val lo
        | 3 => val lo ≤ val x
        | 4 => val lo ≤ val x ∧ val x ≤ val hi
        | _ => x &&& hi = lo)) ∧
    (∀ e tb, EngineTakes s c 2 e →
      let d := sfuDecode e.desc.toNat
      let n := min d.len 4096
      let value := fun (k : CoreSt) (i : Nat) =>
        (encodeNum d.ofmt d.cvt (tb.eval d.cvt (toF32 d.cvt (mulNum (if d.param = 0 then one else f32 d.param)
          (toFp32 d.afmt d.cvt ((k.runPats d.aAcc d.aRow d.afmt 0 d.len).getD i 0)).1).1).1).1).1
      s.slotTable d.slot = some tb → d.bad (some tb) = false → k.sfuReloading.contains d.slot = false → thas k.sfuBad d.slot = false →
      k.runsBad [d.inRun] = none → Completes (.sfuOp c hits) s0 fun u =>
        (∀ i, i < n → (u.core c).runPats d.oAcc d.oRow d.ofmt i 1 = [value k i]) ∧
        (Ran s u c 2 e fun o => o.pos = n ∧ o.done = decide (d.len ≤ 4096)) ∧
        OutsideRun s u c d.oAcc d.oRow (runBytes d.ofmt d.len) d.len)) ∧
  (∀ (c : Fin 64) (s : State),
    let k := s.core c
    (∀ o tb, Halfway s c 2 o → GoesOn s c o.q →
      let d := sfuDecode o.q.desc.toNat
      s.slotTable d.slot = some tb → d.bad (some tb) = false → Completes (.sfuComplete c) s fun u => tfind (u.core c).running 2 = none ∧ SameBytes s u ∧
        ∀ i, o.pos ≤ i → i < d.len → (u.core c).runPats d.oAcc d.oRow d.ofmt i 1 =
          [(encodeNum d.ofmt d.cvt (tb.eval d.cvt (toF32 d.cvt (mulNum (if d.param = 0 then one else f32 d.param)
            (toFp32 d.afmt d.cvt ((k.runPats d.aAcc d.aRow d.afmt 0 d.len).getD i 0)).1).1).1).1).1]) ∧
    (∀ slot rest, k.sfuReloading = slot :: rest → Completes (.sfuSlotReload c) s fun u =>
      u.core c = { k with sfuReloading := rest, sfuBad := (u.core c).sfuBad } ∧ thas (u.core c).sfuBad slot = false ∧
      (∀ n, n ≠ slot → thas (u.core c).sfuBad n = thas k.sfuBad n) ∧ u = s.setCores u.cores))

/-- R82, R158, R212: completions. -/
def Obligations.EngineCompletions : Prop :=
  ∀ (c : Fin 64) (hits : List CoreHit) (s0 : State),
    ∀ r, r ∈ ([(0, Instr.matrixComplete c, false), (1, .vectorComplete c hits, true), (2, .sfuComplete c, false),
      (5, .compareAndCount c hits, true)] : List (Nat × Instr × Bool)) →
    let s := if r.2.2 then s0.coreHits c hits else s0
    ∀ o0, tfind (s.core c).running r.1 = some o0 → (o0.done = true ∨ r.1 ≠ 0 ∧ Halfway s c r.1 o0) → GoesOn s c o0.q →
      let o := if o0.done then o0 else (s.laneStep c r.1 o0 (laneLen r.1 o0.q.desc)).2
      let th := s.thr c o.q.thr
      Completes r.2.1 s0 fun u =>
        tfind (u.core c).running r.1 = none ∧ SameBytes s u ∧
        (u.thr c o.q.thr).flags = th.flags ||| o.flags ∧
        (u.thr c o.q.thr).opsFlagged = (if o.flags = 0 then th.opsFlagged else min (th.opsFlagged + 1) 0xFFFF) ∧
        (u.thr c o.q.thr).outst = th.outst - 1 ∧ (∀ g, (u.thr c o.q.thr).g g = th.g g) ∧
        (th.pend = .engines → th.outst = 1 → (u.thr c o.q.thr).st = tReady ∧ (u.thr c o.q.thr).pc = th.pc + 8) ∧
        (th.pend ≠ .engines ∨ 1 < th.outst → (u.thr c o.q.thr).st = th.st ∧ (u.thr c o.q.thr).pc = th.pc) ∧
        u.sync = (if o.q.add = 0 then s.sync else { s.sync with arrivals := s.sync.arrivals ++
          [{ input := c, obj := (s.ptn (s.partOf c)).syncBase + o.q.obj, op := .add (o.q.add + o.extra) }] }) ∧
        (u.core c).mxOps = (if r.1 = 0 then ((s.core c).mxOps + 1) % 2 ^ 32 else (s.core c).mxOps) ∧
        (u.core c).vuOps = (if r.1 = 1 then ((s.core c).vuOps + 1) % 2 ^ 32 else (s.core c).vuOps) ∧
        (u.core c).sfuOps = (if r.1 = 2 then ((s.core c).sfuOps + 1) % 2 ^ 32 else (s.core c).sfuOps) ∧
        (r.1 = 1 → o.record.length = 32 → (u.core c).spadBytes (vuDecode o.q.desc.toNat).recOff 32 = o.record)

/-- R227-R233: starting a stream. -/
def Obligations.StreamsStart : Prop :=
  ∀ (c : Fin 64) (e : Fin 2) (s : State) (q : QEntry), (s.strm c e).busy = false → (s.core c).engHead (e.val + 3) = some q →
    let d := stDecode q.desc.toNat
    d.bad = false → d.badGroup s c = false → d.badObj (s.ptn (s.partOf c)) = false →
    let started := fun (u : State) =>
      u.strm c e = { busy := true, q := q } ∧ SameBytes s u ∧ (∀ x, x ≠ c.val → u.core x = s.core x) ∧
      tget (u.core c).queues (e.val + 3) [] = dropFirst (fun x => x == q) (tget (s.core c).queues (e.val + 3) []) ∧
      u.sync = (if d.mode ≠ 3 ∧ d.availObj ≠ 0x1FFF then
        { s.sync with arrivals := s.sync.arrivals ++
          [{ input := c, obj := (s.ptn (s.partOf c)).syncBase + d.availObj, op := .setAll 0 1 1 },
           { input := c, obj := (s.ptn (s.partOf c)).syncBase + d.availObj, op := .wait (.stream c (strmWaiter e q.lc)) }] }
        else s.sync)
    (d.mode = 0 → Completes (.streamLoad c e) s fun u => ∃ v, started v ∧ v.mctok = s.mctok ∧ u = pump c e pumpFuel v) ∧
    (d.mode = 2 → Completes (.streamGather c e) s fun u => ∃ v, started v ∧ v.mctok = s.mctok ∧ u = pump c e pumpFuel v) ∧
    (d.mode = 1 → d.availObj ≠ 0x1FFF → Completes (.streamStore c e) s fun u => started u ∧ u.mctok = s.mctok) ∧
    (d.mode = 3 → (s.mct d.group).active = false → s.mcReady d.group = false → Completes (.mcLead c e) s fun u =>
      started u ∧ (u.mct d.group).active = true ∧ (u.mct d.group).lead = c.val ∧ (u.mct d.group).started = 0 ∧
      (∀ g, g ≠ d.group → u.mct g = s.mct g)) ∧
    (d.mode = 4 → (s.mct d.group).active = false → (∀ j, j ∈ (s.mct d.group).joined → j.1 ≠ c.val) → Completes (.mcJoin c e) s fun u =>
      started u ∧ (u.mct d.group).joined = (s.mct d.group).joined ++ [(c.val, e.val)] ∧ tget (u.mct d.group).tokens c 0 = 4 ∧
      (∀ g, g ≠ d.group → u.mct g = s.mct g))

/-- R229, R230, R233: landings and tokens. -/
def Obligations.StreamRowsLand : Prop :=
  (∀ (c : Fin 64) (e : Fin 2) (hits : List MemHit) (s0 : State) (r : StreamRow) (rest : List StreamRow) (bs : List Byte),
    let s := s0.memHits hits
    let st := s.strm c e
    let d := st.d
    let off := (d.slotRow + r.tile % 4 * d.rows + r.row) * 512
    st.busy = true → d.mode = 0 → st.row = 0 → st.nextTile = d.tiles → st.fly = r :: rest → thas (s.core c).strmPre e = false →
    s.rowHeld c e = none → rowBytes s r.parts = some (bs, false) → bs.length = 512 →
    (st.landedRows + 1 < d.rows → Completes (.streamRowLanded c e hits) s0 fun u =>
      u.strm c e = { st with fly := rest, landedRows := st.landedRows + 1 } ∧ (u.core c).spadBytes off 512 = bs ∧
      (∀ o, o < off ∨ off + 512 ≤ o → (u.core c).spadBytes o 1 = (s.core c).spadBytes o 1) ∧ u.sync = s.sync) ∧
    (st.landedRows + 1 = d.rows → st.landed + 1 < d.tiles → Completes (.streamRowLanded c e hits) s0 fun u =>
      u.strm c e = { st with fly := rest, landedRows := 0, landed := st.landed + 1 } ∧ (u.core c).spadBytes off 512 = bs ∧
      (∀ o, o < off ∨ off + 512 ≤ o → (u.core c).spadBytes o 1 = (s.core c).spadBytes o 1) ∧
      u.sync = (if d.doneObj = 0x1FFF then s.sync else { s.sync with arrivals := s.sync.arrivals ++
        [{ input := c, obj := (s.ptn (s.partOf c)).syncBase + d.doneObj, op := .add 1 }] }))) ∧
  (∀ (g : Fin 32) (c : Fin 64) (s : State), tget (s.mct g).flying c 0 ≠ 0 → (s.mct g).active = false →
    Completes (.fetchToken g c) s fun u =>
      tget (u.mct g).flying c 0 = tget (s.mct g).flying c 0 - 1 ∧ tget (u.mct g).tokens c 0 = tget (s.mct g).tokens c 0 + 1 ∧
      (u.mct g).joined = (s.mct g).joined ∧ (∀ g', g' ≠ g.val → u.mct g' = s.mct g') ∧ u = s.setMctok u.mctok ∧ SameBytes s u)

/-- R237, R238: the Bobbin path. -/
def Obligations.BobbinTransfers : Prop :=
  (∀ (c : Fin 64) (s : State) (q : QEntry) (sp dp : Nat) ts td s1 s2 (bs : List Byte),
    (s.core c).bobs = [] → (s.core c).engHead 6 = some q →
    let d := bbDecode q.desc.toNat
    let p := s.partOf c
    d.bad = false → State.engXlate p c { r := true, lc := q.lc } d.src d.len (s.takeEntry c 6 q) = (.ok sp ts, s1) →
    State.engXlate p c { w := true, lc := q.lc } d.dst d.len s1 = (.ok dp td, s2) →
    badSpadRange sp d.len = false → badSpadRange dp d.len = false → s2.heldAt p sp q.lc = none → s2.heldAt p dp q.lc = none → s2.paRead sp d.len = .ok bs false →
    let w := (((s2.sendRemote p (64 * c + 34) sp d.len [] q.lc).sendRemote p (64 * c + 34) dp d.len bs q.lc).paReadFx sp d.len).paWrite dp bs
    Completes (.bobbin c) s fun u => u.mem = w.mem ∧ (u.core c).bobs = [{ q := q, srcPa := sp, dstPa := dp }] ∧
      ∀ x, (u.core x).spad = (w.core x).spad ∧ (u.core x).l1 = (w.core x).l1 ∧ (u.core x).threads = (w.core x).threads) ∧
  (∀ (c : Fin 64) (s : State) b, (s.core c).bobs.find? (fun b => !b.halted) = some b →
    (b.q.job = 0 → Completes (.bobbinComplete c) s fun u =>
      u.core c = { s.core c with bobs := dropFirst (fun b => !b.halted) (s.core c).bobs, bobOps := ((s.core c).bobOps + 1) % 2 ^ 32 } ∧
      u = s.setCores u.cores ∧ SameBytes s u) ∧
    (b.q.job ≠ 0 → (∀ x, (s.thr c b.q.thr).pend ≠ .exit x) → (∀ j, s.job b.q.job = some j → j.rootEnded = none) →
      Completes (.bobbinComplete c) s fun u =>
        (u.core c).bobs = dropFirst (fun b => !b.halted) (s.core c).bobs ∧ (u.core c).bobOps = ((s.core c).bobOps + 1) % 2 ^ 32 ∧
        (u.thr c b.q.thr).outst = (s.thr c b.q.thr).outst - 1 ∧ SameBytes s u ∧
        u.sync = (if b.q.add = 0 then s.sync else { s.sync with arrivals := s.sync.arrivals ++
          [{ input := c, obj := (s.ptn (s.partOf c)).syncBase + b.q.obj, op := .add b.q.add }] })))

/-- R251-R256: pre-emption. -/
def Obligations.PreemptionSavesAndRestores : Prop :=
  ∀ (c : Fin 64) (s : State),
    let boardFree := (tget (s.ptn (s.partOf c)).regs 1 {} : Regul).holds 1 false = false
    let inCore := fun (u : State) => u = s.setCores u.cores ∧ SameBytes s u ∧ ∀ d, d ≠ c.val → u.core d = s.core d
    (∀ (eng : Fin 7) o, eng.val ≠ 3 → eng.val ≠ 4 → (eng.val ≠ 0 ∨ (s.core c).rmdPre = []) → tfind (s.core c).preempted eng = some o →
      (s.core c).lcIdle eng = true → Completes (.inPlaceResume c eng) s fun u =>
        tfind (u.core c).running eng = some o ∧ tfind (u.core c).preempted eng = none ∧ (u.core c).threads = (s.core c).threads ∧ inCore u) ∧
    ((s.core c).rmdPre ≠ [] → (s.core c).lcIdle 0 = true → Completes (.inPlaceResume c 0) s fun u =>
      u.core c = { s.core c with rmd := (s.core c).rmdPre, rmdPre := [], rmdFirst := true } ∧ inCore u) ∧
    (∀ j, s.updateWaits.sh.jobs.filter (fun j => j.waitSince != 0) = [j] → s.updateWaits.spareCore j = none →
      s.updateWaits.sliceCore j = some c.val → s.updateWaits.saveSet c = [c.val] → 1 ≤ s.updateWaits.freeFrames →
      Completes .timeSlice s fun u =>
        (u.core c).saving = true ∧ (u.core c).saveFor = j.id ∧ (u.core c).threads = (s.core c).threads ∧ SameBytes s u ∧
        ∀ d, d ≠ c.val → u.core d = s.core d) ∧
    ((s.core c).saving = true → s.saveReady c = true → (s.stopLanes c).saveReady c = true → s.job (s.core c).saveFor = none → boardFree →
      Completes (.fullSaveComplete c) s fun u =>
        (∀ t, (s.thr c t).held = true → (s.thr c t).lc = false → (u.thr c t).st = tSaved) ∧
        (∀ t, (s.thr c t).lc = true → (∀ e, (s.thr c t).pend ≠ .queueSpace e) → u.thr c t = s.thr c t) ∧ (u.core c).saving = false ∧
        (u.core c).holder = 0 ∧ u.sh.frames.length = s.sh.frames.length + 1 ∧ u.sh.fullSaves = s.sh.fullSaves + 1 ∧
        (∃ f, f ∈ u.sh.frames ∧ f.core = c.val)) ∧
    ((s.core c).saving = true → s.saveReady c = true → Completes (.fullSaveComplete c) s fun u => (s.stopLanes c).saveReady c = false →
      u = s.stopLanes c ∧ (u.core c).saving = true ∧ SameBytes s u ∧ u.sh = s.sh) ∧
    (∀ f, (s.core c).holder = 0 → (s.core c).saving = false → s.sh.frames.find? (fun f => s.frameFits f c) = some f →
      f.poisoned = false → s.frameStruck f.idx = false → f.streams = [] → boardFree → Completes (.fullRestore c) s fun u =>
        (∀ t th, tfind f.threads t = some th → tsorted f.threads = true → (u.thr c t).st = tReady ∧ (u.thr c t).pc = th.pc ∧
          ∀ r, (u.thr c t).g r = th.g r) ∧
        u.sh.frames = dropFirst (fun x => x.idx == f.idx) s.sh.frames ∧ (u.core c).holder = f.job ∧ SameBytes s u ∧
        ∀ d, d ≠ c.val → d ≠ f.core → u.core d = s.core d)

/-- R258, R260-R262. -/
def Obligations.RegulatorsAndPins : Prop :=
  (∀ (c : Fin 64) (line : BitVec 44) (s : State), s.inFly (.req .rdS c line.toNat) = true →
    let l := line.toNat
    let req : DirReq := { kind := .rdS, src := c }
    let p := s.reqPtn req
    let lc := s.reqLc req l
    let reg := fun (x : State) (r : Nat) => (tget (x.ptn p).regs r {} : Regul)
    (∀ r, s.heldAt p (l * 64) lc = some r → (∀ w, w ∈ (reg s r).waiting → w.2.2 ≠ .line .rdS c l) → Completes (.rdS c line) s fun u =>
      reg u r = { reg s r with held := min ((reg s r).held + 1) 0xFFFFFFFF, waiting := (reg s r).waiting ++ [(lc, 64, .line .rdS c l)] } ∧
      u = s.setPtns u.ptns ∧ (∀ r', r' ≠ r → reg u r' = reg s r') ∧ (u.ptn p).acct = (s.ptn p).acct ∧ ∀ p', p' ≠ p → u.ptn p' = s.ptn p') ∧
    (s.heldAt p (l * 64) lc = none → p < 32 → paRange (l * 64) = .stack → Completes (.rdS c line) s fun u =>
      tget (u.ptn p).acct 7 0 = (tget (s.ptn p).acct 7 0 + 64) % 2 ^ 64 ∧
      (reg u 0).level = (reg s 0).level - (if (reg s 0).regulates 0 then 64 * 1600 else 0) ∧ (reg u 0).held = (reg s 0).held)) ∧
  (∀ (p : Fin 32) (r : Fin 6) (s : State) w, r.val ≠ 5 →
    let g : Regul := tget (s.ptn p).regs r {}
    g.waiting.find? (fun w => !g.holds r w.1) = some w →
    (match w.2.2 with
     | .walk _ => True | .buf _ => True | .entry _ => True | .record _ => True | .batch _ _ => True | .job _ => True | .save _ => True
     | _ => False) →
    Completes (.regulatorRelease p r) s fun u =>
      tget (u.ptn p).regs r {} = { g with waiting := g.waiting.filter fun x => x.2.2 != w.2.2 } ∧
      (∀ r', r' ≠ r.val → tget (u.ptn p).regs r' {} = tget (s.ptn p).regs r' {}) ∧ u = s.setPtns u.ptns ∧ SameBytes s u ∧
      ∀ p', p' ≠ p.val → u.ptn p' = s.ptn p') ∧
  (∀ (p : Fin 32) (n : Fin 4) (v : BitVec 64) (s : State), s.pwr.domainUp = true →
    Completes (.lcPinWrite p n v) s fun u =>
      let pin := fun (x : State) (k : Nat) => (tget (x.ptn p).pins k {} : PinSt)
      (pin u n).en = (v.toNat / 2 ^ 63 % 2 == 1) ∧ (pin u n).va.toNat = v.toNat / 2 ^ 16 % 2 ^ 32 ∧
      ∀ k, k ≠ n.val → (pin u k).en = (pin s k).en ∧ (pin u k).va = (pin s k).va)

/-- R96, R79: the end of a task. -/
def Obligations.ExitAndTrap : Prop :=
  ∀ (c : Fin 64) (t : Fin 32) (s : State) (i : TInstr), Starts s c t i →
    let th := s.thr c t
    (i.op = 0x13 → th.outst = 0 →
      ((∀ j, s.job th.job = some j → j.root ≠ th.task ∧ j.rootEnded = none) → Completes (.exitTask c t) s fun u =>
        u.thr c t = { flags := th.flags, opsFlagged := th.opsFlagged } ∧ u.sh.tasks = s.sh.tasks.filter (fun k => k.handle != th.task) ∧ SameBytes s u ∧
        (∀ n, .thread c t ∉ (u.obj n).fifo) ∧ (∀ d, d ≠ c.val → u.core d = s.core d) ∧
        ∀ v, v ≠ t.val → u.thr c v = { s.thr c v with yieldMask := (u.thr c v).yieldMask }) ∧
      (∀ j, s.job th.job = some j → j.root = th.task →
        (∃ k, k ∈ s.sh.tasks ∧ k.job = th.job ∧ k.handle ≠ th.task ∧ k.st ≠ 0) → Completes (.exitTask c t) s fun u =>
          u.thr c t = { flags := th.flags, opsFlagged := th.opsFlagged } ∧ SameBytes s u ∧ ∃ j', u.job th.job = some j' ∧ j'.rootEnded = some (BitVec.ofNat 16 i.imm))) ∧
    (i.op = 0x13 → th.outst ≠ 0 → Completes (.exitTask c t) s fun u => OnlyThread s u c t ∧
      u.thr c t = { th with st := tEngine, pend := .exit (BitVec.ofNat 16 i.imm), yieldMask := (u.thr c t).yieldMask }) ∧
    (i.op = 0x15 → Completes (.trap c t) s fun u => ∃ v, OnlyThread s v c t ∧
      (v.thr c t) = { th with yieldMask := (v.thr c t).yieldMask } ∧
      let p := (s.coreOwner c).getD 32
      let d := BitVec.ofNat 64 (th.pc.toNat + 7 * 2 ^ 48)
      let w := v.modCore c fun k => { k with trapImm := tset k.trapImm t (BitVec.ofNat 32 i.imm) }
      u = ((w.notify p 0x4103 (32 * c.val + t.val) d).logRated (rateKey 0x4103 p) oneSec (BitVec.ofNat 16 (2 + c.val / 4)) 0x4103
        (bytesLE 8 d.toNat ++ bytesLE 2 (32 * c.val + t.val))).abortJob th.job stAbortFault)

/-- R349-R351: the session pages. -/
def Obligations.DoorbellsAndHello : Prop :=
  ∀ (p : Fin 32) (s : State), s.pwr.domainUp = true → (s.page p).busy = false →
    let bad := fun (b : Nat) (u : State) =>
      (u.page p).rings = (s.page p).rings ∧ (u.page p).badWrites = min ((s.page p).badWrites + 1) 0xFFFFFFFF ∧
      (∀ k, k < 4 → (u.page p).sticky.getLsbD k = (decide (k = b) || (s.page p).sticky.getLsbD k)) ∧
      (u.page p).active = (s.page p).active ∧ u.sh = s.sh
    (∀ (r : Fin 4) (v : BitVec 32), r.val < s.ringCount p →
      let q := s.wring p r
      let n := s.ringSlots p
      let x := v.toNat % 4096
      ((s.page p).active = false → Completes (.dbSqTailWrite p r v) s (bad 3) ∧ Completes (.dbCqHeadWrite p r v) s (bad 3)) ∧
      ((s.page p).active = true →
        (x < n → (x + n - q.sqTail) % n ≤ n - 1 - s.ringOcc p r → x ≠ q.sqTail → Completes (.dbSqTailWrite p r v) s fun u =>
          u.wring p r = { q with sqTail := x } ∧ (∀ r', r' ≠ r.val → u.wring p r' = s.wring p r') ∧ u.sh.jobs = s.sh.jobs) ∧
        (n ≤ x ∨ n - 1 - s.ringOcc p r < (x + n - q.sqTail) % n → Completes (.dbSqTailWrite p r v) s (bad 0)) ∧
        (x < n → (x + n - q.cqHead) % n ≤ (q.cqTail + n - q.cqHead) % n → Completes (.dbCqHeadWrite p r v) s fun u =>
          u.wring p r = { q with cqHead := x } ∧ (∀ r', r' ≠ r.val → u.wring p r' = s.wring p r') ∧ u = s.setHost u.host ∧ SameBytes s u) ∧
        (n ≤ x ∨ (q.cqTail + n - q.cqHead) % n < (x + n - q.cqHead) % n → Completes (.dbCqHeadWrite p r v) s (bad 1)))) ∧
    (∀ v : BitVec 64,
      let st := s.helloStatus p (v.toNat % 2 ^ 16) (v.toNat / 2 ^ 16 % 2 ^ 16)
      (st = stOk → Completes (.hello p v) s fun u =>
        (u.page p).active = true ∧ (u.page p).version = 0x0100 ∧ (u.page p).status = 0 ∧ (u.page p).gen = s.warp.gen ∧
        (u.page p).hostTag.toNat = v.toNat / 2 ^ 32 ∧ (∀ p', p' ≠ p.val → u.page p' = s.page p') ∧ SameBytes s u ∧
        ∀ r, let q := u.wring p r
          q.sqTail = 0 ∧ q.sqHead = 0 ∧ q.cqTail = 0 ∧ q.cqHead = 0 ∧ q.phase = true ∧ q.sqBase = (s.wring p r).sqBase ∧
            q.cqBase = (s.wring p r).cqBase) ∧
      (st ≠ stOk → Completes (.hello p v) s fun u =>
        (u.page p).status = st ∧ (u.page p).active = (s.page p).active ∧ (u.page p).version = (s.page p).version ∧
        (u.page p).rings = (s.page p).rings ∧ (∀ p', p' ≠ p.val → u.page p' = s.page p') ∧ SameBytes s u))

/-- R240-R242, R352, R354, R370. -/
def Obligations.EntriesAndCompletions : Prop :=
  (∀ (p : Fin 32) (r : Fin 4) (s : State) (e : List Byte), s.nextFetch = some (p.val, r.val) →
    let q := s.wring p r
    s.paRead (q.sqBase.toNat + 64 * q.sqHead) 64 = .ok e false → s.heldAt p (q.sqBase.toNat + 64 * q.sqHead) false = none →
    let q' := { q with sqHead := (q.sqHead + 1) % s.ringSlots p, inflight := q.inflight + 1 }
    (s.admission p r e = none → Completes (.entryFetch p r) s fun u =>
      (∃ j, u.sh.jobs = s.sh.jobs ++ [j] ∧ j.id = p.val * 2 ^ 27 + (s.ptn p).jobSeq ∧ j.ptn = p.val ∧ j.ring = r.val ∧
        j.tag.toNat = leAt e 2 2 ∧ j.lc = (leAt e 1 1 % 2 == 1) ∧ j.entry = e ∧ j.stage = .admitted) ∧ u.wring p r = q' ∧
      (u.ptn p).jobSeq = (if (s.ptn p).jobSeq = 0x7FFFFFF then 1 else (s.ptn p).jobSeq + 1)) ∧
    (∀ st, s.admission p r e = some st → Completes (.entryFetch p r) s fun u => ∃ v : State,
      u = v.complete p r (leAt e 2 2) st 0 0 0 0 (leAt e 1 1 / 2 % 2 == 1) ∧ v.wring p r = q' ∧ v.sh.jobs = s.sh.jobs)) ∧
  (∀ (s : State) (p r tag st rf dg result id : Nat) (noIrq : Bool), (s.page p).active = true →
    let q := s.wring p r
    let a := q.cqBase.toNat + 16 * q.cqTail
    let u := s.complete p r tag st rf dg result id noIrq
    0x1000000000000 ≤ a → a + 16 ≤ 0x2000000000000 →
    (∀ k, k < 16 → u.mb (a + k) = (bytesLE 2 tag ++ bytesLE 2 q.sqHead ++ bytesLE 1 st ++ bytesLE 1 rf ++
      bytesLE 1 (if q.phase then 1 else 0) ++ bytesLE 1 dg ++ bytesLE 4 result ++ bytesLE 4 id).getD k 0) ∧
    (∀ b, b < a ∨ a + 16 ≤ b → u.mb b = s.mb b) ∧
    (p < 32 → tget (u.ptn p).acct 11 0 = (tget (s.ptn p).acct 11 0 + 16) % 2 ^ 64) ∧
    (u.wring p r).cqTail = (q.cqTail + 1) % s.ringSlots p ∧
    (u.wring p r).phase = (if (q.cqTail + 1) % s.ringSlots p = 0 then !q.phase else q.phase) ∧
    u.host.raised = (if noIrq = false ∧ max q.thresh.toNat 1 ≤ q.unsig + 1 then
      s.host.raised ||| BitVec.ofNat 144 (2 ^ s.complVec p r) else s.host.raised)) ∧
  (∀ (p : Fin 32) (r : Fin 4) (s : State), (s.wring p r).unsig ≠ 0 → (s.wring p r).time ≠ 0 → Completes (.cqIrqTimer p r) s fun u =>
    u.wring p r = { s.wring p r with unsig := 0 } ∧ u = s.setHost u.host ∧ SameBytes s u ∧
    u.host.raised = s.host.raised ||| BitVec.ofNat 144 (2 ^ s.complVec p r))

/-- R243, R264, R363, R365, R368. -/
def Obligations.ShuttleOpcodes : Prop :=
  (∀ (id : BitVec 32) (s : State) (j : Job),
    (s.admitted id.toNat 0x01 = some j →
      let e := j.entry
      let args := (List.range 6).map fun k => BitVec.ofNat 64 (leAt e (16 + 8 * k) 8)
      let r : TaskRec := ⟨leAt e 4 6, leAt e 0xA 2, leAt e 0xC 1, if j.lc then 1 else 0, 0, args⟩
      e.length = 64 →
      (s.taskRefusal j.ptn r = none → Completes (.runTask id) s fun u => ∃ k j', k ∈ u.sh.tasks ∧ k.job = j.id ∧ k.ptn = j.ptn ∧
        k.pc = BitVec.ofNat 48 (leAt e 4 6) ∧ k.core = leAt e 0xC 1 ∧ k.lc = j.lc ∧ k.args = args ∧ u.job j.id = some j' ∧
        j'.root = k.handle ∧ j'.stage = (if 2 ≤ s.model.st then .waitLoad else .running) ∧ u.cores = s.cores ∧ SameBytes s u) ∧
      (∀ st, s.taskRefusal j.ptn r = some st → Completes (.runTask id) s fun u => u = s.endJob j.id st 0)) ∧
    (s.admitted id.toNat 0x07 = some j →
      let earlier := ∃ k, k ∈ s.sh.jobs ∧ k.ptn = j.ptn ∧ k.order < j.order ∧ (leAt j.entry 4 1 = 1 ∨ k.ring = j.ring)
      (earlier → Completes (.weftFence id) s fun u => u = s) ∧
      (¬ earlier → Completes (.weftFence id) s fun u => u = s.endJob j.id stOk 0)) ∧
    (∀ ps s2, s.admitted id.toNat 0x0A = some j → s.bufMap j 0 (leAt j.entry 8 8) 120 true = (some ps, s2) →
      Completes (.queryAccounts id) s fun u => EndsJob u j.id stOk 0 fun v =>
        v = State.writePieces j.ptn ps (((List.range 14).flatMap fun k => bytesLE 8 (tget (s2.ptn j.ptn).acct k 0)) ++
          bytesLE 8 s2.timeNow.toNat) (s2.acctSnapshot j.ptn)) ∧
    (s.admitted id.toNat 0x0D = some j →
      (∀ k, s.job (leAt j.entry 8 4) = some k → k.ptn = j.ptn → Completes (.cancelJob id) s fun u =>
        EndsJob u j.id stOk 0 fun v => v = s.stopJob k.id stPreempted) ∧
      ((∀ k, s.job (leAt j.entry 8 4) = some k → k.ptn ≠ j.ptn) → Completes (.cancelJob id) s fun u =>
        u = s.endJob j.id stInvalidField 0))) ∧
  (∀ (p : Fin 32) (s : State), s.pwr.domainUp = true → (s.ptn p).acctBusy = false → Completes (.acctSnapshotGo p) s fun u =>
    (∀ k, k < 14 → tget (u.ptn p).acctSnap k 0 = tget (s.ptn p).acct k 0) ∧ (u.ptn p).acctBusy = true ∧
    (u.ptn p).acct = (s.ptn p).acct ∧ u = s.setPtns u.ptns ∧ SameBytes s u ∧ ∀ p', p' ≠ p.val → u.ptn p' = s.ptn p')

/-- R62, R65, R68, R70, R370: requests through WARP_CTL, each of which raises vector 130 when it is completed or refused. -/
def Obligations.LoaderRequests : Prop :=
  ∀ s : State,
    let w := s.warp
    let only := fun (x : WarpSt) (u : State) => u = s.setWarp x
    let answered := fun (x : WarpSt) (u : State) => u = (s.setWarp x).raise 130
    (s.pwr.domainUp = true → s.warpBusy = true → ∀ c, c ∈ [Instr.stage, .commit, .structReset, .discard] →
      Completes c s (answered { w with busyRefused := true })) ∧
    (s.pwr.domainUp = true → s.warpBusy = false →
      (∀ bs, warpSourceOk w.srcAddr.toNat = true → w.srcLen.toNat ≤ 1048576 →
        s.readPieces (pagePieces w.srcAddr.toNat w.srcLen.toNat) = some bs → Completes .stage s
          (only { w with
            shadow := 1, stageSrc := .bar2, stageJob := 0, stageLen := w.srcLen.toNat, copy := bs, copyBad := none
            copyFrom := pagePieces w.srcAddr.toNat w.srcLen.toNat })) ∧
      (∀ img, w.stagedImg = some img → w.active = 0 → Completes .commit s fun u =>
        u.warp.active = 1 ∧ u.warp.locked = true ∧ u.warp.gen = w.gen + 1 ∧ u.warp.activeImg = some img ∧ u.warp.shadow = 0 ∧
        u.warp.stagedImg = none ∧ u.warp.storePending = img.store ∧ u.host.raised.getLsbD 130 = true) ∧
      (w.stagedImg = none ∨ w.active ≠ 0 → Completes .commit s
        (answered { w with errStatus := stInvalidField, errSection := 0, errOffset := 0 })) ∧
      (w.active ≠ 0 → Completes .structReset s fun u => u.warp = { w with active := 3, drainWith := u.warp.drainWith, stageSrc := .bar2 } ∧
        u.warp.drainWith = (if w.stagedImg.isSome then w.stagedImg else w.activeImg) ∧ u.cores = s.cores ∧ u.sh = s.sh ∧ SameBytes s u ∧
        u.host.raised.getLsbD 130 = true) ∧
      (∀ img, w.stagedImg = some img → Completes .discard s fun u =>
        u.warp = { w with shadow := 0, stagedImg := none } ∧ u.cores = s.cores ∧ SameBytes s u ∧ u.host.raised.getLsbD 130 = true)) ∧
    (w.shadow = 1 →
      (∀ img, w.copyBad = none → validate s.warpCtx w.copy w.stageLen = .ok img → Completes (.stageComplete none) s fun u =>
        u.warp = { w with shadow := 2, stagedImg := some img, copy := [], copyFrom := [], stageLen := 0, stageJob := 0 } ∧
        (w.stageSrc = .bar2 → u.host.raised.getLsbD 130 = true)) ∧
      (∀ e, w.copyBad = none → validate s.warpCtx w.copy w.stageLen = .error e → Completes (.stageComplete none) s fun u =>
        u.warp = { w with errStatus := e.status, errSection := e.sec, errOffset := e.off, shadow := if w.stagedImg.isSome then 2 else 0,
                          copy := [], copyFrom := [], stageLen := 0, stageJob := 0 } ∧
        (w.stageSrc = .bar2 → u.host.raised.getLsbD 130 = true)) ∧
      (∀ h o why, firstUnread w.copyBad (hostBad w.copyFrom h) = some (o, why) → Completes (.stageComplete h) s fun u =>
        u.warp.errStatus = stInvalidField ∧ u.warp.errSection = 0 ∧ u.warp.errOffset = o ∧ u.warp.stagedImg = w.stagedImg ∧
        u.warp.shadow = (if w.stagedImg.isSome then 2 else 0) ∧ u.warp.active = w.active)) ∧
    (∀ img, w.activeImg = some img → w.storePending = true →
      let top := (s.mgt.store.map (·.seq)).foldl max 0
      let newer := s.mgt.store.filter fun c => c.seq == top
      Completes (.configStoreWrite true) s (fun u => u.mgt.store = newer ++ [{ seq := top + 1, bytes := img.bytes }] ∧
        u.warp = { w with storePending := false } ∧ SameBytes s u) ∧
      Completes (.configStoreWrite false) s fun u => (∀ c, c ∈ newer → c ∈ u.mgt.store) ∧ u.warp = w ∧ SameBytes s u) ∧
    (s.pwr.domainUp = true → Completes .lockerrClear s (only { w with lockErr := false, lockCount := 0 }))

/-- R66, R67, R367. -/
def Obligations.WarpJobsAndDrain : Prop :=
  (∀ (id : BitVec 32) (s : State) (j : Job),
    let w := s.warp
    (s.mgmtJob id.toNat 0x10 = some j →
      (s.warpBusy = true → Completes (.warpStage (.weft id)) s fun u => u = s.endJob j.id stNoResource 0) ∧
      (∀ ps s1 bs, s.warpBusy = false → leAt j.entry 0x10 4 ≤ 1048576 → leAt j.entry 8 8 ≠ 0 →
        s.bufMap j 1 (leAt j.entry 8 8) (leAt j.entry 0x10 4) false = (some ps, s1) → s1.readPieces ps = some bs →
        Completes (.warpStage (.weft id)) s fun u =>
          u.warp = { w with
            shadow := 1, stageSrc := .weft j.ptn, stageJob := j.id, stageLen := leAt j.entry 0x10 4, copy := bs
            copyFrom := ps, copyBad := none })) ∧
    (s.mgmtJob id.toNat 0x11 = some j → s.warpBusy = false →
      (w.stagedImg = none ∨ w.active ≠ 0 → Completes (.warpCommit (.weft id)) s fun u => EndsJob u j.id stInvalidField 0 fun v =>
        v = s.setWarp { w with errStatus := stInvalidField, errSection := 0, errOffset := 0 }) ∧
      (∀ img, w.stagedImg = some img → w.active = 0 → Completes (.warpCommit (.weft id)) s fun u => EndsJob u j.id stOk 0 fun v =>
        v.warp.active = 1 ∧ v.warp.locked = true ∧ v.warp.gen = w.gen + 1 ∧ v.warp.activeImg = some img ∧ v.warp.stagedImg = none)) ∧
    (s.mgmtJob id.toNat 0x12 = some j → s.warpBusy = false → w.active ≠ 0 → Completes (.warpStructReset (.weft id)) s fun u =>
      EndsJob u j.id stOk 0 fun v => v.warp.active = 3 ∧ v.warp.stageSrc = .weft j.ptn ∧
        v.warp.drainWith = (if w.stagedImg.isSome then w.stagedImg else w.activeImg) ∧ v.cores = s.cores ∧ v.sh = s.sh) ∧
    (s.mgmtJob id.toNat 0x13 = some j → s.warpBusy = false →
      (∀ img, w.stagedImg = some img → Completes (.warpDiscard (.weft id)) s fun u => EndsJob u j.id stOk 0 fun v =>
        v.warp = { w with shadow := 0, stagedImg := none } ∧ v.sh = s.sh) ∧
      (w.stagedImg = none → Completes (.warpDiscard (.weft id)) s fun u => EndsJob u j.id stInvalidField 0 fun v => v.sh = s.sh ∧
        v.warp.active = w.active))) ∧
  (∀ s : State, s.pwr.domainUp = true → s.pwr.isolated = false → s.mgt.running = true → s.mgt.recovery = false → s.mgt.mbGo = true →
    s.warpBusy = false →
    let w := s.warp
    let ends := fun (st : Nat) (u : State) => u.mgt.mbBusy = false ∧ u.mgt.mbDone = true ∧ u.mgt.mbStatus = st
    (s.mgt.mbCode = 0x10 → 12 ≤ s.mgt.mbArgs.length → Completes (.warpStage .mailbox) s fun u => u.mgt.mbBusy = true ∧ u.warp.shadow = 1 ∧
      u.warp.stageSrc = .mailbox ∧ u.warp.stageLen = leAt s.mgt.mbArgs 8 4) ∧
    (s.mgt.mbCode = 0x11 → ∀ img, w.stagedImg = some img → w.active = 0 → Completes (.warpCommit .mailbox) s fun u =>
      ends stOk u ∧ u.warp.active = 1 ∧ u.warp.locked = true ∧ u.warp.activeImg = some img) ∧
    (s.mgt.mbCode = 0x12 → w.active ≠ 0 → Completes (.warpStructReset .mailbox) s fun u => ends stOk u ∧ u.warp.active = 3 ∧
      u.warp.stageSrc = .mailbox) ∧
    (s.mgt.mbCode = 0x13 → ∀ img, w.stagedImg = some img → Completes (.warpDiscard .mailbox) s fun u =>
      ends stOk u ∧ u.warp = { w with shadow := 0, stagedImg := none })) ∧
  (∀ (s : State) (img : WarpImg), s.warp.active = 3 → s.warp.drainWith = some img → (s.sh.jobs.map (·.id)).Nodup →
    Completes .drainWindowExpiry s fun u =>
      u.sh.jobs = [] ∧ u.sh.frames = [] ∧ u.sync.objs = [] ∧ u.warp.active = 1 ∧ u.warp.locked = true ∧ u.warp.activeImg = some img ∧
      u.warp.gen = s.warp.gen + 1 ∧ u.warp.drainWith = none ∧ u.warp.stagedImg = none)

/-- R226: the steps of a load. -/
def Obligations.ModelLoads : Prop :=
  (∀ (id : BitVec 32) (s : State) (j : Job), s.admitted id.toNat 0x0B = some j →
    let kind := leAt j.entry 4 1
    let starts := fun (unload : Bool) (u : State) =>
      u.model = { s.model with st := 2, loadJob := j.id, loadUnload := unload } ∧ SameBytes s u ∧ u.cores = s.cores ∧
      (∃ j', u.job j.id = some j' ∧ j'.stage = .running) ∧ u = (s.setModel u.model).setSh u.sh
    (kind ≠ 2 → (s.ptn j.ptn).modelUser = false → Completes (.loadImage id) s fun u => u = s.endJob j.id stInvalidField 0) ∧
    (kind ≠ 2 → (s.ptn j.ptn).modelUser = true → s.model.loadJob ≠ 0 → Completes (.loadImage id) s fun u => u = s.endJob j.id stNoResource 0) ∧
    (kind = 0 → (s.ptn j.ptn).modelUser = true → s.model.loadJob = 0 → Completes (.loadImage id) s (starts false)) ∧
    (kind = 2 → (s.ptn j.ptn).modelUser = true → s.model.loadJob = 0 → Completes (.imageUnload id) s (starts true))) ∧
  (∀ (h : Option HostErr) (s : State) (j : Job), s.job s.model.loadJob = some j →
    (s.model.st = 2 → s.model.loadUnload = true → Completes (.loadDrainEnd h) s fun u =>
      u.model.resident = false ∧ u.model.st = 0 ∧ u.model.loadJob = 0) ∧
    (s.model.st = 2 → s.model.loadUnload = false → (∀ k, k ∈ s.sh.jobs → k.op = 0x01 → k.stage ≠ .running) →
      ∀ b bads s2, s.loadSource j h = (some (b, bads), s2) →
        (∀ o, badIn bads (step2Ranges b) = some o → Completes (.loadDrainEnd h) s fun u => EndsJob u j.id stRestart 0 fun v =>
          v.model.resident = s.model.resident ∧ v.model.id = s.model.id ∧ v.model.loadJob = 0) ∧
        (badIn bads (step2Ranges b) = none → s2.modelCheck b = none → Completes (.loadDrainEnd h) s fun u =>
          u.model.st = 3 ∧ u.model.resident = false ∧ u.model.loadJob = s.model.loadJob ∧ u.model.loadImg = b.take (64 + 64 * leAt b 0x18 2)) ∧
        (∀ st, badIn bads (step2Ranges b) = none → s2.modelCheck b = some st → Completes (.loadDrainEnd h) s fun u => EndsJob u j.id st 0 fun v =>
          v.model.resident = s.model.resident ∧ v.model.id = s.model.id ∧ v.model.loadJob = 0 ∧
          v.model.st = (if s.model.resident then 1 else 0))) ∧
    (s.model.st = 3 → ∀ b0 bads s1, s.loadSource j h = (some (b0, bads), s1) →
      let b := s.model.loadImg ++ b0.drop s.model.loadImg.length
      let copied := (msects b).filter (·.known)
      (∀ o, badIn bads (copied.map fun m => (m.off, m.len)) = some o → Completes (.loadCopyDone h) s fun u =>
        EndsJob u j.id stRestart 0 fun v => v.model.resident = s.model.resident ∧ v.model.loadJob = 0) ∧
      (badIn bads (copied.map fun m => (m.off, m.len)) = none → (∀ m, m ∈ copied → sha256 (m.body b) = m.digest) → Completes (.loadCopyDone h) s fun u =>
        u.model.resident = true ∧ u.model.st = 1 ∧ u.model.loadJob = 0 ∧ u.model.id.toNat = leAt b 0x10 8 % 2 ^ 64 ∧
        u.model.len.toNat = regionLen b % 2 ^ 64 ∧ u.model.base = s.modelRegion.1) ∧
      (∀ m, badIn bads (copied.map fun m => (m.off, m.len)) = none → copied.find? (fun m => sha256 (m.body b) != m.digest) = some m → Completes (.loadCopyDone h) s fun u =>
        EndsJob u j.id stInvalidField 0 fun v => v.model.resident = s.model.resident ∧ v.model.loadJob = 0)))

/-- R41-R47, R374. -/
def Obligations.PacketsAndCredits : Prop :=
  (∀ (p : Packet) (s : State), pktOk p = true →
    let src := pktSrc p
    let dst := pktDest p
    let vc := pktVc p
    let n := p.data.length + 1
    let ls := s.pktLane src p
    let ld := s.pktLane dst p
    let b := s.book src ls 0 vc
    let d := s.book dst ld 1 vc
    let charged := s.charge (pktPtn p) 13 none (64 * n)
    let bridged := s.pwr.isolated = true ∧ (src = 30 ∨ (pktMcast p = false ∧ dst = 30))
    (bridged → Completes (.fabricPacket p) s fun u => u = s.setFab u.fab ∧ u.fab.held = s.fab.held ++ [p] ∧ u.fab.books = s.fab.books) ∧
    (¬ bridged → (s.port src).up = true → (s.port src).failed = false → s.fab.srcWait = [] → s.fab.laneQ = [] → s.fab.hubWait = [] →
      (tget (s.ptn (pktPtn p)).regs 4 {}).regulates 4 = false →
      (b.sender = 0 → Completes (.fabricPacket p) s fun u =>
        u = charged.setFab { s.fab with laneQ := [{ pkt := p }] }) ∧
      (n ≤ b.sender → pktMcast p = false → (s.port dst).failed = false → n ≤ d.sender → Completes (.fabricPacket p) s fun u =>
        u.book src ls 0 vc = { b with sender := b.sender - n, returns := b.returns + n } ∧
        u.book dst ld 1 vc = { d with sender := d.sender - n, occ := d.occ + n } ∧
        (u.port dst).delivered = (s.port dst).delivered ++ [p] ∧ u.fab.hubWait = [] ∧ u.fab.laneQ = [] ∧ u.fab.srcWait = [] ∧
        u = charged.setFab u.fab) ∧
      (n ≤ b.sender → pktMcast p = true → tget s.fab.members (pktGroup p) 0 = 0 → Completes (.fabricPacket p) s fun u =>
        u = charged.setFab u.fab ∧ u.fab.emptyDrops = min (s.fab.emptyDrops + 1) 0xFFFFFFFF ∧ u.fab.hubWait = [] ∧
        u.book src ls 0 vc = { b with sender := b.sender - n, returns := b.returns + n } ∧ ∀ o, (u.port o).delivered = (s.port o).delivered))) ∧
  (∀ (port : Fin 31) (lane : Fin 48) (dir : Bool) (vc : Fin 6) (s : State), (s.port port).laneUp port lane = true →
    s.fab.srcWait = [] → s.fab.laneQ = [] → s.fab.hubWait = [] →
    let k := if dir then 1 else 0
    let b := s.book port lane k vc
    let others := fun (u : State) => u = s.setFab u.fab ∧
      ∀ key, key ≠ bookKey port lane k vc → tfind u.fab.books key = tfind s.fab.books key
    (b.returns ≠ 0 → Completes (.creditReturn port lane dir vc) s fun u =>
      u.book port lane k vc = { b with returns := b.returns - 1, sender := b.sender + 1 } ∧ others u) ∧
    (b.returns = 0 → dir = true → b.occ ≠ 0 → Completes (.creditReturn port lane dir vc) s fun u =>
      u.book port lane k vc = { b with occ := b.occ - 1, sender := b.sender + 1 } ∧ others u)) ∧
  (∀ (w : BitVec 32) (s : State), s.pwr.domainUp = true → s.fab.snapBusy = false → w.toNat / 2 ^ 23 % 2 = 1 →
    let port := w.toNat / 2 ^ 8 % 32
    let lane := w.toNat % 64
    let vc := w.toNat / 2 ^ 16 % 8
    let b := s.book port lane (w.toNat / 2 ^ 15 % 2) vc
    Completes (.creditSnapGo w) s fun u => u = s.setFab u.fab ∧ u.fab.snapBusy = true ∧ u.fab.books = s.fab.books ∧
      (vc < 6 → port < 31 → (s.port port).hasLane port lane = true → u.fab.snapData =
        BitVec.ofNat 64 (vcConst vc * 2 ^ 48 + b.sender * 2 ^ 32 + (b.flying + b.returns) * 2 ^ 16 + b.occ)) ∧
      (¬ (vc < 6 ∧ port < 31 ∧ (s.port port).hasLane port lane = true) → u.fab.snapData = 0)) ∧
  (∀ (l : Fin 48) (w : BitVec 32) (s : State), s.pwr.domainUp = true → (s.link l).snapBusy = false → w.toNat / 2 ^ 23 % 2 = 1 →
    let vc := w.toNat / 2 ^ 16 % 8
    let b := (s.link l).book (w.toNat / 2 ^ 15 % 2) vc
    Completes (.lnkCreditSnapGo l w) s fun u => u = s.setLinks u.links ∧ (u.link l).snapBusy = true ∧ (u.link l).st = (s.link l).st ∧
      (∀ m, m ≠ l.val → u.link m = s.link m) ∧
      (vc < 6 → (u.link l).snapData =
        BitVec.ofNat 64 (lnkConst vc * 2 ^ 48 + b.sender * 2 ^ 32 + (b.flying + b.returns) * 2 ^ 16 + b.occ)))

/-- R48, R472, R473. -/
def Obligations.LanesAndUnitsAreLost : Prop :=
  (∀ (port : Fin 31) (lane : Fin 48) (dir again : Bool) (s : State), (s.port port).laneUp port lane = true →
    let n := if again then tget (s.port port).replayFails (2 * lane.val + if dir then 1 else 0) 0 + 1 else 0
    (n < 8 → Completes (.flitCrcFail port lane dir again none) s fun u =>
      (u.port port).crcRetries = min ((s.port port).crcRetries + 1) 0xFFFF ∧ (u.port port).retired = (s.port port).retired ∧
      (u.port port).laneMap = (s.port port).laneMap ∧ u.fab.books = s.fab.books ∧ SameBytes s u ∧ u.cores = s.cores) ∧
    (8 ≤ n → (s.port port).laneMap.length = 48 → (∃ l, l < portLanes port ∧ l ≠ lane.val ∧ l ∉ (s.port port).retired) →
      Completes (.flitCrcFail port lane dir again none) s fun u =>
        (u.port port).laneUp port lane = false ∧ lane.val ∉ (u.port port).laneMap ∧ (u.port port).up = true ∧
        (u.port port).lanesUp = ((List.range (portLanes port)).filter fun l => !((s.port port).retired ++ [lane.val]).contains l).length ∧
        (u.port port).crcRetries = min ((s.port port).crcRetries + 1) 0xFFFF)) ∧
  (∀ (x : DieUnit) (s : State), s.pwr.domainUp = true → s.pwr.lossRunning = false →
    (s.pwr.unitOk x = true → Completes (.healthPollMiss x) s fun u => u.pwr.unitOk x = false) ∧
    (s.pwr.unitOk x = true → s.lossResets x = true → s.pwr.standby = true → Completes (.healthPollMiss x) s fun u =>
      u.pwr.domainUp = false ∧ u.pwr.kind = 1 ∧ u.pwr.cause = 6 ∧ u.pwr.source = unitSource x ∧ u.sh.jobs = []) ∧
    (s.pwr.unitOk x = false → Completes (.healthPollMiss x) s fun u => u = s)) ∧
  (∀ (x : DieUnit) (s : State), s.pwr.lossRunning = true → Completes (.healthPollMiss x) s fun u =>
    x ∈ u.pwr.lateLost ∧ u = s.setPwr { s.pwr with lateLost := u.pwr.lateLost })

/-- R35, R438, R458, R459. -/
def Obligations.ModuleResets : Prop :=
  (∀ s : State, s.pwr.standby = true → s.pwr.domainUp = true →
    let byReset := fun (cause : Nat) (u : State) =>
      u.pwr.kind = 1 ∧ u.pwr.cause = cause ∧ u.pwr.source = 0 ∧ u.pwr.domainUp = false ∧ u.pwr.startDue = true ∧ u.pwr.level ≤ 1 ∧
      u.sh.jobs = [] ∧ u.sync.objs = [] ∧ u.host.pages = [] ∧ u.warp.active = 0 ∧ u.warp.activeImg = none ∧ u.mgt.keyRegs = [] ∧
      u.mgt.boardKey = s.mgt.boardKey + 1 ∧ (s.memOk → ∀ a, 0x1000000000000 ≤ a → u.mb a = s.mb a)
    Completes .mgtWatchdogExpiry s (fun u => byReset 8 u ∧ u.clk = s.clk) ∧
    (∀ (clks : BitVec 6) (lost : Bool), s.clk.lock = true → (clks ≠ 0 ∨ lost = true) → Completes (.clockFailure clks lost) s fun u =>
      let bad := if lost then 0x3F#6 else clks
      byReset 5 u ∧ u.clk.faults = s.clk.faults ||| bad ∧ u.clk.ok = s.clk.ok &&& ~~~bad ∧ u.clk.lock = !lost ∧
      u.clk.unlocks = (if lost then min (s.clk.unlocks + 1) 0xFFFF else s.clk.unlocks))) ∧
  (∀ (e : BootEnv) (s : State), Completes (.powerOnReset e) s fun u =>
    u.pwr.cause = 1 ∧ u.pwr.kind = 0 ∧ u.pwr.domainUp = false ∧ u.pwr.standby = true ∧ u.sh.jobs = [] ∧ u.sync.objs = [] ∧ u.warp.active = 0 ∧
    u.mgt.secverMin = s.mgt.secverMin ∧ u.mgt.keys = s.mgt.keys ∧ u.mgt.rootKilled = s.mgt.rootKilled ∧ u.mgt.debugOpen = s.mgt.debugOpen ∧
    u.pending = s.pending ∧ u.clk.lock = e.pllLocks ∧ u.clk.ok = (if e.pllLocks then e.clkOk else 0)) ∧
  (∀ s : State, s.pwr.standby = true → (s.clk.lock = false ∨ s.clk.onXclk = true) →
    let back := fun (u : State) => u.clk = { s.clk with lock := true, ok := 0x3F#6, onXclk := false } ∧ u.field.portsStopped = false ∧
      u.time = (if s.time.st = 4 then { s.time with st := 0, valid := false, fracPpb := 0 } else s.time) ∧ u.field.set = s.field.set ∧ SameBytes s u
    Completes (.pllLockRetry true) s back ∧ Completes (.pllLockRetry false) s (fun u => u = s) ∧ Completes .pllLockReturn s back) ∧
  (∀ s : State,
    Completes .xclkLoss s (fun u => u = s.setField { s.field with xclkLost := true, xclkOut := true }) ∧
    (s.field.xclkOut = true → s.mgt.running = true → Completes .xclkReturn s fun u => u.field.xclkOut = false ∧ u.field.xclkLost = false ∧
      u.field.set = s.storedField ∧ u.field.cmdSince = 0 ∧ SameBytes s u) ∧
    (s.field.xclkOut = true → s.mgt.running = false → Completes .xclkReturn s fun u => u = s.setField { s.field with xclkOut := false }))

/-- R412, R468, R469. -/
def Obligations.StartUps : Prop :=
  (∀ (e : BootEnv) (s : State), s.mgt.trial = true → s.mgt.running = false → s.pwr.standby = true →
    (s.mgt.trialFails < 2 → e.trialOk = false → s.mgt.norTrial = true → (s.mgt.norNext = 1 ∨ s.mgt.norNext = 2) →
      s.slotPasses s.mgt.norNext = true → Completes (.trialTimeout e) s fun u =>
        u.mgt.trialFails = s.mgt.trialFails + 1 ∧ u.mgt.trial = true ∧ u.mgt.running = false ∧ u.mgt.bootSlot = s.mgt.norNext) ∧
    (2 ≤ s.mgt.trialFails → s.slotPasses s.mgt.otherSlot = true → Completes (.trialTimeout e) s fun u =>
      u.mgt.norNext = s.mgt.otherSlot ∧ u.mgt.norTrial = false ∧ u.mgt.trialFails = 0 ∧ u.mgt.bootSlot = s.mgt.otherSlot ∧
      u.mgt.running = true ∧ u.mgt.trial = false)) ∧
  (∀ (e : StartEnv) (s : State), s.mayStart = true → s.pwr.level = 1 →
    let s2 := ((s.modClk fun c => { c with ok := 0x3F#6 }).startUnits e).each (List.range 64) fun s c => s.selfTest e c
    (s2.meetsSl2 = true → Completes (.domainRestart e) s fun u =>
      u.pwr.domainUp = true ∧ u.pwr.startUps = s.pwr.startUps + 1 ∧ u.pwr.isolated = false ∧ u.pwr.startDue = false ∧
      (s.pwr.holdup = 1 ∨ s.pwr.holdup = 3 → 2 ≤ u.pwr.level)) ∧
    (s2.meetsSl2 = false → Completes (.domainRestart e) s fun u => u.pwr.domainUp = false ∧
      let recent := s.pwr.fails.filter fun t => decide (s.now < t + 600000000000)
      (2 ≤ recent.length → u.pwr.lockout = true ∧ u.pwr.startDue = false) ∧ u.pwr.fails = recent ++ [s.now]))

/-- R462-R467. -/
def Obligations.PowerEvents : Prop :=
  (∀ (high : Bool) (s : State), s.pwr.standby = true → s.pwr.in54 = true → Completes (.input54vFail high) s fun u =>
    u.pwr.in54 = false ∧ u.pwr.pfails = min (s.pwr.pfails + 1) 0xFFFF ∧ u.pwr.holdup = (if s.pwr.holdup = 3 then 3 else 2) ∧
    u.pwr.domainUp = false ∧ (s.pwr.domainUp = true → u.pwr.lossRunning = true ∧ u.pwr.startDue = true ∧ u.sh.jobs = [] ∧ u.pwr.level ≤ 1)) ∧
  (∀ s : State, s.pwr.standby = true →
    (s.pwr.in54 = false → s.pwr.lossRunning = false → Completes .input54vReturn s fun u =>
      u = s.setPwr { s.pwr with in54 := true, lossRunning := false, holdup := if s.pwr.holdup = 3 then 3 else 0 }) ∧
    (s.pwr.in54 = false → s.pwr.lossRunning = true → Completes .input54vReturn s fun u =>
      u.pwr.in54 = true ∧ u.pwr.lossRunning = false ∧ u.pwr.kind = 1 ∧ u.pwr.cause = 9 ∧ u.pwr.domainUp = false) ∧
    Completes .standbyFail s (fun u => u.pwr.standby = false ∧ u.mgt.running = false ∧ u.pwr.domainUp = false ∧ u.pwr.level = 0 ∧
      u.chain.upUp = false ∧ u.chain.downUp = false ∧ u.mgt.secverMin = s.mgt.secverMin) ∧
    (s.pwr.in54 = true → s.pwr.holdup ≠ 1 → s.pwr.holdup ≠ 3 → Completes .holdupReady s fun u => u.pwr.holdup = 1 ∧
      (s.pwr.domainUp = true → s.pwr.level = 1 → 2 ≤ u.pwr.level)) ∧
    (s.pwr.holdup ≠ 3 → Completes .holdupFault s fun u => u.pwr.holdup = 3) ∧
    Completes .lowFlow s (fun u => u = s.log 0 0x8403 [] ∧ u.pwr = s.pwr ∧ SameBytes s u)) ∧
  (∀ (avg : BitVec 16) (s : State), s.pwr.domainUp = true → Completes (.powerCapStep avg) s fun u =>
    let g := if 1950 < avg.toNat then max 1 (s.pwr.gate - 1) else if avg.toNat < 1880 then min 8 (s.pwr.gate + 1) else s.pwr.gate
    u.pwr = { s.pwr with avgW := avg.toNat, gate := g, capping := decide (g < 8) } ∧ SameBytes s u) ∧
  (∀ (k : Fin 162) (lim : Fin 3) (s : State), s.pwr.standby = true →
    (hasLimit k lim = true → (k.val, lim.val) ∉ s.pwr.acting → lim.val ≠ 2 → Completes (.temperatureLimit k lim) s fun u =>
      u.pwr = { s.pwr with acting := s.pwr.acting ++ [(k.val, lim.val)] } ∧ u.sh = s.sh) ∧
    (k.val < 16 → lim.val = 2 → (k.val, 2) ∉ s.pwr.acting → s.pwr.domainUp = true → s.pwr.lossRunning = false →
      Completes (.temperatureLimit k lim) s fun u => u.pwr.ctOk.getLsbD k = false) ∧
    (16 ≤ k.val → k.val < 31 → lim.val = 2 → (k.val, 2) ∉ s.pwr.acting → s.pwr.domainUp = true → Completes (.temperatureLimit k lim) s fun u =>
      u.pwr.restartWait = some k.val ∧ u.pwr.cause = 7 ∧ u.pwr.domainUp = false) ∧
    Completes (.temperatureRelease k lim) s fun u => (k.val, lim.val) ∉ u.pwr.acting ∧
      u.pwr = { s.pwr with acting := s.pwr.acting.filter fun a => a != (k.val, lim.val) }) ∧
  (∀ (r : Fin 34) (high : Bool) (s : State), s.pwr.domainUp = true → s.pwr.lossRunning = false →
    (r.val < 16 → Completes (.railOutOfRange r high) s fun u => u.pwr.ctOk.getLsbD r = false) ∧
    (r.val = 24 → Completes (.railOutOfRange r high) s fun u => u.pwr.hubOk = false) ∧
    (r.val = 31 → Completes (.railOutOfRange r high) s fun u => u.pwr.in54 = false ∧ u.pwr.domainUp = false) ∧
    (r.val = 32 → s.pwr.standby = true → Completes (.railOutOfRange r high) s fun u => u.pwr.cause = 6 ∧ u.pwr.domainUp = false))

/-- R263, R396. -/
def Obligations.SensorsAndEnergy : Prop :=
  (∀ (vals : List (Option (BitVec 32))) (i : Nat) (s : State), s.mgt.running = true → i < vals.length → isSensor i = true →
    let x : Sensor := tget s.mgt.sensors i {}
    (∀ w, vals[i]? = some (some w) → inRange i w = true → Completes (.sensorSample vals) s fun u =>
      tget u.mgt.sensors i {} = { valid := true, value := w }) ∧
    ((vals[i]? = some none ∨ ∃ w, vals[i]? = some (some w) ∧ inRange i w = false) → Completes (.sensorSample vals) s fun u =>
      tget u.mgt.sensors i {} = { x with valid := false, failed := true })) ∧
  (∀ (p : Fin 32) (ks : List Nat) (s : State), s.pwr.domainUp = true → (s.ptn p).live = true →
    Completes (.energyEstimate [(p, ks)]) s fun u =>
      let e := (List.zipWith (· * ·) ks s.fac.coeffs).sum
      tget (u.ptn p).acct 0 0 = (tget (s.ptn p).acct 0 0 + e) % 2 ^ 64 ∧ (u.ptn p).winEst = (s.ptn p).winEst + e ∧
      (∀ k, k ≠ 0 → tget (u.ptn p).acct k 0 = tget (s.ptn p).acct k 0) ∧ (∀ q, q ≠ p.val → u.ptn q = s.ptn q) ∧ u = s.setPtns u.ptns) ∧
  (∀ s : State, s.pwr.domainUp = true →
    let sum := (s.ptns.map fun (e : Nat × PtnSt) => e.2.winEst).foldl (· + ·) 0
    (∀ m, Completes (.energyReconcile (some m)) s fun u =>
      (∀ p, let e := (s.ptn p).winEst
        (u.ptn p).winEst = 0 ∧ BitVec.ofNat 64 (tget (u.ptn p).acct 0 0) =
          BitVec.ofNat 64 (tget (s.ptn p).acct 0 0) - BitVec.ofNat 64 (if sum ≤ m then 0 else e - e * m / sum) ∧
        ∀ k, k ≠ 0 → tget (u.ptn p).acct k 0 = tget (s.ptn p).acct k 0) ∧
      u.sh.measured = s.sh.measured + BitVec.ofNat 64 m ∧ u.sh.recons = s.sh.recons + 1 ∧ u = (s.setPtns u.ptns).setSh u.sh) ∧
    Completes (.energyReconcile none) s fun u => (∀ p, (u.ptn p).winEst = 0 ∧
      BitVec.ofNat 64 (tget (u.ptn p).acct 0 0) = BitVec.ofNat 64 (tget (s.ptn p).acct 0 0)) ∧ u.sh.sensorLost = true ∧ u.sh.recons = s.sh.recons ∧ SameBytes s u)

/-- R294, R295: changes of an index. -/
def Obligations.ChangesTakeCsns : Prop :=
  (∀ (ix : IndexSt) (enc : Bool) (r : List Byte),
    let id := leAt r 0 7
    let x := ix.insertOne enc r
    let gen := match tfind ix.known id with
      | some g => (g + 1) % 256
      | none => 0
    (x.2.status ≠ stOk → x.1 = ix ∧ (x.2.status = stInvalidField ∨ x.2.status = stNoResource)) ∧
    (ix.insertBad enc r = true → x.2.status = stInvalidField) ∧
    (x.2.status = stOk → x.1.csn = ix.csn + 1 ∧ x.2.csn = ix.csn + 1 ∧ x.2.gen = gen ∧ tfind x.1.live id = some gen ∧
      (∃ e, x.1.side = ix.side ++ [e] ∧ e.csn = ix.csn + 1 ∧ e.e.ident = identOf id gen ∧ e.merged = none) ∧
      (∀ g, tfind ix.live id = some g → x.1.tombs = ix.tombs ++ [{ ident := identOf id g, csn := ix.csn + 1 }]) ∧
      (tfind ix.live id = none → x.1.tombs = ix.tombs) ∧ x.1.vers = ix.vers ∧ ∀ k, k ≠ id → tfind x.1.live k = tfind ix.live k)) ∧
  (∀ (ix : IndexSt) (id : Nat),
    let x := ix.deleteOne id
    (tfind ix.live id = none → x.1 = ix ∧ x.2.status = stOk ∧ x.2.csn = 0 ∧ x.2.flags = 2) ∧
    (∀ g, tfind ix.live id = some g → 2048 ≤ ix.tombs.length → x.1 = ix ∧ x.2.status = stNoResource) ∧
    (∀ g, tfind ix.live id = some g → ix.tombs.length < 2048 → x.2.csn = ix.csn + 1 ∧ x.2.gen = g ∧ tfind x.1.live id = none ∧
      x.1.csn = ix.csn + 1 ∧ x.1.tombs = ix.tombs ++ [{ ident := identOf id g, csn := ix.csn + 1 }] ∧ x.1.side = ix.side)) ∧
  (∀ (op : Nat) (len : IndexSt → Nat) (one : IndexSt → List Byte → IndexSt × Verdict) (cmd : BitVec 32 → Instr),
    (op = 0x03 ∧ len = IndexSt.insLen ∧ one = (fun ix r => ix.insertOne true r) ∧ cmd = .insertJob) ∨
      (op = 0x04 ∧ len = (fun _ => 8) ∧ one = (fun ix r => ix.deleteOne (leNat r)) ∧ cmd = .deleteJob) →
    ∀ (id : BitVec 32) (s : State) (j : Job), s.nvme.ps ≠ 2 → s.admitted id.toNat op = some j →
      let w := s.flashWake
      let n := leAt j.entry 8 4
      (w.openIndex j.ptn (leAt j.entry 4 2) = none → Completes (cmd id) s fun u => u = w.endJob j.id stInvalidField 0) ∧
      (∀ ix st s1 bs s2, w.openIndex j.ptn (leAt j.entry 4 2) = some ix → w.bufMap j 0 (leAt j.entry 0x18 8) (16 * n) true = (some st, s1) →
        s1.bufReadAs j true 0 (leAt j.entry 0x10 8) (len ix * n) = (some bs, s2) →
        let r := ix.judge one (recsOf (len ix) n bs)
        let good := (r.2.filter fun v => v.status == stOk).length
        Completes (cmd id) s fun u => EndsJob u j.id (if good = n then stOk else stPartial) good fun v =>
          v = State.writePieces j.ptn st (r.2.flatMap Verdict.bytes) (s2.commitIndex j.ptn ix r.1))) ∧
  (∀ (p : Fin 32) (op : Nat) (len : IndexSt → Nat) (one : IndexSt → List Byte → IndexSt × Verdict) (cmd : Instr),
    (op = 3 ∧ len = IndexSt.insLen ∧ one = (fun ix r => ix.insertOne false r) ∧ cmd = .scanInsert p) ∨
      (op = 4 ∧ len = (fun _ => 8) ∧ one = (fun ix r => ix.deleteOne (leNat r)) ∧ cmd = .scanDelete p) →
    ∀ (s : State) slot bs ix, s.scanPending p < 64 → s.ringFront p 1 64 = some (slot, bs) → s.scanWaits p (scanRecOf bs) = false →
      s.scanCause p (scanRecOf bs) = none → (scanRecOf bs).op = op → s.recOpen p 1 64 →
      let s0 := (s.recPoint p 1 64 id).ringTaken p 1
      s0.openIndex p (scanRecOf bs).index = some ix →
      let r := scanRecOf bs
      let s2 := s0.peekFx p r.a (len ix * r.count)
      Completes cmd s fun u => ∃ v : State, u = v.signalDone 79 p r.doneObj r.doneAdd ∧
        v.search = (s2.commitIndex p ix (ix.judge one (recsOf (len ix) r.count ((s2.peek p r.a (len ix * r.count)).getD []))).1).search)

/-- R265-R299, R362. -/
def Obligations.IndexLife : Prop :=
  (∀ (id : BitVec 32) (s : State) (j : Job), s.nvme.ps ≠ 2 → s.admitted id.toNat 0x05 = some j →
    let w := s.flashWake
    let e := j.entry
    let h := leAt e 4 2
    let sub := leAt e 6 1
    let dim := leAt e 8 2
    let lists := leAt e 0x10 4
    let words := if leAt e 0xC 1 = 0 then 256 else 16
    (∀ cb s1 wb s2, sub = 0 → w.handleOk j.ptn h = true → createBad e = false → w.index h = none →
      w.nsUnits (handleNs h) + (4 * dim * (lists + words) + 16383) / 16384 ≤ w.nsRoom (handleNs h) →
      w.bufRead j 0 (leAt e 0x18 8) (4 * dim * lists) = (some cb, s1) →
      s1.bufReadAs j true 0 (leAt e 0x20 8) (4 * dim * words) = (some wb, s2) →
      Completes (.createIx id) s fun u => EndsJob u j.id stOk 0 fun v => ∃ ix, v.index h = some ix ∧ ix.csn = 1 ∧ ix.dim = dim ∧
        ix.lists = lists ∧ ix.vfmt = leAt e 0xA 1 ∧ ix.metric = leAt e 0xB 1 ∧ ix.code = leAt e 0xC 1 ∧ ix.stripe = leAt e 0xD 1 ∧
        ix.sideMax = leAt e 0x14 4 ∧ ix.vers = [] ∧ ix.side = [] ∧ ix.tombs = []) ∧
    (sub = 0 → (w.handleOk j.ptn h = false ∨ createBad e = true ∨ (w.index h).isSome = true) → Completes (.createIx id) s fun u =>
      u = w.endJob j.id stInvalidField 0) ∧
    (∀ ix ps s1, sub = 1 → w.indexFor j.ptn h = some ix → ix.ctxLen ≤ leAt e 0x28 4 → leAt e 0x18 8 % 65536 = 0 →
      w.mapWrong j.ptn (leAt e 0x18 8) (leAt e 0x28 4 * 65536) { r := true, w := true } = false →
      w.mapWrong j.ptn (leAt e 0x18 8) ix.codeLen { x := true } = false →
      w.bufMap j 0 (leAt e 0x18 8) (w.openBytes 48 (ix.ctxLen * 65536)).length true = (some ps, s1) →
      Completes (.openIx id) s fun u => EndsJob u j.id stOk 0 fun v => ∃ i, v.index ix.handle = some i ∧ i.opened = some (leAt e 0x18 8)) ∧
    (∀ ix, sub = 2 → w.indexFor j.ptn h = some ix → ix.mergeWait = [] →
      (ix.merging = 0 → Completes (.mergeIx id) s fun u => ∃ i, u.index ix.handle = some i ∧ i.merging = j.id ∧ i.mergeM = ix.csn ∧
        i.csn = ix.csn ∧ i.mergeWait = [] ∧ ∃ j', u.job j.id = some j' ∧ j'.stage = .running) ∧
      (ix.merging ≠ 0 → Completes (.mergeIx id) s fun u => ∃ i, u.index ix.handle = some i ∧ i.merging = ix.merging ∧ i.mergeWait = [j.id])) ∧
    (∀ ix, sub = 3 → w.indexFor j.ptn h = some ix → j.id ≠ 0 →
      (ix.snaps = [] → ix.merging = 0 → Completes (.dropIx id) s fun u => u.index ix.handle = none) ∧
      ((ix.snaps ≠ [] ∨ ix.merging ≠ 0) → (s.search.indexes.map (·.handle)).Nodup → Completes (.dropIx id) s fun u => ∃ i, u.index ix.handle = some i ∧ i.dropping = j.id)) ∧
    (∀ ix ps s1, sub = 4 → w.indexFor j.ptn h = some ix → w.bufMap j 0 (leAt e 0x18 8) (w.statBlock ix).length true = (some ps, s1) →
      Completes (.statIx id) s fun u => EndsJob u j.id stOk 0 fun v => v = State.writePieces j.ptn ps (w.statBlock ix) s1)) ∧
  (∀ (id : BitVec 32) (bad : List (BitVec 21)) (s : State) (j : Job) (ix : IndexSt), s.nvme.ps ≠ 2 → id ≠ 0 → s.job id.toNat = some j →
    let w := s.flashWake
    w.search.indexes.find? (fun i => i.merging == id.toNat && id != 0) = some ix → w.index ix.handle = some ix →
    let pages := (ix.mergeNew.map fun e => ix.versionPages e.2).foldl (· + ·) 0
    let owner := w.nsOwner (handleNs ix.handle)
    (∀ e, e ∈ ix.mergeNew → e.2.length ≤ 16777215) → w.nsUnits (handleNs ix.handle) + pages ≤ w.nsRoom (handleNs ix.handle) →
    (ix.mergeNew = [] → Completes (.mergePublish id bad) s fun u => EndsJob u id.toNat stOk 0 fun v => ∃ i, v.index ix.handle = some i ∧
      i = { ix with merging := 0, mergeNew := [] }) ∧
    (∀ t s1, ix.mergeNew ≠ [] → (tget (w.ptn owner).regs 3 {}).holds 3 j.lc = false →
      (w.unheld owner 3 (.job id.toNat)).placeAll ix (ix.csn + 1) (bad.map (·.toNat)) = (some t, s1) → Completes (.mergePublish id bad) s fun u =>
      EndsJob u id.toNat stOk ix.mergeNew.length fun v => ∃ i, v.index ix.handle = some i ∧ i.csn = ix.csn + 1 ∧ i.lastPub = ix.csn + 1 ∧
        i.merging = 0 ∧ i.mergeNew = [] ∧ i.live = ix.live)) ∧
  (∀ (id : BitVec 32) (s : State) (j : Job), s.admitted id.toNat 0x06 = some j →
    let e := j.entry
    let n := leAt e 4 1
    (∀ ps s1, leAt e 6 1 % 2 = 0 → tfind s.ingest.binds n = none →
      (∀ b, b ∈ s.ingest.binds → b.1 ≠ n → ¬ (b.2.port = leAt e 5 1 ∧ b.2.etype = leAt e 8 2 ∧ b.2.stream = leAt e 0xA 2)) →
      s.storeOk j.ptn (leAt e 7 1) = true → s.bufMap j 0 (leAt e 0x10 8) (leAt e 0x18 8) true = (some ps, s1) →
      (∀ x, x ∈ ps → paRange x.1 = .board) → Completes (.ingestBind id) s fun u => EndsJob u j.id stOk 0 fun v =>
        tfind v.ingest.binds n = some { ptn := j.ptn, port := leAt e 5 1, etype := leAt e 8 2, stream := leAt e 0xA 2, buf := leAt e 0x10 8,
                                        len := leAt e 0x18 8, obj := leAt e 0xC 2, store := leAt e 7 1 } ∧
        ∀ k, k ≠ n → tfind v.ingest.binds k = tfind s.ingest.binds k) ∧
    (leAt e 6 1 % 2 = 1 →
      (∀ b, tfind s.ingest.binds n = some b → b.ptn = j.ptn → Completes (.unbind id) s fun u => EndsJob u j.id stOk 0 fun v =>
        tfind v.ingest.binds n = none ∧ v = (s.setIngest { s.ingest with binds := tdel s.ingest.binds n }).meetLevels) ∧
      ((∀ b, tfind s.ingest.binds n = some b → b.ptn ≠ j.ptn) → Completes (.unbind id) s fun u => u = s.endJob j.id stInvalidField 0)))

/-- R271, R275, R290-R292. -/
def Obligations.SearchesRun : Prop :=
  ∀ (id : BitVec 32) (s : State), s.nvme.ps ≠ 2 →
    let w := s.flashWake
    (∀ j, s.admitted id.toNat 0x02 = some j →
      let e := j.entry
      let nq := leAt e 8 1
      (w.openIndex j.ptn (leAt e 4 2) = none → Completes (.searchJob id) s fun u => u = w.endJob j.id stInvalidField 0) ∧
      (∀ ix snap qb s1 ps s2, w.openIndex j.ptn (leAt e 4 2) = some ix → ix.pinOf j.id = some snap → leAt e 6 2 ≤ ix.lists →
        let n := scratchLen nq (leAt e 6 2) (leAt e 9 1 + 1) (leAt e 0xC 2) ix.recSize
        w.mapWrong j.ptn (leAt e 0x20 8) n { r := true, w := true } = false → w.scanPending j.ptn < 64 → leAt e 0x18 8 = 0 →
        w.bufRead j 0 (leAt e 0x10 8) (nq * ix.recSize) = (some qb, s1) →
        s1.bufMapAs j true 0 (leAt e 0x20 8) n true = (some ps, s2) →
        Completes (.searchJob id) s fun u => ∃ b, u.search.batches = s.search.batches ++ [b] ∧ b.tag = s.search.nextTag ∧ b.job = j.id ∧
          b.ptn = j.ptn ∧ b.index = ix.handle ∧ b.nq = nq ∧ b.r = leAt e 9 1 + 1 ∧ b.prefetch = leAt e 0xC 2 ∧ b.lc = j.lc ∧ b.queries = qb ∧
          b.filters = [] ∧ b.placed = false ∧ b.snap = snap ∧ leAt e 0x20 8 ≤ b.dVa ∧ b.dVa + 8256 ≤ b.eVa ∧ b.eVa ≤ leAt e 0x20 8 + n ∧
          u.search.indexes = s.search.indexes ∧ ∃ j', u.job j.id = some j' ∧ j'.stage = .running)) ∧
    (∀ j b ix ps s1, s.admitted id.toNat 0x02 = none → s.job id.toNat = some j →
      w.search.batches.find? (fun b => b.job == j.id && b.job != 0 && b.allReported) = some b →
      w.index b.index = some ix → (b.status = 0 ∨ b.status = stPartial) →
      (b.headed = true ∨ w.movesAt b.ptn b.dVa 0x2040 { w := true } = false) →
      let w1 := if b.headed then w else w.writeHeader b
      (tget (w1.ptn j.ptn).regs 2 {}).holds 2 b.lc = false →
      let rs := (List.range b.nq).map fun q => w1.resultBlock j b ix q
      ((w1.unheld j.ptn 2 (.job j.id)).fetchRest b ix).bufMap j 0 (leAt j.entry 0x28 8) (rs.flatMap (·.1)).length true = (some ps, s1) →
      Completes (.searchJob id) s fun u => EndsJob u j.id (if rs.any (·.2) then stPartial else stOk) b.pagesLost fun v =>
        v.search.batches = s.search.batches.filter fun x => x.tag != b.tag)

/-- R275-R289. -/
def Obligations.QuernScans : Prop :=
  (∀ (p : Fin 32) (s : State) slot bs, s.scanPending p < 64 → s.ringFront p 1 64 = some (slot, bs) →
    let r := scanRecOf bs
    s.scanWaits p r = false → s.recOpen p 1 64 →
    (∀ ix, s.scanCause p r = none → r.op = 1 → s.openIndex p r.index = some ix → Completes (.scan p) s fun u => ∃ b,
      u.search.batches = s.search.batches ++ [b] ∧ b.tag = s.search.nextTag ∧ b.ptn = p.val ∧ b.index = ix.handle ∧ b.nq = r.nq ∧
      b.r = r.rm1 + 1 ∧ b.prefetch = r.prefetch ∧ b.doneObj = r.doneObj ∧ b.doneAdd = r.doneAdd ∧ b.job = 0 ∧ b.placed = false ∧
      b.snap = (if r.snap = 0 then ix.csn else r.snap) ∧ (u.ptn p).scan.taken = ((s.ptn p).scan.taken + 1) % 2 ^ 16) ∧
    (∀ c, s.scanCause p r = some c → Completes (.scan p) s fun u => u.search = s.search ∧
      (u.ptn p).scan.errors = min ((s.ptn p).scan.errors + 1) 0xFFFF ∧ (u.ptn p).scan.taken = ((s.ptn p).scan.taken + 1) % 2 ^ 16)) ∧
  (∀ (p : Fin 32) (s : State) b b0 ix ch loc bs ps s1, s.ringFront p 1 64 = none → s.nvme.ps ≠ 2 → s.fetchFront p = some b →
    s.batch b.tag = some b → s.index b.index = some ix → b.locs = [(ch, loc)] → b.placed = false → b.written = [] →
    (tget (s.ptn b.ptn).regs 2 {}).holds 2 b.lc = false →
    let s0 := (s.unheld b.ptn 2 (.batch b.tag 64)).beginFetch b ix
    s0.batch b.tag = some b0 → s0.fetchRecord b0 ix 0 ch loc = (bs, 0) →
    State.bufXlate b.ptn { w := true, lc := b.lc } (pagePieces (b.eVa % 2 ^ 48) bs.length) [] s0 = (.ok ps, s1) →
    Completes (.fetchRecords p) s fun u =>
      u = (((State.writePieces b.ptn ps bs s1).modBatch b.tag fun b => { b with written := tset b.written 0 () }).dropBatch
        { b0 with written := [(0, ())] }).signalDone 79 b.ptn b.doneObj b.doneAdd) ∧
  (∀ (lc : Bool) (s : State) b ix ds, s.nvme.ps ≠ 2 → s.readyBatch lc = some (b, ix, ds) → s.batch b.tag = some b →
    (s.search.batches.find? fun b => b.endWaits && b.chans.isEmpty && b.lc == lc) = none →
    let cs := extentChans ds
    cs ≠ [] → (lc = true ∨ s.lcPending = false) → Completes (.batchPlace lc) s fun u =>
      u.batch b.tag = some { b with placed := true, chans := cs } ∧
      (∀ c, c ∈ cs → (u.eng c).lcFree = (if b.lc then (s.eng c).lcFree - b.nq else (s.eng c).lcFree) ∧
        (u.eng c).beFree = (if b.lc then (s.eng c).beFree else (s.eng c).beFree - b.nq) ∧
        (∃ base, (s.eng c).slotBase b.lc b.nq = some base ∧ (u.eng c).slots = (s.eng c).slots ++ [(b.tag, b.lc, base, b.nq)]) ∧
        (u.eng c).pend.length = (s.eng c).pend.length + (ds.filter fun d => d.1 == c).length) ∧
      (∀ c, c ∉ cs → u.eng c = s.eng c) ∧ SameBytes s u) ∧
  (∀ (ch : Fin 64) (s : State) d ds, (s.eng ch).pend = d :: ds → (s.eng ch).queue.length < 64 → Completes (.extentDescriptor ch) s fun u =>
    u.eng ch = { s.eng ch with pend := ds, queue := (s.eng ch).queue ++ [d] } ∧ u = s.setSearch u.search ∧
    ∀ c, c ≠ ch.val → u.eng c = s.eng c) ∧
  (∀ (ch : Fin 64) (s : State) d arb b ix, s.nvme.ps ≠ 2 → (∀ d, d ∈ (s.eng ch).queue → s.descHeld d = false) →
    s.grantScan ch = (some d, arb) → s.batch d.tag = some b → s.index b.index = some ix → d.at_ = 0 → d.done < d.pages →
    let page := s.pageBytes (d.entryUnit + 4 * d.done)
    let lost := s.pageLost (d.entryUnit + 4 * d.done)
    let moved := fun (u : State) => (u.eng ch).queue = (if d.done + 1 < d.pages then
      modFirst (fun x => x == d) (fun _ => { d with done := d.done + 1 }) (s.eng ch).queue else dropFirst (fun x => x == d) (s.eng ch).queue)
    (lost = true ∨ d.trailerOk page = false → Completes (.entryPageRead ch none) s fun u => moved u ∧
      (∃ b', u.batch d.tag = some b' ∧ b'.pagesLost = b.pagesLost + 1 ∧ b'.tops = b.tops) ∧
      (u.eng ch).pagesLost = min ((s.eng ch).pagesLost + 1) 0xFFFF ∧ (u.eng ch).entries = (s.eng ch).entries ∧
      (u.ptn b.ptn).scanLost = min ((s.ptn b.ptn).scanLost + 1) 0xFFFF) ∧
    (lost = false → d.trailerOk page = true → (∀ i, (tget b.tops i []).length ≤ b.r) →
      let count := min 341 (leAt page 16374 2)
      let n := s.scanShare d count
      Completes (.entryPageRead ch none) s fun u =>
        (count ≤ n → moved u) ∧
        (n < count → (u.eng ch).queue = modFirst (fun x => x == d) (fun _ => { d with at_ := n }) (s.eng ch).queue) ∧
        (d.lc = true → n = count) ∧
        (∃ b', u.batch d.tag = some b' ∧ b'.pagesLost = b.pagesLost ∧ ∀ i, (tget b'.tops i []).length ≤ b.r) ∧
        (u.eng ch).entries = (s.eng ch).entries + BitVec.ofNat 48 (min n count) ∧ (u.eng ch).pagesLost = (s.eng ch).pagesLost)) ∧
  (∀ (ch : Fin 64) (s : State) b ix, s.reportDue ch = some b → s.batch b.tag = some b → s.index b.index = some ix →
    (∃ c, c ∈ b.chans ∧ c ≠ ch.val ∧ c ∉ b.reported) →
    let left := fun (u : State) => (∃ b', u.batch b.tag = some b' ∧ b'.reported = b.reported ++ [ch.val] ∧ b'.tops = b.tops) ∧
      (u.eng ch).beFree = (if b.lc then (s.eng ch).beFree else (s.eng ch).beFree + b.nq) ∧
      (u.eng ch).lcFree = (if b.lc then (s.eng ch).lcFree + b.nq else (s.eng ch).lcFree) ∧ u.sync = s.sync
    (s.batchAborted b.tag = true → Completes (.engineReport ch) s fun u => u = s.leaveEngine b ch ∧ left u) ∧
    (∀ b1 b2, s.batchAborted b.tag = false → (tget (s.ptn b.ptn).regs 2 {}).holds 2 b.lc = false →
      let s1 := (s.unheld b.ptn 2 (.batch b.tag ch)).prefetch b ix ch
      let s2 := s1.reportQueries b1 ix ch
      s1.batch b.tag = some b1 → s2.batch b.tag = some b2 → ((List.range b.nq).all fun q => thas b2.written (64 * q + ch)) = true →
      Completes (.engineReport ch) s fun u => u = s2.leaveEngine b2 ch ∧ left u))

/-- R303-R328: the FC dies. -/
def Obligations.FlashWorks : Prop :=
  (∀ (ch : Fin 64) (s : State),
    let g := tget s.flash.gather ch []
    (s.dieWaits (fcOf ch) = true → Completes (.wordlineGatherExpiry ch) s fun u => u = s) ∧
    (∀ k s1, g ≠ [] → thas s.flash.progs ch = false → s.dieWaits (fcOf ch) = false → s.pwr.lossRunning = false → s.chanOk ch = true →
      State.needMember ch true 4 s = (some k, s1) → Completes (.wordlineGatherExpiry ch) s fun u =>
        tfind u.flash.progs ch = some { block := k, page := 4 * (s1.blk k).nextPage, units := g.take 64 } ∧
        tget u.flash.gather ch [] = g.drop 64 ∧ u.blk k = { s1.blk k with nextPage := (s1.blk k).nextPage + 1, reads := 0 } ∧
        u = s1.setFlash u.flash ∧ u.flash.map = s1.flash.map)) ∧
  (∀ (block : BitVec 21) (s : State),
    let k := block.toNat
    let f := fcOf (blockChan k)
    let b := s.blk k
    b.pool = .free → s.pwr.domainUp = true →
    Completes (.eraseComplete block true) s (fun u => ∃ v : State, u = v.wearLevel f ∧ v = s.setFlash v.flash ∧ v.flash.map = s.flash.map ∧
      v.blk k = { b with nextPage := 0, dirty := false, reads := 0, wear := b.wear + if b.oneBit then 1 else 20 }) ∧
    ((∀ r, r ∈ s.flash.rows → r.id ≠ b.row) → Completes (.eraseComplete block false) s fun u => (u.blk k).pool = .retired ∧
      (u.fcd f).retired = (s.fcd f).retired + 1 ∧ (u.fcd f).free = (s.fcd f).free - 1 ∧ (u.fcd f).full = (s.fcd f).full)) ∧
  (∀ (unit : BitVec 36) (s : State), s.pwr.domainUp = true →
    let a := unit.toNat
    let f := fcOf (a / 2 ^ 30)
    let counted := fun (u : State) => (u.blk (unitBlock a)).reads = (s.blk (unitBlock a)).reads + 1
    (∀ x, Completes (.nandPageRead unit (.hard x)) s fun u => counted u ∧ u = s.setFlash u.flash ∧ u.flash.dies = s.flash.dies ∧
      u.flash.map = s.flash.map) ∧
    (∀ x, Completes (.nandPageRead unit (.retry x)) s fun u => counted u ∧ (u.fcd f).retries = min ((s.fcd f).retries + 1) 0xFFFF ∧
      (u.fcd f).soft = (s.fcd f).soft ∧ u.flash.map = s.flash.map) ∧
    Completes (.nandPageRead unit .soft) s (fun u => counted u ∧ (u.fcd f).retries = min ((s.fcd f).retries + 1) 0xFFFF ∧
      (u.fcd f).soft = min ((s.fcd f).soft + 1) 0xFFFF ∧ u.flash.map = s.flash.map) ∧
    Completes (.nandPageRead unit (.sysLost false)) s (fun u => counted u ∧ (u.fcd f).lost = min ((s.fcd f).lost + 1) 0xFFFF ∧
      (u.fcd f).soft = min ((s.fcd f).soft + 1) 0xFFFF ∧ u.flash.map = s.flash.map ∧ u.flash.sys = s.flash.sys) ∧
    Completes (.nandPageRead unit (.sysLost true)) s (fun u => u.pwr.domainUp = false ∧ u.pwr.startDue = false ∧ u.flash.sealed = true) ∧
    (s.stripeDone a = true → Completes (.nandPageRead unit .rebuilt) s fun u => (u.fcd f).rebuilds = min ((s.fcd f).rebuilds + 1) 0xFFFF) ∧
    (∀ n lba res, s.unitOwner a = some (n, lba) → s.unitRun a = none → (res = .lost ∨ res = .rebuilt ∧ s.stripeDone a = false) →
      Completes (.nandPageRead unit res) s fun u => u.mapEnt n lba = { unreadable := true } ∧
      (u.fcd f).lost = min ((s.fcd f).lost + 1) 0xFFFF ∧ ∀ n' lba', mapKey n' lba' ≠ mapKey n lba → u.mapEnt n' lba' = s.mapEnt n' lba')) ∧
  (∀ (die : Fin 8) (bad : List (BitVec 21)) (s : State),
    let fails := bad.map (·.toNat)
    ((s.dieWaits die = true ∨ s.millUsed * 10 < s.flash.capUser) → Completes (.fold die bad) s fun u => u = s) ∧
    (∀ k b, s.dieWaits die = false → s.flash.capUser ≤ s.millUsed * 10 → s.nvme.ps ≠ 2 →
      let old := fun (x : Nat × BlockSt) => x ∈ s.dieBlocks die ∧ x.2.oneBit = true ∧ (x.2.pool = .full ∨ x.2.pool = .opened) ∧ x.2.valid ≠ 0
      old (k, b) → b.opened ≤ s.flash.openSeq → (∀ x, old x → x ≠ (k, b) → b.opened < x.2.opened) → Completes (.fold die bad) s fun u =>
        u = ((s.flashWake.relocate (blockChan k) false ((s.liveUnits k).take 64) fails).moveRetired fails).millFreed.flushStores) ∧
    (s.dieWaits die = false → s.nvme.ps ≠ 2 →
      (8192 ≤ (s.fcd die).free → Completes (.garbageCollection die bad) s fun u => u = s.modFcd die fun d => { d with gc := false }) ∧
      (∀ k b, (s.fcd die).free < 4096 →
        let cand := fun (x : Nat × BlockSt) => x ∈ s.dieBlocks die ∧ x.2.oneBit = false ∧ x.2.pool = .full ∧ ∀ r, r ∈ s.flash.runs → r.inBlock x.1 = false
        cand (k, b) → (∀ x, cand x → x ≠ (k, b) → b.valid < x.2.valid) → Completes (.garbageCollection die bad) s fun u =>
          u = ((s.modFcd die fun d => { d with gc := true }).relocateBlock k fails).moveRetired fails)) ∧
    (s.dieWaits die = false → Completes (.journalFlush die) s fun u => (u.fcd die).jbuf = [] ∧
      u.flash.sys = s.flash.sys ++ (s.fcd die).jbuf ∧ u.flash.map = s.flash.map ∧ u = s.setFlash u.flash ∧
      ∀ e, e ∈ s.flash.cache → (e.1, true) ∉ u.flash.cache ∧
        (e.2 = true → ∃ p, tfind u.flash.mapPages e.1 = some p ∧ p.image = BitVec.ofNat 131072 (leNat (s.mapImage e.1))))) ∧
  (∀ (block : BitVec 21) (bad : List (BitVec 21)) (s : State), s.dieWaits (fcOf (blockChan block.toNat)) = false →
    ((s.blk block.toNat).pool = .full ∨ (s.blk block.toNat).pool = .opened) → Completes (.refresh block bad) s fun u =>
      let v := (s.relocateBlock block.toNat (bad.map (·.toNat))).moveRetired (bad.map (·.toNat))
      u = v.modBlk block.toNat (fun b => { b with reads := 0 }) ∧ (u.blk block.toNat).reads = 0 ∧ u.flash.map = v.flash.map) ∧
  (∀ s : State, s.pwr.domainUp = true → s.flash.poolBusy = false → Completes .poolSnapshotGo s fun u =>
    (∀ f, f < 8 → (u.fcd f).snap = [(s.fcd f).free, (s.fcd f).opened, (s.fcd f).full, (s.fcd f).retired, (s.fcd f).parity]) ∧
    u.flash.poolBusy = true ∧ u = s.setFlash u.flash ∧ u.flash.map = s.flash.map)

/-- R399-R406, R411: the NOR. -/
def Obligations.NorWorks : Prop :=
  (∀ s : State,
    let l := s.mgt.log
    ((l.queue = [] ∨ l.progOn = true) → Completes .logEntryProgram s fun u => u = s) ∧
    (∀ e rest, l.queue = e :: rest → s.pwr.standby = true → l.progOn = false →
      (l.newest.length < 64 → Completes .logEntryProgram s fun u => u.mgt.log.queue = rest ∧ u.mgt.log.progOn = true ∧
        u.mgt.log.newest = l.newest ++ [e] ∧ u.mgt.log.sectors.dropLast = l.sectors.dropLast ∧ u = s.setMgt u.mgt ∧
        u.norBank 2 = { row := l.newest.length } :: s.norBank 2 ∧ ∀ b, b ≠ 2 → u.norBank b = s.norBank b) ∧
      (64 ≤ l.newest.length → l.erased = true → 2 ≤ l.good → Completes .logEntryProgram s fun u => u.mgt.log.progOn = true ∧
        u.mgt.log.newest = [e] ∧ u.mgt.log.sectors.length ≤ u.mgt.log.window ∧ SameBytes s u))) ∧
  (∀ (finds : List NorFind) (s : State), s.mgt.running = true →
    Completes (.norDailyScan finds) s fun u => SameBytes s u ∧ u.mgt.norOps = s.mgt.norOps ∧ u.mgt.norSpare ≤ s.mgt.norSpare ∧
      (∀ (b : Fin 3) (k : Fin 2048), (.margin b k ∈ finds ∨ .corrected b k ∈ finds) →
        (s.norBank b ≠ [] → (b.val, k.val) ∈ u.mgt.norRefresh) ∧ (s.norBank b = [] → ∀ x, x ∈ u.mgt.norRefresh → x.1 ≠ b.val)) ∧
      (∀ b : Fin 2, .firmware b ∈ finds → u.slotPasses (b.val + 1) = false) ∧
      (∀ i : Fin 512, .keySlot i ∈ finds → ∀ k, u.mgt.keys[i.val]? = some k → k.bad = true) ∧
      ((∀ f ∈ finds, ∃ b k, f = .margin b k) → u.mgt.log.sectors = s.mgt.log.sectors ∧ u.mgt.keys = s.mgt.keys ∧ u.mgt.norBadBank = s.mgt.norBadBank)) ∧
  (∀ (k : Fin 2048) (s : State), s.mgt.running = true → s.norBank 2 = [] → s.mgt.norRefresh = [] → (k.val < 576 ∨ 1600 ≤ k.val) → 0 < s.mgt.norSpare →
    Completes (.norDailyScan [.margin 2 k]) s fun u =>
      k.val ∈ u.mgt.norRemap ∧ u.mgt.norSpare = s.mgt.norSpare - 1 ∧ u.mgt.norRefresh = []) ∧
  (∀ (n : Fin 256) (r : Fin 64) (s : State), s.mgt.running = true → s.mgt.norRefresh = [] →
    Completes (.norDailyScan [.logEntry n r]) s fun u => u.mgt.log = { s.mgt.log with sectors := u.mgt.log.sectors } ∧
      u.mgt.log.sectors.length = s.mgt.log.sectors.length ∧
      (∀ i, i ≠ n.val → u.mgt.log.sectors[i]? = s.mgt.log.sectors[i]?) ∧
      (∀ x, (s.mgt.log.sectors.getD n [])[r.val]? = some x → (u.mgt.log.sectors.getD n [])[r.val]? = some { x with bad := true }) ∧
      (∀ seq y, u.logEntry seq = some y → y.bad = true → u.logReadEntry seq = List.replicate 64 0xFF#8)) ∧
  (∀ (bank : Fin 3) (ok : Bool) (s : State),
    (s.norBank bank = [] → Completes (.norOpComplete bank ok) s fun u => u = s) ∧
    (∀ op rest, s.norBank bank = op :: rest →
      (op.erase = false → ok = false → op.again = false → Completes (.norOpComplete bank ok) s fun u =>
        u = s.setNor bank ({ op with again := true } :: rest)) ∧
      (bank.val = 2 → op.erase = false → ok = false → op.again = true → Completes (.norOpComplete bank ok) s fun u =>
        u.mgt.log.progOn = false ∧ u.mgt.log.queue.head? = some (s.mgt.log.newest.getLastD {}) ∧
        u.mgt.log.newest = s.mgt.log.newest.dropLast ++ [{ code := 0 }] ∧ SameBytes s u) ∧
      (bank.val = 2 → op.erase = false → ok = true → Completes (.norOpComplete bank ok) s fun u =>
        u.mgt.log.progOn = false ∧ u.mgt.log.sectors = s.mgt.log.sectors ∧ SameBytes s u) ∧
      (bank.val = 2 → op.erase = true → ok = true → Completes (.norOpComplete bank ok) s fun u =>
        u.mgt.log.erased = true ∧ u.mgt.log.sectors = s.mgt.log.sectors ∧ SameBytes s u) ∧
      (bank.val = 2 → op.erase = true → ok = false → Completes (.norOpComplete bank ok) s fun u =>
        u.mgt.log.good = s.mgt.log.good - 1 ∧ (rest = [] → u.norBank 2 = [{ erase := true }]) ∧ SameBytes s u) ∧
      (bank.val < 2 → op.erase = true → ok = true → Completes (.norOpComplete bank ok) s fun u =>
        u.norBank bank = [{}] ∧ u.mgt.log = s.mgt.log ∧ SameBytes s u) ∧
      (bank.val < 2 → op.erase = false → (ok = true ∨ op.again = true) → ∀ l, s.mgt.long = some l → l.src = .mailbox → l.action = 0 →
        Completes (.norOpComplete bank ok) s fun u => u.mgt.long = none ∧ u.mgt.mbDone = true ∧ u.mgt.mbBusy = false ∧
          u.mgt.slot l.slot = (if ok then l.set else s.mgt.slot l.slot) ∧
          u.mgt.mbStatus = (if ok then stOk else stAbortUncorrectable)))) ∧
  (∀ s : State,
    let l := s.mgt.log
    let es := (((l.sectors.drop l.archived).filter fun x => decide (64 ≤ x.length)).flatMap fun x => x.filter LogEnt.real).drop l.archPart
    Completes (.logArchivePage false) s (fun u => u = s) ∧
    (2 ≤ s.pwr.level → 1024 ≤ es.length → Completes (.logArchivePage true) s fun u =>
      (l.pageNext, es.take 1024) ∈ u.mgt.log.pages ∧ tfind u.mgt.log.archIdx l.pageNext = some (archiveRecord l.pageNext (es.take 1024)) ∧ u.mgt.log.pageNext = (l.pageNext + 1) % 65536 ∧
      (∀ p, p.1 ≠ l.pageNext → (p ∈ u.mgt.log.pages ↔ p ∈ l.pages)) ∧ u.mgt.log.sectors = l.sectors ∧ u.mgt.log.queue = l.queue ∧
      u = s.setMgt u.mgt))

/-- R392-R394, R457: the management commands. -/
def Obligations.ManagementCommands : Prop :=
  (∀ s : State,
    let a := s.mgt.mbArgs
    (MailboxReady s 0x100 → Completes (.mgmtStatus .mailbox) s fun u => OnlyReply s u s.mgmtStatusBytes) ∧
    (MailboxReady s 0x110 → 4 ≤ a.length → leAt a 0 2 + leAt a 2 2 ≤ 162 → Completes (.sensorRead .mailbox) s fun u =>
      OnlyReply s u ((List.range (leAt a 2 2)).flatMap fun i => bytesLE 8 (s.sensorWord (leAt a 0 2 + i)))) ∧
    (MailboxReady s 0x120 → 8 ≤ a.length → 1 ≤ leAt a 4 4 → leAt a 4 4 ≤ 64 → Completes (.logRead .mailbox) s fun u =>
      OnlyReply s u (((List.range (leAt a 4 4)).flatMap fun i => s.logReadEntry (BitVec.ofNat 32 (leAt a 0 4 + i))).take 4096)) ∧
    (MailboxReady s 0x500 → Completes (.fieldStatus .mailbox) s fun u => OnlyReply s u s.fieldBytes) ∧
    (MailboxReady s 0x530 → Completes (.chainStatus .mailbox) s fun u => OnlyReply s u (bytesLE 8 (s.csr .chain))) ∧
    (MailboxReady s 0x200 → 4 ≤ a.length →
      let off := leAt a 0 4
      let b := a.drop 4
      off % 4096 = 0 → b.length % 4096 = 0 → off + b.length ≤ 8388608 → (off = 0 ∨ s.mgt.stagSrc = some .mailbox) →
      Completes (.fwDownload .mailbox) s fun u => Answered u stOk [] ∧ u.mgt.stagSrc = some .mailbox ∧
        (u.mgt.stag.drop off).take b.length = b ∧ (∀ i, i < b.length / 4096 → thas u.mgt.stagPages (off / 4096 + i) = true) ∧
        u.mgt.slotA = s.mgt.slotA ∧ u.mgt.slotB = s.mgt.slotB ∧ SameBytes s u) ∧
    (MailboxReady s 0x201 → 2 ≤ a.length →
      let m := s.mgt
      let slot := leAt a 0 1
      let b := m.stag.take (leAt m.stag 8 4)
      slot ≠ m.bootSlot → (slot = 1 ∨ slot = 2) →
      (leAt a 1 1 ≤ 1 → m.stagDone = true → fwBad b = false → m.secverMin ≤ leAt b 7 1 →
        ((m.newSet (fwOf b)).map fun i => i.bytes.length).foldl (· + ·) 0 ≤ 8388608 → Completes (.fwCommit .mailbox) s fun u =>
          if s.mgt.signed b = true then
            u.mgt.mbBusy = true ∧ u.mgt.slot slot = [] ∧ u.norBank (slot - 1) = [{ erase := true }] ∧
            u.mgt.long = some { src := .mailbox, job := 0, slot := slot, action := leAt a 1 1, set := m.newSet (fwOf b) } ∧
            u.mgt.slot (3 - slot) = m.slot (3 - slot) ∧ u = s.setMgt u.mgt
          else Answered u stInvalidField [] ∧ u.mgt.slotA = m.slotA ∧ u.mgt.slotB = m.slotB ∧ u.mgt.long = none ∧ SameBytes s u) ∧
      (leAt a 1 1 = 2 → s.slotPasses slot = true → Completes (.fwCommit .mailbox) s fun u =>
        Answered u stOk [] ∧ u.mgt.norNext = slot ∧ u.mgt.norTrial = true ∧ u.mgt.slotA = m.slotA ∧ u.mgt.slotB = m.slotB ∧ SameBytes s u)) ∧
    (MailboxReady s 0x210 → 8 ≤ a.length →
      (BitVec.ofNat 64 (leAt a 0 8) = s.mgt.combination → Completes (.overrideUntested .mailbox) s fun u => Answered u stOk [] ∧
        u.mgt.override = some s.mgt.combination ∧ u.mgt.untested = true ∧ u.mgt.held = false ∧ s.pwr.level ≤ u.pwr.level) ∧
      (BitVec.ofNat 64 (leAt a 0 8) ≠ s.mgt.combination → Completes (.overrideUntested .mailbox) s fun u => Answered u stInvalidField [] ∧
        u.mgt.override = s.mgt.override ∧ u.mgt.held = s.mgt.held ∧ u.pwr = s.pwr)) ∧
    (MailboxReady s 0x300 → 4 ≤ a.length →
      let n := leAt a 0 4
      n ≠ 0xFFFFFFFF → (s.nsOf n).isSome = true → 2 ≤ s.pwr.level → Completes (.cryptoErase .mailbox) s fun u => Answered u stOk [] ∧
        tfind u.mgt.keyRegs n = (if s.canKey then some (s.mgt.lastGen n + 1) else none) ∧ ∀ lba, lba < 2 ^ 40 → u.mapEnt n lba = {}) ∧
    (MailboxReady s 0x400 → 1 ≤ a.length → s.pwr.standby = true → leAt a 0 1 ≤ 1 → Completes (.mgmtReset .mailbox) s fun u =>
      u.pwr.cause = 4 ∧ u.pwr.source = 0x3000#16 ∧ u.pwr.kind = (if leAt a 0 1 = 0 then 1 else 0) ∧ u.pwr.domainUp = false ∧ u.sh.jobs = []) ∧
    (MailboxReady s 0x700 → 4 ≤ a.length → s.pwr.standby = true → leAt a 0 4 = 0xDEB60FF0 → Completes (.debugReopen .mailbox) s fun u =>
      u.mgt.rootKilled = true ∧ u.mgt.debugOpen = true ∧ u.mgt.keyRegs = [] ∧ (∀ k, k ∈ u.mgt.keys → k.bad = true) ∧ u.canKey = false ∧
      u.pwr.kind = 1) ∧
    (MailboxReady s 0x501 → 1 ≤ a.length → leAt a 0 1 ≤ 1 → Completes (.inhAck .mailbox) s fun u =>
      let i := leAt a 0 1
      let x := s.field.inhOf i
      let good := x.fault && x.sawD && x.sawR && x.aRel && x.bRel
      AnsweredField s u (if good then stOk else stInvalidField) u.field ∧
        u.field = { s.field with inh := u.field.inh } ∧ u.field.inhOf (1 - i) = s.field.inhOf (1 - i) ∧ u.field.inhOf i =
          if good then { x with fault := false, disagree := 0, agree := 0, sawD := false, sawR := false } else { x with ackRefused := true }) ∧
    (MailboxReady s 0x502 → 1 ≤ a.length → Completes (.doClear .mailbox) s fun u =>
      AnsweredField s u stOk { s.field with fault := s.field.fault &&& ~~~BitVec.ofNat 8 (leAt a 0 1) }) ∧
    (MailboxReady s 0x510 →
      let p := leAt a 0 1
      let n := leAt a 6 1
      8 + 8 * n ≤ a.length → p ≤ 1 → leAt a 1 1 ≤ 2 → leAt a 2 1 ≤ 7 → leAt a 3 1 = 0 → leAt a 7 1 = 0 → n ≤ 16 →
      (∀ i, i < n → leAt a (8 + 8 * i + 6) 2 = 0) → Completes (.portCfg .mailbox) s fun u => AnsweredField s u stOk u.field ∧
        u.eth (1 - p) = s.eth (1 - p) ∧ u.eth p = { s.eth p with
          fecCfg := leAt a 1 1, pcp := leAt a 2 1, station := leAt a 4 2
          groups := (List.range n).map fun i => BitVec.ofNat 48 (beNat ((a.drop (8 + 8 * i)).take 6)) }) ∧
    (MailboxReady s 0x511 →
      let p := leAt a 0 1
      let n := leAt a 1 1
      16 + 8 * n ≤ a.length → p ≤ 1 → n ≤ 64 → leAt a 2 2 = 0 → (n ≠ 0 → 10000 ≤ leAt a 4 4 ∧ leAt a 4 4 ≤ 1000000000) →
      (∀ i, i < n → leAt a (16 + 8 * i + 1) 3 = 0) → Completes (.qbvSet .mailbox) s fun u => AnsweredField s u stOk u.field ∧
        u.eth (1 - p) = s.eth (1 - p) ∧ u.eth p = { s.eth p with gatesNew := some {
          base := BitVec.ofNat 64 (leAt a 8 8), cycleNs := leAt a 4 4
          ents := (List.range n).map fun i => (BitVec.ofNat 8 (leAt a (16 + 8 * i) 1), leAt a (16 + 8 * i + 4) 4) } }) ∧
    (MailboxReady s 0x520 → 9 ≤ a.length →
      let v := BitVec.ofNat 64 (leAt a 0 8)
      let t := { s.time with setVal := v }
      let mode := leAt a 8 1
      (timeNs v < 1000000000 → mode = 1 → Completes (.timeSetapply .mailbox) s fun u => Answered u stOk [] ∧ u.time = t.put v ∧ SameBytes s u) ∧
      (timeNs v < 1000000000 → mode = 2 → Completes (.timeSetapply .mailbox) s fun u => Answered u stOk [] ∧
        u.time = { t with pending := true, pendSrc := 0x3000#16 } ∧ SameBytes s u) ∧
      (1000000000 ≤ timeNs v → mode = 1 ∨ mode = 2 → Completes (.timeSetapply .mailbox) s fun u => Answered u stInvalidField [] ∧
        u.time = { t with setErr := true } ∧ SameBytes s u)) ∧
    (MailboxReady s 0x521 → 4 ≤ a.length → leAt a 0 1 ≤ 3 → leAt a 1 1 ≤ 1 → leAt a 2 1 ≤ 127 → leAt a 3 1 = 0 →
      Completes (.timeCfg .mailbox) s fun u => Answered u stOk [] ∧ SameBytes s u ∧ u.field = s.field ∧ u.time = { s.time with
        source := leAt a 0 1, profile := leAt a 1 1, domain := leAt a 2 1, measured := false, goodRun := 0, utcOffset := none
        st := if s.time.st = 4 then 4 else if leAt a 0 1 = 0 then 0 else 1 }) ∧
    (MailboxReady { s with mgt := { s.mgt with long := none } } 0x300 → s.mgt.long.isSome = true → Completes (.cryptoErase .mailbox) s fun u =>
      Answered u stNoResource [] ∧ u.mgt.keys = s.mgt.keys ∧ u.mgt.keyRegs = s.mgt.keyRegs ∧ u.flash = s.flash)) ∧
  (∀ (code : Nat) (c : Instr) (id : BitVec 32) (j : Job) (arg : List Byte) (s s1 : State),
    (code, c) ∈ [(0x100, Instr.mgmtStatus (.weft id)), (0x110, .sensorRead (.weft id)), (0x120, .logRead (.weft id)),
      (0x200, .fwDownload (.weft id)), (0x201, .fwCommit (.weft id)), (0x210, .overrideUntested (.weft id)), (0x211, .raiseSecver (.weft id)),
      (0x300, .cryptoErase (.weft id)), (0x400, .mgmtReset (.weft id)), (0x700, .debugReopen (.weft id)), (0x500, .fieldStatus (.weft id)),
      (0x501, .inhAck (.weft id)), (0x502, .doClear (.weft id)), (0x510, .portCfg (.weft id)), (0x511, .qbvSet (.weft id)),
      (0x520, .timeSetapply (.weft id)), (0x521, .timeCfg (.weft id)), (0x530, .chainStatus (.weft id))] →
    s.admitted id.toNat 0x0C = some j → leAt j.entry 4 2 = code → leAt j.entry 8 8 ≠ 0 → leAt j.entry 0x18 8 = 0 →
    s.bufRead j 0 (leAt j.entry 8 8) (leAt j.entry 0x10 4) = (some arg, s1) →
    let r := s1.mgmtRun (.weft j.ptn) j.id code arg 0
    Completes c s fun u => u = match r.ans with
      | some ans => (r.st.endJob j.id ans.status 0).mgmtAfter r.next (.weft j.ptn)
      | none => r.st.modJob j.id fun j => { j with stage := .running }) ∧
  (∀ s : State, s.mgt.running = true → s.mgt.rngOk = true → Completes (.randomSourceHealthFailure false) s fun u =>
    u.mgt.rngOk = false ∧ u.canKey = false ∧ u.mgt.keys = s.mgt.keys ∧ u.mgt.keyRegs = s.mgt.keyRegs ∧ SameBytes s u) ∧
  (∀ s : State, s.mgt.running = true → Completes (.randomSourceHealthFailure true) s fun u =>
    u.mgt.rngOk = true ∧ u = s.setMgt u.mgt ∧ u.mgt.keys = s.mgt.keys ∧ (s.mgt.rootKilled = false → u.canKey = true))

/-- R337, R343, R311: the I/O commands. -/
def Obligations.IoCommands : Prop :=
  (∀ (q : BitVec 16) (c : NvmeCmd) (s : State) (st : Nat) (op : BitVec 8) (row : Instr),
    (op, row) ∈ [(0x01#8, Instr.nvmeWrite q c), (0x02#8, .nvmeRead q c), (0x00#8, .nvmeFlush q c), (0x08#8, .writeZeroes q c),
      (0x09#8, .datasetManagement q c), (0x81#8, .orderedWrite q c), (0x82#8, .orderedRead q c)] →
    IoReady s q c op → s.nvIoBad c = some st → Completes row s fun u => u = (s.nvFetch q.toNat).2.nvComplete q.toNat c st 0) ∧
  (∀ (q : BitVec 16) (c : NvmeCmd) (s : State),
    let id := c.nsid.toNat
    let n := nvNlb c
    let lba := nvSlba c
    let f := (s.nvFetch q.toNat).2
    let passes := fun (r : Nat) => s.nsOwner id < 32 → (tget (s.ptn (s.nsOwner id)).regs r {}).holds r false = false
    let kept := fun (v : State) => v.flash = s.flash ∧ v.mgt = s.mgt ∧ v.nvme.outs = [] ∧ v.nvme.sqs = f.nvme.sqs ∧ SameBytes s v
    (IoAlone s q c 0x00 → Completes (.nvmeFlush q c) s fun u => EndsCmd u q.toNat c nvOk 0 kept) ∧
    (∀ op row, (op, row) ∈ [(0x02#8, Instr.nvmeRead q c), (0x82#8, .orderedRead q c)] → IoAlone s q c op → passes 2 →
      ∀ ps, f.prps c (4096 * n) = some ps →
      (∀ ds : List (BitVec 32768), (s.nsRead id lba n).1 = ds.map LbRead.data → Completes row s fun u => EndsCmd u q.toNat c nvOk 0 fun v =>
        v.flash.map = s.flash.map ∧ v.nvme.outs = [] ∧ v.nvme.readCmds = s.nvme.readCmds + 1 ∧
        ∃ w, SameBytes s w ∧ v.mem = (nvPush ps (ds.flatMap fun d => bytesLE 4096 d.toNat) w).mem) ∧
      (.lost ∈ (s.nsRead id lba n).1 → Completes row s fun u => EndsCmd u q.toNat c nvReadError 0 fun v => v.nvme.outs = [])) ∧
    (∀ op row, (op, row) ∈ [(0x01#8, Instr.nvmeWrite q c), (0x81#8, .orderedWrite q c)] → IoAlone s q c op → passes 3 →
      (s.nvProtectedNow id = true → Completes row s fun u => EndsCmd u q.toNat c nvProtected 0 kept) ∧
      (∀ ps, s.nvProtectedNow id = false → f.prps c (4096 * n) = some ps → n ≤ 64 → s.millUsed < s.flash.capUser →
        let ch := s.writeChan
        let g := tget s.flash.gather ch []
        g.length + n < 64 → Completes row s fun u =>
          u.nvme.outs = [{ sq := q.toNat, cmd := c, order := s.nvme.orderNext, started := true, left := n }] ∧
          u.nvme.cqs = s.nvme.cqs ∧ u.nvme.writeCmds = s.nvme.writeCmds + 1 ∧ u.flash.map = s.flash.map ∧ SameBytes s u ∧
          tget u.flash.gather ch [] = g ++ ((List.range n).map fun i =>
            { u := s.unitFor id (lba + i) (((f.nvPull ps).drop (4096 * i)).take 4096), order := s.nvme.orderNext, journal := s.flash.pieceNext }))) ∧
    (IoAlone s q c 0x08 →
      (s.nvProtectedNow id = true → Completes (.writeZeroes q c) s fun u => EndsCmd u q.toNat c nvProtected 0 kept) ∧
      (s.nvProtectedNow id = false → Completes (.writeZeroes q c) s fun u => EndsCmd u q.toNat c nvOk 0 fun v =>
        v.nvme.outs = [] ∧ SameBytes s v ∧ (∀ i, i < n → v.mapEnt id (lba + i) = {}) ∧
        ∀ m l, mapKey m l < mapKey id lba ∨ mapKey id lba + n ≤ mapKey m l → v.mapEnt m l = s.mapEnt m l)) ∧
    (IoAlone s q c 0x09 →
      (nvDealloc c = false → Completes (.datasetManagement q c) s fun u => EndsCmd u q.toNat c nvOk 0 kept) ∧
      (nvDealloc c = true → s.nvProtectedNow id = true → Completes (.datasetManagement q c) s fun u => EndsCmd u q.toNat c nvProtected 0 kept) ∧
      (∀ ps, nvDealloc c = true → s.nvProtectedNow id = false → fld c.cdw10.toNat 0 8 = 0 → f.prps c 16 = some ps → tsorted s.flash.map = true →
        let start := leAt (f.nvPull ps) 8 8
        let len := leAt (f.nvPull ps) 4 4
        start + len ≤ ((s.nsOf id).map fun x => x.size).getD 0 → Completes (.datasetManagement q c) s fun u => EndsCmd u q.toNat c nvOk 0 fun v =>
          v.nvme.outs = [] ∧ SameBytes s v ∧ ∀ m l, v.mapEnt m l =
            if mapKey id start ≤ mapKey m l ∧ mapKey m l < mapKey id start + len ∧ (s.mapEnt m l).valid = true
            then { s.mapEnt m l with discarded := true } else s.mapEnt m l)) ∧
    (∀ op row e, (op, row) ∈ [(0x81#8, Instr.orderedWrite q c), (0x82#8, .orderedRead q c)] → IoReady s q c op → s.nvIoBad c = none →
      s.nvme.outs = [e] → e.started = true → e.writeClass = true → e.order < s.nvme.orderNext → e.sq = q.toNat → e.cmd.nsid = c.nsid →
      Completes row s fun u => u.nvme.outs = [e, { sq := q.toNat, cmd := c, order := s.nvme.orderNext }] ∧ u.flash = s.flash ∧
        u.nvme.cqs = s.nvme.cqs ∧ SameBytes s u)) ∧
  (∀ (ch : Fin 64) (ok : Bool) (s : State),
    (tfind s.flash.progs ch = none → Completes (.nandProgramComplete ch ok) s fun u => u = s) ∧
    (∀ p, tfind s.flash.progs ch = some p →
      (∀ g o, p.units = [g] → tget s.flash.pieces g.journal (1, []) = (1, []) → s.nvme.outs = [o] → o.started = true → o.order = g.order →
        o.left = 1 → s.flash.waitMill = [] → (tget s.flash.gather ch []).length < 64 → Completes (.nandProgramComplete ch true) s fun u =>
          EndsCmd u o.sq o.cmd nvOk 0 fun v => v.nvme.outs = [] ∧ thas v.flash.progs ch = false ∧
            v.mapEnt g.u.nsid g.u.lba = unitEnt (lineUnit p.block p.page 0) true ∧ tfind v.flash.units (lineUnit p.block p.page 0) = some g.u ∧
            SameBytes s v) ∧
      ((s.flash.rows.map (·.id)).Nodup → p.block ≠ noBlock → (∀ r, r ∈ s.flash.rows → p.block ∈ r.members → r.id = (s.blk p.block).row) →
        Completes (.nandProgramComplete ch false) s fun u => ∃ v : State, u = v.nvGo ∧ (v.blk p.block).pool = .retired)))

/-- R336: the admin commands. -/
def Obligations.AdminCommands : Prop :=
  (∀ (c : NvmeCmd) (s : State) (op : BitVec 8) (row : Instr),
    (op, row) ∈ [(0x05#8, Instr.createIoCq c), (0x0C#8, .asyncEventRequest c), (0x06#8, .identify c), (0x09#8, .setFeatures c),
      (0x0A#8, .getFeatures c), (0x02#8, .getLogPage c), (0x11#8, .firmwareImageDownload c), (0x10#8, .firmwareCommit c),
      (0x01#8, .createIoSq c), (0x04#8, .deleteIoCq c)] →
    s.nvme.rdy = true → (s.sq 0).isSome = true → c.opcode = op → c.psdt ≠ 0 → Completes row s fun u =>
      u = (s.nvFetch 0).2.nvComplete 0 c nvInvalidField 0) ∧
  (∀ (c : NvmeCmd) (s : State),
    let f := (s.nvFetch 0).2
    let id := fld c.cdw10.toNat 0 16
    let size := fld c.cdw10.toNat 16 16
    let d := c.cdw11.toNat
    let ends := fun (row : Instr) (st dw0 : Nat) (P : State → Prop) => Completes row s fun u => EndsCmd u 0 c st dw0 P
    let same := fun (v : State) => v = f
    (AdminReady s c 0x05 →
      (id = 0 ∨ 128 < id ∨ (s.cq id).isSome = true → ends (.createIoCq c) nvQueueId 0 same) ∧
      (1 ≤ id → id ≤ 128 → s.cq id = none →
        (size = 0 ∨ 4095 < size → ends (.createIoCq c) nvQueueSize 0 same) ∧
        (1 ≤ size → size ≤ 4095 → bitN d 0 = true → fld d 16 16 ≤ 128 → ends (.createIoCq c) nvOk 0 fun v =>
          v.cq id = some { base := c.prp1.toNat, size := size + 1, vector := fld d 16 16, ien := bitN d 1 } ∧ v.nvme.sqs = f.nvme.sqs ∧
          v = s.setNvme v.nvme))) ∧
    (AdminReady s c 0x01 →
      (id = 0 ∨ 128 < id ∨ (f.sq id).isSome = true → ends (.createIoSq c) nvQueueId 0 same) ∧
      (1 ≤ id → id ≤ 128 → f.sq id = none → 1 ≤ size → size ≤ 4095 → bitN d 0 = true →
        (fld d 16 16 = 0 ∨ s.cq (fld d 16 16) = none → ends (.createIoSq c) nvCqInvalid 0 same) ∧
        (fld d 16 16 ≠ 0 → (s.cq (fld d 16 16)).isSome = true → ends (.createIoSq c) nvOk 0 fun v =>
          v.sq id = some { base := c.prp1.toNat, size := size + 1, cq := fld d 16 16 } ∧ v.nvme.cqs = s.nvme.cqs ∧ v = s.setNvme v.nvme))) ∧
    (AdminReady s c 0x00 → id ≠ 0 → (s.sq id).isSome = true → (∀ o, o ∈ s.nvme.outs → o.sq = id) →
      ends (.deleteIoSq c) nvOk 0 fun v => v.sq id = none ∧ v.nvme.outs = [] ∧ v.flash = s.flash) ∧
    (AdminReady s c 0x04 → id ≠ 0 → (s.cq id).isSome = true →
      ((f.nvme.sqs.any fun q => q.2.cq == id) = true → ends (.deleteIoCq c) nvQueueDelete 0 same) ∧
      ((f.nvme.sqs.any fun q => q.2.cq == id) = false → ends (.deleteIoCq c) nvOk 0 fun v => v.cq id = none ∧ v = s.setNvme v.nvme ∧
        ∀ k, k ≠ id → v.cq k = s.cq k)) ∧
    (AdminReady s c 0x06 → ∀ ps, f.prps c 4096 = some ps →
      (fld c.cdw10.toNat 0 8 = 1 → ends (.identify c) nvOk 0 fun v => v.mem = (nvPush ps f.idController f).mem) ∧
      (fld c.cdw10.toNat 0 8 = 2 → ends (.identify c) nvOk 0 fun v => v = nvPush ps (padTo 4096 (((sortBy (fun (a b : Nat) => decide (a ≤ b))
        (s.hostNs.map fun n => n.nsid)).filter fun n => decide (c.nsid.toNat < n)).flatMap fun n => bytesLE 4 n)) f) ∧
      (∀ n, s.hostNs.find? (fun n => n.nsid == c.nsid.toNat) = some n →
        (fld c.cdw10.toNat 0 8 = 0 → ends (.identify c) nvOk 0 fun v => v = nvPush ps (f.idNamespace n) f) ∧
        (fld c.cdw10.toNat 0 8 = 3 → ends (.identify c) nvOk 0 fun v => v = nvPush ps (padTo 4096 [4#8, 1#8, 0#8, 0#8, 0#8]) f))) ∧
    (AdminReady s c 0x08 →
      (s.nvme.outs = [] → ends (.nvmeAbort c) nvOk 1 same) ∧
      (∀ o, s.nvme.outs = [o] → o.started = false → o.sq = id → o.cmd.cid.toNat = size → ends (.nvmeAbort c) nvOk 0 fun v =>
        EndsCmd v o.sq o.cmd nvAborted 0 fun w => w.nvme.outs = [] ∧ w.flash = s.flash ∧ SameBytes s w)) ∧
    (AdminReady s c 0x09 →
      let fid := fld c.cdw10.toNat 0 8
      (bitN c.cdw10.toNat 31 = true → ends (.setFeatures c) nvNotSaveable 0 same) ∧
      (bitN c.cdw10.toNat 31 = false →
        (fid ∉ nvFeatures ∨ fid = 6 → ends (.setFeatures c) nvInvalidField 0 same) ∧
        (fid = 0x01 ∨ fid = 0x08 ∨ fid = 0x0A ∨ fid = 0x0B → ends (.setFeatures c) nvOk 0 fun v =>
          tget v.nvme.feats fid 0 = c.cdw11 ∧ v = s.setNvme v.nvme ∧ ∀ k, k ≠ fid → tget v.nvme.feats k 0 = tget s.nvme.feats k 0) ∧
        (fid = 0x02 → fld d 0 5 ≤ 2 → ends (.setFeatures c) nvOk 0 fun v => v.nvme = { f.nvme with psTarget := fld d 0 5 }) ∧
        (fid = 0x07 → fld d 0 16 ≠ 0xFFFF → fld d 16 16 ≠ 0xFFFF → (∀ q, q ∈ f.nvme.sqs → q.1 = 0) → (∀ q, q ∈ f.nvme.cqs → q.1 = 0) →
          ends (.setFeatures c) nvOk (queuesGranted d) fun v => tget v.nvme.feats 7 0 = BitVec.ofNat 32 (queuesGranted d) ∧ v = s.setNvme v.nvme))) ∧
    (AdminReady s c 0x0A →
      let fid := fld c.cdw10.toNat 0 8
      (fid ∉ nvFeatures → ends (.getFeatures c) nvInvalidField 0 same) ∧
      (fid ∈ nvFeatures → fld c.cdw10.toNat 8 3 = 3 → ends (.getFeatures c) nvOk (if fid = 6 then 0 else 4) same) ∧
      (fld c.cdw10.toNat 8 3 = 0 → (fid = 1 ∨ fid = 5 ∨ fid = 7 ∨ fid = 8 ∨ fid = 0x0A ∨ fid = 0x0B) →
        ends (.getFeatures c) nvOk (tget s.nvme.feats fid 0).toNat same) ∧
      (fld c.cdw10.toNat 8 3 = 0 → fid = 2 → ends (.getFeatures c) nvOk s.nvme.ps same)) ∧
    (AdminReady s c 0x02 →
      let lid := fld c.cdw10.toNat 0 8
      let n := 4 * (fld c.cdw10.toNat 16 16 + fld d 0 16 * 2 ^ 16 + 1)
      let off := c.cdw12.toNat + c.cdw13.toNat * 2 ^ 32
      (6 ≤ lid → ends (.getLogPage c) nvLogPage 0 same) ∧
      (lid = 2 → c.nsid ≠ 0 → c.nsid ≠ 0xFFFFFFFF#32 → ends (.getLogPage c) nvInvalidField 0 same) ∧
      (∀ bs ps, (lid = 2 → c.nsid = 0 ∨ c.nsid = 0xFFFFFFFF#32) → f.logPage lid = some bs → off % 4 = 0 → off ≤ bs.length → f.prps c (padTo n (bs.drop off)).length = some ps →
        bitN c.cdw10.toNat 15 = true → ends (.getLogPage c) nvOk 0 fun v => v.mem = (nvPush ps (padTo n (bs.drop off)) f).mem ∧
          v.nvme.eventMasked = s.nvme.eventMasked)) ∧
    (AdminReady s c 0x0C →
      (4 ≤ s.nvme.aers.length → ends (.asyncEventRequest c) nvTooManyEvents 0 same) ∧
      (s.nvme.aers.length < 4 → s.nvme.events = [] → Completes (.asyncEventRequest c) s fun u =>
        u = f.modNvme fun n => { n with aers := n.aers ++ [c.cid] }) ∧
      (∀ e, s.nvme.aers = [] → s.nvme.events = [e] → e.1 ∉ s.nvme.eventMasked → ends (.asyncEventRequest c) nvOk
        (e.1 + e.2.1 * 2 ^ 8 + e.2.2 * 2 ^ 16) fun v => v.nvme.aers = [] ∧ v.nvme.events = [] ∧ e.1 ∈ v.nvme.eventMasked)) ∧
    (AdminReady s c 0x11 →
      let n := 4 * (c.cdw10.toNat + 1)
      n % 4096 = 0 → n ≤ 8388608 → ∀ ps, f.prps c n = some ps → ends (.firmwareImageDownload c)
        (if (f.stagePiece .pf0 (4 * d) (f.nvPull ps)).1 then nvOk else nvInvalidField) 0 fun v => v = (f.stagePiece .pf0 (4 * d) (f.nvPull ps)).2) ∧
    (AdminReady s c 0x10 →
      let slot := fld c.cdw10.toNat 0 3
      let ca := fld c.cdw10.toNat 3 3
      ca ≤ 2 →
      Completes (.firmwareCommit c) s fun u => match f.fwCommitOp .pf0 c.cid.toNat slot ca with
        | (some e, s1) => EndsCmd u 0 c e.nvme 0 fun v => v = s1.fwEvent e slot ca
        | (none, s1) => u = s1.modNvme fun n => { n with outs := n.outs ++ [{ sq := 0, cmd := c, order := s.nvme.orderNext, started := true }] }) ∧
    (AdminReady s c 0x80 →
      let dw := c.cdw10.toNat
      let ns := c.nsid.toNat
      fld dw 0 9 = 0 → fld dw 12 2 = 0 → c.nsid ≠ 0xFFFFFFFF#32 → (s.hostNs.filter fun n => n.nsid == ns).length = 1 → s.nvme.outs = [] →
      (fld dw 9 3 = 0 → ends (.formatNvm c) nvOk 0 fun v => v.nvme.outs = [] ∧ v.mgt = s.mgt ∧ ∀ lba, lba < 2 ^ 40 → v.mapEnt ns lba = {}) ∧
      (fld dw 9 3 = 1 ∨ fld dw 9 3 = 2 → 2 ≤ s.pwr.level → ends (.formatNvm c) nvOk 0 fun v => v.nvme.outs = [] ∧
        (∀ lba, lba < 2 ^ 40 → v.mapEnt ns lba = {}) ∧ tfind v.mgt.keyRegs ns = (if s.canKey then some (s.mgt.lastGen ns + 1) else none))))

/-- R372-R386: the Selvedge links. -/
def Obligations.LinksWork : Prop :=
  (∀ (l : Fin 48) (ok : Bool) (s : State),
    let k := s.link l
    let others := fun (u : State) => (∀ m, m ≠ l.val → u.link m = s.link m) ∧ SameBytes s u
    (s.linksMay = true → k.st = 0 → k.dir ≠ 0 → Completes (.linkTraining l ok) s fun u =>
      u.link l = { k with st := 1, aligned := ok, trainFails := 0 } ∧ others u) ∧
    let again := { k with retrains := min (k.retrains + 1) 0xFFFF, trainFails := if ok then 0 else k.trainFails + 1, aligned := ok }
    (s.linksMay = true → (ok = true → k.booksOk = true) →
      (k.st = 1 → k.aligned = false → (ok = true ∨ k.trainFails < 2) → Completes (.linkTrainingRetry l ok) s fun u => u.link l = again ∧ others u) ∧
      (k.st = 3 → Completes (.linkDownRetrain l ok) s fun u => u.link l = { again with st := if ok then 1 else 3 } ∧ others u)) ∧
    (∀ fec : BitVec 16, k.st = 2 →
      let heard := { k with fec := min (k.fec + fec.toNat) 0xFFFF }
      Completes (.linkReplay l fec none) s (fun u => u.link l = heard ∧ others u) ∧
      ((ok = false ∨ k.replayFails < 15) → Completes (.linkReplay l fec (some ok)) s fun u =>
        u.link l = { heard with crc := min (k.crc + 1) 0xFFFF, replayFails := if ok then k.replayFails + 1 else 0 } ∧ others u)) ∧
    (∀ c fec, (c = Instr.laneLockLoss l ∧ k.st = 2) ∨ (c = .linkReplay l fec (some true) ∧ k.st = 2 ∧ 15 ≤ k.replayFails) ∨
      (c = .linkTrainingRetry l false ∧ s.linksMay = true ∧ k.st = 1 ∧ k.aligned = false ∧ 2 ≤ k.trainFails) → Completes c s fun u =>
      (u.link l).st = 3 ∧ (u.link l).replay = [] ∧
      ∀ key, key ∈ flitKeys k.replay → LinkMsg.jobAbort key l ∈ u.links.outbox ∧ key ∈ u.links.abortSeen)) ∧
  (∀ (l : Fin 48) (id : LinkIdent) (s : State),
    let k := s.link l
    let met := { k with pMod := id.module % 2048, pLink := id.link % 64 }
    (k.st ≠ 1 ∨ k.aligned = false → Completes (.identityExchange l id) s fun u => u = s) ∧
    (k.st = 1 → k.aligned = true →
      (commonVersion id.verMin id.verMax 0x0100 0x0100 = none → Completes (.identityExchange l id) s fun u =>
        u.link l = { met with st := 4, cause := stVersion, version := 0, aligned := false } ∧ u.pwr = s.pwr ∧ SameBytes s u) ∧
      (∀ v, commonVersion id.verMin id.verMax 0x0100 0x0100 = some v →
        (s.links.torus.partnerOk k.dir id = true → Completes (.identityExchange l id) s fun u =>
          u.link l = { met with st := 2, version := v, aligned := false, books := fullBooks, txSeq := 0, rxSeq := 0, replayFails := 0, trainFails := 0, replay := [] } ∧
          s.pwr.level ≤ u.pwr.level ∧ ∀ m, m ≠ l.val → u.link m = s.link m) ∧
        (s.links.torus.partnerOk k.dir id = false → Completes (.identityExchange l id) s fun u =>
          u.link l = { met with st := 5, cause := (u.link l).cause, version := 0, aligned := false } ∧ u.pwr = s.pwr ∧ SameBytes s u)))) ∧
  (∀ (m : ReachMsg) (s : State),
    let d := (m.dim.val, m.plus, m.coord)
    (d ∈ s.links.dead → Completes (.reachabilityMessage m) s fun u => u = s) ∧
    (d ∉ s.links.dead → m.coord < s.links.torus.dim m.dim → Completes (.reachabilityMessage m) s fun u =>
      u.links.dead = s.links.dead ++ [d] ∧ SameBytes s u ∧
      ∃ n, u = (s.setLinks { s.links with dead := s.links.dead ++ [d] }).sendLink (.reach m.dim m.plus n) ∧
        u.links.outbox = s.links.outbox ++ [.reach m.dim m.plus n])) ∧
  (∀ (l : Fin 48) (key : BitVec 64) (s : State),
    (key ∈ s.links.abortSeen → Completes (.jobAbortMessage l key) s fun u => u = s.stopKey key stRestart) ∧
    (key ∉ s.links.abortSeen → Completes (.jobAbortMessage l key) s fun u => ∃ v, v = s.stopKey key stRestart ∧
      u = (v.setLinks { v.links with abortSeen := v.links.abortSeen ++ [key] }).sendLink (.jobAbort key l))) ∧
  (∀ (r : RemReq) (t : Transit) (s : State), r.link < 48 → (s.link r.link).st = 2 → r.transit = some t → t.dest ≠ s.links.torus.number →
    ∀ i, s.links.torus.dimLeft t.dest = some i →
    let plus := bitN t.plus.toNat i
    let dir := dirCode i plus
    let dead := s.links.dead.contains (i, plus, s.links.torus.pos i) = true ∨ s.dirLinks dir = []
    (dead → Completes (.remoteRequest r) s fun u =>
      (r.key = 0 → (u.link r.link).dropped = min ((s.link r.link).dropped + 1) 0xFFFF ∧ SameBytes s u) ∧
      (r.key ≠ 0 → LinkMsg.jobAbort r.key r.link ∈ u.links.outbox ∧ r.key ∈ u.links.abortSeen)) ∧
    (¬ dead → Completes (.remoteRequest r) s fun u => u = s.setLinks u.links ∧ ∃ m fs, m ∈ s.dirLinks dir ∧
      (u.link m).sendq = (s.link m).sendq ++ fs ∧ fs ≠ [] ∧ ∀ f, f ∈ fs → f.dest = t.dest ∧ f.key = r.key ∧ f.ptn = 32 ∧
        f.vc = s.links.transitVc t.vc.toNat (((s.link r.link).dir - 1) / 2) i plus)) ∧
  (∀ (r : RemReq) (s : State), r.link < 48 → (s.link r.link).st = 2 → (∀ t, r.transit = some t → t.dest = s.links.torus.number) →
    let q := s.ptn r.ptn
    let signals := r.op = 1 ∧ r.len = 8 ∧ r.off % 8 = 0 ∧ (r.mask = [] ∨ r.mask.all (·) = true) ∧ q.live = true ∧ q.lnkEn = true ∧
      q.lnkKey = r.key ∧ (r.off - signalPage) / 8 < q.syncCount
    ((r.off < signalPage ∧ (512 < r.len ∨ q.exports r.key r.off r.len (r.op != 0) = false)) ∨ (signalPage ≤ r.off ∧ ¬ signals) →
      Completes (.remoteRequest r) s fun u =>
        (u.link r.link).refused = min ((s.link r.link).refused + 1) 0xFFFF ∧ u.links.outbox = s.links.outbox ++ [.answer r.srcMod .refused] ∧ SameBytes s u) ∧
    (r.off < signalPage → r.len ≤ 512 → q.exports r.key r.off r.len (r.op != 0) = true →
      let need : Need := { r := r.op != 1, w := r.op != 0, lc := r.lc }
      ∀ ps bs s1 s2, s.exportMap r.ptn r.off r.len need = (.ok ps, s1) → s1.piecesPoint r.ptn need ps = (.ok ps, s2) →
      s2.remoteGet ps = some (bs, false) →
      let s3 := s2.each ps fun s x => s.chargeMem r.ptn x.1 x.2
      let s4 := s3.each ps fun s x => s.paReadFx x.1 x.2
      (r.op = 0 → Completes (.remoteRequest r) s fun u => u = (s4.arrived r).sendAnswer r (.data bs)) ∧
      (r.op = 1 → Completes (.remoteRequest r) s fun u => u = ((State.remotePut ps r.data r.mask s3).arrived r).sendAnswer r .ack) ∧
      (1 < r.op → Completes (.remoteRequest r) s fun u => ∃ v : State, u = (v.arrived r).sendAnswer r (.data bs) ∧
        v = match amoOf r (leNat bs) with
          | some x => State.remotePut ps (bytesLE 8 x) [] s4
          | none => s4)) ∧
    (signalPage ≤ r.off → signals → Completes (.remoteRequest r) s fun u =>
      u = ((s.syncArrive (lkInput r.link) (q.syncBase + (r.off - signalPage) / 8) (.add (leNat r.data % 2 ^ 32))).arrived r).sendAnswer r .ack)) ∧
  (∀ (c : Fin 64) (t : Fin 32) (s : State),
    let agent := BitVec.ofNat 16 (64 * c.val + t.val)
    let th := s.thr c t
    (∀ pa x, th.pend = .uncached pa x → paRemote pa = true → Completes (.remoteRefusal agent) s fun u =>
      u = s.threadFault c t (th.va (s.inFlight c t)) kWindow (accCode (s.inFlight c t)) 3) ∧
    (th.pend = .none → th.remoteW ≠ 0 → Completes (.remoteRefusal agent) s fun u =>
      u.thr c t = { th with remoteW := th.remoteW - 1, remoteVas := th.remoteVas.drop 1, remoteBad := true } ∧ SameBytes s u ∧ u = s.setCores u.cores ∧ ∀ w, w ≠ t.val → u.thr c w = s.thr c w) ∧
    (∀ b, (s.core c).bobs = [b] → b.halted = false → paRemote b.srcPa = true → b.q.job = 0 → Completes (.remoteRefusal (BitVec.ofNat 16 (64 * c.val + 34))) s
      fun u => (u.core c).bobs = [] ∧ SameBytes s u ∧ ∀ d, d ≠ c.val → u.core d = s.core d))

/-- R384-R390: checkpoints and collectives. -/
def Obligations.CheckpointsAndCollectives : Prop :=
  (∀ (job : BitVec 32) (last : BitVec 64) (j : Job) (s : State), s.nvme.ps ≠ 2 → s.job job.toNat = some j → s.admitted job.toNat 0x08 = some j → j.id = job.toNat →
    (s.ckptKeyBad j.ptn j.entry = true → Completes (.checkpoint job last) s fun u => EndsJob u j.id stInvalidField 0 fun v => v = s.flashWake) ∧
    (∀ list s1 n i, ckptKey j.entry = 0 → s.ckptKeyBad j.ptn j.entry = false →
      s.flashWake.bufRead j 0 (leAt j.entry 8 8) (16 * leAt j.entry 0x10 4) = (some list, s1) → extentsBad list = false →
      s1.coordThere j.ptn j.entry = true → s1.lastCommitted 0 < ckptId j.entry → s1.ckptArea = some n → (s1.commitSlot 0 (s1.lastCommitted 0)).writeSlot 0 (s1.lastCommitted 0) = some i →
      extentVas list = [] → (tget (s1.ptn j.ptn).regs 3 {}).holds 3 j.lc = false → (s1.job j.id).isSome = true → (s1.coord 0).prepared = [] → Completes (.checkpoint job last) s fun u =>
        u.ckSlot i = { id := ckptId j.entry, key := 0, st := 1, pages := 0, digest := BitVec.ofNat 256 (leNat (sha256 list)) } ∧
        ∃ j', u.job j.id = some j' ∧ j'.stage = .running)) ∧
  (∀ (job : BitVec 32) (j : Job) (i : Nat) (s : State), s.job job.toNat = some j → leAt j.entry 0 1 = 0x08 → j.stage = .running →
    s.slotOf (ckptKey j.entry) (ckptId j.entry) [1] = some i → s.coordOf j.ptn j.entry ≠ s.links.torus.number →
    Completes (.checkpointPagesWritten job) s fun u => u.ckSlot i = { s.ckSlot i with st := 2 } ∧
      u.links.outbox = s.links.outbox ++ [.prepared (s.coordOf j.ptn j.entry) (ckptKey j.entry) (ckptId j.entry)] ∧ SameBytes s u) ∧
  (∀ (mod : Fin 2048) (key id : BitVec 64) (s : State),
    let c := s.coord key
    Completes (.lastCommittedQuery mod key) s (fun u => u = s.sendLink (.lastIs mod key (s.lastCommitted key)) ∧
      u.links.outbox = s.links.outbox ++ [.lastIs mod key (s.lastCommitted key)] ∧ SameBytes s u) ∧
    (c.cur = 0 → id ≠ 0 → s.lastCommitted key = id.toNat → Completes (.prepared mod key id) s fun u =>
      u = s.sendLink (.commit mod key id.toNat) ∧ u.links.outbox = s.links.outbox ++ [.commit mod key id.toNat] ∧ SameBytes s u) ∧
    (c.cur = id.toNat → id ≠ 0 → c.prepared = [] → 2 ≤ c.modules → Completes (.prepared mod key id) s fun u =>
      u.coord key = { c with prepared := [(mod.val, id.toNat)] } ∧ SameBytes s u ∧ u.sh = s.sh) ∧
    (∀ i, c.cur = id.toNat → id ≠ 0 → c.modules ≤ 1 → c.prepared = [] → c.key = key → mod.val = s.links.torus.number → s.slotOf key id.toNat [2] = some i →
      s.ckptJobs key id.toNat = [] → Completes (.prepared mod key id) s fun u => (u.ckSlot i).st = 3 ∧ (u.coord key).cur = 0 ∧ u.sh = s.sh) ∧
    (∀ i j, s.slotOf key id.toNat [2] = some i → s.ckptJobs key id.toNat = [j] → Completes (.checkpointCommit key id) s fun u =>
      EndsJob u j.id stOk 0 fun v => (v.ckSlot i).st = 3 ∧ v.sh = s.sh ∧ SameBytes s v) ∧
    (∀ (status : BitVec 8) (j : Job), s.ckptJobs key id.toNat = [j] → c.cur ≠ id.toNat → status.toNat ≠ stOk → Completes (.checkpointAbort key id status) s fun u =>
      EndsJob u j.id status.toNat 0 fun v => v.links = s.links ∧ v.sh = s.sh ∧ SameBytes s v)) ∧
  (∀ (job : BitVec 32) (last : BitVec 64) (j : Job) (s : State), s.nvme.ps ≠ 2 → s.job job.toNat = some j → s.admitted job.toNat 0x09 = some j → j.id = job.toNat →
    (s.ckptKeyBad j.ptn j.entry = true → Completes (.restore job last) s fun u => EndsJob u j.id stInvalidField 0 fun v => v = s.flashWake) ∧
    (∀ list s1, ckptKey j.entry = 0 → s.ckptKeyBad j.ptn j.entry = false →
      s.flashWake.bufRead j 0 (leAt j.entry 8 8) (16 * leAt j.entry 0x10 4) = (some list, s1) → extentsBad list = false → s1.coordThere j.ptn j.entry = true →
      (s1.slotOf 0 (ckptId j.entry) [2, 3] = none → Completes (.restore job last) s fun u => EndsJob u j.id stNoResource 0 fun v => v = s1) ∧
      (∀ n i, s1.ckptArea = some n → s1.slotOf 0 (ckptId j.entry) [2, 3] = some i → s1.lastCommitted 0 = ckptId j.entry →
        ((s1.ckSlot i).digest ≠ BitVec.ofNat 256 (leNat (sha256 list)) → Completes (.restore job last) s fun u => EndsJob u j.id stInvalidField 0 fun v => v = s1) ∧
        ((s1.ckSlot i).digest = BitVec.ofNat 256 (leNat (sha256 list)) → extentVas list = [] → Completes (.restore job last) s fun u =>
          EndsJob u j.id stOk 0 fun v => v.links.slots = s1.links.slots ∧ SameBytes s1 v ∧ ∀ k, k ∈ v.links.abortSeen → k ≠ 0)))) ∧
  (∀ (p : Fin 32) (others : List (Nat × List (BitVec 8))) (s : State) (slot : Nat) (bs : List Byte), s.ringFront p 2 64 = some (slot, bs) →
    s.recOpen p 2 64 →
    let t := s.collPoint p id
    let r := collRecOf bs
    let peers := (s.links.torus.group r.dims).filter fun m => m != s.links.torus.number
    let os := others.filter fun o => (collRecOf o.2).seq == r.seq
    let rows := [(1, Instr.allreduce p others), (2, .broadcast p others), (3, .barrier p others)]
    (∀ op row, (op, row) ∈ rows → s.collBad p r = true → Completes row s fun u => u = (s.recPoint p 2 64 id).ringSkip p 2 0x5010 slot (leAt bs 8 8)) ∧
    (s.collBad p r = false → (∀ h, h ∈ s.xl.halted → h.agent ≠ collAgent ∨ h.ptn ≠ p) → ∀ op row, (op, row) ∈ rows → r.op = op →
      ((∃ m, m ∈ peers ∧ ∀ o, o ∈ os → o.1 ≠ m) → Completes row s fun u => u = s) ∧
      ((∀ m, m ∈ peers → ∃ o, o ∈ os ∧ o.1 = m) → (∃ o, o ∈ os ∧ o.1 ∈ peers ∧ r.agrees (collRecOf o.2) = false) → Completes row s fun u =>
        u = (t.collTaken p).notify p 0x5010 slot (BitVec.ofNat 64 r.seq)) ∧
      ((∀ m, m ∈ peers → ∃ o, o ∈ os ∧ o.1 = m) → (∀ o, o ∈ os → o.1 ∈ peers → r.agrees (collRecOf o.2) = true) →
        let got := (os.filter fun o => peers.contains o.1).map fun o => (o.1, o.2.drop 64)
        (op = 3 → Completes row s fun u => u = (t.collTaken p).signalDone 79 p r.doneObj r.doneAdd) ∧
        (∀ src s1 s2 s3 sps dps ins, State.bufXlate p { r := true } (pagePieces r.src r.bytes) [] t = (.ok ins, s1) → s1.readPieces ins = some src →
          State.bufXlate p { w := true, free := true } (pagePieces r.scratch (2 * r.bytes)) [] (s1.piecesFx p ins) = (.ok sps, s2) →
          State.bufXlate p { w := true, free := true } (pagePieces r.dst r.bytes) [] s2 = (.ok dps, s3) →
          (op = 1 → Completes row s fun u => ∃ v w : State,
            v = State.writePieces p dps (r.result ((sortBy (fun a b => decide (a.1 ≤ b.1)) ((s3.links.torus.number, src) :: got)).map fun x => x.2)) w ∧
            u = ((v.charge p 12 (some 5) (s3.links.torus.reduceBytes r.dims r.bytes)).collTaken p).signalDone 79 p r.doneObj r.doneAdd) ∧
          (op = 2 → r.root = s.links.torus.number → got = [] → Completes row s fun u => ∃ w : State,
            u = ((State.writePieces p dps src w).collTaken p).signalDone 79 p r.doneObj r.doneAdd)) ∧
        (∀ o s1 s2 sps dps, op = 2 → r.root ≠ s.links.torus.number → got.find? (fun o => o.1 == r.root) = some o →
          State.bufXlate p { w := true, free := true } (pagePieces r.scratch (2 * r.bytes)) [] t = (.ok sps, s1) →
          State.bufXlate p { w := true, free := true } (pagePieces r.dst r.bytes) [] s1 = (.ok dps, s2) → Completes row s fun u => ∃ w : State,
            u = ((State.writePieces p dps (padTo r.bytes o.2) w).collTaken p).signalDone 79 p r.doneObj r.doneAdd))))

/-- R334, R335, R367, R331: the host's side. -/
def Obligations.HostRegisters : Prop :=
  (∀ (cc : BitVec 32) (s : State),
    let v := cc.toNat
    let n := s.nvme
    let was := bitN n.cc.toNat 0
    let formats := fld v 16 4 = 6 ∧ fld v 20 4 = 4 ∧ fld v 4 3 = 0 ∧ fld v 11 3 = 0 ∧ fld v 7 4 ≤ 4
    ∀ row, row = Instr.controllerEnable cc ∨ row = .shutdown cc →
    (s.pwr.domainUp = false → Completes row s fun u => u = s) ∧
    (s.pwr.domainUp = true →
      (fld v 14 2 = 0 → bitN v 0 = true → was = false → formats → Completes row s fun u => u = s.setNvme u.nvme ∧ u.nvme = { n with
        cc := cc, rdy := n.rdy || (!n.cfs && decide (2 ≤ s.pwr.level))
        sqs := [(0, { base := n.asq.toNat, size := fld n.aqa.toNat 0 12 + 1, cq := 0 })]
        cqs := [(0, { base := n.acq.toNat, size := fld n.aqa.toNat 16 12 + 1, vector := 0 })] }) ∧
      (fld v 14 2 = 0 → bitN v 0 = true → was = false → ¬ formats → Completes row s fun u => u = s.setNvme { n with cc := cc, cfs := true }) ∧
      (fld v 14 2 = 0 → bitN v 0 = false → was = true → Completes row s fun u => u = s.setNvme { n with
        cc := cc, rdy := false, cfs := false, shst := 0, sqs := [], cqs := [], outs := [], feats := [], aers := [], events := []
        eventMasked := [], errLog := [], intm := 0 }) ∧
      (fld v 14 2 ≠ 0 → bitN v 0 = was → Completes row s fun u => u.nvme = { n with cc := cc, shst := 2 } ∧ (∀ f, f < 8 → (u.fcd f).jbuf = []) ∧
        u.flash.map = s.flash.map ∧ SameBytes s u))) ∧
  (∀ s : State,
    (s.nvme.psTarget = s.nvme.ps → Completes .powerStateTransitionDone s fun u => u = s) ∧
    (s.nvme.psTarget ≠ s.nvme.ps → s.nvme.outs = [] → Completes .powerStateTransitionDone s fun u => u.nvme = { s.nvme with
      ps := s.nvme.psTarget, psOper := if s.nvme.psTarget = 2 then s.nvme.psOper else s.nvme.psTarget } ∧
      (s.nvme.psTarget = 2 → ∀ f, f < 8 → (u.fcd f).jbuf = [])) ∧
    (s.pwr.domainUp = true →
      Completes .flrPf0 s (fun u => u = s.setNvme u.nvme ∧ u.nvme.cc = 0 ∧ u.nvme.rdy = false ∧ u.nvme.sqs = [] ∧ u.nvme.cqs = [] ∧ u.nvme.outs = []) ∧
      Completes .flrPf1 s (fun u => (∀ p, p < 32 → tget u.host.pages p {} = {}) ∧ ∀ e, e ∈ u.host.msix1 → e.2.getLsbD 96 = true) ∧
      Completes .hotReset s fun u => u.host.linkUp = false ∧ u.host.msix0 = [] ∧ u.host.msix1 = [] ∧ u.nvme.cc = 0 ∧ u.nvme.rdy = false ∧
        u.nvme.sqs = [])) ∧
  (∀ (job : BitVec 32) (j : Job) (s : State),
    let off := leAt j.entry 0x24 4
    let n := leAt j.entry 0x28 1
    (s.mgmtJob job.toNat 1 = some j →
      (leAt j.entry 0x18 8 = 0 → Completes (.csrRead (.weft job)) s fun u => EndsJob u j.id stOk 0 fun v => v = (s.csrRead (4 + j.ptn) off n).2) ∧
      (∀ ps s1, leAt j.entry 0x18 8 ≠ 0 → s.bufMap j 0 (leAt j.entry 0x18 8) n true = (some ps, s1) → Completes (.csrRead (.weft job)) s fun u =>
        EndsJob u j.id stOk n fun v => v = State.writePieces j.ptn ps (bytesLE n (s1.csrRead (4 + j.ptn) off n).1) (s1.csrRead (4 + j.ptn) off n).2)) ∧
    (s.mgmtJob job.toNat 2 = some j →
      (csrDefined off = false ∨ aligned off (n == 8) = false → Completes (.csrWrite (.weft job)) s fun u => EndsJob u j.id stInvalidField 0 fun v => v = s) ∧
      (∀ p, csrDefined off = true → aligned off (n == 8) = true → csrAt off = some (.ptnCores p) →
        (s.warp.locked = true → Completes (.csrWrite (.weft job)) s fun u => EndsJob u j.id stLockViolation 0 fun v => (v.ptn p).cores = (s.ptn p).cores ∧
          v.warp.lockCount = min (s.warp.lockCount + 1) 0xFFFF) ∧
        (s.warp.locked = false → n = 8 → Completes (.csrWrite (.weft job)) s fun u => EndsJob u j.id stOk 0 fun v =>
          (v.ptn p) = { s.ptn p with cores := BitVec.ofNat 64 (leAt j.entry 0x30 8) } ∧ v = s.setPtns v.ptns ∧ ∀ q, q ≠ p → v.ptn q = s.ptn q)))) ∧
  (∀ (a : RegAccess) (s : State),
    (s.pwr.domainUp = false ∨ a.fits = false ∨ aligned a.off.toNat a.wide = false → Completes (.registerWrite a) s fun u => u = s) ∧
    (s.pwr.domainUp = true → a.fits = true → aligned a.off.toNat a.wide = true →
      (a.bar = 2 → csrDefined a.off.toNat = false → Completes (.registerWrite a) s fun u => u = s) ∧
      (a.bar = 2 → a.off = 0x3800008#28 → a.wide = true → Completes (.registerWrite a) s fun u => u = s.setTime { s.time with setVal := a.data }) ∧
      (a.bar = 0 → a.off = 0x0C#28 → a.wide = false → Completes (.registerWrite a) s fun u => u = s.setNvme { s.nvme with
        intm := s.nvme.intm ||| BitVec.ofNat 32 a.data.toNat }) ∧
      (∀ q, a.bar = 0 → a.off = 0x1000#28 → a.wide = false → s.sq 0 = some q → a.data.toNat % 65536 < q.size → Completes (.registerWrite a) s fun u =>
        u = s.setNvme { s.nvme with sqs := tset s.nvme.sqs 0 { q with tail := a.data.toNat % 65536 } }) ∧
      (a.bar = 1 → 0x200000 ≤ a.off.toNat → Completes (.registerWrite a) s fun u => u = s) ∧
      (a.bar = 3 → 16 * 144 ≤ a.off.toNat → Completes (.registerWrite a) s fun u => u = s))) ∧
  (∀ s : State, s.pwr.domainUp = true → s.pwr.isolated = false → s.mgt.running = true → s.mgt.recovery = false → s.mgt.mbGo = true →
    let arg := s.mgt.mbArgs
    let off := leAt arg 0 4
    let n := leAt arg 4 1
    let at_ := s.setMgt { s.mgt with mbGo := false, mbBusy := true }
    let done := fun (u : State) => u.mgt.mbGo = false ∧ u.mgt.mbBusy = false ∧ u.mgt.mbDone = true ∧ u.host.raised.getLsbD 129 = true
    (s.mgt.mbCode = 1 → 5 ≤ arg.length → n = 4 ∨ n = 8 → off % n = 0 → Completes (.csrRead .mailbox) s fun u =>
      done u ∧ u.mgt.mbStatus = stOk ∧ u.mgt.mbReply = bytesLE n (at_.csrRead 1 off n).1 ∧ SameBytes s u) ∧
    (∀ p, s.mgt.mbCode = 2 → 16 ≤ arg.length → n = 8 → off % 8 = 0 → leAt arg 5 3 = 0 → csrAt off = some (.ptnCores p) →
      Completes (.csrWrite .mailbox) s fun u => done u ∧
        (s.warp.locked = true → u.mgt.mbStatus = stLockViolation ∧ u.warp.lockCount = min (s.warp.lockCount + 1) 0xFFFF ∧
          (s.warp.lockErr = false → u.warp.lockErr = true ∧ u.warp.lockSrc = 2 ∧ u.warp.lockAddr = BitVec.ofNat 28 off) ∧ u.ptns = s.ptns) ∧
        (s.warp.locked = false → u.mgt.mbStatus = stOk ∧ (u.ptn p).cores = BitVec.ofNat 64 (leAt arg 8 8) ∧ u.warp = s.warp))) ∧
  (∀ (r : PcieRes) (s : State), s.pwr.domainUp = true → s.host.linkUp = false →
    (pcieOk r = true → Completes (.pcieLinkTraining (some r)) s fun u => u = s.setHost { s.host with
      linkUp := true, rate := r.rate, width := r.width, flit := r.flit }) ∧
    (∀ x, x = none ∨ (x = some r ∧ pcieOk r = false) → Completes (.pcieLinkTraining x) s fun u => u.host = s.host ∧ SameBytes s u))

/-- R446-R456: time and chain. -/
def Obligations.TimeAndChain : Prop :=
  (∀ s : State,
    let v := s.time.setVal
    (s.pwr.domainUp = true →
      (timeNs v < 1000000000 → Completes .timeApplyNow s (fun u => u.time = s.time.put v ∧ SameBytes s u ∧ u.field = s.field) ∧
        Completes .timeApplyAtSecond s fun u => u = s.setTime { s.time with pending := true, pendSrc := 0x2FFF#16 }) ∧
      (1000000000 ≤ timeNs v → ∀ row, row = Instr.timeApplyNow ∨ row = .timeApplyAtSecond → Completes row s fun u =>
        u = s.setTime { s.time with setErr := true })) ∧
    (s.time.pending = false → Completes .secondBoundaryApply s fun u => u = s) ∧
    (s.time.pending = true → timeNs v < 1000000000 → Completes .secondBoundaryApply s fun u =>
      u.time = ({ s.time with pending := false }).put v ∧ SameBytes s u) ∧
    (s.time.source ≠ 0 → s.time.st < 3 → Completes .ptpHoldover s fun u => u = s.setTime { s.time with st := 3, goodRun := 0, utcOffset := none }) ∧
    (s.time.source ≠ 3 → Completes .ppsInEdge s fun u => u = s.setTime { s.time with pps := s.timeNow }) ∧
    (s.time.source = 3 → s.time.st ≠ 4 → s.time.measured = true → s.time.ns ≤ 1000 → Completes .ppsInEdge s fun u =>
      u.time.pps = s.timeNow ∧ u.time.sec = s.time.sec ∧ u.time.ns = s.time.ns ∧ u.time.offset = s.time.ns ∧ -200000 ≤ u.time.rate ∧ u.time.rate ≤ 200000 ∧
      u.time.goodRun = min (s.time.goodRun + 1) 16 ∧ (15 ≤ s.time.goodRun → u.time.st = 2))) ∧
  (∀ (m : PtpMeas) (s : State), s.time.source = 1 ∨ s.time.source = 2 → m.valid = true → s.time.st ≠ 4 →
    let t := s.time
    (t.measured = false ∨ 100000 < m.offsetNs.natAbs → Completes (.ptpMessage m) s fun u => SameBytes s u ∧
      u.time = { t.put (timeOf (t.total - m.offsetNs)) with measured := true, goodRun := 0, st := 1, offset := sat32 m.offsetNs }) ∧
    (t.measured = true → m.offsetNs.natAbs ≤ 100000 → Completes (.ptpMessage m) s fun u => u = s.setTime u.time ∧
      let run := if m.offsetNs.natAbs ≤ 1000 then min (t.goodRun + 1) 16 else 0
      u.time.offset = m.offsetNs ∧ u.time.rate = max (-200000) (min m.ratePpb 200000) ∧ u.time.goodRun = run ∧ u.time.sec = t.sec ∧ u.time.ns = t.ns ∧
      u.time.st = (if run = 16 ∨ t.st = 2 then 2 else 1) ∧ u.time.utcOffset = (if run = 16 ∨ t.st = 2 then some m.utcOffset else t.utcOffset))) ∧
  (∀ (i : Fin 36) (s : State), Completes (.timeNowLowRead i) s fun u =>
    (u.timeHighRead i).1 = BitVec.ofNat 32 (s.timeNow.toNat / 2 ^ 32) ∧ u = s.setTime u.time ∧ u.timeNow = s.timeNow) ∧
  (∀ (down : Bool) (f : ChainFrame) (s : State), s.chainRx down = true →
    let up := fun (u : State) (g : ChainFrame) => u.chain.outUp = s.chain.outUp ++ [g] ∧ u.chain.outDown = s.chain.outDown
    let dn := fun (u : State) (g : ChainFrame) => u.chain.outDown = s.chain.outDown ++ [g] ∧ u.chain.outUp = s.chain.outUp
    let hop := { f with hops := f.hops + 1 }
    (frameBad down f = true → ∀ row, row = Instr.enumFrame down f ∨ row = .chainCmd down f ∨ row = .chainFrameForward down f → Completes row s fun u =>
      u = s.setChain { s.chain with crcErrors := min (s.chain.crcErrors + 1) 0xFFFF }) ∧
    (frameBad down f = false → f.type = 1 →
      let p := f.payload
      let count := leAt p 2 1
      let claimed := leAt p 8 8
      (down = false → s.chain.upUp = true → Completes (.enumFrame down f) s fun u => up u hop) ∧
      (∀ a, down = true → leAt p 0 1 = 1 → count < 62 → (s.enumTake 1 count claimed) = (a, false) → a ≠ 0 → bitN claimed a = false →
        Completes (.enumFrame down f) s fun u => u.chain.won = true ∧ u.chain.addr = a ∧
          let g := { hop with payload := enumBytes 1 (if s.chain.downUp then leAt p 1 1 else leAt p 1 1 ||| 2) (count + 1) (claimed + 2 ^ a) }
          if s.chain.downUp then dn u g else up u g) ∧
      (∀ a, down = true → leAt p 0 1 = 2 → count < 62 → (s.enumTake 2 count claimed) = (a, false) → a ≠ 0 → Completes (.enumFrame down f) s fun u =>
        u.chain.addr = a ∧ u.chain.position = count ∧ u.chain.confirmed = true ∧ u.chain.won = false)) ∧
    (frameBad down f = false → f.type = 2 → fld f.dst.toNat 0 6 ≠ 63 → s.chainMine f = true → s.chain.confirmed = true →
      let src : Src := .chain (if bitN f.src.toNat 7 then 0 else fld f.src.toNat 0 6)
      ∀ ans, (s.mgmtRun src f.tag.toNat (leAt f.payload 0 2) (f.payload.drop 4) 4096).ans = some ans → Completes (.chainCmd down f) s fun u =>
        let r := s.mgmtRun src f.tag.toNat (leAt f.payload 0 2) (f.payload.drop 4) 4096
        u = (r.st.chainReply f.tag.toNat ans).mgmtAfter r.next src) ∧
    (frameBad down f = false → f.type ≠ 1 → s.chainMine f = false → Completes (.chainFrameForward down f) s fun u =>
      (down = true → s.chain.downUp = true → dn u hop) ∧ (down = false → s.chain.upUp = true → up u hop) ∧ SameBytes s u)) ∧
  (∀ s : State,
    Completes .wonFlagExpiry s (fun u => u = s.setChain { s.chain with won := false }) ∧
    (s.chainOn = true →
      Completes (.chainPortUp true) s (fun u => u = s.setChain { s.chain with downUp := true }) ∧
      Completes (.chainPortUp false) s (fun u => u.chain.upUp = true ∧ SameBytes s u ∧ ∃ rest, u.chain.outUp = s.chain.outUp ++
        ({ dst := 0x80#8, src := BitVec.ofNat 8 s.chain.addr, type := 5, payload := bytesLE 1 s.chain.addr ++ zeros 3 ++ bytesLE 16 s.fac.serial.toNat } : ChainFrame) :: rest) ∧
      Completes (.chainPortDown false) s (fun u => u = s.setChain { s.chain with upUp := false }) ∧
      (s.chain.upUp = true → Completes (.chainPortDown true) s fun u => u.chain.downUp = false ∧ SameBytes s u ∧ ∃ rest, u.chain.outUp = s.chain.outUp ++
        ({ dst := 0x80#8, src := BitVec.ofNat 8 s.chain.addr, type := 6
           payload := bytesLE 1 s.chain.position ++ bytesLE 1 (if s.chain.confirmed then s.chain.addr else 0) ++ zeros 2 } : ChainFrame) :: rest)))

/-- R428-R439: the field connector. -/
def Obligations.FieldOutputsAndInputs : Prop :=
  (∀ s : State,
    (s.field.supplyLost = false → Completes .fieldSupplyLoss s fun u => u.field = { s.field with supplyLost := true } ∧ SameBytes s u ∧ ∀ n, u.driven n = false) ∧
    (s.field.supplyLost = true → Completes .fieldSupplyRestore s fun u => u.field = { s.field with supplyLost := false } ∧ SameBytes s u) ∧
    (∀ n : Fin 8, s.driven n = true → Completes (.doOverload n) s fun u =>
      u.field = { s.field with fault := s.field.fault ||| BitVec.ofNat 8 (2 ^ n.val) } ∧ u.driven n = false) ∧
    (∀ mask, s.pwr.domainUp = true → Completes (.doFaultClear mask) s fun u => u = s.setField { s.field with fault := s.field.fault &&& ~~~mask })) ∧
  (∀ (p : Fin 32) (s : State) (slot : Nat) (r : List Byte), s.ringFront p 3 64 = some (slot, r) → s.recOpen p 3 64 →
    let op := leAt r 0 1
    let s0 := s.recPoint p 3 64 id
    let done := fun (u v : State) => u = v.signalDone 78 p (leAt r 2 2) (leAt r 4 2)
    let t := s0.ringTaken p 3
    (∀ row, row = Instr.slotWrite p ∨ row = .doWrite p ∨ row = .wdog p → s.fieldBad p r = true → Completes row s fun u =>
      u = s0.ringSkip p 3 0x6105 slot (leAt r 0 8)) ∧
    (s.fieldBad p r = false →
      (op = 1 → Completes (.slotWrite p) s fun u => ∃ v : State, done u v ∧ v = t.setField v.field ∧
        let n := leAt r 6 1
        let x : MboxSlot := tget s.field.mbox n {}
        let data := BitVec.ofNat 256 (leAt r 0x20 32)
        (leAt r 1 1 = 0 → v.field = { s.field with mbox := v.field.mbox } ∧ tget v.field.mbox n {} = { x with back := data, staged := true } ∧
          ∀ m, m ≠ n → tget v.field.mbox m {} = tget s.field.mbox m {}) ∧
        (leAt r 1 1 = 1 → tget v.field.mbox n {} = { x with front := data, back := data, staged := false } ∧
          ∀ i, i < 2 → (v.eth i).fresh.getLsbD n = true)) ∧
      (op = 2 → Completes (.doWrite p) s fun u => ∃ v : State, done u v ∧
        let mask := BitVec.ofNat 8 (leAt r 7 1)
        v.field = { s.field with commanded := (s.field.commanded &&& ~~~mask) ||| (BitVec.ofNat 8 (leAt r 8 1) &&& mask), cmdSince := s.field.cmdSince ||| mask } ∧
        v.ptn p = { t.ptn p with wdogExpired := false, wdogRunning := (s.ptn p).wdogPeriod != 0, wdogStart := s.now } ∧ SameBytes s v) ∧
      (op = 3 → Completes (.wdog p) s fun u => ∃ v : State, done u v ∧ v.field = s.field ∧ SameBytes s v ∧
        let n := leAt r 0xA 2
        v.ptn p = if (s.ptn p).wdogExpired then { t.ptn p with wdogPeriod := n }
          else { t.ptn p with wdogPeriod := n, wdogRunning := n != 0, wdogStart := s.now }))) ∧
  (∀ (p : Fin 32) (s : State),
    ((s.ptn p).wdogRunning = false → Completes (.fieldWatchdogExpiry p) s fun u => u = s) ∧
    ((s.ptn p).wdogRunning = true → Completes (.fieldWatchdogExpiry p) s fun u => (u.ptn p).wdogExpired = true ∧ (u.ptn p).wdogRunning = false ∧
      ∀ n, (s.field.doSet n).source = p.val → u.doHeld n = true)) ∧
  (∀ (n : Fin 8) (level : Bool) (s : State), s.pwr.standby = true →
    (bitN s.field.di.toNat n = level → Completes (.diChange n level) s fun u => u = s) ∧
    (bitN s.field.di.toNat n ≠ level → Completes (.diChange n level) s fun u => bitN u.field.di.toNat n = level ∧
      (∀ m, m < 8 → m ≠ n.val → bitN u.field.di.toNat m = bitN s.field.di.toNat m) ∧ tget u.field.diCount n 0 = tget s.field.diCount n 0 + 1)) ∧
  (∀ (i : Fin 2) (s : State),
    let x := s.field.inhOf i
    let kept := fun (u : State) => u.field.inhOf (1 - i.val) = s.field.inhOf (1 - i.val)
    (∀ b rel, Completes (.inhChannelChange i b rel) s fun u => kept u ∧ SameBytes s u ∧
      let y := u.field.inhOf i
      (y.aRel, y.bRel) = (if b then (x.aRel, rel) else (rel, x.bRel)) ∧ y.fault = x.fault ∧ y.disagree = x.disagree ∧
      (rel = false → ∀ n, bitN (s.field.doSet n).inhMask.toNat i = true → (s.field.doSet n).safe = false → u.driven n = false)) ∧
    (x.fault = false → (x.aRel ≠ x.bRel ∨ x.disc * 1000000 ≤ x.disagree) → Completes (.inhDisagreeExpiry i) s fun u => kept u ∧
      (u.field.inhOf i).fault = true ∧ x.disc * 1000000 ≤ (u.field.inhOf i).disagree ∧ (u.field.inhOf i).faults = min (x.faults + 1) 0xFFFF) ∧
    (x.fault = true → Completes (.inhDisagreeExpiry i) s fun u => u = s) ∧
    (x.aRel = x.bRel → Completes (.inhAgreeExpiry i) s fun u => u.field.inhOf i = { x with disagree := 0 } ∧ kept u ∧ SameBytes s u) ∧
    (s.pwr.domainUp = true → Completes (.fieldInhAck i) s fun u => kept u ∧ SameBytes s u ∧ u.field.inhOf i =
      if x.fault && x.sawD && x.sawR && x.aRel && x.bRel then { x with fault := false, disagree := 0, agree := 0, sawD := false, sawR := false }
      else { x with ackRefused := true })) ∧
  (∀ (ms : BitVec 30) (s : State),
    let hold := ms.toNat
    (s.field.btnState = 0 → Completes .buttonPress s fun u => u = s.setField { s.field with
      btnState := 1, btnHold := 0, btnPresses := min (s.field.btnPresses + 1) 0xFFFFFFFF }) ∧
    (s.field.btnState ≠ 0 → Completes .buttonPress s fun u => u = s) ∧
    (s.field.btnState = 1 → (hold < 20 ∨ 30000 ≤ hold) → Completes (.buttonRelease ms) s fun u => u = s.setField { s.field with btnState := 0, btnHold := hold }) ∧
    (s.field.btnState = 1 → s.pwr.standby = true →
      (20 ≤ hold → hold < 8000 → Completes (.buttonRelease ms) s fun u => u.pwr.kind = 1 ∧ u.pwr.cause = 2 ∧ u.pwr.domainUp = false) ∧
      (8000 ≤ hold → hold < 30000 → Completes (.buttonRelease ms) s fun u => u.pwr.kind = 0 ∧ u.pwr.cause = 3 ∧ u.pwr.domainUp = false)) ∧
    (s.field.btnState = 1 → Completes .buttonStuck s fun u => u.field = { s.field with btnState := 2, btnHold := 30000 } ∧ SameBytes s u) ∧
    (s.field.btnState = 2 → Completes .buttonUnstick s fun u => u.field = { s.field with btnState := 0 } ∧ SameBytes s u))

/-- R440-R445: the field ports. -/
def Obligations.FieldPorts : Prop :=
  (∀ (port : Fin 2) (s : State), s.mgt.running = true → s.field.portsStopped = false →
    let e := s.eth port
    let only := fun (u : State) (e' : EthPort) => u.eth port = e' ∧ u.eth (1 - port.val) = s.eth (1 - port.val) ∧ u = s.setField u.field ∧
      u.field = { s.field with ports := u.field.ports }
    (∀ up, Completes (.fieldPortLink port up) s fun u => only u { e with linkUp := up, fec := if up then e.fecCfg else 0 }) ∧
    (∀ f, e.linkUp = true →
      Completes (.fieldFrameRx port f false) s (fun u => only u { e with fcsErr := min (e.fcsErr + 1) 0xFFFFFFFF }) ∧
      (60 ≤ f.length → f.length ≤ 1518 → s.accepts port (macOf f 0) = true →
        ((frameType f).2 = 0x88B5 → e.queue.length < 4 → Completes (.fieldFrameRx port f true) s fun u => only u { e with
          reqs := min (e.reqs + 1) 0xFFFFFFFF, queue := e.queue ++ [(s.timeNow, f)] }) ∧
        ((frameType f).2 = 0x88B5 → 4 ≤ e.queue.length → Completes (.fieldFrameRx port f true) s fun u => only u { e with
          reqs := min (e.reqs + 1) 0xFFFFFFFF, dropped := min (e.dropped + 1) 0xFFFFFFFF }) ∧
        ((frameType f).2 ≠ 0x88B5 → (frameType f).2 ≠ 0x88F7 →
          let hits := s.ingest.binds.filter fun b => b.2.matches port (frameType f).2 (beNat ((f.drop (frameType f).1).take 2))
          (hits = [] → Completes (.fieldFrameRx port f true) s fun u => only u { e with unclaimed := min (e.unclaimed + 1) 0xFFFFFFFF }) ∧
          (hits ≠ [] → s.pwr.isolated = true → Completes (.fieldFrameRx port f true) s fun u => only u { e with ingDrops := min (e.ingDrops + 1) 0xFFFFFFFF }) ∧
          (∀ b, hits = [b] → s.pwr.isolated = false → Completes (.fieldFrameRx port f true) s fun u => u = s.ingestFrame b.1 b.2 port f)))) ∧
    (e.queue = [] → Completes (.cyclicRequest port) s fun u => u = s) ∧
    (∀ time f rest, e.queue = (time, f) :: rest →
      let q := f.drop (frameType f).1
      let be := fun (i n : Nat) => beNat ((q.drop i).take n)
      ((be 1 1 ≠ 1 ∨ (be 4 2 ≠ e.station ∧ be 4 2 ≠ 0xFFFF)) → Completes (.cyclicRequest port) s fun u => only u { e with queue := rest }) ∧
      (be 1 1 = 1 → (be 4 2 = e.station ∨ be 4 2 = 0xFFFF) → Completes (.cyclicRequest port) s fun u =>
        let status := if be 0 1 ≠ 1 then stVersion else if be 6 2 ≠ 0 ∨ be 24 8 ≠ 0 then stInvalidField else stOk
        let want := if status = stOk then bitsOf 64 (be 16 8) else []
        ∃ r fresh, only u { e with queue := rest, ready := e.ready ++ [r], fresh := fresh } ∧ r.dst = macOf f 6 ∧ r.pcp = e.pcp ∧
          r.payload.getD 6 0 = BitVec.ofNat 8 status ∧
          ∀ n, n < 64 → fresh.getLsbD n = (e.fresh.getLsbD n && !(want.take 44).contains n))) ∧
    (∀ r rest, e.ready = r :: rest →
      (s.mayReply port r = true → Completes (.cyclicReplyTransmit port false) s fun u =>
        only u { e with ready := rest, sent := e.sent ++ [r], replies := min (e.replies + 1) 0xFFFFFFFF }) ∧
      (s.mayReply port r = false → Completes (.cyclicReplyTransmit port false) s fun u => u = s) ∧
      (e.gates.ents = [] → s.mayReply port r = true ∧ Completes (.cyclicReplyTransmit port true) s fun u => u = s) ∧
      (e.gates.ents ≠ [] → Completes (.cyclicReplyTransmit port true) s fun u =>
        u.eth port = { e with ready := rest, late := min (e.late + 1) 0xFFFFFFFF } ∧ SameBytes s u)) ∧
    (∀ g, e.gatesNew = some g →
      ((g.start : Int) ≤ s.time.total → Completes (.qbvListActivate port) s fun u => only u { e with gates := g, gatesNew := none }) ∧
      (s.time.total < g.start → Completes (.qbvListActivate port) s fun u => u = s))) ∧
  (∀ (port : Fin 2) (s : State) (r : CycReply) (v : BitVec 8) (w iv : Nat), r.pcp < 8 → iv < w →
    let g := (s.eth port).gates
    let t := ((s.time.total - (g.start : Int)) % (w : Int)).toNat
    g.cycleNs = w → g.ents = [(v, iv), (~~~v, w - iv)] → s.mayReply port r = true → t < iv →
      v.getLsbD r.pcp = true ∧ t + r.time ≤ iv)

/-- The step function (log entry 1), R446. -/
def Obligations.StepRunsFront : Prop :=
  (∀ (c : Instr) (rest : List Instr) (s : State), step (s.setPending (c :: rest)) = exec c (s.setPending rest)) ∧
  (∀ s : State, s.pending = [] → step s = .next s.tick ∧ (s.clk.onXclk = false → s.time.rate = 0 → s.time.fracPpb = 0 →
    s.time.ns + 5 < 1000000000 → s.time.sec < 2 ^ 34 → s.tick.time.ns = s.time.ns + 5 ∧ s.tick.time.sec = s.time.sec)) ∧
  (∀ (c : Instr) (s : State), ∃ u, exec c s = .next u)

/-- R11, R86, R458: the state after power-on reset. -/
def Obligations.ResetState : Prop :=
  let s := State.reset
  s.pending = [] ∧ s.Inv ∧ (∀ n, s.csr (.syncCount n) = 0 ∧ (s.obj n) = {} ∧ (s.obj n).mode = 0) ∧
  s.csr .activeId = 0 ∧ s.csr .stagedId = 0 ∧ s.csr .modelId = 0 ∧ s.csr .saveBase = 0 ∧ s.csr .measured = 0 ∧ s.csr .unattributed = 0 ∧
  (∀ p, (s.ptn p).live = false ∧ (s.page p).active = false) ∧ (∀ c t, (s.thr c t).st = tFree ∧ (s.thr c t).pc = 0) ∧
  s.sh.jobs = [] ∧ s.sh.tasks = [] ∧ s.mgt.mbBusy = false ∧ s.mgt.mbDone = false ∧ s.nvme.rdy = false ∧ s.nvme.cc = 0 ∧
  s.pwr.domainUp = false ∧ s.warp.locked = false ∧ (∀ n, s.driven n = false) ∧ s.mgt.secverMin = 0 ∧ s.mgt.running = false

/-- R413, whole. -/
def Obligations.SecverOnlyRises : Prop :=
  (∀ s u : State, step s = .next u → s.mgt.secverMin ≤ u.mgt.secverMin ∧ (s.mgt.secverMin ≤ 255 → u.mgt.secverMin ≤ 255)) ∧
  (∀ s : State, MailboxReady s 0x211 → 1 ≤ s.mgt.mbArgs.length →
    let v := leAt s.mgt.mbArgs 0 1
    let m := s.mgt
    ((m.secverMin < v ∧ ∀ i, i ∈ m.slot m.bootSlot → v ≤ i.secver) → Completes (.raiseSecver .mailbox) s fun u =>
      Answered u stOk [] ∧ u.mgt.secverMin = v ∧
      (m.log.queue.length + (if m.log.progOn then 1 else 0) < 128 → u.mgt.mbLogSeq = m.log.nextSeq ∧
        ∃ e, u.mgt.log.queue = m.log.queue ++ [e] ∧ e.code = 0x7008 ∧ e.seq = m.log.nextSeq ∧ e.payload = bytesLE 1 m.secverMin ++ bytesLE 1 v)) ∧
    ((v ≤ m.secverMin ∨ ∃ i, i ∈ m.slot m.bootSlot ∧ i.secver < v) → Completes (.raiseSecver .mailbox) s fun u =>
      Answered u stInvalidField [] ∧ u.mgt.secverMin = m.secverMin ∧ u.mgt.slotA = m.slotA ∧ u.mgt.slotB = m.slotB ∧ u.mgt.keys = m.keys ∧
      u.mgt.log = m.log ∧ SameBytes s u)) ∧
  (∀ (s : State) (n : Nat) (trialOk : Bool), n = 1 ∨ n = 2 → (∃ i, i ∈ s.mgt.slot n ∧ i.secver < s.mgt.secverMin) →
    (s.bootMgt trialOk).mgt.bootSlot ≠ n)

/-- R446 and the memory's representation, over every step. -/
def Obligations.InvariantKept : Prop := ∀ s u : State, s.Inv → step s = .next u → u.Inv
end

