-- ==== Sys2Proof/Laws/Mem.lean ====
section
/-! SUPPORT. Memory: reading after writing, and that every memory operation keeps the canonical form. -/

namespace Sys2Proof.Machine

theorem memRising_mono {m : Memory} {lo hi : Nat} (h : lo ≤ hi) (hm : memRising hi m = true) : memRising lo m = true := by
  cases m with
  | nil => rfl
  | cons e m =>
    simp only [memRising, Bool.and_eq_true, decide_eq_true_eq] at hm ⊢
    exact ⟨by omega, hm.2⟩

theorem memRising_ins (m : Memory) (lo a : Nat) (v : Byte) (h : memRising lo m = true) (ha : lo ≤ a) :
    memRising lo (memIns m a v) = true := by
  induction m generalizing lo with
  | nil => simp [memIns, memRising, ha]
  | cons e m ih =>
    obtain ⟨k, w⟩ := e
    simp only [memRising, Bool.and_eq_true, decide_eq_true_eq] at h
    simp only [memIns]
    split
    · simp only [memRising, Bool.and_eq_true, decide_eq_true_eq]; exact ⟨ha, by omega, h.2⟩
    · split
      · subst_vars; simp only [memRising, Bool.and_eq_true, decide_eq_true_eq]; exact h
      · simp only [memRising, Bool.and_eq_true, decide_eq_true_eq]; exact ⟨h.1, ih _ h.2 (by omega)⟩

theorem memRising_del (m : Memory) (lo a : Nat) (h : memRising lo m = true) : memRising lo (memDel m a) = true := by
  induction m generalizing lo with
  | nil => rfl
  | cons e m ih =>
    obtain ⟨k, w⟩ := e
    simp only [memRising, Bool.and_eq_true, decide_eq_true_eq] at h
    unfold memDel at ih ⊢
    rw [List.filter_cons]
    split
    · simp only [memRising, Bool.and_eq_true, decide_eq_true_eq]; exact ⟨h.1, ih _ h.2⟩
    · exact memRising_mono (by omega) (ih _ h.2)

theorem memIns_all (m : Memory) (a : Nat) (v : Byte) (P : Nat × Byte → Bool) (h : m.all P = true) (hv : P (a, v) = true) :
    (memIns m a v).all P = true := by
  induction m with
  | nil => simp [memIns, hv]
  | cons e m ih =>
    obtain ⟨k, w⟩ := e
    simp only [List.all_cons, Bool.and_eq_true] at h
    simp only [memIns]
    split
    · simp only [List.all_cons, Bool.and_eq_true]; exact ⟨hv, h.1, h.2⟩
    · split
      · simp only [List.all_cons, Bool.and_eq_true]; exact ⟨hv, h.2⟩
      · simp only [List.all_cons, Bool.and_eq_true]; exact ⟨h.1, ih h.2⟩

theorem memDel_all (m : Memory) (a : Nat) (P : Nat × Byte → Bool) (h : m.all P = true) : (memDel m a).all P = true := by
  rw [List.all_eq_true] at h ⊢
  exact fun x hx => h x (List.mem_filter.mp hx).1

/-- Writing a byte keeps the canonical form. -/
theorem memSet_wf (m : Memory) (a : Nat) (v : Byte) (h : m.wf = true) : (memSet m a v).wf = true := by
  unfold Memory.wf at h ⊢
  rw [Bool.and_eq_true] at h ⊢
  unfold memSet
  split
  · exact ⟨memRising_del _ _ _ h.1, memDel_all _ _ _ h.2⟩
  · rename_i hn
    refine ⟨memRising_ins _ _ _ _ h.1 (Nat.zero_le _), memIns_all _ _ _ _ h.2 ?_⟩
    by_cases h1 : a < 0x8000000000
    · by_cases h2 : v = 0
      · exact absurd ⟨h1, h2⟩ hn
      · simp only [show ((v == 0) = false) by simpa using h2, Bool.and_false, Bool.not_false]
    · have h3 : decide (a < 0x8000000000) = false := by simpa using h1
      simp only [h3, Bool.false_and, Bool.not_false]

/-- Writing bytes keeps the canonical form. -/
theorem memWrite_wf (m : Memory) (a : Nat) (bs : List Byte) (h : m.wf = true) : (memWrite m a bs).wf = true := by
  induction bs generalizing m a with
  | nil => exact h
  | cons b bs ih => exact ih _ _ (memSet_wf _ _ _ h)

theorem memFind_ins (m : Memory) (a b : Nat) (v : Byte) : memFind (memIns m a v) b = if b = a then some v else memFind m b := by
  induction m with
  | nil =>
    by_cases h : b = a
    · subst h; simp [memIns, memFind]
    · simp [memIns, memFind, h, Ne.symm h]
  | cons e m ih =>
    obtain ⟨k, w⟩ := e
    simp only [memIns]
    by_cases h : b = a
    · subst h
      split
      · simp [memFind]
      · split
        · simp [memFind]
        · rename_i h2
          simp [memFind, ih, Ne.symm h2]
    · split
      · simp [memFind, Ne.symm h]
      · split
        · subst_vars; simp [memFind, Ne.symm h]
        · simp [memFind, ih, h]

theorem memFind_del (m : Memory) (a b : Nat) : memFind (memDel m a) b = if b = a then none else memFind m b := by
  induction m with
  | nil => simp [memDel, memFind]
  | cons e m ih =>
    obtain ⟨k, w⟩ := e
    unfold memDel at ih ⊢
    by_cases hk : k = a
    · subst hk
      by_cases hb : b = k
      · subst hb; simpa using ih
      · simp [memFind, hb, Ne.symm hb, ih]
    · by_cases hb : b = a
      · subst hb; simp [memFind, hk, ih]
      · simp [memFind, hk, hb, ih]

/-- Reading after writing a byte: the byte written, every other one as before. -/
theorem memGet_memSet (ep : Nat) (m : Memory) (a b : Nat) (v : Byte) :
    memGet ep (memSet m a v) b = if b = a then v else memGet ep m b := by
  unfold memSet memGet
  split
  · rename_i hz
    rw [memFind_del]
    split
    · subst_vars; simp [unlisted, hz.1, hz.2]
    · rfl
  · rw [memFind_ins]
    split <;> rfl

/-- Reading after writing bytes: the bytes written, every other one as before. -/
theorem memGet_memWrite (ep : Nat) (m : Memory) (a b : Nat) (bs : List Byte) :
    memGet ep (memWrite m a bs) b = if a ≤ b ∧ b < a + bs.length then bs.getD (b - a) 0 else memGet ep m b := by
  induction bs generalizing m a with
  | nil => rw [memWrite, if_neg (by simp only [List.length_nil]; omega)]
  | cons v bs ih =>
    rw [memWrite, ih, memGet_memSet]
    by_cases h : b = a
    · subst h; rw [if_neg (by omega)]; simp
    · by_cases h1 : a + 1 ≤ b ∧ b < a + 1 + bs.length
      · have : b - a = (b - (a + 1)) + 1 := by omega
        rw [if_pos h1, if_pos (by simp only [List.length_cons]; omega), this]; simp
      · rw [if_neg h1, if_neg h, if_neg (by simp only [List.length_cons]; omega)]

end Sys2Proof.Machine
end

