-- ==== Sys2Proof/Laws/Keeps.lean ====
section
/-! SUPPORT. What every operation keeps: the machine's invariant (log entry 2), and SECVER_MIN, which never falls (R413).
`Keeps s t` says it of two states; the files Keeps1, Keeps2, ... give one lemma for each operation of the model. -/

namespace Sys2Proof.Machine
open Sys2Proof

structure Keeps (s t : State) : Prop where
  inv : s.Inv → t.Inv
  sec : s.mgt.secverMin ≤ t.mgt.secverMin
  cap : s.mgt.secverMin ≤ 255 → t.mgt.secverMin ≤ 255

def KeepsO (s : State) (o : Host.Outcome State Fault Refusal) : Prop := ∀ u, o = .next u → Keeps s u
def KeepsI (s : State) (o : Option State) : Prop := ∀ u, o = some u → Keeps s u
def KeepsP {α : Type} (s : State) (o : Option (α × State)) : Prop := ∀ x, o = some x → Keeps s x.2
def KeepsE (s : State) : EngRes → Prop
  | .reject => True
  | .uncorrectable t => Keeps s t
  | .ok t _ => Keeps s t

theorem KeepsE.reject {s : State} : KeepsE s .reject := True.intro
theorem KeepsE.ok {s t : State} {a : EngOp} (h : Keeps s t) : KeepsE s (.ok t a) := h
theorem KeepsE.unc {s t : State} (h : Keeps s t) : KeepsE s (.uncorrectable t) := h
theorem Keeps.of_ok {s t : State} {o : EngOp} {F : EngRes} (e : F = .ok t o) (h : KeepsE s F) : Keeps s t := by rw [e] at h; exact h
theorem Keeps.of_unc {s t : State} {F : EngRes} (e : F = .uncorrectable t) (h : KeepsE s F) : Keeps s t := by rw [e] at h; exact h
theorem Keeps.refl (s : State) : Keeps s s := ⟨id, Nat.le_refl _, id⟩
theorem KeepsO.next {s t : State} (h : Keeps s t) : KeepsO s (.next t) := fun u hu => by cases hu; exact h
theorem KeepsI.some {s t : State} (h : Keeps s t) : KeepsI s (some t) := fun u hu => by cases hu; exact h
theorem KeepsI.none {s : State} : KeepsI s none := fun u hu => by cases hu
theorem KeepsP.some {α : Type} {s : State} {x : α × State} (h : Keeps s x.2) : KeepsP s (some x) := fun u hu => by cases hu; exact h
theorem KeepsP.none {α : Type} {s : State} : KeepsP s (none : Option (α × State)) := fun u hu => by cases hu
theorem Keeps.of_pair {α : Type} {s t : State} {a : α} {F : Option (α × State)} (e : F = some (a, t)) (h : KeepsP s F) : Keeps s t := h _ e
theorem KeepsI.bind {s : State} {o : Option State} {f : State → Option State} (h : KeepsI s o) (hf : ∀ t, Keeps s t → KeepsI s (f t)) :
    KeepsI s (o >>= f) := by
  cases o with
  | none => exact KeepsI.none
  | some t => exact hf t (h t rfl)
theorem KeepsI.getD {s t : State} {o : Option State} (h : KeepsI s o) (ht : Keeps s t) : Keeps s (o.getD t) := by
  cases o with
  | none => exact ht
  | some t => exact h t rfl
theorem KeepsI.map {s : State} {o : Option State} {f : State → State} (h : KeepsI s o) (hf : ∀ t, Keeps s t → Keeps s (f t)) : KeepsI s (o.map f) := by
  cases o with
  | none => exact KeepsI.none
  | some t => exact KeepsI.some (hf t (h t rfl))
theorem KeepsI.foldl {σ : State} {α : Type} (xs : List α) (f : State → α → Option State) (z : Option State) (h : KeepsI σ z)
    (hf : ∀ t a, Keeps σ t → KeepsI σ (f t a)) : KeepsI σ (xs.foldl (fun o a => o.bind fun t => f t a) z) := by
  induction xs generalizing z with
  | nil => exact h
  | cons a xs ih => exact ih _ (KeepsI.bind h fun t ht => hf t a ht)
theorem KeepsI.findSome {σ : State} {α : Type} (xs : List α) (f : α → Option State) (hf : ∀ a, KeepsI σ (f a)) : KeepsI σ (xs.findSome? f) := by
  intro u hu
  obtain ⟨a, _, h⟩ := List.exists_of_findSome?_eq_some hu
  exact hf a u h
theorem keeps_ite {σ a b : State} {c : Prop} [Decidable c] (ha : c → Keeps σ a) (hb : ¬c → Keeps σ b) : Keeps σ (if c then a else b) := by
  split
  · exact ha ‹_›
  · exact hb ‹_›
theorem Keeps.of_snd {α : Type} {s t : State} {F : α × State} {a : α} (e : F = (a, t)) (h : Keeps s F.2) : Keeps s t := by
  rw [e] at h; exact h
theorem Keeps.of_fst {α : Type} {s t : State} {F : State × α} {a : α} (e : F = (t, a)) (h : Keeps s F.1) : Keeps s t := by
  rw [e] at h; exact h
theorem Keeps.of_some {s t : State} {F : Option State} (e : F = some t) (h : KeepsI s F) : Keeps s t := h t e
theorem keeps_foldl_snd {σ : State} {α β : Type} (xs : List α) (f : β × State → α → β × State) (z : β × State) (h : Keeps σ z.2)
    (hf : ∀ x a, Keeps σ x.2 → Keeps σ (f x a).2) : Keeps σ (xs.foldl f z).2 := by
  induction xs generalizing z with
  | nil => exact h
  | cons a xs ih => exact ih _ (hf _ _ h)
theorem keeps_foldl_fst {σ : State} {α β : Type} (xs : List α) (f : State × β → α → State × β) (z : State × β) (h : Keeps σ z.1)
    (hf : ∀ x a, Keeps σ x.1 → Keeps σ (f x a).1) : Keeps σ (xs.foldl f z).1 := by
  induction xs generalizing z with
  | nil => exact h
  | cons a xs ih => exact ih _ (hf _ _ h)
theorem keeps_foldl {σ : State} {α : Type} (xs : List α) (f : State → α → State) (s : State) (h : Keeps σ s)
    (hf : ∀ x a, Keeps σ x → Keeps σ (f x a)) : Keeps σ (xs.foldl f s) := by
  induction xs generalizing s with
  | nil => exact h
  | cons a xs ih => exact ih _ (hf _ _ h)
theorem keeps_each {σ : State} {α : Type} (s : State) (xs : List α) (f : State → α → State) (h : Keeps σ s)
    (hf : ∀ x a, Keeps σ x → Keeps σ (f x a)) : Keeps σ (s.each xs f) := keeps_foldl xs f s h hf
theorem memRising_filter (p : Nat × Byte → Bool) (m : Memory) (lo : Nat) (h : memRising lo m = true) : memRising lo (m.filter p) = true := by
  induction m generalizing lo with
  | nil => exact h
  | cons e m ih =>
    simp only [memRising, Bool.and_eq_true, decide_eq_true_eq] at h
    rw [List.filter_cons]
    split
    · simp only [memRising, Bool.and_eq_true, decide_eq_true_eq]; exact ⟨h.1, ih _ h.2⟩
    · exact memRising_mono (by omega) (ih _ h.2)
theorem filter_wf (p : Nat × Byte → Bool) (m : Memory) (h : m.wf = true) : Memory.wf (m.filter p) = true := by
  unfold Memory.wf at h ⊢
  rw [Bool.and_eq_true] at h ⊢
  refine ⟨memRising_filter p m 0 h.1, ?_⟩
  rw [List.all_eq_true] at h ⊢
  exact fun x hx => h.2 x (List.mem_filter.mp hx).1
theorem put_ok (t : TimeSt) (v : BitVec 64) (h : timeNs v < 1000000000) : (t.put v).ns < 1000000000 ∧ (t.put v).sec < 2 ^ 34 := by
  refine ⟨h, ?_⟩
  unfold TimeSt.put fld
  exact Nat.mod_lt _ (by decide)
theorem timeNs_timeOf (n : Int) : timeNs (timeOf n) < 1000000000 := by
  have h1 : (n % 1000000000).toNat < 1000000000 := by omega
  unfold timeNs timeOf fld
  generalize (n % 1000000000).toNat = b at h1 ⊢
  generalize (n / 1000000000).toNat % 2 ^ 34 = a
  simp only [BitVec.toNat_ofNat]
  omega
theorem frame_ok (t : TimeSt) (x : Bool) (h : t.ns < 1000000000 ∧ t.sec < 2 ^ 34) : (t.frame x).ns < 1000000000 ∧ (t.frame x).sec < 2 ^ 34 := by
  unfold TimeSt.frame TimeSt.add
  dsimp only
  split
  · split
    · exact ⟨Nat.mod_lt _ (by decide), Nat.mod_lt _ (by decide)⟩
    · exact h
  · exact ⟨Nat.mod_lt _ (by decide), Nat.mod_lt _ (by decide)⟩
theorem setSlot_secverMin (m : MgtSt) (n : Nat) (is : List FwImg) : (m.setSlot n is).secverMin = m.secverMin := by
  unfold MgtSt.setSlot; split <;> rfl
theorem keySlots_secverMin (m : MgtSt) (k : KeySlot) : (m.takeSlot k).secverMin = m.secverMin := by
  unfold MgtSt.takeSlot; dsimp only; split <;> rfl
theorem keeps_setPending {σ : State} (s : State) (v : List Instr) (h : Keeps σ s) : Keeps σ (s.setPending v) := ⟨h.inv, h.sec, h.cap⟩
theorem keeps_setFree {σ : State} (s : State) (v : Nat) (h : Keeps σ s) : Keeps σ (s.setFree v) := ⟨h.inv, h.sec, h.cap⟩
theorem keeps_setFac {σ : State} (s : State) (v : Factory) (h : Keeps σ s) : Keeps σ (s.setFac v) := ⟨h.inv, h.sec, h.cap⟩
theorem keeps_setClk {σ : State} (s : State) (v : ClkSt) (h : Keeps σ s) : Keeps σ (s.setClk v) := ⟨h.inv, h.sec, h.cap⟩
theorem keeps_setPwr {σ : State} (s : State) (v : PwrSt) (h : Keeps σ s) : Keeps σ (s.setPwr v) := ⟨h.inv, h.sec, h.cap⟩
theorem keeps_setFab {σ : State} (s : State) (v : FabricSt) (h : Keeps σ s) : Keeps σ (s.setFab v) := ⟨h.inv, h.sec, h.cap⟩
theorem keeps_setWarp {σ : State} (s : State) (v : WarpSt) (h : Keeps σ s) : Keeps σ (s.setWarp v) := ⟨h.inv, h.sec, h.cap⟩
theorem keeps_setPtns {σ : State} (s : State) (v : Tab PtnSt) (h : Keeps σ s) : Keeps σ (s.setPtns v) := ⟨h.inv, h.sec, h.cap⟩
theorem keeps_setCores {σ : State} (s : State) (v : Tab CoreSt) (h : Keeps σ s) : Keeps σ (s.setCores v) := ⟨h.inv, h.sec, h.cap⟩
theorem keeps_setSync {σ : State} (s : State) (v : SyncSt) (h : Keeps σ s) : Keeps σ (s.setSync v) := ⟨h.inv, h.sec, h.cap⟩
theorem keeps_setNotice {σ : State} (s : State) (v : NoticeSt) (h : Keeps σ s) : Keeps σ (s.setNotice v) := ⟨h.inv, h.sec, h.cap⟩
theorem keeps_setDir {σ : State} (s : State) (v : Directory) (h : Keeps σ s) : Keeps σ (s.setDir v) := ⟨h.inv, h.sec, h.cap⟩
theorem keeps_setXl {σ : State} (s : State) (v : XlatSt) (h : Keeps σ s) : Keeps σ (s.setXl v) := ⟨h.inv, h.sec, h.cap⟩
theorem keeps_setSh {σ : State} (s : State) (v : ShuttleSt) (h : Keeps σ s) : Keeps σ (s.setSh v) := ⟨h.inv, h.sec, h.cap⟩
theorem keeps_setModel {σ : State} (s : State) (v : ModelSt) (h : Keeps σ s) : Keeps σ (s.setModel v) := ⟨h.inv, h.sec, h.cap⟩
theorem keeps_setMctok {σ : State} (s : State) (v : Tab McastTok) (h : Keeps σ s) : Keeps σ (s.setMctok v) := ⟨h.inv, h.sec, h.cap⟩
theorem keeps_setHost {σ : State} (s : State) (v : HostSt) (h : Keeps σ s) : Keeps σ (s.setHost v) := ⟨h.inv, h.sec, h.cap⟩
theorem keeps_setNvme {σ : State} (s : State) (v : NvmeSt) (h : Keeps σ s) : Keeps σ (s.setNvme v) := ⟨h.inv, h.sec, h.cap⟩
theorem keeps_setFlash {σ : State} (s : State) (v : FlashSt) (h : Keeps σ s) : Keeps σ (s.setFlash v) := ⟨h.inv, h.sec, h.cap⟩
theorem keeps_setSearch {σ : State} (s : State) (v : SearchSt) (h : Keeps σ s) : Keeps σ (s.setSearch v) := ⟨h.inv, h.sec, h.cap⟩
theorem keeps_setIngest {σ : State} (s : State) (v : IngestSt) (h : Keeps σ s) : Keeps σ (s.setIngest v) := ⟨h.inv, h.sec, h.cap⟩
theorem keeps_setLinks {σ : State} (s : State) (v : LinksSt) (h : Keeps σ s) : Keeps σ (s.setLinks v) := ⟨h.inv, h.sec, h.cap⟩
theorem keeps_setField {σ : State} (s : State) (v : FieldSt) (h : Keeps σ s) : Keeps σ (s.setField v) := ⟨h.inv, h.sec, h.cap⟩
theorem keeps_setChain {σ : State} (s : State) (v : ChainSt) (h : Keeps σ s) : Keeps σ (s.setChain v) := ⟨h.inv, h.sec, h.cap⟩
theorem keeps_setTap {σ : State} (s : State) (v : TapSt) (h : Keeps σ s) : Keeps σ (s.setTap v) := ⟨h.inv, h.sec, h.cap⟩
theorem keeps_setMem {σ : State} (s : State) (v : Memory) (h : Keeps σ s) (hv : s.mem.wf = true → v.wf = true) : Keeps σ (s.setMem v) :=
  ⟨fun i => ⟨hv (h.inv i).1, (h.inv i).2⟩, h.sec, h.cap⟩
theorem keeps_setTime {σ : State} (s : State) (v : TimeSt) (h : Keeps σ s)
    (hv : s.time.ns < 1000000000 ∧ s.time.sec < 2 ^ 34 → v.ns < 1000000000 ∧ v.sec < 2 ^ 34) : Keeps σ (s.setTime v) :=
  ⟨fun i => ⟨(h.inv i).1, hv (h.inv i).2⟩, h.sec, h.cap⟩
theorem keeps_setMgt {σ : State} (s : State) (v : MgtSt) (h : Keeps σ s) (hv : v.secverMin = s.mgt.secverMin) : Keeps σ (s.setMgt v) :=
  ⟨h.inv, by show _ ≤ v.secverMin; rw [hv]; exact h.sec, by show _ → v.secverMin ≤ _; rw [hv]; exact h.cap⟩

end Sys2Proof.Machine
end

