-- ==== Sys2Proof/Laws/Keeps1.lean ====
section
/-! SUPPORT. What the operations of these files of the model keep: Ops, Acct, Log, Media, Coh, Notice, Xlat, Remote, Ckpt, Store, Lanes, FlashMap, Retain, Job. -/

namespace Sys2Proof.Machine
open Sys2Proof

theorem keeps_modCore {σ : State} (s : State) (c : Nat) (f : CoreSt → CoreSt) (h_s : Keeps σ s) : Keeps σ (State.modCore s c f) := by
  unfold State.modCore
  try dsimp only
  all_goals repeat' first
    | with_reducible assumption
    | with_reducible apply keeps_setCores

theorem keeps_modThr {σ : State} (s : State) (c : Nat) (t : Nat) (f : Thread → Thread) (h_s : Keeps σ s) : Keeps σ (State.modThr s c t f) := by
  unfold State.modThr
  try dsimp only
  all_goals repeat' first
    | with_reducible assumption
    | with_reducible apply keeps_modCore
    | intro _

theorem keeps_modPtn {σ : State} (s : State) (p : Nat) (f : PtnSt → PtnSt) (h_s : Keeps σ s) : Keeps σ (State.modPtn s p f) := by
  unfold State.modPtn
  try dsimp only
  all_goals repeat' first
    | with_reducible assumption
    | with_reducible apply keeps_setPtns

theorem keeps_modSync {σ : State} (s : State) (f : SyncSt → SyncSt) (h_s : Keeps σ s) : Keeps σ (State.modSync s f) := by
  unfold State.modSync
  try dsimp only
  all_goals repeat' first
    | with_reducible assumption
    | with_reducible apply keeps_setSync

theorem keeps_modNotice {σ : State} (s : State) (f : NoticeSt → NoticeSt) (h_s : Keeps σ s) : Keeps σ (State.modNotice s f) := by
  unfold State.modNotice
  try dsimp only
  all_goals repeat' first
    | with_reducible assumption
    | with_reducible apply keeps_setNotice

theorem keeps_modDir {σ : State} (s : State) (f : Directory → Directory) (h_s : Keeps σ s) : Keeps σ (State.modDir s f) := by
  unfold State.modDir
  try dsimp only
  all_goals repeat' first
    | with_reducible assumption
    | with_reducible apply keeps_setDir

theorem keeps_modXl {σ : State} (s : State) (f : XlatSt → XlatSt) (h_s : Keeps σ s) : Keeps σ (State.modXl s f) := by
  unfold State.modXl
  try dsimp only
  all_goals repeat' first
    | with_reducible assumption
    | with_reducible apply keeps_setXl

theorem keeps_modSh {σ : State} (s : State) (f : ShuttleSt → ShuttleSt) (h_s : Keeps σ s) : Keeps σ (State.modSh s f) := by
  unfold State.modSh
  try dsimp only
  all_goals repeat' first
    | with_reducible assumption
    | with_reducible apply keeps_setSh

theorem keeps_modModel {σ : State} (s : State) (f : ModelSt → ModelSt) (h_s : Keeps σ s) : Keeps σ (State.modModel s f) := by
  unfold State.modModel
  try dsimp only
  all_goals repeat' first
    | with_reducible assumption
    | with_reducible apply keeps_setModel

theorem keeps_modHost {σ : State} (s : State) (f : HostSt → HostSt) (h_s : Keeps σ s) : Keeps σ (State.modHost s f) := by
  unfold State.modHost
  try dsimp only
  all_goals repeat' first
    | with_reducible assumption
    | with_reducible apply keeps_setHost

theorem keeps_modNvme {σ : State} (s : State) (f : NvmeSt → NvmeSt) (h_s : Keeps σ s) : Keeps σ (State.modNvme s f) := by
  unfold State.modNvme
  try dsimp only
  all_goals repeat' first
    | with_reducible assumption
    | with_reducible apply keeps_setNvme

theorem keeps_modFlash {σ : State} (s : State) (f : FlashSt → FlashSt) (h_s : Keeps σ s) : Keeps σ (State.modFlash s f) := by
  unfold State.modFlash
  try dsimp only
  all_goals repeat' first
    | with_reducible assumption
    | with_reducible apply keeps_setFlash

theorem keeps_modSearch {σ : State} (s : State) (f : SearchSt → SearchSt) (h_s : Keeps σ s) : Keeps σ (State.modSearch s f) := by
  unfold State.modSearch
  try dsimp only
  all_goals repeat' first
    | with_reducible assumption
    | with_reducible apply keeps_setSearch

theorem keeps_modIngest {σ : State} (s : State) (f : IngestSt → IngestSt) (h_s : Keeps σ s) : Keeps σ (State.modIngest s f) := by
  unfold State.modIngest
  try dsimp only
  all_goals repeat' first
    | with_reducible assumption
    | with_reducible apply keeps_setIngest

theorem keeps_modLinks {σ : State} (s : State) (f : LinksSt → LinksSt) (h_s : Keeps σ s) : Keeps σ (State.modLinks s f) := by
  unfold State.modLinks
  try dsimp only
  all_goals repeat' first
    | with_reducible assumption
    | with_reducible apply keeps_setLinks

theorem keeps_paBytes {σ : State} (s : State) (pa : Nat) (bs : List Byte) (h_s : Keeps σ s) : Keeps σ (s.setMem (memWrite s.mem pa bs)) :=
  keeps_setMem _ _ h_s (memWrite_wf _ _ _)

theorem keeps_modMgt {σ : State} (s : State) (f : MgtSt → MgtSt) (h_s : Keeps σ s) (hf : ∀ m, (f m).secverMin = m.secverMin) :
    Keeps σ (s.modMgt f) := keeps_setMgt _ _ h_s (hf _)

theorem keeps_modField {σ : State} (s : State) (f : FieldSt → FieldSt) (h_s : Keeps σ s) : Keeps σ (State.modField s f) := by
  unfold State.modField
  try dsimp only
  all_goals repeat' first
    | with_reducible assumption
    | with_reducible apply keeps_setField

theorem keeps_modTime {σ : State} (s : State) (f : TimeSt → TimeSt) (h_s : Keeps σ s)
    (hf : ∀ t, t.ns < 1000000000 ∧ t.sec < 2 ^ 34 → (f t).ns < 1000000000 ∧ (f t).sec < 2 ^ 34) :
    Keeps σ (s.modTime f) := keeps_setTime _ _ h_s (hf _)

theorem keeps_modChain {σ : State} (s : State) (f : ChainSt → ChainSt) (h_s : Keeps σ s) : Keeps σ (State.modChain s f) := by
  unfold State.modChain
  try dsimp only
  all_goals repeat' first
    | with_reducible assumption
    | with_reducible apply keeps_setChain

theorem keeps_modFab {σ : State} (s : State) (f : FabricSt → FabricSt) (h_s : Keeps σ s) : Keeps σ (State.modFab s f) := by
  unfold State.modFab
  try dsimp only
  all_goals repeat' first
    | with_reducible assumption
    | with_reducible apply keeps_setFab

theorem keeps_modWarp {σ : State} (s : State) (f : WarpSt → WarpSt) (h_s : Keeps σ s) : Keeps σ (State.modWarp s f) := by
  unfold State.modWarp
  try dsimp only
  all_goals repeat' first
    | with_reducible assumption
    | with_reducible apply keeps_setWarp

theorem keeps_modPwr {σ : State} (s : State) (f : PwrSt → PwrSt) (h_s : Keeps σ s) : Keeps σ (State.modPwr s f) := by
  unfold State.modPwr
  try dsimp only
  all_goals repeat' first
    | with_reducible assumption
    | with_reducible apply keeps_setPwr

theorem keeps_modClk {σ : State} (s : State) (f : ClkSt → ClkSt) (h_s : Keeps σ s) : Keeps σ (State.modClk s f) := by
  unfold State.modClk
  try dsimp only
  all_goals repeat' first
    | with_reducible assumption
    | with_reducible apply keeps_setClk

theorem keeps_modLog {σ : State} (s : State) (f : LogSt → LogSt) (h_s : Keeps σ s) : Keeps σ (State.modLog s f) := by
  unfold State.modLog
  try dsimp only
  all_goals repeat' first
    | with_reducible assumption
    | with_reducible apply keeps_modMgt
    | (intro _; rfl)
    | intro _

theorem keeps_fresh {σ : State} (s : State) (h_s : Keeps σ s) : Keeps σ (State.fresh s).2 := by
  unfold State.fresh
  try dsimp only
  all_goals repeat' first
    | with_reducible assumption
    | with_reducible apply keeps_setFree

theorem keeps_raise {σ : State} (s : State) (v : Nat) (h_s : Keeps σ s) : Keeps σ (State.raise s v) := by
  unfold State.raise
  try dsimp only
  all_goals repeat' first
    | with_reducible assumption
    | with_reducible apply keeps_modHost
    | intro _

theorem keeps_raise0 {σ : State} (s : State) (v : Nat) (h_s : Keeps σ s) : Keeps σ (State.raise0 s v) := by
  unfold State.raise0
  try dsimp only
  all_goals repeat' first
    | with_reducible assumption
    | with_reducible apply keeps_modHost
    | intro _

theorem keeps_syncArrive {σ : State} (s : State) (input : Nat) (obj : Nat) (op : SyncOp) (h_s : Keeps σ s) : Keeps σ (State.syncArrive s input obj op) := by
  unfold State.syncArrive
  try dsimp only
  all_goals repeat' first
    | with_reducible assumption
    | with_reducible apply keeps_modSync
    | intro _

theorem keeps_signalRel {σ : State} (s : State) (input : Nat) (p : Nat) (obj : Nat) (n : Nat) (h_s : Keeps σ s) : Keeps σ (State.signalRel s input p obj n) := by
  unfold State.signalRel
  try dsimp only
  all_goals repeat' first
    | with_reducible assumption
    | with_reducible apply keeps_syncArrive
    | split

theorem keeps_signalDone {σ : State} (s : State) (input : Nat) (p : Nat) (obj : Nat) (n : Nat) (h_s : Keeps σ s) : Keeps σ (State.signalDone s input p obj n) := by
  unfold State.signalDone
  try dsimp only
  all_goals repeat' first
    | with_reducible assumption
    | with_reducible apply keeps_signalRel
    | split

theorem keeps_charge {σ : State} (s : State) (p : Nat) (k : Nat) (r : Option Nat) (n : Nat) (h_s : Keeps σ s) : Keeps σ (State.charge s p k r n) := by
  unfold State.charge
  try dsimp only
  all_goals repeat' first
    | with_reducible assumption
    | with_reducible apply keeps_modPtn
    | split
    | intro _

theorem keeps_chargeMem {σ : State} (s : State) (p : Nat) (pa : Nat) (n : Nat) (h_s : Keeps σ s) : Keeps σ (State.chargeMem s p pa n) := by
  unfold State.chargeMem
  try dsimp only
  all_goals repeat' first
    | with_reducible assumption
    | with_reducible apply keeps_charge
    | split

theorem keeps_chargeCore {σ : State} (s : State) (c : Nat) (pa : Nat) (n : Nat) (h_s : Keeps σ s) : Keeps σ (State.chargeCore s c pa n) := by
  unfold State.chargeCore
  try dsimp only
  all_goals repeat' first
    | with_reducible assumption
    | with_reducible apply keeps_chargeMem
    | split

theorem keeps_holdRequest {σ : State} (s : State) (p : Nat) (r : Nat) (lc : Bool) (n : Nat) (e : HeldReq) (h_s : Keeps σ s) : Keeps σ (State.holdRequest s p r lc n e) := by
  unfold State.holdRequest
  try dsimp only
  all_goals repeat' first
    | with_reducible assumption
    | with_reducible apply keeps_modPtn
    | split
    | intro _

theorem keeps_unheld {σ : State} (s : State) (p : Nat) (r : Nat) (e : HeldReq) (h_s : Keeps σ s) : Keeps σ (State.unheld s p r e) := by
  unfold State.unheld
  try dsimp only
  all_goals repeat' first
    | with_reducible assumption
    | with_reducible apply keeps_modPtn
    | split
    | intro _

theorem keeps_atPoint {σ : State} (s : State) (p : Nat) (r : Nat) (lc : Bool) (n : Nat) (e : HeldReq) (go : State → State) (h_s : Keeps σ s) (h_go : ∀ x0, Keeps σ x0 → Keeps σ (go x0)) : Keeps σ (State.atPoint s p r lc n e go) := by
  unfold State.atPoint
  try dsimp only
  all_goals repeat' first
    | with_reducible assumption
    | with_reducible apply keeps_holdRequest
    | with_reducible apply keeps_unheld
    | with_reducible apply h_go
    | split
    | intro _

theorem keeps_memPoint {σ : State} (s : State) (p : Nat) (pa : Nat) (lc : Bool) (n : Nat) (e : HeldReq) (go : State → State) (h_s : Keeps σ s) (h_go : ∀ x0, Keeps σ x0 → Keeps σ (go x0)) : Keeps σ (State.memPoint s p pa lc n e go) := by
  unfold State.memPoint
  try dsimp only
  all_goals repeat' first
    | with_reducible assumption
    | with_reducible apply keeps_atPoint
    | with_reducible apply keeps_chargeMem
    | with_reducible apply h_go
    | split
    | intro _

theorem keeps_chainUp {σ : State} (s : State) (f : ChainFrame) (h_s : Keeps σ s) : Keeps σ (State.chainUp s f) := by
  unfold State.chainUp
  try dsimp only
  all_goals repeat' first
    | with_reducible assumption
    | with_reducible apply keeps_modChain
    | split
    | intro _

theorem keeps_chainEvent {σ : State} (s : State) (e : LogEnt) (h_s : Keeps σ s) : Keeps σ (State.chainEvent s e) := by
  unfold State.chainEvent
  try dsimp only
  all_goals repeat' first
    | with_reducible assumption
    | with_reducible apply keeps_modChain
    | with_reducible apply keeps_chainUp
    | split
    | intro _

theorem keeps_logAt {σ : State} (s : State) (time : BitVec 64) (src : BitVec 16) (code : Nat) (payload : List Byte) (h_s : Keeps σ s) : Keeps σ (State.logAt s time src code payload) := by
  unfold State.logAt
  try dsimp only
  all_goals repeat' first
    | with_reducible assumption
    | with_reducible apply keeps_modLog
    | with_reducible apply keeps_chainEvent
    | split
    | intro _

theorem keeps_log {σ : State} (s : State) (src : BitVec 16) (code : Nat) (payload : List Byte) (h_s : Keeps σ s) : Keeps σ (State.log s src code payload) := by
  unfold State.log
  try dsimp only
  all_goals repeat' first
    | with_reducible assumption
    | with_reducible apply keeps_logAt

theorem keeps_logFolded {σ : State} (s : State) (key : Nat) (period : Nat) (src : BitVec 16) (code : Nat) (payload : Nat → List Byte) (h_s : Keeps σ s) : Keeps σ (State.logFolded s key period src code payload) := by
  unfold State.logFolded
  try dsimp only
  all_goals repeat' first
    | with_reducible assumption
    | with_reducible apply keeps_log
    | with_reducible apply keeps_modLog
    | with_reducible apply keeps_logAt
    | split
    | intro _

theorem keeps_logRated {σ : State} (s : State) (key : Nat) (period : Nat) (src : BitVec 16) (code : Nat) (payload : List Byte) (h_s : Keeps σ s) : Keeps σ (State.logRated s key period src code payload) := by
  unfold State.logRated
  try dsimp only
  all_goals repeat' first
    | with_reducible assumption
    | with_reducible apply keeps_logFolded
    | intro _

theorem keeps_modBlk {σ : State} (s : State) (k : Nat) (f : BlockSt → BlockSt) (h_s : Keeps σ s) : Keeps σ (State.modBlk s k f) := by
  unfold State.modBlk
  try dsimp only
  all_goals repeat' first
    | with_reducible assumption
    | with_reducible apply keeps_modFlash
    | intro _

theorem keeps_modFcd {σ : State} (s : State) (f : Nat) (g : FcDie → FcDie) (h_s : Keeps σ s) : Keeps σ (State.modFcd s f g) := by
  unfold State.modFcd
  try dsimp only
  all_goals repeat' first
    | with_reducible assumption
    | with_reducible apply keeps_modFlash
    | intro _

theorem keeps_journal {σ : State} (s : State) (f : Nat) (r : JRec) (h_s : Keeps σ s) : Keeps σ (State.journal s f r) := by
  unfold State.journal
  try dsimp only
  all_goals repeat' first
    | with_reducible assumption
    | with_reducible apply keeps_modFlash
    | with_reducible apply keeps_modFcd
    | split
    | intro _

theorem keeps_setPool {σ : State} (s : State) (k : Nat) (p : Pool) (h_s : Keeps σ s) : Keeps σ (State.setPool s k p) := by
  unfold State.setPool
  try dsimp only
  all_goals repeat' first
    | with_reducible assumption
    | with_reducible apply keeps_modBlk
    | with_reducible apply keeps_modFcd
    | with_reducible apply keeps_journal
    | split
    | intro _

theorem keeps_toFree {σ : State} (s : State) (k : Nat) (h_s : Keeps σ s) : Keeps σ (State.toFree s k) := by
  unfold State.toFree
  try dsimp only
  all_goals repeat' first
    | with_reducible assumption
    | with_reducible apply keeps_setPool
    | with_reducible apply keeps_modBlk
    | intro _

theorem keeps_dropRow {σ : State} (s : State) (r : RowSt) (h_s : Keeps σ s) : Keeps σ (State.dropRow s r) := by
  unfold State.dropRow
  try dsimp only
  all_goals repeat' first
    | with_reducible assumption
    | with_reducible apply keeps_modFlash
    | with_reducible apply keeps_toFree
    | split
    | intro _

theorem keeps_leaveRow {σ : State} (s : State) (k : Nat) (id : Nat) (h_s : Keeps σ s) : Keeps σ (State.leaveRow s k id) := by
  unfold State.leaveRow
  try dsimp only
  all_goals repeat' first
    | with_reducible assumption
    | with_reducible apply keeps_dropRow
    | with_reducible apply keeps_modFlash
    | with_reducible apply KeepsI.map
    | split
    | intro _

theorem keeps_freeBlock {σ : State} (s : State) (k : Nat) (h_s : Keeps σ s) : Keeps σ (State.freeBlock s k) := by
  unfold State.freeBlock
  try dsimp only
  all_goals repeat' first
    | with_reducible assumption
    | with_reducible apply keeps_toFree
    | with_reducible apply keeps_leaveRow

theorem keeps_settleRow {σ : State} (s : State) (id : Nat) (h_s : Keeps σ s) : Keeps σ (State.settleRow s id) := by
  unfold State.settleRow
  try dsimp only
  all_goals repeat' first
    | with_reducible assumption
    | with_reducible apply keeps_dropRow
    | with_reducible apply keeps_foldl
    | with_reducible apply keeps_foldl_snd
    | with_reducible apply keeps_foldl_fst
    | with_reducible apply keeps_modFlash
    | with_reducible apply keeps_each
    | with_reducible apply keeps_setPool
    | with_reducible apply keeps_freeBlock
    | split
    | intro _

theorem keeps_retireBlock {σ : State} (s : State) (k : Nat) (h_s : Keeps σ s) : Keeps σ (State.retireBlock s k) := by
  unfold State.retireBlock
  try dsimp only
  all_goals repeat' first
    | with_reducible assumption
    | with_reducible apply keeps_setPool
    | with_reducible apply keeps_modBlk
    | with_reducible apply keeps_leaveRow
    | with_reducible apply keeps_settleRow
    | intro _

theorem keeps_releaseUnit {σ : State} (s : State) (u : Nat) (h_s : Keeps σ s) : Keeps σ (State.releaseUnit s u) := by
  unfold State.releaseUnit
  try dsimp only
  all_goals repeat' first
    | with_reducible assumption
    | with_reducible apply keeps_modFlash
    | with_reducible apply keeps_modBlk
    | with_reducible apply keeps_freeBlock
    | split
    | intro _

theorem keeps_freeRunAt {σ : State} (s : State) (unit : Nat) (h_s : Keeps σ s) : Keeps σ (State.freeRunAt s unit) := by
  unfold State.freeRunAt
  try dsimp only
  all_goals repeat' first
    | with_reducible assumption
    | with_reducible apply keeps_modFlash
    | with_reducible apply keeps_each
    | with_reducible apply keeps_releaseUnit
    | split
    | intro _

theorem keeps_holdRun {σ : State} (s : State) (unit : Nat) (up : Bool) (h_s : Keeps σ s) : Keeps σ (State.holdRun s unit up) := by
  unfold State.holdRun
  try dsimp only
  all_goals repeat' first
    | with_reducible assumption
    | with_reducible apply keeps_modFlash
    | with_reducible apply keeps_freeRunAt
    | split
    | intro _

theorem keeps_putLine {σ : State} (s : State) (line : Nat) (d : BitVec 512) (h_s : Keeps σ s) : Keeps σ (State.putLine s line d) := by
  unfold State.putLine
  try dsimp only
  all_goals repeat' first
    | with_reducible assumption
    | with_reducible apply keeps_setMem
    | split
    | intro _
    | refine Keeps.of_snd (by assumption) ?_
    | refine Keeps.of_fst (by assumption) ?_
    | refine Keeps.of_some (by assumption) ?_
    | refine Keeps.of_pair (by assumption) ?_
    | refine Keeps.of_ok (by assumption) ?_
    | refine Keeps.of_unc (by assumption) ?_
    | (intro _; assumption)
    | dsimp only
    | exact memWrite_wf _ _ _ (by assumption)

theorem keeps_setL1 {σ : State} (s : State) (c : Nat) (line : Nat) (v : Option L1Line) (h_s : Keeps σ s) : Keeps σ (State.setL1 s c line v) := by
  unfold State.setL1
  try dsimp only
  all_goals repeat' first
    | with_reducible assumption
    | with_reducible apply keeps_modCore
    | split
    | intro _

theorem keeps_modDirEnt {σ : State} (s : State) (line : Nat) (f : DirEntry → DirEntry) (h_s : Keeps σ s) : Keeps σ (State.modDirEnt s line f) := by
  unfold State.modDirEnt
  try dsimp only
  all_goals repeat' first
    | with_reducible assumption
    | with_reducible apply keeps_modDir
    | intro _

theorem keeps_unpoison {σ : State} (s : State) (line : Nat) (h_s : Keeps σ s) : Keeps σ (State.unpoison s line) := by
  unfold State.unpoison
  try dsimp only
  all_goals repeat' first
    | with_reducible assumption
    | with_reducible apply keeps_modXl
    | intro _

theorem keeps_flushLine {σ : State} (s : State) (line : Nat) (h_s : Keeps σ s) : Keeps σ (State.flushLine s line) := by
  unfold State.flushLine
  try dsimp only
  all_goals repeat' first
    | with_reducible assumption
    | with_reducible apply keeps_putLine
    | with_reducible apply keeps_unpoison
    | with_reducible apply keeps_setL1
    | with_reducible apply keeps_modDirEnt
    | split
    | intro _

theorem keeps_purgeLine {σ : State} (s : State) (line : Nat) (h_s : Keeps σ s) : Keeps σ (State.purgeLine s line) := by
  unfold State.purgeLine
  try dsimp only
  all_goals repeat' first
    | with_reducible assumption
    | with_reducible apply keeps_putLine
    | with_reducible apply keeps_unpoison
    | with_reducible apply keeps_each
    | with_reducible apply keeps_setL1
    | with_reducible apply keeps_modDirEnt
    | with_reducible apply keeps_modDir
    | split
    | intro _

theorem keeps_writeLine {σ : State} (s : State) (line : Nat) (mask : BitVec 64) (d : BitVec 512) (h_s : Keeps σ s) : Keeps σ (State.writeLine s line mask d) := by
  unfold State.writeLine
  try dsimp only
  all_goals repeat' first
    | with_reducible assumption
    | with_reducible apply keeps_putLine
    | with_reducible apply keeps_each
    | with_reducible apply keeps_setL1
    | with_reducible apply keeps_modDir
    | with_reducible apply keeps_purgeLine
    | with_reducible apply keeps_unpoison
    | with_reducible apply KeepsI.map
    | split
    | intro _

theorem keeps_lineUe {σ : State} (s : State) (line : Nat) (h_s : Keeps σ s) : Keeps σ (State.lineUe s line) := by
  unfold State.lineUe
  try dsimp only
  all_goals repeat' first
    | with_reducible assumption
    | with_reducible apply keeps_modXl
    | with_reducible apply keeps_log
    | split
    | intro _

theorem keeps_memHit {σ : State} (x : MemHit) (s : State) (h_s : Keeps σ s) : Keeps σ (State.memHit x s) := by
  unfold State.memHit
  try dsimp only
  all_goals repeat' first
    | with_reducible assumption
    | with_reducible apply keeps_modXl
    | with_reducible apply keeps_logFolded
    | split
    | intro _

theorem keeps_memHits {σ : State} (s : State) (xs : List MemHit) (h_s : Keeps σ s) : Keeps σ (State.memHits s xs) := by
  unfold State.memHits
  try dsimp only
  all_goals repeat' first
    | with_reducible assumption
    | with_reducible apply keeps_each
    | with_reducible apply keeps_memHit
    | intro _

theorem keeps_linesUe {σ : State} (s : State) (pa : Nat) (n : Nat) (h_s : Keeps σ s) : Keeps σ (State.linesUe s pa n) := by
  unfold State.linesUe
  try dsimp only
  all_goals repeat' first
    | with_reducible assumption
    | with_reducible apply keeps_each
    | with_reducible apply keeps_lineUe
    | split
    | intro _

theorem keeps_piecesUe {σ : State} (s : State) (ps : List (Nat × Nat)) (h_s : Keeps σ s) : Keeps σ (State.piecesUe s ps) := by
  unfold State.piecesUe
  try dsimp only
  all_goals repeat' first
    | with_reducible assumption
    | with_reducible apply keeps_each
    | with_reducible apply keeps_linesUe
    | intro _

theorem keeps_paReadFx {σ : State} (s : State) (pa : Nat) (n : Nat) (h_s : Keeps σ s) : Keeps σ (State.paReadFx s pa n) := by
  unfold State.paReadFx
  try dsimp only
  all_goals repeat' first
    | with_reducible assumption
    | with_reducible apply keeps_each
    | with_reducible apply keeps_flushLine
    | with_reducible apply keeps_lineUe
    | with_reducible apply keeps_setFree
    | split
    | intro _

theorem keeps_paWrite {σ : State} (s : State) (pa : Nat) (bs : List Byte) (h_s : Keeps σ s) : Keeps σ (State.paWrite s pa bs) := by
  unfold State.paWrite
  try dsimp only
  all_goals repeat' first
    | with_reducible assumption
    | with_reducible apply keeps_each
    | with_reducible apply keeps_writeLine
    | with_reducible apply keeps_modCore
    | with_reducible apply keeps_foldl
    | with_reducible apply keeps_foldl_snd
    | with_reducible apply keeps_foldl_fst
    | with_reducible apply keeps_setMem
    | split
    | intro _
    | exact memWrite_wf _ _ _ (by assumption)

theorem keeps_devWrite {σ : State} (s : State) (pa : Nat) (bs : List Byte) (h_s : Keeps σ s) : Keeps σ (State.devWrite s pa bs) := by
  unfold State.devWrite
  try dsimp only
  all_goals repeat' first
    | with_reducible assumption
    | with_reducible apply keeps_paWrite
    | with_reducible apply keeps_log
    | split

theorem keeps_devUnread {σ : State} (s : State) (pa : Nat) (n : Nat) (h_s : Keeps σ s) : Keeps σ (State.devUnread s pa n) := by
  unfold State.devUnread
  try dsimp only
  all_goals repeat' first
    | with_reducible assumption
    | with_reducible apply keeps_log
    | split

theorem keeps_modNring {σ : State} (s : State) (r : Nat) (f : NoticeRing → NoticeRing) (h_s : Keeps σ s) : Keeps σ (State.modNring s r f) := by
  unfold State.modNring
  try dsimp only
  all_goals repeat' first
    | with_reducible assumption
    | with_reducible apply keeps_modNotice
    | intro _

theorem keeps_putNotice {σ : State} (s : State) (r : Nat) (rec : NoticeRec) (h_s : Keeps σ s) : Keeps σ (State.putNotice s r rec) := by
  unfold State.putNotice
  try dsimp only
  all_goals repeat' first
    | with_reducible assumption
    | with_reducible apply keeps_devWrite
    | with_reducible apply keeps_modNring
    | with_reducible apply keeps_raise
    | intro _

theorem keeps_holdNotice {σ : State} (s : State) (r : Nat) (rec : NoticeRec) (h_s : Keeps σ s) : Keeps σ (State.holdNotice s r rec) := by
  unfold State.holdNotice
  try dsimp only
  all_goals repeat' first
    | with_reducible assumption
    | with_reducible apply keeps_modNring
    | split
    | intro _

theorem keeps_writeHeld {σ : State} (s : State) (r : Nat) (h_s : Keeps σ s) : KeepsI σ (State.writeHeld s r) := by
  unfold State.writeHeld
  try dsimp only
  all_goals repeat' first
    | with_reducible assumption
    | with_reducible apply keeps_modNring
    | with_reducible apply keeps_putNotice
    | with_reducible apply KeepsI.some
    | with_reducible apply KeepsI.none
    | split
    | intro _

theorem keeps_sendNotice {σ : State} (s : State) (r : Nat) (rec : NoticeRec) (h_s : Keeps σ s) : Keeps σ (State.sendNotice s r rec) := by
  unfold State.sendNotice
  try dsimp only
  all_goals repeat' first
    | with_reducible assumption
    | with_reducible apply keeps_holdNotice
    | with_reducible apply keeps_writeHeld
    | with_reducible apply KeepsI.getD
    | refine Keeps.of_some (by assumption) ?_

theorem keeps_meetLevel {σ : State} (s : State) (kind : Nat) (index : Nat) (level : Nat) (h_s : Keeps σ s) : Keeps σ (State.meetLevel s kind index level).1 := by
  unfold State.meetLevel
  try dsimp only
  all_goals repeat' first
    | with_reducible assumption
    | with_reducible apply keeps_foldl
    | with_reducible apply keeps_foldl_snd
    | with_reducible apply keeps_foldl_fst
    | with_reducible apply keeps_modNotice
    | split
    | intro _

theorem keeps_noticeStep {σ : State} (s : State) (a0 : NoticeEvt) (h_s : Keeps σ s) : Keeps σ (State.noticeStep s a0).1 := by
  unfold State.noticeStep
  try dsimp only
  all_goals repeat' first
    | with_reducible assumption
    | with_reducible apply keeps_sendNotice
    | with_reducible apply keeps_writeHeld
    | with_reducible apply keeps_meetLevel
    | with_reducible apply KeepsI.map
    | split
    | intro _
    | refine Keeps.of_fst (by assumption) ?_
    | refine Keeps.of_some (by assumption) ?_

theorem keeps_noticeRun {σ : State} (a0 : Nat) (a1 : State) (a2 : List NoticeEvt) (h_a1 : Keeps σ a1) : Keeps σ (State.noticeRun a0 a1 a2) := by
  induction a0 generalizing a1 a2 with
  | zero => exact h_a1
  | succ n ih =>
    cases a2 with
    | nil => exact h_a1
    | cons e es => exact ih _ _ (keeps_noticeStep _ _ h_a1)

theorem keeps_evalLevel {σ : State} (s : State) (kind : Nat) (index : Nat) (level : Nat) (h_s : Keeps σ s) : Keeps σ (State.evalLevel s kind index level) := by
  unfold State.evalLevel
  try dsimp only
  all_goals repeat' first
    | with_reducible assumption
    | with_reducible apply keeps_noticeRun

theorem keeps_notify {σ : State} (s : State) (r : Nat) (code : Nat) (source : Nat) (data : BitVec 64) (h_s : Keeps σ s) : Keeps σ (State.notify s r code source data) := by
  unfold State.notify
  try dsimp only
  all_goals repeat' first
    | with_reducible assumption
    | with_reducible apply keeps_noticeRun

theorem keeps_drainRing {σ : State} (s : State) (r : Nat) (h_s : Keeps σ s) : Keeps σ (State.drainRing s r) := by
  unfold State.drainRing
  try dsimp only
  all_goals repeat' first
    | with_reducible assumption
    | with_reducible apply keeps_noticeRun

theorem keeps_notifyModule {σ : State} (s : State) (code : Nat) (source : Nat) (data : BitVec 64) (h_s : Keeps σ s) : Keeps σ (State.notifyModule s code source data) := by
  unfold State.notifyModule
  try dsimp only
  all_goals repeat' first
    | with_reducible assumption
    | with_reducible apply keeps_notify

theorem keeps_fillLeaf {σ : State} (s : State) (l : Leaf) (h_s : Keeps σ s) : Keeps σ (State.fillLeaf s l) := by
  unfold State.fillLeaf
  try dsimp only
  all_goals repeat' first
    | with_reducible assumption
    | with_reducible apply keeps_modXl
    | with_reducible apply keeps_fresh
    | split
    | intro _

theorem keeps_fillWalk {σ : State} (s : State) (w : WalkEnt) (h_s : Keeps σ s) : Keeps σ (State.fillWalk s w) := by
  unfold State.fillWalk
  try dsimp only
  all_goals repeat' first
    | with_reducible assumption
    | with_reducible apply keeps_modXl
    | with_reducible apply keeps_fresh
    | split
    | intro _

theorem keeps_lookup {σ : State} (s : State) (p : Nat) (agent : Nat) (va : Nat) (need : Need) (engine : Bool) (h_s : Keeps σ s) : KeepsP σ (State.lookup s p agent va need engine) := by
  unfold State.lookup
  try dsimp only
  all_goals repeat' first
    | with_reducible assumption
    | with_reducible apply keeps_fillLeaf
    | with_reducible apply KeepsP.some
    | with_reducible apply KeepsP.none
    | split

theorem keeps_cacheWalked {σ : State} (s : State) (l : Leaf) (need : Need) (engine : Bool) (h_s : Keeps σ s) : Keeps σ (State.cacheWalked s l need engine) := by
  unfold State.cacheWalked
  try dsimp only
  all_goals repeat' first
    | with_reducible assumption
    | with_reducible apply keeps_fillLeaf
    | split

theorem keeps_walkPassed {σ : State} (s : State) (p : Nat) (agent : Nat) (h_s : Keeps σ s) : Keeps σ (State.walkPassed s p agent) := by
  unfold State.walkPassed
  try dsimp only
  all_goals repeat' first
    | with_reducible assumption
    | with_reducible apply keeps_unheld

theorem keeps_walkFrom {σ : State} (p : Nat) (agent : Nat) (va : Nat) (need : Need) (a0 : Nat) (a1 : Nat) (a2 : Nat) (a3 : State) (h_a3 : Keeps σ a3) : Keeps σ (walkFrom p agent va need a0 a1 a2 a3).2 := by
  induction a0 generalizing p agent va need a1 a2 a3 with
  | zero =>
    unfold walkFrom
    try dsimp only
    all_goals repeat' first
      | with_reducible assumption
      | with_reducible apply ih
      | with_reducible apply keeps_holdRequest
      | with_reducible apply keeps_walkPassed
      | with_reducible apply keeps_paReadFx
      | with_reducible apply keeps_chargeMem
      | with_reducible apply keeps_fillWalk
      | split
      | intro _
  | succ n ih =>
    unfold walkFrom
    try dsimp only
    all_goals repeat' first
      | with_reducible assumption
      | with_reducible apply ih
      | with_reducible apply keeps_holdRequest
      | with_reducible apply keeps_walkPassed
      | with_reducible apply keeps_paReadFx
      | with_reducible apply keeps_chargeMem
      | with_reducible apply keeps_fillWalk
      | split
      | intro _

theorem keeps_walk {σ : State} (s : State) (p : Nat) (agent : Nat) (va : Nat) (need : Need) (h_s : Keeps σ s) : Keeps σ (State.walk s p agent va need).2 := by
  unfold State.walk
  try dsimp only
  all_goals repeat' first
    | with_reducible assumption
    | with_reducible apply keeps_walkFrom
    | split
    | refine Keeps.of_snd (by assumption) ?_

theorem keeps_translate {σ : State} (s : State) (p : Nat) (agent : Nat) (va : Nat) (need : Need) (engine : Bool) (h_s : Keeps σ s) : Keeps σ (State.translate s p agent va need engine).2 := by
  unfold State.translate
  try dsimp only
  all_goals repeat' first
    | with_reducible assumption
    | with_reducible apply keeps_lookup
    | with_reducible apply keeps_walk
    | with_reducible apply keeps_cacheWalked
    | split
    | refine Keeps.of_snd (by assumption) ?_
    | refine Keeps.of_pair (by assumption) ?_

theorem keeps_putFault {σ : State} (s : State) (h : HaltRec) (h_s : Keeps σ s) : Keeps σ (State.putFault s h) := by
  unfold State.putFault
  try dsimp only
  all_goals repeat' first
    | with_reducible assumption
    | with_reducible apply keeps_devWrite
    | with_reducible apply keeps_modPtn
    | with_reducible apply keeps_raise
    | with_reducible apply keeps_signalRel
    | split
    | intro _

theorem keeps_newToken {σ : State} (s : State) (h_s : Keeps σ s) : Keeps σ (State.newToken s).2 := by
  unfold State.newToken
  try dsimp only
  all_goals repeat' first
    | with_reducible assumption
    | with_reducible apply keeps_modXl
    | split
    | intro _

theorem keeps_takeFault {σ : State} (s : State) (h : HaltRec) (h_s : Keeps σ s) : Keeps σ (State.takeFault s h).2 := by
  unfold State.takeFault
  try dsimp only
  all_goals repeat' first
    | with_reducible assumption
    | with_reducible apply keeps_newToken
    | with_reducible apply keeps_putFault
    | with_reducible apply keeps_modXl
    | split
    | intro _

theorem keeps_noteFault {σ : State} (s : State) (h : HaltRec) (h_s : Keeps σ s) : Keeps σ (State.noteFault s h) := by
  unfold State.noteFault
  try dsimp only
  all_goals repeat' first
    | with_reducible assumption
    | with_reducible apply keeps_newToken
    | with_reducible apply keeps_putFault
    | with_reducible apply keeps_modXl
    | split
    | intro _

theorem keeps_mapPieces {σ : State} (xlate : Nat → Nat → State → Xl × State) (a0 : List (Nat × Nat)) (a1 : List (Nat × Nat)) (a2 : State) (h_xlate : ∀ x0 x1 x2, Keeps σ x2 → Keeps σ (xlate x0 x1 x2).2) (h_a2 : Keeps σ a2) : Keeps σ (State.mapPieces xlate a0 a1 a2).2 := by
  induction a0 generalizing a1 a2 with
  | nil =>
    unfold State.mapPieces
    try dsimp only
    all_goals repeat' first
      | with_reducible assumption
      | with_reducible apply ih
      | with_reducible apply h_xlate
      | with_reducible apply KeepsI.map
      | split
      | intro _
      | refine Keeps.of_snd (by assumption) ?_
  | cons x xs ih =>
    unfold State.mapPieces
    try dsimp only
    all_goals repeat' first
      | with_reducible assumption
      | with_reducible apply ih
      | with_reducible apply h_xlate
      | with_reducible apply KeepsI.map
      | split
      | intro _
      | refine Keeps.of_snd (by assumption) ?_

theorem keeps_exportMap {σ : State} (s : State) (p : Nat) (off : Nat) (n : Nat) (need : Need) (h_s : Keeps σ s) : Keeps σ (State.exportMap s p off n need).2 := by
  unfold State.exportMap
  try dsimp only
  all_goals repeat' first
    | with_reducible assumption
    | with_reducible apply keeps_mapPieces
    | with_reducible apply keeps_translate
    | with_reducible apply KeepsI.map
    | intro _

theorem keeps_engXlate {σ : State} (p : Nat) (agent : Nat) (need : Need) (va : Nat) (n : Nat) (s : State) (h_s : Keeps σ s) : Keeps σ (State.engXlate p agent need va n s).2 := by
  unfold State.engXlate
  try dsimp only
  all_goals repeat' first
    | with_reducible assumption
    | with_reducible apply keeps_translate
    | with_reducible apply keeps_exportMap
    | split
    | refine Keeps.of_snd (by assumption) ?_

theorem keeps_piecesPoint {σ : State} (s : State) (p : Nat) (need : Need) (ps : List (Nat × Nat)) (h_s : Keeps σ s) : Keeps σ (State.piecesPoint s p need ps).2 := by
  unfold State.piecesPoint
  try dsimp only
  all_goals repeat' first
    | with_reducible assumption
    | with_reducible apply keeps_holdRequest
    | with_reducible apply keeps_each
    | with_reducible apply keeps_unheld
    | with_reducible apply KeepsI.map
    | split
    | intro _

theorem keeps_bufXlate {σ : State} (p : Nat) (need : Need) (ps : List (Nat × Nat)) (acc : List (Nat × Nat)) (s : State) (h_s : Keeps σ s) : Keeps σ (State.bufXlate p need ps acc s).2 := by
  unfold State.bufXlate
  try dsimp only
  all_goals repeat' first
    | with_reducible assumption
    | with_reducible apply keeps_mapPieces
    | with_reducible apply keeps_engXlate
    | with_reducible apply keeps_piecesPoint
    | with_reducible apply KeepsI.map
    | split
    | refine Keeps.of_snd (by assumption) ?_

theorem keeps_maskWrite {σ : State} (s : State) (pa : Nat) (bs : List Byte) (mask : List Bool) (h_s : Keeps σ s) : Keeps σ (State.maskWrite s pa bs mask) := by
  unfold State.maskWrite
  try dsimp only
  all_goals repeat' first
    | with_reducible assumption
    | with_reducible apply keeps_paWrite
    | with_reducible apply keeps_each
    | with_reducible apply KeepsI.getD
    | split
    | intro _

theorem keeps_remotePut {σ : State} (a0 : List (Nat × Nat)) (a1 : List Byte) (a2 : List Bool) (a3 : State) (h_a3 : Keeps σ a3) : Keeps σ (State.remotePut a0 a1 a2 a3) := by
  induction a0 generalizing a1 a2 a3 with
  | nil =>
    unfold State.remotePut
    try dsimp only
    all_goals repeat' first
      | with_reducible assumption
      | with_reducible apply ih
      | with_reducible apply keeps_maskWrite
      | split
  | cons x xs ih =>
    unfold State.remotePut
    try dsimp only
    all_goals repeat' first
      | with_reducible assumption
      | with_reducible apply ih
      | with_reducible apply keeps_maskWrite
      | split

theorem keeps_serveRemote {σ : State} (s : State) (r : RemReq) (input : Nat) (h_s : Keeps σ s) : Keeps σ (State.serveRemote s r input).2 := by
  unfold State.serveRemote
  try dsimp only
  all_goals repeat' first
    | with_reducible assumption
    | with_reducible apply keeps_syncArrive
    | with_reducible apply keeps_exportMap
    | with_reducible apply keeps_piecesPoint
    | with_reducible apply keeps_each
    | with_reducible apply keeps_chargeMem
    | with_reducible apply keeps_remotePut
    | with_reducible apply keeps_paReadFx
    | split
    | intro _
    | refine Keeps.of_snd (by assumption) ?_

theorem keeps_modLink {σ : State} (s : State) (l : Nat) (f : LinkSt → LinkSt) (h_s : Keeps σ s) : Keeps σ (State.modLink s l f) := by
  unfold State.modLink
  try dsimp only
  all_goals repeat' first
    | with_reducible assumption
    | with_reducible apply keeps_modLinks
    | intro _

theorem keeps_noteRefusal {σ : State} (s : State) (p : Nat) (link : Option Nat) (h_s : Keeps σ s) : Keeps σ (State.noteRefusal s p link) := by
  unfold State.noteRefusal
  try dsimp only
  all_goals repeat' first
    | with_reducible assumption
    | with_reducible apply keeps_modLink
    | with_reducible apply keeps_logRated
    | split
    | intro _

theorem keeps_serveSelf {σ : State} (s : State) (r : RemReq) (h_s : Keeps σ s) : Keeps σ (State.serveSelf s r).2 := by
  unfold State.serveSelf
  try dsimp only
  all_goals repeat' first
    | with_reducible assumption
    | with_reducible apply keeps_serveRemote
    | with_reducible apply keeps_noteRefusal
    | split
    | refine Keeps.of_snd (by assumption) ?_

theorem keeps_queueDir {σ : State} (s : State) (dir : Nat) (flow : List Nat) (fs : List LkFlit) (h_s : Keeps σ s) : Keeps σ (State.queueDir s dir flow fs) := by
  unfold State.queueDir
  try dsimp only
  all_goals repeat' first
    | with_reducible assumption
    | with_reducible apply keeps_modLink
    | with_reducible apply KeepsI.map
    | split
    | intro _

theorem keeps_queueTo {σ : State} (s : State) (m : Nat) (agent : Nat) (vc : Nat) (fs : Nat → List LkFlit) (h_s : Keeps σ s) : Keeps σ (State.queueTo s m agent vc fs) := by
  unfold State.queueTo
  try dsimp only
  all_goals repeat' first
    | with_reducible assumption
    | with_reducible apply keeps_queueDir
    | split

theorem keeps_queueCtl {σ : State} (s : State) (m : Nat) (key : BitVec 64) (h_s : Keeps σ s) : Keeps σ (State.queueCtl s m key) := by
  unfold State.queueCtl
  try dsimp only
  all_goals repeat' first
    | with_reducible assumption
    | with_reducible apply keeps_queueTo
    | intro _

theorem keeps_sendLink {σ : State} (s : State) (m : LinkMsg) (h_s : Keeps σ s) : Keeps σ (State.sendLink s m) := by
  unfold State.sendLink
  try dsimp only
  all_goals repeat' first
    | with_reducible assumption
    | with_reducible apply keeps_modLinks
    | with_reducible apply keeps_queueTo
    | with_reducible apply keeps_queueDir
    | with_reducible apply keeps_each
    | with_reducible apply keeps_queueCtl
    | split
    | intro _

theorem keeps_sendAnswer {σ : State} (s : State) (r : RemReq) (a : RemAns) (h_s : Keeps σ s) : Keeps σ (State.sendAnswer s r a) := by
  unfold State.sendAnswer
  try dsimp only
  all_goals repeat' first
    | with_reducible assumption
    | with_reducible apply keeps_sendLink
    | with_reducible apply keeps_queueTo
    | split
    | intro _

theorem keeps_lkSlot {σ : State} (s : State) (l : Nat) (h_s : Keeps σ s) : KeepsI σ (State.lkSlot s l) := by
  unfold State.lkSlot
  try dsimp only
  all_goals repeat' first
    | with_reducible assumption
    | with_reducible apply keeps_modLink
    | with_reducible apply keeps_charge
    | with_reducible apply KeepsI.some
    | with_reducible apply KeepsI.none
    | split
    | intro _

theorem keeps_lkSlots {σ : State} (l : Nat) (a0 : Nat) (a1 : State) (h_a1 : Keeps σ a1) : Keeps σ (State.lkSlots l a0 a1) := by
  induction a0 generalizing l a1 with
  | zero =>
    unfold State.lkSlots
    try dsimp only
    all_goals repeat' first
      | with_reducible assumption
      | with_reducible apply ih
      | with_reducible apply keeps_lkSlot
      | split
      | refine Keeps.of_some (by assumption) ?_
  | succ n ih =>
    unfold State.lkSlots
    try dsimp only
    all_goals repeat' first
      | with_reducible assumption
      | with_reducible apply ih
      | with_reducible apply keeps_lkSlot
      | split
      | refine Keeps.of_some (by assumption) ?_

theorem keeps_lkNote {σ : State} (s : State) (l : Nat) (h_s : Keeps σ s) : Keeps σ (State.lkNote s l) := by
  unfold State.lkNote
  try dsimp only
  all_goals repeat' first
    | with_reducible assumption
    | with_reducible apply keeps_each
    | with_reducible apply keeps_modPtn
    | with_reducible apply keeps_modLink
    | with_reducible apply KeepsI.map
    | split
    | intro _

theorem keeps_lkDrain {σ : State} (s : State) (l : Nat) (h_s : Keeps σ s) : Keeps σ (State.lkDrain s l) := by
  unfold State.lkDrain
  try dsimp only
  all_goals repeat' first
    | with_reducible assumption
    | with_reducible apply keeps_lkSlots
    | with_reducible apply keeps_lkNote
    | split

theorem keeps_drainLinks {σ : State} (s : State) (h_s : Keeps σ s) : Keeps σ (State.drainLinks s) := by
  unfold State.drainLinks
  try dsimp only
  all_goals repeat' first
    | with_reducible assumption
    | with_reducible apply keeps_each
    | with_reducible apply keeps_lkDrain
    | intro _

theorem keeps_sendRemote {σ : State} (s : State) (p : Nat) (agent : Nat) (pa : Nat) (n : Nat) (bs : List Byte) (lc : Bool) (h_s : Keeps σ s) : Keeps σ (State.sendRemote s p agent pa n bs lc) := by
  unfold State.sendRemote
  try dsimp only
  all_goals repeat' first
    | with_reducible assumption
    | with_reducible apply keeps_each
    | with_reducible apply keeps_sendLink
    | split
    | intro _

theorem keeps_setSlotState {σ : State} (s : State) (i : Nat) (st : Nat) (h_s : Keeps σ s) : Keeps σ (State.setSlotState s i st) := by
  unfold State.setSlotState
  try dsimp only
  all_goals repeat' first
    | with_reducible assumption
    | with_reducible apply keeps_modLinks
    | with_reducible apply keeps_journal
    | intro _

theorem keeps_setCoord {σ : State} (s : State) (c : Coord) (h_s : Keeps σ s) : Keeps σ (State.setCoord s c) := by
  unfold State.setCoord
  try dsimp only
  all_goals repeat' first
    | with_reducible assumption
    | with_reducible apply keeps_modLinks
    | split
    | intro _

theorem keeps_logCkptFail {σ : State} (s : State) (key : BitVec 64) (id : Nat) (status : Nat) (h_s : Keeps σ s) : Keeps σ (State.logCkptFail s key id status) := by
  unfold State.logCkptFail
  try dsimp only
  all_goals repeat' first
    | with_reducible assumption
    | with_reducible apply keeps_log

theorem keeps_coordAbort {σ : State} (s : State) (key : BitVec 64) (status : Nat) (h_s : Keeps σ s) : Keeps σ (State.coordAbort s key status) := by
  unfold State.coordAbort
  try dsimp only
  all_goals repeat' first
    | with_reducible assumption
    | with_reducible apply keeps_each
    | with_reducible apply keeps_sendLink
    | with_reducible apply keeps_setCoord
    | intro _

theorem keeps_ckptStopped {σ : State} (s : State) (j : Job) (status : Nat) (h_s : Keeps σ s) : Keeps σ (State.ckptStopped s j status) := by
  unfold State.ckptStopped
  try dsimp only
  all_goals repeat' first
    | with_reducible assumption
    | with_reducible apply keeps_logCkptFail
    | with_reducible apply keeps_coordAbort
    | with_reducible apply keeps_sendLink
    | split

theorem keeps_scramble {σ : State} (s : State) (c : Nat) (keepBad : Bool) (rs : List RunAt) (h_s : Keeps σ s) : Keeps σ (State.scramble s c keepBad rs) := by
  unfold State.scramble
  try dsimp only
  all_goals repeat' first
    | with_reducible assumption
    | with_reducible apply keeps_fresh
    | with_reducible apply keeps_modCore
    | with_reducible apply keeps_foldl
    | with_reducible apply keeps_foldl_snd
    | with_reducible apply keeps_foldl_fst
    | intro _

theorem keeps_laneStop {σ : State} (s : State) (c : Nat) (eng : Nat) (o : EngOp) (h_s : Keeps σ s) : Keeps σ (State.laneStop s c eng o).2 := by
  unfold State.laneStop
  try dsimp only
  all_goals repeat' first
    | with_reducible assumption
    | with_reducible apply keeps_fresh
    | with_reducible apply keeps_modCore
    | split
    | intro _

theorem keeps_writeBack {σ : State} (s : State) (key : Nat) (h_s : Keeps σ s) : Keeps σ (State.writeBack s key) := by
  unfold State.writeBack
  try dsimp only
  all_goals repeat' first
    | with_reducible assumption
    | with_reducible apply keeps_modFlash
    | with_reducible apply KeepsI.map
    | split
    | intro _

theorem keeps_writeBackAll {σ : State} (s : State) (h_s : Keeps σ s) : Keeps σ (State.writeBackAll s) := by
  unfold State.writeBackAll
  try dsimp only
  all_goals repeat' first
    | with_reducible assumption
    | with_reducible apply keeps_each
    | with_reducible apply keeps_writeBack
    | intro _

theorem keeps_evictPage {σ : State} (s : State) (h_s : Keeps σ s) : Keeps σ (State.evictPage s) := by
  unfold State.evictPage
  try dsimp only
  all_goals repeat' first
    | with_reducible assumption
    | with_reducible apply keeps_writeBack
    | with_reducible apply keeps_modFlash
    | split
    | intro _

theorem keeps_mapTouch {σ : State} (s : State) (nsid : Nat) (lba : Nat) (dirty : Bool) (h_s : Keeps σ s) : Keeps σ (State.mapTouch s nsid lba dirty) := by
  unfold State.mapTouch
  try dsimp only
  all_goals repeat' first
    | with_reducible assumption
    | with_reducible apply keeps_modFcd
    | with_reducible apply keeps_modFlash
    | with_reducible apply keeps_evictPage
    | split
    | intro _

theorem keeps_putEnt {σ : State} (s : State) (nsid : Nat) (lba : Nat) (e : MapEnt) (h_s : Keeps σ s) : Keeps σ (State.putEnt s nsid lba e) := by
  unfold State.putEnt
  try dsimp only
  all_goals repeat' first
    | with_reducible assumption
    | with_reducible apply keeps_modFlash
    | with_reducible apply keeps_mapTouch
    | with_reducible apply KeepsI.map
    | split
    | intro _

theorem keeps_setEnt {σ : State} (s : State) (nsid : Nat) (lba : Nat) (e : MapEnt) (h_s : Keeps σ s) : Keeps σ (State.setEnt s nsid lba e) := by
  unfold State.setEnt
  try dsimp only
  all_goals repeat' first
    | with_reducible assumption
    | with_reducible apply keeps_putEnt
    | with_reducible apply keeps_modBlk
    | with_reducible apply keeps_releaseUnit
    | with_reducible apply KeepsI.map
    | split
    | intro _

theorem keeps_remap {σ : State} (s : State) (r : RunSt) (mapped : Bool) (h_s : Keeps σ s) : Keeps σ (State.remap s r mapped) := by
  unfold State.remap
  try dsimp only
  all_goals repeat' first
    | with_reducible assumption
    | with_reducible apply keeps_each
    | with_reducible apply keeps_putEnt
    | with_reducible apply keeps_journal
    | with_reducible apply KeepsI.map
    | intro _

theorem keeps_freeExtent {σ : State} (s : State) (nsid : Nat) (lba : Nat) (h_s : Keeps σ s) : Keeps σ (State.freeExtent s nsid lba) := by
  unfold State.freeExtent
  try dsimp only
  all_goals repeat' first
    | with_reducible assumption
    | with_reducible apply keeps_remap
    | with_reducible apply keeps_freeRunAt
    | split

theorem keeps_freeVersion {σ : State} (s : State) (nsid : Nat) (v : Version) (h_s : Keeps σ s) : Keeps σ (State.freeVersion s nsid v) := by
  unfold State.freeVersion
  try dsimp only
  all_goals repeat' first
    | with_reducible assumption
    | with_reducible apply keeps_each
    | with_reducible apply keeps_freeExtent
    | intro _

theorem keeps_modIndex {σ : State} (s : State) (h : Nat) (f : IndexSt → IndexSt) (h_s : Keeps σ s) : Keeps σ (State.modIndex s h f) := by
  unfold State.modIndex
  try dsimp only
  all_goals repeat' first
    | with_reducible assumption
    | with_reducible apply keeps_modSearch
    | intro _

theorem keeps_retain {σ : State} (s : State) (h_s : Keeps σ s) : Keeps σ (State.retain s) := by
  unfold State.retain
  try dsimp only
  all_goals repeat' first
    | with_reducible assumption
    | with_reducible apply keeps_each
    | with_reducible apply keeps_freeVersion
    | with_reducible apply keeps_modIndex
    | intro _

theorem keeps_freeIndex {σ : State} (s : State) (h : Nat) (h_s : Keeps σ s) : Keeps σ (State.freeIndex s h) := by
  unfold State.freeIndex
  try dsimp only
  all_goals repeat' first
    | with_reducible assumption
    | with_reducible apply keeps_each
    | with_reducible apply keeps_freeVersion
    | with_reducible apply keeps_modSearch
    | split
    | intro _

theorem keeps_unpin {σ : State} (s : State) (holder : Nat) (h_s : Keeps σ s) : Keeps σ (State.unpin s holder) := by
  unfold State.unpin
  try dsimp only
  all_goals repeat' first
    | with_reducible assumption
    | with_reducible apply keeps_modSearch
    | with_reducible apply keeps_retain
    | with_reducible apply KeepsI.map
    | intro _

theorem keeps_pinSearch {σ : State} (s : State) (p : Nat) (id : Nat) (h : Nat) (h_s : Keeps σ s) : Keeps σ (State.pinSearch s p id h) := by
  unfold State.pinSearch
  try dsimp only
  all_goals repeat' first
    | with_reducible assumption
    | with_reducible apply keeps_modIndex
    | split
    | intro _

theorem keeps_modEng {σ : State} (s : State) (ch : Nat) (f : QuernEng → QuernEng) (h_s : Keeps σ s) : Keeps σ (State.modEng s ch f) := by
  unfold State.modEng
  try dsimp only
  all_goals repeat' first
    | with_reducible assumption
    | with_reducible apply keeps_modSearch
    | intro _

theorem keeps_modBatch {σ : State} (s : State) (tag : Nat) (f : Batch → Batch) (h_s : Keeps σ s) : Keeps σ (State.modBatch s tag f) := by
  unfold State.modBatch
  try dsimp only
  all_goals repeat' first
    | with_reducible assumption
    | with_reducible apply keeps_modSearch
    | intro _

theorem keeps_leaveEngine {σ : State} (s : State) (b : Batch) (ch : Nat) (h_s : Keeps σ s) : Keeps σ (State.leaveEngine s b ch) := by
  unfold State.leaveEngine
  try dsimp only
  all_goals repeat' first
    | with_reducible assumption
    | with_reducible apply keeps_modEng
    | with_reducible apply keeps_modBatch
    | split
    | intro _

theorem keeps_dropDesc {σ : State} (s : State) (d : ExtDesc) (h_s : Keeps σ s) : Keeps σ (State.dropDesc s d) := by
  unfold State.dropDesc
  try dsimp only
  all_goals repeat' first
    | with_reducible assumption
    | with_reducible apply keeps_holdRun

theorem keeps_dropDescs {σ : State} (s : State) (tag : Nat) (ch : Nat) (h_s : Keeps σ s) : Keeps σ (State.dropDescs s tag ch) := by
  unfold State.dropDescs
  try dsimp only
  all_goals repeat' first
    | with_reducible assumption
    | with_reducible apply keeps_modEng
    | with_reducible apply keeps_each
    | with_reducible apply keeps_dropDesc
    | intro _

theorem keeps_dropBatch {σ : State} (s : State) (b : Batch) (h_s : Keeps σ s) : Keeps σ (State.dropBatch s b) := by
  unfold State.dropBatch
  try dsimp only
  all_goals repeat' first
    | with_reducible assumption
    | with_reducible apply keeps_each
    | with_reducible apply keeps_holdRun
    | with_reducible apply keeps_dropDescs
    | with_reducible apply keeps_leaveEngine
    | with_reducible apply keeps_modSearch
    | with_reducible apply keeps_modXl
    | with_reducible apply keeps_unpin
    | split
    | intro _

theorem keeps_modPage {σ : State} (s : State) (p : Nat) (f : WeftPage → WeftPage) (h_s : Keeps σ s) : Keeps σ (State.modPage s p f) := by
  unfold State.modPage
  try dsimp only
  all_goals repeat' first
    | with_reducible assumption
    | with_reducible apply keeps_modHost
    | intro _

theorem keeps_modWring {σ : State} (s : State) (p : Nat) (r : Nat) (f : WeftRing → WeftRing) (h_s : Keeps σ s) : Keeps σ (State.modWring s p r f) := by
  unfold State.modWring
  try dsimp only
  all_goals repeat' first
    | with_reducible assumption
    | with_reducible apply keeps_modPage
    | intro _

theorem keeps_complete {σ : State} (s : State) (p : Nat) (r : Nat) (tag : Nat) (status : Nat) (rflags : Nat) (downgrades : Nat) (result : Nat) (jobId : Nat) (noIrq : Bool) (h_s : Keeps σ s) : Keeps σ (State.complete s p r tag status rflags downgrades result jobId noIrq) := by
  unfold State.complete
  try dsimp only
  all_goals repeat' first
    | with_reducible assumption
    | with_reducible apply keeps_paWrite
    | with_reducible apply keeps_chargeMem
    | with_reducible apply keeps_modWring
    | with_reducible apply keeps_raise
    | split
    | intro _

theorem keeps_modJob {σ : State} (s : State) (id : Nat) (f : Job → Job) (h_s : Keeps σ s) : Keeps σ (State.modJob s id f) := by
  unfold State.modJob
  try dsimp only
  all_goals repeat' first
    | with_reducible assumption
    | with_reducible apply keeps_modSh
    | intro _

theorem keeps_releaseCore {σ : State} (s : State) (c : Nat) (h_s : Keeps σ s) : Keeps σ (State.releaseCore s c) := by
  unfold State.releaseCore
  try dsimp only
  all_goals repeat' first
    | with_reducible assumption
    | with_reducible apply keeps_modCore
    | split
    | intro _

theorem keeps_dropWaiter {σ : State} (s : State) (w : Waiter) (h_s : Keeps σ s) : Keeps σ (State.dropWaiter s w) := by
  unfold State.dropWaiter
  try dsimp only
  all_goals repeat' first
    | with_reducible assumption
    | with_reducible apply keeps_modSync
    | with_reducible apply KeepsI.map
    | split
    | intro _

theorem keeps_freeThread {σ : State} (s : State) (c : Nat) (t : Nat) (h_s : Keeps σ s) : Keeps σ (State.freeThread s c t) := by
  unfold State.freeThread
  try dsimp only
  all_goals repeat' first
    | with_reducible assumption
    | with_reducible apply keeps_dropWaiter
    | with_reducible apply keeps_modJob
    | with_reducible apply keeps_modThr
    | with_reducible apply keeps_modXl
    | with_reducible apply keeps_modSync
    | intro _

theorem keeps_endOps {σ : State} (s : State) (c : Nat) (id : Nat) (h_s : Keeps σ s) : Keeps σ (State.endOps s c id) := by
  unfold State.endOps
  try dsimp only
  all_goals repeat' first
    | with_reducible assumption
    | with_reducible apply keeps_scramble
    | with_reducible apply keeps_each
    | with_reducible apply keeps_laneStop
    | split
    | intro _

theorem keeps_dropStreamWaiters {σ : State} (s : State) (id : Nat) (h_s : Keeps σ s) : Keeps σ (State.dropStreamWaiters s id) := by
  unfold State.dropStreamWaiters
  try dsimp only
  all_goals repeat' first
    | with_reducible assumption
    | with_reducible apply keeps_each
    | with_reducible apply keeps_dropWaiter
    | split
    | intro _

theorem keeps_unsave {σ : State} (s : State) (c : Nat) (job : Nat) (h_s : Keeps σ s) : Keeps σ (State.unsave s c job) := by
  unfold State.unsave
  try dsimp only
  all_goals repeat' first
    | with_reducible assumption
    | with_reducible apply keeps_modCore
    | with_reducible apply KeepsI.map
    | split
    | intro _

theorem keeps_finishJob {σ : State} (s : State) (id : Nat) (status : Nat) (result : Nat) (h_s : Keeps σ s) : Keeps σ (State.finishJob s id status result) := by
  unfold State.finishJob
  try dsimp only
  all_goals repeat' first
    | with_reducible assumption
    | with_reducible apply keeps_each
    | with_reducible apply keeps_unsave
    | with_reducible apply keeps_dropWaiter
    | with_reducible apply keeps_modSh
    | with_reducible apply keeps_unpin
    | with_reducible apply keeps_complete
    | split
    | intro _

theorem keeps_dropCheck {σ : State} (s : State) (h_s : Keeps σ s) : Keeps σ (State.dropCheck s) := by
  unfold State.dropCheck
  try dsimp only
  all_goals repeat' first
    | with_reducible assumption
    | with_reducible apply keeps_each
    | with_reducible apply keeps_freeIndex
    | with_reducible apply keeps_finishJob
    | split
    | intro _

theorem keeps_endJob {σ : State} (s : State) (id : Nat) (status : Nat) (result : Nat) (h_s : Keeps σ s) : Keeps σ (State.endJob s id status result) := by
  unfold State.endJob
  try dsimp only
  all_goals repeat' first
    | with_reducible assumption
    | with_reducible apply keeps_finishJob
    | with_reducible apply keeps_each
    | with_reducible apply keeps_releaseCore
    | with_reducible apply keeps_dropCheck
    | split
    | intro _

theorem keeps_unloadModel {σ : State} (s : State) (cause : Nat) (h_s : Keeps σ s) : Keeps σ (State.unloadModel s cause) := by
  unfold State.unloadModel
  try dsimp only
  all_goals repeat' first
    | with_reducible assumption
    | with_reducible apply keeps_modModel
    | with_reducible apply keeps_log
    | with_reducible apply keeps_notifyModule
    | split
    | intro _

theorem keeps_loadEnded {σ : State} (s : State) (status : Nat) (h_s : Keeps σ s) : Keeps σ (State.loadEnded s status) := by
  unfold State.loadEnded
  try dsimp only
  all_goals repeat' first
    | with_reducible assumption
    | with_reducible apply keeps_modSh
    | with_reducible apply keeps_each
    | with_reducible apply keeps_finishJob
    | with_reducible apply KeepsI.map
    | split
    | intro _

theorem keeps_loadFailed {σ : State} (s : State) (status : Nat) (offset : Nat) (h_s : Keeps σ s) : Keeps σ (State.loadFailed s status offset) := by
  unfold State.loadFailed
  try dsimp only
  all_goals repeat' first
    | with_reducible assumption
    | with_reducible apply keeps_modModel
    | with_reducible apply keeps_log
    | with_reducible apply keeps_loadEnded
    | split
    | intro _

theorem keeps_stopOne {σ : State} (s : State) (id : Nat) (status : Nat) (h_s : Keeps σ s) : Keeps σ (State.stopOne s id status) := by
  unfold State.stopOne
  try dsimp only
  all_goals repeat' first
    | with_reducible assumption
    | with_reducible apply keeps_modXl
    | with_reducible apply keeps_ckptStopped
    | with_reducible apply keeps_dropStreamWaiters
    | with_reducible apply keeps_each
    | with_reducible apply keeps_freeThread
    | with_reducible apply keeps_endOps
    | with_reducible apply keeps_modCore
    | with_reducible apply keeps_dropBatch
    | with_reducible apply keeps_modSearch
    | with_reducible apply keeps_log
    | with_reducible apply keeps_loadFailed
    | with_reducible apply keeps_endJob
    | with_reducible apply KeepsI.map
    | split
    | intro _

theorem keeps_stopJob {σ : State} (s : State) (id : Nat) (status : Nat) (h_s : Keeps σ s) : Keeps σ (State.stopJob s id status) := by
  unfold State.stopJob
  try dsimp only
  all_goals repeat' first
    | with_reducible assumption
    | with_reducible apply keeps_stopOne
    | with_reducible apply keeps_foldl
    | with_reducible apply keeps_foldl_snd
    | with_reducible apply keeps_foldl_fst
    | with_reducible apply keeps_each
    | with_reducible apply keeps_setMctok
    | split
    | intro _

theorem keeps_abortJob {σ : State} (s : State) (id : Nat) (status : Nat) (h_s : Keeps σ s) : Keeps σ (State.abortJob s id status) := by
  unfold State.abortJob
  try dsimp only
  all_goals repeat' first
    | with_reducible assumption
    | with_reducible apply keeps_stopJob

theorem keeps_programFaultAs {σ : State} (s : State) (c : Nat) (t : Nat) (cause : Nat) (status : Nat) (h_s : Keeps σ s) : Keeps σ (State.programFaultAs s c t cause status) := by
  unfold State.programFaultAs
  try dsimp only
  all_goals repeat' first
    | with_reducible assumption
    | with_reducible apply keeps_notify
    | with_reducible apply keeps_logRated
    | with_reducible apply keeps_abortJob
    | with_reducible apply KeepsI.getD

theorem keeps_programFault {σ : State} (s : State) (c : Nat) (t : Nat) (cause : Nat) (h_s : Keeps σ s) : Keeps σ (State.programFault s c t cause) := by
  unfold State.programFault
  try dsimp only
  all_goals repeat' first
    | with_reducible assumption
    | with_reducible apply keeps_programFaultAs

theorem keeps_threadUncorrectable {σ : State} (s : State) (c : Nat) (t : Nat) (h_s : Keeps σ s) : Keeps σ (State.threadUncorrectable s c t) := by
  unfold State.threadUncorrectable
  try dsimp only
  all_goals repeat' first
    | with_reducible assumption
    | with_reducible apply keeps_abortJob

theorem keeps_checkJobEnd {σ : State} (s : State) (id : Nat) (h_s : Keeps σ s) : Keeps σ (State.checkJobEnd s id) := by
  unfold State.checkJobEnd
  try dsimp only
  all_goals repeat' first
    | with_reducible assumption
    | with_reducible apply keeps_endJob
    | split

theorem keeps_endTask {σ : State} (s : State) (c : Nat) (t : Nat) (code : BitVec 16) (h_s : Keeps σ s) : Keeps σ (State.endTask s c t code) := by
  unfold State.endTask
  try dsimp only
  all_goals repeat' first
    | with_reducible assumption
    | with_reducible apply keeps_freeThread
    | with_reducible apply keeps_modSh
    | with_reducible apply keeps_modJob
    | with_reducible apply keeps_releaseCore
    | with_reducible apply keeps_checkJobEnd
    | split
    | intro _

theorem keeps_descDone {σ : State} (s : State) (c : Nat) (t : Nat) (h_s : Keeps σ s) : Keeps σ (State.descDone s c t) := by
  unfold State.descDone
  try dsimp only
  all_goals repeat' first
    | with_reducible assumption
    | with_reducible apply keeps_modThr
    | with_reducible apply keeps_endTask
    | split
    | intro _

theorem keeps_kindFault {σ : State} (s : State) (c : Nat) (t : Nat) (kind : Nat) (h_s : Keeps σ s) : Keeps σ (State.kindFault s c t kind) := by
  unfold State.kindFault
  try dsimp only
  all_goals repeat' first
    | with_reducible assumption
    | with_reducible apply keeps_programFaultAs

theorem keeps_threadFault {σ : State} (s : State) (c : Nat) (t : Nat) (va : Nat) (kind : Nat) (access : Nat) (level : Nat) (h_s : Keeps σ s) : Keeps σ (State.threadFault s c t va kind access level) := by
  unfold State.threadFault
  try dsimp only
  all_goals repeat' first
    | with_reducible assumption
    | with_reducible apply keeps_takeFault
    | with_reducible apply keeps_modThr
    | with_reducible apply keeps_kindFault
    | with_reducible apply KeepsI.getD
    | split
    | intro _
    | refine Keeps.of_snd (by assumption) ?_

end Sys2Proof.Machine
end

