-- ==== Sys2Proof/Laws/Keeps2.lean ====
section
/-! SUPPORT. What the operations of these files of the model keep: Operands, Engine, Ident, Time, NvmeBase, Extent, Flash, Frame, Thread, Sync, Ring. -/

namespace Sys2Proof.Machine
open Sys2Proof

theorem keeps_send {σ : State} (s : State) (m : CohMsg) (h_s : Keeps σ s) : Keeps σ (State.send s m) := by
  unfold State.send
  try dsimp only
  all_goals repeat' first
    | with_reducible assumption
    | with_reducible apply keeps_modDir
    | intro _

theorem keeps_sendUncached {σ : State} (s : State) (c : Nat) (t : Nat) (line : Nat) (kind : DirReqKind) (h_s : Keeps σ s) : Keeps σ (State.sendUncached s c t line kind) := by
  unfold State.sendUncached
  try dsimp only
  all_goals repeat' first
    | with_reducible assumption
    | with_reducible apply keeps_modCore
    | with_reducible apply keeps_send
    | split
    | intro _

theorem keeps_startFetch {σ : State} (s : State) (c : Nat) (t : Nat) (h_s : Keeps σ s) : Keeps σ (State.startFetch s c t) := by
  unfold State.startFetch
  try dsimp only
  all_goals repeat' first
    | with_reducible assumption
    | with_reducible apply keeps_translate
    | with_reducible apply keeps_modThr
    | with_reducible apply keeps_sendUncached
    | with_reducible apply keeps_threadFault
    | with_reducible apply keeps_threadUncorrectable
    | split
    | intro _
    | refine Keeps.of_snd (by assumption) ?_

theorem keeps_issueInstr {σ : State} (s : State) (c : Nat) (t : Nat) (mine : TInstr → Bool) (run : TInstr → State → State) (h_s : Keeps σ s) (h_run : ∀ x0 x1, Keeps σ x1 → Keeps σ (run x0 x1)) : Keeps σ (State.issueInstr s c t mine run) := by
  unfold State.issueInstr
  try dsimp only
  all_goals repeat' first
    | with_reducible assumption
    | with_reducible apply keeps_modCore
    | with_reducible apply keeps_startFetch
    | with_reducible apply keeps_programFault
    | with_reducible apply h_run
    | split
    | intro _

theorem keeps_takeEntry {σ : State} (s : State) (c : Nat) (eng : Nat) (e : QEntry) (h_s : Keeps σ s) : Keeps σ (State.takeEntry s c eng e) := by
  unfold State.takeEntry
  try dsimp only
  all_goals repeat' first
    | with_reducible assumption
    | with_reducible apply keeps_modCore
    | intro _

theorem keeps_coreReset {σ : State} (s : State) (c : Nat) (h_s : Keeps σ s) : Keeps σ (State.coreReset s c) := by
  unfold State.coreReset
  try dsimp only
  all_goals repeat' first
    | with_reducible assumption
    | with_reducible apply keeps_each
    | with_reducible apply keeps_putLine
    | with_reducible apply keeps_modDirEnt
    | with_reducible apply keeps_modXl
    | with_reducible apply keeps_modCore
    | split
    | intro _

theorem keeps_fallToSl2 {σ : State} (s : State) (h_s : Keeps σ s) : Keeps σ (State.fallToSl2 s) := by
  unfold State.fallToSl2
  try dsimp only
  all_goals repeat' first
    | with_reducible assumption
    | with_reducible apply keeps_each
    | with_reducible apply keeps_stopJob
    | with_reducible apply keeps_coreReset
    | with_reducible apply keeps_unloadModel
    | intro _

theorem keeps_coreFall {σ : State} (s : State) (h_s : Keeps σ s) : Keeps σ (State.coreFall s) := by
  unfold State.coreFall
  try dsimp only
  all_goals repeat' first
    | with_reducible assumption
    | with_reducible apply keeps_modPwr
    | with_reducible apply keeps_log
    | with_reducible apply keeps_fallToSl2
    | split
    | intro _

theorem keeps_retireCore {σ : State} (s : State) (c : Nat) (h_s : Keeps σ s) : Keeps σ (State.retireCore s c) := by
  unfold State.retireCore
  try dsimp only
  all_goals repeat' first
    | with_reducible assumption
    | with_reducible apply keeps_each
    | with_reducible apply keeps_stopJob
    | with_reducible apply keeps_modCore
    | with_reducible apply keeps_coreReset
    | with_reducible apply keeps_log
    | with_reducible apply keeps_coreFall
    | intro _

theorem keeps_ueEvent {σ : State} (s : State) (c : Nat) (h_s : Keeps σ s) : Keeps σ (State.ueEvent s c) := by
  unfold State.ueEvent
  try dsimp only
  all_goals repeat' first
    | with_reducible assumption
    | with_reducible apply keeps_modCore
    | with_reducible apply keeps_retireCore
    | split
    | intro _

theorem keeps_spadUe {σ : State} (s : State) (c : Nat) (sec : Nat) (h_s : Keeps σ s) : Keeps σ (State.spadUe s c sec) := by
  unfold State.spadUe
  try dsimp only
  all_goals repeat' first
    | with_reducible assumption
    | with_reducible apply keeps_modCore
    | with_reducible apply keeps_log
    | intro _

theorem keeps_accUe {σ : State} (s : State) (c : Nat) (row : Nat) (grp : Nat) (h_s : Keeps σ s) : Keeps σ (State.accUe s c row grp) := by
  unfold State.accUe
  try dsimp only
  all_goals repeat' first
    | with_reducible assumption
    | with_reducible apply keeps_modCore
    | with_reducible apply keeps_log
    | intro _

theorem keeps_coreHit {σ : State} (c : Nat) (x : CoreHit) (s : State) (h_s : Keeps σ s) : Keeps σ (State.coreHit c x s) := by
  unfold State.coreHit
  try dsimp only
  all_goals repeat' first
    | with_reducible assumption
    | with_reducible apply keeps_modCore
    | with_reducible apply keeps_logRated
    | split
    | intro _

theorem keeps_coreHits {σ : State} (s : State) (c : Nat) (xs : List CoreHit) (h_s : Keeps σ s) : Keeps σ (State.coreHits s c xs) := by
  unfold State.coreHits
  try dsimp only
  all_goals repeat' first
    | with_reducible assumption
    | with_reducible apply keeps_each
    | with_reducible apply keeps_coreHit
    | intro _

theorem keeps_runUe {σ : State} (s : State) (c : Nat) (b : Bool × Nat) (h_s : Keeps σ s) : Keeps σ (State.runUe s c b) := by
  unfold State.runUe
  try dsimp only
  all_goals repeat' first
    | with_reducible assumption
    | with_reducible apply keeps_accUe
    | with_reducible apply keeps_spadUe
    | split

theorem keeps_engineRun {σ : State} (s : State) (c : Nat) (eng : Nat) (mine : QEntry → Bool) (run : QEntry → State → EngRes) (h_s : Keeps σ s) (h_run : ∀ x0 x1, Keeps σ x1 → KeepsE σ (run x0 x1)) : Keeps σ (State.engineRun s c eng mine run) := by
  unfold State.engineRun
  try dsimp only
  all_goals repeat' first
    | with_reducible assumption
    | with_reducible apply keeps_takeEntry
    | with_reducible apply keeps_programFault
    | with_reducible apply keeps_ueEvent
    | with_reducible apply keeps_threadUncorrectable
    | with_reducible apply keeps_modCore
    | with_reducible apply keeps_foldl
    | with_reducible apply keeps_foldl_snd
    | with_reducible apply keeps_foldl_fst
    | with_reducible apply h_run
    | split
    | intro _
    | refine Keeps.of_ok (by assumption) ?_
    | refine Keeps.of_unc (by assumption) ?_

theorem keeps_completeOp {σ : State} (s : State) (c : Nat) (q : QEntry) (flags : BitVec 8) (extra : Nat) (h_s : Keeps σ s) : Keeps σ (State.completeOp s c q flags extra) := by
  unfold State.completeOp
  try dsimp only
  all_goals repeat' first
    | with_reducible assumption
    | with_reducible apply keeps_modThr
    | with_reducible apply keeps_syncArrive
    | with_reducible apply keeps_descDone
    | with_reducible apply keeps_releaseCore
    | with_reducible apply keeps_checkJobEnd
    | split
    | intro _

theorem keeps_laneRun {σ : State} (s : State) (c : Nat) (eng : Nat) (o : EngOp) (upto : Nat) (h_s : Keeps σ s) : KeepsE σ (State.laneRun s c eng o upto) := by
  unfold State.laneRun
  try dsimp only
  all_goals repeat' first
    | with_reducible assumption
    | with_reducible apply keeps_runUe
    | with_reducible apply keeps_scramble
    | with_reducible apply keeps_modCore
    | with_reducible apply KeepsE.ok
    | with_reducible apply KeepsE.unc
    | with_reducible apply KeepsE.reject
    | split
    | intro _

theorem keeps_laneStart {σ : State} (s : State) (c : Nat) (eng : Nat) (o : EngOp) (h_s : Keeps σ s) : KeepsE σ (State.laneStart s c eng o) := by
  unfold State.laneStart
  try dsimp only
  all_goals repeat' first
    | with_reducible assumption
    | with_reducible apply keeps_laneRun
    | with_reducible apply KeepsE.ok
    | with_reducible apply KeepsE.unc
    | with_reducible apply KeepsE.reject
    | refine Keeps.of_ok (by assumption) ?_
    | refine Keeps.of_unc (by assumption) ?_

theorem keeps_engineDone {σ : State} (s : State) (c : Nat) (eng : Nat) (count : EngOp → CoreSt → CoreSt) (h_s : Keeps σ s) : Keeps σ (State.engineDone s c eng count) := by
  unfold State.engineDone
  try dsimp only
  all_goals repeat' first
    | with_reducible assumption
    | with_reducible apply keeps_laneRun
    | with_reducible apply keeps_modCore
    | with_reducible apply keeps_ueEvent
    | with_reducible apply keeps_threadUncorrectable
    | with_reducible apply keeps_completeOp
    | with_reducible apply KeepsI.some
    | with_reducible apply KeepsI.none
    | with_reducible apply KeepsE.ok
    | with_reducible apply KeepsE.unc
    | with_reducible apply KeepsE.reject
    | split
    | intro _
    | refine Keeps.of_snd (by assumption) ?_
    | refine Keeps.of_fst (by assumption) ?_
    | refine Keeps.of_some (by assumption) ?_
    | refine Keeps.of_pair (by assumption) ?_
    | refine Keeps.of_ok (by assumption) ?_
    | refine Keeps.of_unc (by assumption) ?_
    | (intro _; assumption)
    | dsimp only
    | exact memWrite_wf _ _ _ (by assumption)

theorem keeps_tapDoes {σ : State} (s : State) (f : TapSt → TapSt) (h_s : Keeps σ s) : Keeps σ (State.tapDoes s f) := by
  unfold State.tapDoes
  try dsimp only
  all_goals repeat' first
    | with_reducible assumption
    | with_reducible apply keeps_setTap

theorem keeps_timeApply {σ : State} (s : State) (src : BitVec 16) (h_s : Keeps σ s) : Keeps σ (s.timeApply src) := by
  unfold State.timeApply
  dsimp only
  split
  · exact keeps_modTime _ _ h_s fun _ ht => ht
  · exact keeps_log _ _ _ _ (keeps_modTime _ _ h_s fun t _ => put_ok t _ (by omega))

theorem keeps_timeApplyWrite {σ : State} (s : State) (src : BitVec 16) (now : Bool) (atSec : Bool) (h_s : Keeps σ s) : Keeps σ (State.timeApplyWrite s src now atSec) := by
  unfold State.timeApplyWrite
  try dsimp only
  all_goals repeat' first
    | with_reducible assumption
    | with_reducible apply keeps_modTime
    | with_reducible apply keeps_timeApply
    | split
    | intro _

theorem keeps_execTimeApplyNow {σ : State} (s : State) (h_s : Keeps σ s) : KeepsO σ (execTimeApplyNow s) := by
  unfold execTimeApplyNow
  try dsimp only
  all_goals repeat' first
    | with_reducible assumption
    | with_reducible apply keeps_timeApplyWrite
    | with_reducible apply KeepsO.next
    | split
    | intro _

theorem keeps_execTimeApplyAtSecond {σ : State} (s : State) (h_s : Keeps σ s) : KeepsO σ (execTimeApplyAtSecond s) := by
  unfold execTimeApplyAtSecond
  try dsimp only
  all_goals repeat' first
    | with_reducible assumption
    | with_reducible apply keeps_timeApplyWrite
    | with_reducible apply KeepsO.next
    | split
    | intro _

theorem keeps_execSecondBoundaryApply {σ : State} (s : State) (h_s : Keeps σ s) : KeepsO σ (execSecondBoundaryApply s) := by
  unfold execSecondBoundaryApply
  try dsimp only
  all_goals repeat' first
    | with_reducible assumption
    | with_reducible apply keeps_modTime
    | with_reducible apply keeps_timeApply
    | with_reducible apply KeepsO.next
    | split
    | intro _

theorem keeps_servo {σ : State} (s : State) (theta rate : Int) (h_s : Keeps σ s) : Keeps σ (s.servo theta rate) := by
  unfold State.servo
  dsimp only
  split
  · exact keeps_log _ _ _ _ (keeps_log _ _ _ _ (keeps_modTime _ _ h_s fun t _ => put_ok t _ (timeNs_timeOf _)))
  · exact keeps_modTime _ _ h_s fun _ ht => ht

theorem keeps_execPtpMessage {σ : State} (m : PtpMeas) (s : State) (h_s : Keeps σ s) : KeepsO σ (execPtpMessage m s) := by
  unfold execPtpMessage
  try dsimp only
  all_goals repeat' first
    | with_reducible assumption
    | with_reducible apply keeps_servo
    | with_reducible apply keeps_modTime
    | with_reducible apply KeepsO.next
    | split
    | intro _

theorem keeps_execPtpHoldover {σ : State} (s : State) (h_s : Keeps σ s) : KeepsO σ (execPtpHoldover s) := by
  unfold execPtpHoldover
  try dsimp only
  all_goals repeat' first
    | with_reducible assumption
    | with_reducible apply keeps_modTime
    | with_reducible apply KeepsO.next
    | split
    | intro _

theorem keeps_execPpsInEdge {σ : State} (s : State) (h_s : Keeps σ s) : KeepsO σ (execPpsInEdge s) := by
  unfold execPpsInEdge
  try dsimp only
  all_goals repeat' first
    | with_reducible assumption
    | with_reducible apply keeps_modTime
    | with_reducible apply keeps_servo
    | with_reducible apply KeepsO.next
    | split
    | intro _

theorem keeps_timeLowRead {σ : State} (s : State) (iface : Nat) (h_s : Keeps σ s) : Keeps σ (State.timeLowRead s iface).2 := by
  unfold State.timeLowRead
  try dsimp only
  all_goals repeat' first
    | with_reducible assumption
    | with_reducible apply keeps_modTime
    | intro _

theorem keeps_timeHighRead {σ : State} (s : State) (iface : Nat) (h_s : Keeps σ s) : Keeps σ (State.timeHighRead s iface).2 := by
  unfold State.timeHighRead
  try dsimp only
  all_goals repeat' first
    | with_reducible assumption
    | with_reducible apply keeps_modTime
    | split
    | intro _

theorem keeps_execTimeNowLowRead {σ : State} (iface : Fin 36) (s : State) (h_s : Keeps σ s) : KeepsO σ (execTimeNowLowRead iface s) := by
  unfold execTimeNowLowRead
  try dsimp only
  all_goals repeat' first
    | with_reducible assumption
    | with_reducible apply keeps_timeLowRead
    | with_reducible apply KeepsO.next
    | intro _

theorem keeps_setTimestamp {σ : State} (s : State) (ms : Nat) (h_s : Keeps σ s) : Keeps σ (State.setTimestamp s ms) := by
  unfold State.setTimestamp
  try dsimp only
  all_goals repeat' first
    | with_reducible assumption
    | with_reducible apply keeps_modTime
    | with_reducible apply keeps_timeApplyWrite
    | intro _

theorem keeps_nvComplete {σ : State} (s : State) (q : Nat) (cmd : NvmeCmd) (status : Nat) (dw0 : Nat) (h_s : Keeps σ s) : Keeps σ (State.nvComplete s q cmd status dw0) := by
  unfold State.nvComplete
  try dsimp only
  all_goals repeat' first
    | with_reducible assumption
    | with_reducible apply keeps_paWrite
    | with_reducible apply keeps_modNvme
    | with_reducible apply keeps_raise0
    | split
    | intro _

theorem keeps_postEvents {σ : State} (a0 : List (Nat × Nat × Nat)) (a1 : State) (h_a1 : Keeps σ a1) : Keeps σ (postEvents a0 a1) := by
  induction a0 generalizing a1 with
  | nil =>
    unfold postEvents
    try dsimp only
    all_goals repeat' first
      | with_reducible assumption
      | with_reducible apply ih
      | with_reducible apply keeps_modNvme
      | with_reducible apply keeps_nvComplete
      | split
      | intro _
  | cons x xs ih =>
    unfold postEvents
    try dsimp only
    all_goals repeat' first
      | with_reducible assumption
      | with_reducible apply ih
      | with_reducible apply keeps_modNvme
      | with_reducible apply keeps_nvComplete
      | split
      | intro _

theorem keeps_nvEvent {σ : State} (s : State) (type : Nat) (info : Nat) (page : Nat) (h_s : Keeps σ s) : Keeps σ (State.nvEvent s type info page) := by
  unfold State.nvEvent
  try dsimp only
  all_goals repeat' first
    | with_reducible assumption
    | with_reducible apply keeps_modNvme
    | with_reducible apply keeps_postEvents
    | split
    | intro _

theorem keeps_checkWarn {σ : State} (s : State) (h_s : Keeps σ s) : Keeps σ (State.checkWarn s) := by
  unfold State.checkWarn
  try dsimp only
  all_goals repeat' first
    | with_reducible assumption
    | with_reducible apply keeps_modNvme
    | with_reducible apply keeps_foldl
    | with_reducible apply keeps_foldl_snd
    | with_reducible apply keeps_foldl_fst
    | with_reducible apply keeps_nvEvent
    | split
    | intro _

theorem keeps_flashWake {σ : State} (s : State) (h_s : Keeps σ s) : Keeps σ (State.flashWake s) := by
  unfold State.flashWake
  try dsimp only
  all_goals repeat' first
    | with_reducible assumption
    | with_reducible apply keeps_modNvme
    | split
    | intro _

theorem keeps_flashWork {σ : State} (s : State) (go : State → State) (h_s : Keeps σ s) (h_go : ∀ x0, Keeps σ x0 → Keeps σ (go x0)) : Keeps σ (State.flashWork s go) := by
  unfold State.flashWork
  try dsimp only
  all_goals repeat' first
    | with_reducible assumption
    | with_reducible apply keeps_flashWake
    | with_reducible apply h_go
    | split
    | intro _

theorem keeps_flashJob {σ : State} (s : State) (id : Nat) (go : State → State) (h_s : Keeps σ s) (h_go : ∀ x0, Keeps σ x0 → Keeps σ (go x0)) : Keeps σ (State.flashJob s id go) := by
  unfold State.flashJob
  try dsimp only
  all_goals repeat' first
    | with_reducible assumption
    | with_reducible apply keeps_flashWork
    | with_reducible apply h_go
    | split
    | intro _

theorem keeps_joinRow {σ : State} (s : State) (k : Nat) (row : Nat) (oneBit : Bool) (parity : Bool) (h_s : Keeps σ s) : Keeps σ (State.joinRow s k row oneBit parity) := by
  unfold State.joinRow
  try dsimp only
  all_goals repeat' first
    | with_reducible assumption
    | with_reducible apply keeps_modBlk
    | with_reducible apply keeps_setPool
    | split
    | intro _

theorem keeps_openRow {σ : State} (s : State) (h : Nat) (die : Nat) (oneBit : Bool) (fix : Option Nat) (keep : Nat → Bool) (h_s : Keeps σ s) : Keeps σ (State.openRow s h die oneBit fix keep) := by
  unfold State.openRow
  try dsimp only
  all_goals repeat' first
    | with_reducible assumption
    | with_reducible apply keeps_each
    | with_reducible apply keeps_joinRow
    | with_reducible apply keeps_modFlash
    | with_reducible apply KeepsI.map
    | with_reducible apply KeepsI.getD
    | with_reducible apply KeepsI.some
    | with_reducible apply KeepsI.none
    | split
    | intro _

theorem keeps_needMember {σ : State} (ch : Nat) (oneBit : Bool) (a0 : Nat) (a1 : State) (h_a1 : Keeps σ a1) : Keeps σ (State.needMember ch oneBit a0 a1).2 := by
  induction a0 generalizing ch oneBit a1 with
  | zero =>
    unfold State.needMember
    try dsimp only
    all_goals repeat' first
      | with_reducible assumption
      | with_reducible apply ih
      | with_reducible apply keeps_foldl
      | with_reducible apply keeps_foldl_snd
      | with_reducible apply keeps_foldl_fst
      | with_reducible apply keeps_openRow
      | with_reducible apply KeepsI.map
      | split
      | intro _
  | succ n ih =>
    unfold State.needMember
    try dsimp only
    all_goals repeat' first
      | with_reducible assumption
      | with_reducible apply ih
      | with_reducible apply keeps_foldl
      | with_reducible apply keeps_foldl_snd
      | with_reducible apply keeps_foldl_fst
      | with_reducible apply keeps_openRow
      | with_reducible apply KeepsI.map
      | split
      | intro _

theorem keeps_padRow {σ : State} (s : State) (id : Nat) (upTo : Nat → Nat) (h_s : Keeps σ s) : Keeps σ (State.padRow s id upTo) := by
  unfold State.padRow
  try dsimp only
  all_goals repeat' first
    | with_reducible assumption
    | with_reducible apply keeps_foldl
    | with_reducible apply keeps_foldl_snd
    | with_reducible apply keeps_foldl_fst
    | with_reducible apply keeps_each
    | with_reducible apply keeps_modBlk
    | with_reducible apply keeps_settleRow
    | with_reducible apply KeepsI.map
    | split
    | intro _

theorem keeps_closeOne {σ : State} (s : State) (g : Nat) (h_s : Keeps σ s) : Keeps σ (State.closeOne s g) := by
  unfold State.closeOne
  try dsimp only
  all_goals repeat' first
    | with_reducible assumption
    | with_reducible apply keeps_foldl
    | with_reducible apply keeps_foldl_snd
    | with_reducible apply keeps_foldl_fst
    | with_reducible apply keeps_padRow
    | with_reducible apply KeepsI.map
    | split
    | intro _

theorem keeps_putUnits {σ : State} (s : State) (k : Nat) (page : Nat) (us : List UnitData) (h_s : Keeps σ s) : Keeps σ (State.putUnits s k page us) := by
  unfold State.putUnits
  try dsimp only
  all_goals repeat' first
    | with_reducible assumption
    | with_reducible apply keeps_modFlash
    | with_reducible apply keeps_foldl
    | with_reducible apply keeps_foldl_snd
    | with_reducible apply keeps_foldl_fst
    | intro _

theorem keeps_nextLine {σ : State} (s : State) (k : Nat) (us : List UnitData) (h_s : Keeps σ s) : Keeps σ (State.nextLine s k us).2 := by
  unfold State.nextLine
  try dsimp only
  all_goals repeat' first
    | with_reducible assumption
    | with_reducible apply keeps_modBlk
    | with_reducible apply keeps_putUnits
    | intro _

theorem keeps_applyEnts {σ : State} (s : State) (f : Nat) (es : List (Nat × Nat × MapEnt)) (h_s : Keeps σ s) : Keeps σ (State.applyEnts s f es) := by
  unfold State.applyEnts
  try dsimp only
  all_goals repeat' first
    | with_reducible assumption
    | with_reducible apply keeps_each
    | with_reducible apply keeps_setEnt
    | with_reducible apply keeps_journal
    | with_reducible apply KeepsI.map
    | intro _

theorem keeps_startProg {σ : State} (s : State) (ch : Nat) (h_s : Keeps σ s) : Keeps σ (State.startProg s ch) := by
  unfold State.startProg
  try dsimp only
  all_goals repeat' first
    | with_reducible assumption
    | with_reducible apply keeps_needMember
    | with_reducible apply keeps_modBlk
    | with_reducible apply keeps_modFlash
    | split
    | intro _
    | refine Keeps.of_snd (by assumption) ?_

theorem keeps_millFreed {σ : State} (s : State) (h_s : Keeps σ s) : Keeps σ (State.millFreed s) := by
  unfold State.millFreed
  try dsimp only
  all_goals repeat' first
    | with_reducible assumption
    | with_reducible apply keeps_modFlash
    | with_reducible apply keeps_each
    | with_reducible apply keeps_startProg
    | split
    | intro _

theorem keeps_noteWait {σ : State} (s : State) (ch : Nat) (h_s : Keeps σ s) : Keeps σ (State.noteWait s ch) := by
  unfold State.noteWait
  try dsimp only
  all_goals repeat' first
    | with_reducible assumption
    | with_reducible apply keeps_logRated

theorem keeps_recordEnts {σ : State} (s : State) (f : Nat) (es : List (Nat × Nat × MapEnt)) (h_s : Keeps σ s) : Keeps σ (State.recordEnts s f es) := by
  unfold State.recordEnts
  try dsimp only
  all_goals repeat' first
    | with_reducible assumption
    | with_reducible apply keeps_applyEnts
    | with_reducible apply keeps_millFreed

theorem keeps_checkSpare {σ : State} (s : State) (f : Nat) (h_s : Keeps σ s) : Keeps σ (State.checkSpare s f) := by
  unfold State.checkSpare
  try dsimp only
  all_goals repeat' first
    | with_reducible assumption
    | with_reducible apply keeps_modFcd
    | with_reducible apply keeps_log
    | with_reducible apply keeps_checkWarn
    | split
    | intro _

theorem keeps_lostBlock {σ : State} (s : State) (k : Nat) (code : Nat) (h_s : Keeps σ s) : Keeps σ (State.lostBlock s k code) := by
  unfold State.lostBlock
  try dsimp only
  all_goals repeat' first
    | with_reducible assumption
    | with_reducible apply keeps_retireBlock
    | with_reducible apply keeps_log
    | with_reducible apply keeps_checkSpare

theorem keeps_badBlock {σ : State} (s : State) (k : Nat) (h_s : Keeps σ s) : Keeps σ (State.badBlock s k) := by
  unfold State.badBlock
  try dsimp only
  all_goals repeat' first
    | with_reducible assumption
    | with_reducible apply keeps_lostBlock

theorem keeps_programIn {σ : State} (s : State) (k : Nat) (oneBit : Bool) (us : List (UnitData × Option Nat)) (h_s : Keeps σ s) : Keeps σ (State.programIn s k oneBit us) := by
  unfold State.programIn
  try dsimp only
  all_goals repeat' first
    | with_reducible assumption
    | with_reducible apply keeps_nextLine
    | with_reducible apply keeps_recordEnts
    | with_reducible apply keeps_settleRow
    | with_reducible apply KeepsI.map
    | split
    | intro _
    | refine Keeps.of_snd (by assumption) ?_

theorem keeps_programNow {σ : State} (ch : Nat) (oneBit : Bool) (us : List (UnitData × Option Nat)) (a0 : Nat) (a1 : List Nat) (a2 : State) (h_a2 : Keeps σ a2) : Keeps σ (State.programNow ch oneBit us a0 a1 a2) := by
  induction a0 generalizing ch oneBit us a1 a2 with
  | zero =>
    unfold State.programNow
    try dsimp only
    all_goals repeat' first
      | with_reducible assumption
      | with_reducible apply ih
      | with_reducible apply keeps_needMember
      | with_reducible apply keeps_badBlock
      | with_reducible apply keeps_each
      | with_reducible apply keeps_programIn
      | with_reducible apply KeepsI.map
      | split
      | intro _
      | refine Keeps.of_snd (by assumption) ?_
  | succ n ih =>
    unfold State.programNow
    try dsimp only
    all_goals repeat' first
      | with_reducible assumption
      | with_reducible apply ih
      | with_reducible apply keeps_needMember
      | with_reducible apply keeps_badBlock
      | with_reducible apply keeps_each
      | with_reducible apply keeps_programIn
      | with_reducible apply KeepsI.map
      | split
      | intro _
      | refine Keeps.of_snd (by assumption) ?_

theorem keeps_relocate {σ : State} (s : State) (ch : Nat) (oneBit : Bool) (us : List Nat) (bad : List Nat) (h_s : Keeps σ s) : Keeps σ (State.relocate s ch oneBit us bad) := by
  unfold State.relocate
  try dsimp only
  all_goals repeat' first
    | with_reducible assumption
    | with_reducible apply keeps_each
    | with_reducible apply keeps_programNow
    | with_reducible apply KeepsI.map
    | intro _

theorem keeps_joinExtent {σ : State} (k : Nat) (keep : Nat → Bool) (a0 : Nat) (a1 : State) (h_a1 : Keeps σ a1) : Keeps σ (State.joinExtent k keep a0 a1) := by
  induction a0 generalizing k a1 with
  | zero =>
    unfold State.joinExtent
    try dsimp only
    all_goals repeat' first
      | with_reducible assumption
      | with_reducible apply ih
      | with_reducible apply keeps_closeOne
      | with_reducible apply keeps_openRow
      | split
  | succ n ih =>
    unfold State.joinExtent
    try dsimp only
    all_goals repeat' first
      | with_reducible assumption
      | with_reducible apply ih
      | with_reducible apply keeps_closeOne
      | with_reducible apply keeps_openRow
      | split

theorem keeps_putExtent {σ : State} (keep : Nat → Bool) (a0 : List (List UnitData)) (a1 : Nat) (a2 : State) (h_a2 : Keeps σ a2) : Keeps σ (State.putExtent keep a0 a1 a2) := by
  induction a0 generalizing a1 a2 with
  | nil =>
    unfold State.putExtent
    try dsimp only
    all_goals repeat' first
      | with_reducible assumption
      | with_reducible apply ih
      | with_reducible apply keeps_joinExtent
      | with_reducible apply keeps_modBlk
      | with_reducible apply keeps_nextLine
      | with_reducible apply keeps_settleRow
      | with_reducible apply keeps_padRow
      | split
      | intro _
  | cons x xs ih =>
    unfold State.putExtent
    try dsimp only
    all_goals repeat' first
      | with_reducible assumption
      | with_reducible apply ih
      | with_reducible apply keeps_joinExtent
      | with_reducible apply keeps_modBlk
      | with_reducible apply keeps_nextLine
      | with_reducible apply keeps_settleRow
      | with_reducible apply keeps_padRow
      | split
      | intro _

theorem keeps_placeUnits {σ : State} (nsid : Nat) (lba : Nat) (ch : Nat) (us : List UnitData) (a0 : Nat) (a1 : List Nat) (a2 : State) (h_a2 : Keeps σ a2) : KeepsI σ (State.placeUnits nsid lba ch us a0 a1 a2) := by
  induction a0 generalizing nsid lba ch us a1 a2 with
  | zero =>
    unfold State.placeUnits
    try dsimp only
    all_goals repeat' first
      | with_reducible assumption
      | with_reducible apply ih
      | with_reducible apply keeps_foldl
      | with_reducible apply keeps_foldl_snd
      | with_reducible apply keeps_foldl_fst
      | with_reducible apply keeps_badBlock
      | with_reducible apply keeps_relocate
      | with_reducible apply keeps_putExtent
      | with_reducible apply keeps_modFlash
      | with_reducible apply keeps_remap
      | with_reducible apply KeepsI.map
      | with_reducible apply KeepsI.getD
      | with_reducible apply KeepsI.some
      | with_reducible apply KeepsI.none
      | split
      | intro _
  | succ n ih =>
    unfold State.placeUnits
    try dsimp only
    all_goals repeat' first
      | with_reducible assumption
      | with_reducible apply ih
      | with_reducible apply keeps_foldl
      | with_reducible apply keeps_foldl_snd
      | with_reducible apply keeps_foldl_fst
      | with_reducible apply keeps_badBlock
      | with_reducible apply keeps_relocate
      | with_reducible apply keeps_putExtent
      | with_reducible apply keeps_modFlash
      | with_reducible apply keeps_remap
      | with_reducible apply KeepsI.map
      | with_reducible apply KeepsI.getD
      | with_reducible apply KeepsI.some
      | with_reducible apply KeepsI.none
      | split
      | intro _

theorem keeps_moveRun {σ : State} (s : State) (r : RunSt) (bad : List Nat) (h_s : Keeps σ s) : Keeps σ (State.moveRun s r bad) := by
  unfold State.moveRun
  try dsimp only
  all_goals repeat' first
    | with_reducible assumption
    | with_reducible apply keeps_modFlash
    | with_reducible apply keeps_placeUnits
    | with_reducible apply keeps_freeRunAt
    | with_reducible apply keeps_log
    | with_reducible apply KeepsI.map
    | split
    | intro _
    | refine Keeps.of_some (by assumption) ?_

theorem keeps_moveRunsOf {σ : State} (s : State) (k : Nat) (bad : List Nat) (h_s : Keeps σ s) : Keeps σ (State.moveRunsOf s k bad) := by
  unfold State.moveRunsOf
  try dsimp only
  all_goals repeat' first
    | with_reducible assumption
    | with_reducible apply keeps_each
    | with_reducible apply keeps_moveRun
    | intro _

theorem keeps_relocateBlock {σ : State} (s : State) (k : Nat) (bad : List Nat) (h_s : Keeps σ s) : Keeps σ (State.relocateBlock s k bad) := by
  unfold State.relocateBlock
  try dsimp only
  all_goals repeat' first
    | with_reducible assumption
    | with_reducible apply keeps_relocate
    | with_reducible apply keeps_moveRunsOf

theorem keeps_moveRetired {σ : State} (s : State) (bad : List Nat) (h_s : Keeps σ s) : Keeps σ (State.moveRetired s bad) := by
  unfold State.moveRetired
  try dsimp only
  all_goals repeat' first
    | with_reducible assumption
    | with_reducible apply keeps_each
    | with_reducible apply keeps_moveRunsOf
    | intro _

theorem keeps_gatherPiece {σ : State} (s : State) (order : Nat) (us : List UnitData) (h_s : Keeps σ s) : Keeps σ (State.gatherPiece s order us) := by
  unfold State.gatherPiece
  try dsimp only
  all_goals repeat' first
    | with_reducible assumption
    | with_reducible apply keeps_journal
    | with_reducible apply keeps_modFlash
    | with_reducible apply keeps_noteWait
    | with_reducible apply keeps_startProg
    | with_reducible apply KeepsI.map
    | split
    | intro _

theorem keeps_nsWriteFor {σ : State} (s : State) (p : Nat) (nsid : Nat) (lba : Nat) (bs : List Byte) (h_s : Keeps σ s) : KeepsI σ (State.nsWriteFor s p nsid lba bs) := by
  unfold State.nsWriteFor
  refine KeepsI.map ?_ fun t ht => keeps_charge _ _ _ _ _ ht
  refine KeepsI.foldl _ (fun s (pc : Nat × Nat) => _) _ (KeepsI.some h_s) fun t pc ht => ?_
  split
  · exact KeepsI.none
  · exact KeepsI.some (keeps_modFlash _ _ (keeps_programNow _ _ _ _ _ _ ht))

theorem keeps_loseLba {σ : State} (s : State) (f : Nat) (n : Nat) (lba : Nat) (h_s : Keeps σ s) : Keeps σ (State.loseLba s f n lba) := by
  unfold State.loseLba
  try dsimp only
  all_goals repeat' first
    | with_reducible assumption
    | with_reducible apply keeps_setEnt
    | with_reducible apply keeps_log
    | with_reducible apply keeps_modFlash
    | with_reducible apply keeps_modNvme
    | with_reducible apply keeps_checkWarn
    | with_reducible apply KeepsI.map
    | with_reducible apply KeepsI.getD
    | split
    | intro _

theorem keeps_loseMapPage {σ : State} (s : State) (f : Nat) (key : Nat) (h_s : Keeps σ s) : Keeps σ (State.loseMapPage s f key) := by
  unfold State.loseMapPage
  try dsimp only
  all_goals repeat' first
    | with_reducible assumption
    | with_reducible apply keeps_each
    | with_reducible apply keeps_loseLba
    | with_reducible apply keeps_writeBack
    | with_reducible apply KeepsI.map
    | intro _

theorem keeps_loseUnit {σ : State} (s : State) (f : Nat) (u : Nat) (h_s : Keeps σ s) : Keeps σ (State.loseUnit s f u) := by
  unfold State.loseUnit
  try dsimp only
  all_goals repeat' first
    | with_reducible assumption
    | with_reducible apply keeps_modFcd
    | with_reducible apply keeps_modFlash
    | with_reducible apply keeps_loseLba
    | with_reducible apply keeps_loseMapPage
    | with_reducible apply KeepsI.map
    | split
    | intro _

theorem keeps_readLbFx {σ : State} (s : State) (nsid : Nat) (lba : Nat) (h_s : Keeps σ s) : Keeps σ (State.readLbFx s nsid lba) := by
  unfold State.readLbFx
  try dsimp only
  all_goals repeat' first
    | with_reducible assumption
    | with_reducible apply keeps_mapTouch
    | with_reducible apply keeps_modBlk
    | with_reducible apply keeps_loseUnit
    | with_reducible apply keeps_setFree
    | with_reducible apply KeepsI.map
    | split
    | intro _

theorem keeps_nsReadFor {σ : State} (s : State) (p : Nat) (nsid : Nat) (lba : Nat) (n : Nat) (h_s : Keeps σ s) : Keeps σ (State.nsReadFor s p nsid lba n).2 := by
  unfold State.nsReadFor
  try dsimp only
  all_goals repeat' first
    | with_reducible assumption
    | with_reducible apply keeps_foldl
    | with_reducible apply keeps_foldl_snd
    | with_reducible apply keeps_foldl_fst
    | with_reducible apply keeps_readLbFx
    | with_reducible apply keeps_charge
    | intro _

theorem keeps_nsRead {σ : State} (s : State) (nsid : Nat) (lba : Nat) (n : Nat) (h_s : Keeps σ s) : Keeps σ (State.nsRead s nsid lba n).2 := by
  unfold State.nsRead
  try dsimp only
  all_goals repeat' first
    | with_reducible assumption
    | with_reducible apply keeps_nsReadFor

theorem keeps_unmapRange {σ : State} (s : State) (nsid : Nat) (lba : Nat) (n : Nat) (h_s : Keeps σ s) : Keeps σ (State.unmapRange s nsid lba n) := by
  unfold State.unmapRange
  try dsimp only
  all_goals repeat' first
    | with_reducible assumption
    | with_reducible apply keeps_recordEnts
    | with_reducible apply KeepsI.map
    | intro _

theorem keeps_unmapAll {σ : State} (s : State) (nsid : Nat) (h_s : Keeps σ s) : Keeps σ (State.unmapAll s nsid) := by
  unfold State.unmapAll
  try dsimp only
  all_goals repeat' first
    | with_reducible assumption
    | with_reducible apply keeps_each
    | with_reducible apply keeps_freeExtent
    | with_reducible apply keeps_setEnt
    | with_reducible apply keeps_journal
    | with_reducible apply keeps_millFreed
    | with_reducible apply KeepsI.map
    | intro _

theorem keeps_discardRange {σ : State} (s : State) (nsid : Nat) (lba : Nat) (n : Nat) (h_s : Keeps σ s) : Keeps σ (State.discardRange s nsid lba n) := by
  unfold State.discardRange
  try dsimp only
  all_goals repeat' first
    | with_reducible assumption
    | with_reducible apply keeps_each
    | with_reducible apply keeps_putEnt
    | with_reducible apply keeps_journal
    | with_reducible apply KeepsI.map
    | intro _

theorem keeps_execWordlineGatherExpiry {σ : State} (ch : Fin 64) (s : State) (h_s : Keeps σ s) : KeepsO σ (execWordlineGatherExpiry ch s) := by
  unfold execWordlineGatherExpiry
  try dsimp only
  all_goals repeat' first
    | with_reducible assumption
    | with_reducible apply keeps_startProg
    | with_reducible apply KeepsO.next
    | intro _

theorem keeps_unitDone {σ : State} (s : State) (f : Nat) (addr : Nat) (g : GUnit) (h_s : Keeps σ s) : Keeps σ (State.unitDone s f addr g).2 := by
  unfold State.unitDone
  try dsimp only
  all_goals repeat' first
    | with_reducible assumption
    | with_reducible apply keeps_journal
    | with_reducible apply keeps_modFlash
    | with_reducible apply keeps_recordEnts
    | split
    | intro _

theorem keeps_progDone {σ : State} (s : State) (ch : Nat) (p : ProgSt) (h_s : Keeps σ s) : Keeps σ (State.progDone s ch p).2 := by
  unfold State.progDone
  try dsimp only
  all_goals repeat' first
    | with_reducible assumption
    | with_reducible apply keeps_modFlash
    | with_reducible apply keeps_putUnits
    | with_reducible apply keeps_foldl
    | with_reducible apply keeps_foldl_snd
    | with_reducible apply keeps_foldl_fst
    | with_reducible apply keeps_unitDone
    | with_reducible apply keeps_settleRow
    | with_reducible apply KeepsI.map
    | intro _

theorem keeps_progFailed {σ : State} (s : State) (ch : Nat) (p : ProgSt) (h_s : Keeps σ s) : Keeps σ (State.progFailed s ch p).2 := by
  unfold State.progFailed
  try dsimp only
  all_goals repeat' first
    | with_reducible assumption
    | with_reducible apply keeps_modFlash
    | with_reducible apply keeps_badBlock
    | with_reducible apply keeps_relocate
    | with_reducible apply keeps_moveRunsOf
    | with_reducible apply keeps_startProg
    | with_reducible apply keeps_journal
    | with_reducible apply KeepsI.map
    | split
    | intro _

theorem keeps_swapBlock {σ : State} (s : State) (k : Nat) (k2 : Nat) (h_s : Keeps σ s) : Keeps σ (State.swapBlock s k k2) := by
  unfold State.swapBlock
  try dsimp only
  all_goals repeat' first
    | with_reducible assumption
    | with_reducible apply keeps_setPool
    | with_reducible apply keeps_modBlk
    | with_reducible apply keeps_modFlash
    | with_reducible apply keeps_foldl
    | with_reducible apply keeps_foldl_snd
    | with_reducible apply keeps_foldl_fst
    | with_reducible apply keeps_recordEnts
    | with_reducible apply keeps_toFree
    | with_reducible apply KeepsI.map
    | split
    | intro _

theorem keeps_levelBlock {σ : State} (s : State) (k : Nat) (k2 : Nat) (h_s : Keeps σ s) : Keeps σ (State.levelBlock s k k2) := by
  unfold State.levelBlock
  try dsimp only
  all_goals repeat' first
    | with_reducible assumption
    | with_reducible apply keeps_relocateBlock
    | with_reducible apply keeps_swapBlock
    | split
    | intro _

theorem keeps_wearLevel {σ : State} (s : State) (f : Nat) (h_s : Keeps σ s) : Keeps σ (State.wearLevel s f) := by
  unfold State.wearLevel
  try dsimp only
  all_goals repeat' first
    | with_reducible assumption
    | with_reducible apply keeps_foldl
    | with_reducible apply keeps_foldl_snd
    | with_reducible apply keeps_foldl_fst
    | with_reducible apply keeps_levelBlock
    | with_reducible apply keeps_logRated
    | with_reducible apply KeepsI.map
    | split
    | intro _

theorem keeps_execEraseComplete {σ : State} (block : BitVec 21) (ok : Bool) (s : State) (h_s : Keeps σ s) : KeepsO σ (execEraseComplete block ok s) := by
  unfold execEraseComplete
  try dsimp only
  all_goals repeat' first
    | with_reducible assumption
    | with_reducible apply keeps_modBlk
    | with_reducible apply keeps_wearLevel
    | with_reducible apply keeps_lostBlock
    | with_reducible apply KeepsO.next
    | split
    | intro _

theorem keeps_refreshPage {σ : State} (s : State) (u : Nat) (h_s : Keeps σ s) : Keeps σ (State.refreshPage s u) := by
  unfold State.refreshPage
  try dsimp only
  all_goals repeat' first
    | with_reducible assumption
    | with_reducible apply keeps_moveRun
    | with_reducible apply keeps_relocate
    | with_reducible apply KeepsI.map
    | split
    | intro _

theorem keeps_reclaim {σ : State} (s : State) (nsid : Nat) (pos : Nat) (n : Nat) (h_s : Keeps σ s) : Keeps σ (State.reclaim s nsid pos n).2 := by
  unfold State.reclaim
  try dsimp only
  all_goals repeat' first
    | with_reducible assumption
    | with_reducible apply keeps_each
    | with_reducible apply keeps_unmapRange
    | with_reducible apply keeps_modIngest
    | with_reducible apply KeepsI.map
    | with_reducible apply KeepsI.getD
    | split
    | intro _

theorem keeps_flushStore {σ : State} (s : State) (p : Nat) (nsid : Nat) (h_s : Keeps σ s) : Keeps σ (State.flushStore s p nsid) := by
  unfold State.flushStore
  dsimp only
  cases s.nsOf nsid with
  | none => exact h_s
  | some n =>
    refine keeps_ite (fun _ => h_s) fun _ => keeps_atPoint _ _ _ _ _ _ _ h_s fun t ht => ?_
    generalize hr : List.foldl _ (some t) _ = r
    cases r with
    | none => exact keeps_noteWait _ _ ht
    | some s1 =>
      refine keeps_modIngest _ _ ?_
      exact (KeepsI.foldl _ (fun s i => s.nsWriteFor p nsid _ _) _ (KeepsI.some ht) fun t i ht => keeps_nsWriteFor _ _ _ _ _ ht) s1 hr

theorem keeps_appendStore {σ : State} (s : State) (p : Nat) (nsid : Nat) (pos : Nat) (rec_ : List Byte) (h_s : Keeps σ s) : Keeps σ (State.appendStore s p nsid pos rec_) := by
  unfold State.appendStore
  try dsimp only
  all_goals repeat' first
    | with_reducible assumption
    | with_reducible apply keeps_modIngest
    | with_reducible apply keeps_flushStore
    | intro _

theorem keeps_flushStores {σ : State} (s : State) (h_s : Keeps σ s) : Keeps σ (State.flushStores s) := by
  unfold State.flushStores
  try dsimp only
  all_goals repeat' first
    | with_reducible assumption
    | with_reducible apply keeps_each
    | with_reducible apply keeps_flushStore
    | intro _

theorem keeps_execFold {σ : State} (die : Fin 8) (bad : List (BitVec 21)) (s : State) (h_s : Keeps σ s) : KeepsO σ (execFold die bad s) := by
  unfold execFold
  try dsimp only
  all_goals repeat' first
    | with_reducible assumption
    | with_reducible apply keeps_flashWork
    | with_reducible apply keeps_relocate
    | with_reducible apply keeps_moveRetired
    | with_reducible apply keeps_millFreed
    | with_reducible apply keeps_flushStores
    | with_reducible apply KeepsI.map
    | with_reducible apply KeepsO.next
    | split
    | intro _

theorem keeps_execGarbageCollection {σ : State} (die : Fin 8) (bad : List (BitVec 21)) (s : State) (h_s : Keeps σ s) : KeepsO σ (execGarbageCollection die bad s) := by
  unfold execGarbageCollection
  try dsimp only
  all_goals repeat' first
    | with_reducible assumption
    | with_reducible apply keeps_modFcd
    | with_reducible apply keeps_relocateBlock
    | with_reducible apply keeps_moveRetired
    | with_reducible apply KeepsI.map
    | with_reducible apply KeepsO.next
    | split
    | intro _

theorem keeps_execRefresh {σ : State} (block : BitVec 21) (bad : List (BitVec 21)) (s : State) (h_s : Keeps σ s) : KeepsO σ (execRefresh block bad s) := by
  unfold execRefresh
  try dsimp only
  all_goals repeat' first
    | with_reducible assumption
    | with_reducible apply keeps_relocateBlock
    | with_reducible apply keeps_moveRetired
    | with_reducible apply keeps_modBlk
    | with_reducible apply KeepsI.map
    | with_reducible apply KeepsO.next
    | split
    | intro _

theorem keeps_flushJournal {σ : State} (s : State) (f : Nat) (h_s : Keeps σ s) : Keeps σ (State.flushJournal s f) := by
  unfold State.flushJournal
  try dsimp only
  all_goals repeat' first
    | with_reducible assumption
    | with_reducible apply keeps_modFcd
    | with_reducible apply keeps_modFlash
    | intro _

theorem keeps_execJournalFlush {σ : State} (die : Fin 8) (s : State) (h_s : Keeps σ s) : KeepsO σ (execJournalFlush die s) := by
  unfold execJournalFlush
  try dsimp only
  all_goals repeat' first
    | with_reducible assumption
    | with_reducible apply keeps_flushJournal
    | with_reducible apply keeps_writeBackAll
    | with_reducible apply KeepsO.next
    | split
    | intro _

theorem keeps_poolGo {σ : State} (s : State) (h_s : Keeps σ s) : Keeps σ (State.poolGo s) := by
  unfold State.poolGo
  try dsimp only
  all_goals repeat' first
    | with_reducible assumption
    | with_reducible apply keeps_each
    | with_reducible apply keeps_modFcd
    | with_reducible apply keeps_modFlash
    | split
    | intro _

theorem keeps_execPoolSnapshotGo {σ : State} (s : State) (h_s : Keeps σ s) : KeepsO σ (execPoolSnapshotGo s) := by
  unfold execPoolSnapshotGo
  try dsimp only
  all_goals repeat' first
    | with_reducible assumption
    | with_reducible apply keeps_poolGo
    | with_reducible apply KeepsO.next
    | split
    | intro _

theorem keeps_fillPrivate {σ : State} (s : State) (pa : Nat) (n : Nat) (h_s : Keeps σ s) : Keeps σ (State.fillPrivate s pa n) := by
  unfold State.fillPrivate
  try dsimp only
  all_goals repeat' first
    | with_reducible assumption
    | with_reducible apply keeps_fresh
    | with_reducible apply keeps_paWrite

theorem keeps_saveInPlace {σ : State} (s : State) (c : Nat) (eng : Nat) (strm : Option StreamSt) (h_s : Keeps σ s) : Keeps σ (State.saveInPlace s c eng strm) := by
  unfold State.saveInPlace
  try dsimp only
  all_goals repeat' first
    | with_reducible assumption
    | with_reducible apply keeps_fillPrivate
    | with_reducible apply keeps_paWrite
    | with_reducible apply keeps_charge
    | split

theorem keeps_preempt {σ : State} (s : State) (c : Nat) (eng : Nat) (h_s : Keeps σ s) : Keeps σ (State.preempt s c eng) := by
  unfold State.preempt
  try dsimp only
  all_goals repeat' first
    | with_reducible assumption
    | with_reducible apply keeps_modSh
    | with_reducible apply keeps_modCore
    | with_reducible apply keeps_modXl
    | with_reducible apply keeps_saveInPlace
    | with_reducible apply keeps_laneStop
    | split
    | intro _
    | refine Keeps.of_snd (by assumption) ?_

theorem keeps_aluEffect {σ : State} (c : Nat) (t : Nat) (i : TInstr) (s : State) (h_s : Keeps σ s) : Keeps σ (aluEffect c t i s) := by
  unfold aluEffect
  try dsimp only
  all_goals repeat' first
    | with_reducible assumption
    | with_reducible apply keeps_modThr
    | intro _

theorem keeps_execAlu {σ : State} (c : Fin 64) (t : Fin 32) (s : State) (h_s : Keeps σ s) : KeepsO σ (execAlu c t s) := by
  unfold execAlu
  try dsimp only
  all_goals repeat' first
    | with_reducible assumption
    | with_reducible apply keeps_issueInstr
    | with_reducible apply keeps_aluEffect
    | with_reducible apply KeepsO.next
    | intro _

theorem keeps_luiEffect {σ : State} (c : Nat) (t : Nat) (i : TInstr) (s : State) (h_s : Keeps σ s) : Keeps σ (luiEffect c t i s) := by
  unfold luiEffect
  try dsimp only
  all_goals repeat' first
    | with_reducible assumption
    | with_reducible apply keeps_modThr
    | intro _

theorem keeps_execLui {σ : State} (c : Fin 64) (t : Fin 32) (s : State) (h_s : Keeps σ s) : KeepsO σ (execLui c t s) := by
  unfold execLui
  try dsimp only
  all_goals repeat' first
    | with_reducible assumption
    | with_reducible apply keeps_issueInstr
    | with_reducible apply keeps_luiEffect
    | with_reducible apply KeepsO.next
    | intro _

theorem keeps_brEffect {σ : State} (c : Nat) (t : Nat) (i : TInstr) (s : State) (h_s : Keeps σ s) : Keeps σ (brEffect c t i s) := by
  unfold brEffect
  try dsimp only
  all_goals repeat' first
    | with_reducible assumption
    | with_reducible apply keeps_modThr
    | split
    | intro _

theorem keeps_execBr {σ : State} (c : Fin 64) (t : Fin 32) (s : State) (h_s : Keeps σ s) : KeepsO σ (execBr c t s) := by
  unfold execBr
  try dsimp only
  all_goals repeat' first
    | with_reducible assumption
    | with_reducible apply keeps_issueInstr
    | with_reducible apply keeps_brEffect
    | with_reducible apply KeepsO.next
    | intro _

theorem keeps_jalEffect {σ : State} (c : Nat) (t : Nat) (i : TInstr) (s : State) (h_s : Keeps σ s) : Keeps σ (jalEffect c t i s) := by
  unfold jalEffect
  try dsimp only
  all_goals repeat' first
    | with_reducible assumption
    | with_reducible apply keeps_modThr
    | intro _

theorem keeps_execJal {σ : State} (c : Fin 64) (t : Fin 32) (s : State) (h_s : Keeps σ s) : KeepsO σ (execJal c t s) := by
  unfold execJal
  try dsimp only
  all_goals repeat' first
    | with_reducible assumption
    | with_reducible apply keeps_issueInstr
    | with_reducible apply keeps_jalEffect
    | with_reducible apply KeepsO.next
    | intro _

theorem keeps_jalrEffect {σ : State} (c : Nat) (t : Nat) (i : TInstr) (s : State) (h_s : Keeps σ s) : Keeps σ (jalrEffect c t i s) := by
  unfold jalrEffect
  try dsimp only
  all_goals repeat' first
    | with_reducible assumption
    | with_reducible apply keeps_programFault
    | with_reducible apply keeps_modThr
    | split
    | intro _

theorem keeps_execJalr {σ : State} (c : Fin 64) (t : Fin 32) (s : State) (h_s : Keeps σ s) : KeepsO σ (execJalr c t s) := by
  unfold execJalr
  try dsimp only
  all_goals repeat' first
    | with_reducible assumption
    | with_reducible apply keeps_issueInstr
    | with_reducible apply keeps_jalrEffect
    | with_reducible apply KeepsO.next
    | intro _

theorem keeps_exitEffect {σ : State} (c : Nat) (t : Nat) (i : TInstr) (s : State) (h_s : Keeps σ s) : Keeps σ (exitEffect c t i s) := by
  unfold exitEffect
  try dsimp only
  all_goals repeat' first
    | with_reducible assumption
    | with_reducible apply keeps_endTask
    | with_reducible apply keeps_modThr
    | split
    | intro _

theorem keeps_execExitTask {σ : State} (c : Fin 64) (t : Fin 32) (s : State) (h_s : Keeps σ s) : KeepsO σ (execExitTask c t s) := by
  unfold execExitTask
  try dsimp only
  all_goals repeat' first
    | with_reducible assumption
    | with_reducible apply keeps_issueInstr
    | with_reducible apply keeps_exitEffect
    | with_reducible apply KeepsO.next
    | intro _

theorem keeps_yieldEffect {σ : State} (c : Nat) (t : Nat) (z2 : TInstr) (s : State) (h_s : Keeps σ s) : Keeps σ (yieldEffect c t z2 s) := by
  unfold yieldEffect
  try dsimp only
  all_goals repeat' first
    | with_reducible assumption
    | with_reducible apply keeps_modCore
    | with_reducible apply keeps_modThr
    | with_reducible apply keeps_foldl
    | with_reducible apply keeps_foldl_snd
    | with_reducible apply keeps_foldl_fst
    | with_reducible apply KeepsI.map
    | intro _

theorem keeps_execYieldTurn {σ : State} (c : Fin 64) (t : Fin 32) (s : State) (h_s : Keeps σ s) : KeepsO σ (execYieldTurn c t s) := by
  unfold execYieldTurn
  try dsimp only
  all_goals repeat' first
    | with_reducible assumption
    | with_reducible apply keeps_issueInstr
    | with_reducible apply keeps_yieldEffect
    | with_reducible apply KeepsO.next
    | intro _

theorem keeps_trapEffect {σ : State} (c : Nat) (t : Nat) (i : TInstr) (s : State) (h_s : Keeps σ s) : Keeps σ (trapEffect c t i s) := by
  unfold trapEffect
  try dsimp only
  all_goals repeat' first
    | with_reducible assumption
    | with_reducible apply keeps_modCore
    | with_reducible apply keeps_programFault
    | intro _

theorem keeps_execTrap {σ : State} (c : Fin 64) (t : Fin 32) (s : State) (h_s : Keeps σ s) : KeepsO σ (execTrap c t s) := by
  unfold execTrap
  try dsimp only
  all_goals repeat' first
    | with_reducible assumption
    | with_reducible apply keeps_issueInstr
    | with_reducible apply keeps_trapEffect
    | with_reducible apply KeepsO.next
    | intro _

theorem keeps_execSpr {σ : State} (c : Fin 64) (t : Fin 32) (s : State) (h_s : Keeps σ s) : KeepsO σ (execSpr c t s) := by
  unfold execSpr
  try dsimp only
  all_goals repeat' first
    | with_reducible assumption
    | with_reducible apply keeps_issueInstr
    | with_reducible apply keeps_modThr
    | with_reducible apply KeepsO.next
    | intro _

theorem keeps_l1Access {σ : State} (s : State) (c : Nat) (t : Nat) (i : TInstr) (pa : Nat) (x : L1Line) (h_s : Keeps σ s) : Keeps σ (State.l1Access s c t i pa x) := by
  unfold State.l1Access
  try dsimp only
  all_goals repeat' first
    | with_reducible assumption
    | with_reducible apply keeps_setL1
    | with_reducible apply keeps_modThr
    | split
    | intro _

theorem keeps_l1Miss {σ : State} (s : State) (c : Nat) (t : Nat) (pa : Nat) (i : TInstr) (kind : DirReqKind) (h_s : Keeps σ s) : Keeps σ (State.l1Miss s c t pa i kind) := by
  unfold State.l1Miss
  try dsimp only
  all_goals repeat' first
    | with_reducible assumption
    | with_reducible apply keeps_modThr
    | with_reducible apply keeps_modCore
    | with_reducible apply keeps_send
    | split
    | intro _

theorem keeps_cachedAccess {σ : State} (s : State) (c : Nat) (t : Nat) (i : TInstr) (pa : Nat) (h_s : Keeps σ s) : Keeps σ (State.cachedAccess s c t i pa) := by
  unfold State.cachedAccess
  try dsimp only
  all_goals repeat' first
    | with_reducible assumption
    | with_reducible apply keeps_l1Miss
    | with_reducible apply keeps_l1Access
    | split

theorem keeps_remoteAccess {σ : State} (s : State) (c : Nat) (t : Nat) (i : TInstr) (pa : Nat) (m : Nat) (off : Nat) (h_s : Keeps σ s) : Keeps σ (State.remoteAccess s c t i pa m off) := by
  unfold State.remoteAccess
  try dsimp only
  all_goals repeat' first
    | with_reducible assumption
    | with_reducible apply keeps_modThr
    | with_reducible apply keeps_chargeCore
    | with_reducible apply keeps_serveSelf
    | with_reducible apply keeps_sendLink
    | with_reducible apply keeps_threadFault
    | split
    | intro _
    | refine Keeps.of_snd (by assumption) ?_

theorem keeps_uncachedAccess {σ : State} (s : State) (c : Nat) (t : Nat) (i : TInstr) (pa : Nat) (h_s : Keeps σ s) : Keeps σ (State.uncachedAccess s c t i pa) := by
  unfold State.uncachedAccess
  try dsimp only
  all_goals repeat' first
    | with_reducible assumption
    | with_reducible apply keeps_modThr
    | with_reducible apply keeps_remoteAccess
    | with_reducible apply keeps_sendUncached
    | split
    | intro _

theorem keeps_memEffect {σ : State} (c : Nat) (t : Nat) (i : TInstr) (s : State) (h_s : Keeps σ s) : Keeps σ (memEffect c t i s) := by
  unfold memEffect
  try dsimp only
  all_goals repeat' first
    | with_reducible assumption
    | with_reducible apply keeps_programFault
    | with_reducible apply keeps_translate
    | with_reducible apply keeps_threadFault
    | with_reducible apply keeps_cachedAccess
    | with_reducible apply keeps_uncachedAccess
    | with_reducible apply keeps_threadUncorrectable
    | split
    | refine Keeps.of_snd (by assumption) ?_

theorem keeps_execLd {σ : State} (c : Fin 64) (t : Fin 32) (s : State) (h_s : Keeps σ s) : KeepsO σ (execLd c t s) := by
  unfold execLd
  try dsimp only
  all_goals repeat' first
    | with_reducible assumption
    | with_reducible apply keeps_issueInstr
    | with_reducible apply keeps_memEffect
    | with_reducible apply KeepsO.next
    | intro _

theorem keeps_execSt {σ : State} (c : Fin 64) (t : Fin 32) (s : State) (h_s : Keeps σ s) : KeepsO σ (execSt c t s) := by
  unfold execSt
  try dsimp only
  all_goals repeat' first
    | with_reducible assumption
    | with_reducible apply keeps_issueInstr
    | with_reducible apply keeps_memEffect
    | with_reducible apply KeepsO.next
    | intro _

theorem keeps_execAmo {σ : State} (c : Fin 64) (t : Fin 32) (s : State) (h_s : Keeps σ s) : KeepsO σ (execAmo c t s) := by
  unfold execAmo
  try dsimp only
  all_goals repeat' first
    | with_reducible assumption
    | with_reducible apply keeps_issueInstr
    | with_reducible apply keeps_memEffect
    | with_reducible apply KeepsO.next
    | intro _

theorem keeps_finishUncached {σ : State} (s : State) (c : Nat) (t : Nat) (i : TInstr) (pa : Nat) (h_s : Keeps σ s) : Keeps σ (State.finishUncached s c t i pa) := by
  unfold State.finishUncached
  try dsimp only
  all_goals repeat' first
    | with_reducible assumption
    | with_reducible apply keeps_threadFault
    | with_reducible apply keeps_linesUe
    | with_reducible apply keeps_threadUncorrectable
    | with_reducible apply keeps_paReadFx
    | with_reducible apply keeps_paWrite
    | with_reducible apply keeps_chargeCore
    | with_reducible apply keeps_modThr
    | split
    | intro _

theorem keeps_finishSelf {σ : State} (s : State) (c : Nat) (t : Nat) (i : TInstr) (pa : Nat) (off : Nat) (h_s : Keeps σ s) : Keeps σ (State.finishSelf s c t i pa off) := by
  unfold State.finishSelf
  try dsimp only
  all_goals repeat' first
    | with_reducible assumption
    | with_reducible apply keeps_serveSelf
    | with_reducible apply keeps_chargeCore
    | with_reducible apply keeps_modThr
    | with_reducible apply keeps_threadUncorrectable
    | with_reducible apply keeps_threadFault
    | split
    | intro _
    | refine Keeps.of_snd (by assumption) ?_

theorem keeps_remoteFault {σ : State} (s : State) (c : Nat) (t : Nat) (h_s : Keeps σ s) : Keeps σ (State.remoteFault s c t) := by
  unfold State.remoteFault
  try dsimp only
  all_goals repeat' first
    | with_reducible assumption
    | with_reducible apply keeps_modThr
    | with_reducible apply keeps_threadFault
    | split
    | intro _

theorem keeps_loadReturn {σ : State} (c : Nat) (t : Nat) (s : State) (h_s : Keeps σ s) : Keeps σ (loadReturn c t s) := by
  unfold loadReturn
  try dsimp only
  all_goals repeat' first
    | with_reducible assumption
    | with_reducible apply keeps_cachedAccess
    | with_reducible apply keeps_finishUncached
    | with_reducible apply keeps_finishSelf
    | with_reducible apply keeps_threadUncorrectable
    | with_reducible apply keeps_modThr
    | with_reducible apply keeps_sendUncached
    | with_reducible apply keeps_modCore
    | with_reducible apply keeps_remoteFault
    | split
    | intro _

theorem keeps_execLoadDataReturn {σ : State} (c : Fin 64) (t : Fin 32) (hits : List MemHit) (s : State) (h_s : Keeps σ s) : KeepsO σ (execLoadDataReturn c t hits s) := by
  unfold execLoadDataReturn
  try dsimp only
  all_goals repeat' first
    | with_reducible assumption
    | with_reducible apply keeps_loadReturn
    | with_reducible apply keeps_memHits
    | with_reducible apply KeepsO.next
    | intro _

theorem keeps_releaseThen {σ : State} (c : Nat) (t : Nat) (go : State → State) (s : State) (h_go : ∀ x0, Keeps σ x0 → Keeps σ (go x0)) (h_s : Keeps σ s) : Keeps σ (releaseThen c t go s) := by
  unfold releaseThen
  try dsimp only
  all_goals repeat' first
    | with_reducible assumption
    | with_reducible apply keeps_remoteFault
    | with_reducible apply keeps_modThr
    | with_reducible apply h_go
    | split
    | intro _

theorem keeps_fenceEffect {σ : State} (c : Nat) (t : Nat) (i : TInstr) (s : State) (h_s : Keeps σ s) : Keeps σ (fenceEffect c t i s) := by
  unfold fenceEffect
  try dsimp only
  all_goals repeat' first
    | with_reducible assumption
    | with_reducible apply keeps_modThr
    | with_reducible apply keeps_releaseThen
    | split
    | intro _

theorem keeps_execFence {σ : State} (c : Fin 64) (t : Fin 32) (s : State) (h_s : Keeps σ s) : KeepsO σ (execFence c t s) := by
  unfold execFence
  try dsimp only
  all_goals repeat' first
    | with_reducible assumption
    | with_reducible apply keeps_issueInstr
    | with_reducible apply keeps_fenceEffect
    | with_reducible apply KeepsO.next
    | intro _

theorem keeps_fenceEnginesEffect {σ : State} (c : Nat) (t : Nat) (z2 : TInstr) (s : State) (h_s : Keeps σ s) : Keeps σ (fenceEnginesEffect c t z2 s) := by
  unfold fenceEnginesEffect
  try dsimp only
  all_goals repeat' first
    | with_reducible assumption
    | with_reducible apply keeps_modThr
    | split
    | intro _

theorem keeps_execFenceEngines {σ : State} (c : Fin 64) (t : Fin 32) (s : State) (h_s : Keeps σ s) : KeepsO σ (execFenceEngines c t s) := by
  unfold execFenceEngines
  try dsimp only
  all_goals repeat' first
    | with_reducible assumption
    | with_reducible apply keeps_issueInstr
    | with_reducible apply keeps_fenceEnginesEffect
    | with_reducible apply KeepsO.next
    | intro _

theorem keeps_enqueue {σ : State} (s : State) (c : Nat) (t : Nat) (eng : Nat) (desc : BitVec 128) (obj : Nat) (add : Nat) (h_s : Keeps σ s) : Keeps σ (State.enqueue s c t eng desc obj add) := by
  unfold State.enqueue
  try dsimp only
  all_goals repeat' first
    | with_reducible assumption
    | with_reducible apply keeps_modCore
    | with_reducible apply keeps_modThr
    | split
    | intro _

theorem keeps_issueEffect {σ : State} (c : Nat) (t : Nat) (i : TInstr) (s : State) (h_s : Keeps σ s) : Keeps σ (issueEffect c t i s) := by
  unfold issueEffect
  try dsimp only
  all_goals repeat' first
    | with_reducible assumption
    | with_reducible apply keeps_releaseThen
    | with_reducible apply keeps_enqueue
    | with_reducible apply keeps_preempt
    | with_reducible apply keeps_programFault
    | with_reducible apply keeps_translate
    | with_reducible apply keeps_threadFault
    | with_reducible apply keeps_linesUe
    | with_reducible apply keeps_threadUncorrectable
    | with_reducible apply keeps_paReadFx
    | with_reducible apply keeps_chargeMem
    | split
    | intro _
    | refine Keeps.of_snd (by assumption) ?_

theorem keeps_execIssue {σ : State} (c : Fin 64) (t : Fin 32) (s : State) (h_s : Keeps σ s) : KeepsO σ (execIssue c t s) := by
  unfold execIssue
  try dsimp only
  all_goals repeat' first
    | with_reducible assumption
    | with_reducible apply keeps_issueInstr
    | with_reducible apply keeps_issueEffect
    | with_reducible apply KeepsO.next
    | intro _

theorem keeps_setObj {σ : State} (s : State) (n : Nat) (o : SyncObj) (h_s : Keeps σ s) : Keeps σ (State.setObj s n o) := by
  unfold State.setObj
  try dsimp only
  all_goals repeat' first
    | with_reducible assumption
    | with_reducible apply keeps_modSync
    | intro _

theorem keeps_makeReady {σ : State} (s : State) (handle : Nat) (h_s : Keeps σ s) : Keeps σ (State.makeReady s handle) := by
  unfold State.makeReady
  try dsimp only
  all_goals repeat' first
    | with_reducible assumption
    | with_reducible apply keeps_modSh
    | split
    | intro _

theorem keeps_release {σ : State} (s : State) (n : Nat) (a0 : Waiter) (h_s : Keeps σ s) : Keeps σ (State.release s n a0) := by
  unfold State.release
  try dsimp only
  all_goals repeat' first
    | with_reducible assumption
    | with_reducible apply keeps_modSync
    | with_reducible apply keeps_makeReady
    | with_reducible apply keeps_modPtn
    | with_reducible apply keeps_syncArrive
    | with_reducible apply keeps_modCore
    | with_reducible apply keeps_setMctok
    | split
    | intro _

theorem keeps_answer {σ : State} (s : State) (n : Nat) (before : SyncObj) (left : SyncObj) (after : SyncObj) (a0 : SyncOp) (h_s : Keeps σ s) : Keeps σ (State.answer s n before left after a0) := by
  unfold State.answer
  try dsimp only
  all_goals repeat' first
    | with_reducible assumption
    | with_reducible apply keeps_modSync
    | split
    | intro _

theorem keeps_syncUpdate {σ : State} (s : State) (n : Nat) (h_s : Keeps σ s) : Keeps σ (State.syncUpdate s n) := by
  unfold State.syncUpdate
  try dsimp only
  all_goals repeat' first
    | with_reducible assumption
    | with_reducible apply keeps_modSync
    | with_reducible apply keeps_setObj
    | with_reducible apply keeps_each
    | with_reducible apply keeps_release
    | with_reducible apply keeps_answer
    | with_reducible apply keeps_foldl
    | with_reducible apply keeps_foldl_snd
    | with_reducible apply keeps_foldl_fst
    | with_reducible apply keeps_notify
    | with_reducible apply keeps_evalLevel
    | with_reducible apply KeepsI.getD
    | split
    | intro _

theorem keeps_execSyncUpdate {σ : State} (bank : Fin 32) (s : State) (h_s : Keeps σ s) : KeepsO σ (execSyncUpdate bank s) := by
  unfold execSyncUpdate
  try dsimp only
  all_goals repeat' first
    | with_reducible assumption
    | with_reducible apply keeps_syncUpdate
    | with_reducible apply KeepsO.next
    | split
    | intro _

theorem keeps_syncInstr {σ : State} (c : Nat) (t : Nat) (i : TInstr) (s : State) (go : Nat → State → State) (h_s : Keeps σ s) (h_go : ∀ x0 x1, Keeps σ x1 → Keeps σ (go x0 x1)) : Keeps σ (syncInstr c t i s go) := by
  unfold syncInstr
  try dsimp only
  all_goals repeat' first
    | with_reducible assumption
    | with_reducible apply keeps_programFault
    | with_reducible apply h_go
    | split
    | intro _

theorem keeps_execSignal {σ : State} (c : Fin 64) (t : Fin 32) (s : State) (h_s : Keeps σ s) : KeepsO σ (execSignal c t s) := by
  unfold execSignal
  try dsimp only
  all_goals repeat' first
    | with_reducible assumption
    | with_reducible apply keeps_issueInstr
    | with_reducible apply keeps_syncInstr
    | with_reducible apply keeps_releaseThen
    | with_reducible apply keeps_syncArrive
    | with_reducible apply keeps_modThr
    | with_reducible apply KeepsO.next
    | intro _

theorem keeps_execWaitObj {σ : State} (c : Fin 64) (t : Fin 32) (s : State) (h_s : Keeps σ s) : KeepsO σ (execWaitObj c t s) := by
  unfold execWaitObj
  try dsimp only
  all_goals repeat' first
    | with_reducible assumption
    | with_reducible apply keeps_issueInstr
    | with_reducible apply keeps_syncInstr
    | with_reducible apply keeps_syncArrive
    | with_reducible apply keeps_modThr
    | with_reducible apply KeepsO.next
    | split
    | intro _

theorem keeps_execSetc {σ : State} (c : Fin 64) (t : Fin 32) (s : State) (h_s : Keeps σ s) : KeepsO σ (execSetc c t s) := by
  unfold execSetc
  try dsimp only
  all_goals repeat' first
    | with_reducible assumption
    | with_reducible apply keeps_issueInstr
    | with_reducible apply keeps_syncInstr
    | with_reducible apply keeps_syncArrive
    | with_reducible apply keeps_modThr
    | with_reducible apply KeepsO.next
    | intro _

theorem keeps_execSett {σ : State} (c : Fin 64) (t : Fin 32) (s : State) (h_s : Keeps σ s) : KeepsO σ (execSett c t s) := by
  unfold execSett
  try dsimp only
  all_goals repeat' first
    | with_reducible assumption
    | with_reducible apply keeps_issueInstr
    | with_reducible apply keeps_syncInstr
    | with_reducible apply keeps_syncArrive
    | with_reducible apply keeps_modThr
    | with_reducible apply KeepsO.next
    | split
    | intro _

theorem keeps_execSread {σ : State} (c : Fin 64) (t : Fin 32) (s : State) (h_s : Keeps σ s) : KeepsO σ (execSread c t s) := by
  unfold execSread
  try dsimp only
  all_goals repeat' first
    | with_reducible assumption
    | with_reducible apply keeps_issueInstr
    | with_reducible apply keeps_syncInstr
    | with_reducible apply keeps_syncArrive
    | with_reducible apply keeps_modThr
    | with_reducible apply KeepsO.next
    | intro _

theorem keeps_execWaitTimeout {σ : State} (c : Fin 64) (t : Fin 32) (s : State) (h_s : Keeps σ s) : KeepsO σ (execWaitTimeout c t s) := by
  unfold execWaitTimeout
  try dsimp only
  all_goals repeat' first
    | with_reducible assumption
    | with_reducible apply keeps_syncArrive
    | with_reducible apply KeepsO.next
    | split
    | intro _

theorem keeps_execWakeDelivery {σ : State} (c : Fin 64) (t : Fin 32) (s : State) (h_s : Keeps σ s) : KeepsO σ (execWakeDelivery c t s) := by
  unfold execWakeDelivery
  try dsimp only
  all_goals repeat' first
    | with_reducible assumption
    | with_reducible apply keeps_modSync
    | with_reducible apply keeps_modThr
    | with_reducible apply KeepsO.next
    | split
    | intro _

theorem keeps_syncCsrWriteFx {σ : State} (obj : Nat) (off : Nat) (wide : Bool) (v : Nat) (s : State) (h_s : Keeps σ s) : Keeps σ (syncCsrWriteFx obj off wide v s) := by
  unfold syncCsrWriteFx
  try dsimp only
  all_goals repeat' first
    | with_reducible assumption
    | with_reducible apply keeps_syncArrive
    | split

theorem keeps_execSyncCsrWrite {σ : State} (obj : BitVec 13) (off : Fin 2) (wide : Bool) (v : BitVec 64) (s : State) (h_s : Keeps σ s) : KeepsO σ (execSyncCsrWrite obj off wide v s) := by
  unfold execSyncCsrWrite
  try dsimp only
  all_goals repeat' first
    | with_reducible assumption
    | with_reducible apply keeps_syncCsrWriteFx
    | with_reducible apply KeepsO.next
    | split
    | intro _

theorem keeps_hubSyncSignalFx {σ : State} (v : Nat) (s : State) (h_s : Keeps σ s) : Keeps σ (hubSyncSignalFx v s) := by
  unfold hubSyncSignalFx
  try dsimp only
  all_goals repeat' first
    | with_reducible assumption
    | with_reducible apply keeps_modSync
    | with_reducible apply keeps_syncArrive
    | intro _

theorem keeps_execHubSyncSignalWrite {σ : State} (v : BitVec 64) (s : State) (h_s : Keeps σ s) : KeepsO σ (execHubSyncSignalWrite v s) := by
  unfold execHubSyncSignalWrite
  try dsimp only
  all_goals repeat' first
    | with_reducible assumption
    | with_reducible apply keeps_hubSyncSignalFx
    | with_reducible apply KeepsO.next
    | split
    | intro _

theorem keeps_postTask {σ : State} (s : State) (k : Task) (input : Option Nat) (h_s : Keeps σ s) : Keeps σ (State.postTask s k input).2 := by
  unfold State.postTask
  try dsimp only
  all_goals repeat' first
    | with_reducible assumption
    | with_reducible apply keeps_modSh
    | with_reducible apply keeps_makeReady
    | with_reducible apply keeps_syncArrive
    | with_reducible apply KeepsI.map
    | split
    | intro _

theorem keeps_taskPostEffect {σ : State} (c : Nat) (t : Nat) (i : TInstr) (s : State) (h_s : Keeps σ s) : Keeps σ (taskPostEffect c t i s) := by
  unfold taskPostEffect
  try dsimp only
  all_goals repeat' first
    | with_reducible assumption
    | with_reducible apply keeps_programFault
    | with_reducible apply keeps_releaseThen
    | with_reducible apply keeps_translate
    | with_reducible apply keeps_threadFault
    | with_reducible apply keeps_linesUe
    | with_reducible apply keeps_threadUncorrectable
    | with_reducible apply keeps_paReadFx
    | with_reducible apply keeps_chargeMem
    | with_reducible apply keeps_modThr
    | with_reducible apply keeps_postTask
    | with_reducible apply keeps_modJob
    | with_reducible apply KeepsI.map
    | with_reducible apply KeepsI.getD
    | with_reducible apply KeepsI.some
    | with_reducible apply KeepsI.none
    | split
    | intro _
    | refine Keeps.of_snd (by assumption) ?_

theorem keeps_execTaskPost {σ : State} (c : Fin 64) (t : Fin 32) (s : State) (h_s : Keeps σ s) : KeepsO σ (execTaskPost c t s) := by
  unfold execTaskPost
  try dsimp only
  all_goals repeat' first
    | with_reducible assumption
    | with_reducible apply keeps_issueInstr
    | with_reducible apply keeps_taskPostEffect
    | with_reducible apply KeepsO.next
    | intro _

theorem keeps_updateWaits {σ : State} (s : State) (h_s : Keeps σ s) : Keeps σ (State.updateWaits s) := by
  unfold State.updateWaits
  try dsimp only
  all_goals repeat' first
    | with_reducible assumption
    | with_reducible apply keeps_modSh
    | with_reducible apply KeepsI.map
    | split
    | intro _

theorem keeps_startTask {σ : State} (s : State) (k : Task) (c : Nat) (h_s : Keeps σ s) : Keeps σ (State.startTask s k c) := by
  unfold State.startTask
  try dsimp only
  all_goals repeat' first
    | with_reducible assumption
    | with_reducible apply keeps_modThr
    | with_reducible apply keeps_modCore
    | with_reducible apply keeps_modSh
    | split
    | intro _

theorem keeps_execTaskDispatch {σ : State} (lc : Bool) (s : State) (h_s : Keeps σ s) : KeepsO σ (execTaskDispatch lc s) := by
  unfold execTaskDispatch
  try dsimp only
  all_goals repeat' first
    | with_reducible assumption
    | with_reducible apply keeps_updateWaits
    | with_reducible apply keeps_startTask
    | with_reducible apply KeepsI.map
    | with_reducible apply KeepsO.next
    | split
    | intro _

theorem keeps_ringCfg {σ : State} (s : State) (p : Nat) (kind : Nat) (v : Nat) (h_s : Keeps σ s) : Keeps σ (State.ringCfg s p kind v) := by
  unfold State.ringCfg
  try dsimp only
  all_goals repeat' first
    | with_reducible assumption
    | with_reducible apply keeps_dropWaiter
    | with_reducible apply keeps_modPtn
    | with_reducible apply keeps_syncArrive
    | split
    | intro _

theorem keeps_ringBase {σ : State} (s : State) (p : Nat) (kind : Nat) (v : Nat) (h_s : Keeps σ s) : Keeps σ (State.ringBase s p kind v) := by
  unfold State.ringBase
  try dsimp only
  all_goals repeat' first
    | with_reducible assumption
    | with_reducible apply keeps_modPtn
    | split
    | intro _

theorem keeps_ringTaken {σ : State} (s : State) (p : Nat) (kind : Nat) (h_s : Keeps σ s) : Keeps σ (State.ringTaken s p kind) := by
  unfold State.ringTaken
  try dsimp only
  all_goals repeat' first
    | with_reducible assumption
    | with_reducible apply keeps_modPtn
    | intro _

theorem keeps_ringUe {σ : State} (s : State) (p : Nat) (kind : Nat) (h_s : Keeps σ s) : Keeps σ (State.ringUe s p kind) := by
  unfold State.ringUe
  try dsimp only
  all_goals repeat' first
    | with_reducible assumption
    | with_reducible apply keeps_linesUe
    | with_reducible apply keeps_devUnread
    | split

theorem keeps_ringSkip {σ : State} (s : State) (p : Nat) (kind : Nat) (code : Nat) (slot : Nat) (data : Nat) (h_s : Keeps σ s) : Keeps σ (State.ringSkip s p kind code slot data) := by
  unfold State.ringSkip
  try dsimp only
  all_goals repeat' first
    | with_reducible assumption
    | with_reducible apply keeps_ringUe
    | with_reducible apply keeps_ringTaken
    | with_reducible apply keeps_modPtn
    | with_reducible apply keeps_notify
    | intro _

theorem keeps_recPoint {σ : State} (s : State) (p : Nat) (kind : Nat) (size : Nat) (go : State → State) (h_s : Keeps σ s) (h_go : ∀ x0, Keeps σ x0 → Keeps σ (go x0)) : Keeps σ (State.recPoint s p kind size go) := by
  unfold State.recPoint
  try dsimp only
  all_goals repeat' first
    | with_reducible assumption
    | with_reducible apply keeps_memPoint
    | with_reducible apply h_go
    | intro _

theorem keeps_collPoint {σ : State} (s : State) (p : Nat) (go : State → State) (h_s : Keeps σ s) (h_go : ∀ x0, Keeps σ x0 → Keeps σ (go x0)) : Keeps σ (State.collPoint s p go) := by
  unfold State.collPoint
  try dsimp only
  all_goals repeat' first
    | with_reducible assumption
    | with_reducible apply keeps_holdRequest
    | with_reducible apply keeps_unheld
    | with_reducible apply h_go
    | split
    | intro _

theorem keeps_collTaken {σ : State} (s : State) (p : Nat) (h_s : Keeps σ s) : Keeps σ (State.collTaken s p) := by
  unfold State.collTaken
  try dsimp only
  all_goals repeat' first
    | with_reducible assumption
    | with_reducible apply keeps_chargeMem
    | with_reducible apply keeps_ringTaken

theorem keeps_collEnd {σ : State} (s : State) (p : Nat) (h_s : Keeps σ s) : Keeps σ (State.collEnd s p) := by
  unfold State.collEnd
  try dsimp only
  all_goals repeat' first
    | with_reducible assumption
    | with_reducible apply keeps_collTaken
    | with_reducible apply keeps_notify

theorem keeps_abortColl {σ : State} (s : State) (p : Nat) (h_s : Keeps σ s) : Keeps σ (State.abortColl s p) := by
  unfold State.abortColl
  try dsimp only
  all_goals repeat' first
    | with_reducible assumption
    | with_reducible apply keeps_modXl
    | with_reducible apply keeps_collEnd
    | split
    | intro _

theorem keeps_takeRec {σ : State} (s : State) (p : Nat) (kind : Nat) (size : Nat) (bad : List Byte → Bool) (skip : Nat → List Byte → State → State) (mine : List Byte → Bool) (run : Nat → List Byte → State → State) (h_s : Keeps σ s) (h_skip : ∀ x0 x1 x2, Keeps σ x2 → Keeps σ (skip x0 x1 x2)) (h_run : ∀ x0 x1 x2, Keeps σ x2 → Keeps σ (run x0 x1 x2)) : Keeps σ (State.takeRec s p kind size bad skip mine run) := by
  unfold State.takeRec
  try dsimp only
  all_goals repeat' first
    | with_reducible assumption
    | with_reducible apply keeps_recPoint
    | with_reducible apply keeps_ringTaken
    | with_reducible apply h_skip
    | with_reducible apply h_run
    | split
    | intro _

theorem keeps_unhalt {σ : State} (s : State) (h : HaltRec) (h_s : Keeps σ s) : Keeps σ (State.unhalt s h) := by
  unfold State.unhalt
  try dsimp only
  all_goals repeat' first
    | with_reducible assumption
    | with_reducible apply keeps_modXl
    | intro _

theorem keeps_mcHalt {σ : State} (s : State) (g : Nat) (halted : Bool) (h_s : Keeps σ s) : Keeps σ (State.mcHalt s g halted) := by
  unfold State.mcHalt
  try dsimp only
  all_goals repeat' first
    | with_reducible assumption
    | with_reducible apply keeps_setMctok

theorem keeps_resumeAgent {σ : State} (s : State) (h : HaltRec) (h_s : Keeps σ s) : Keeps σ (State.resumeAgent s h) := by
  unfold State.resumeAgent
  try dsimp only
  all_goals repeat' first
    | with_reducible assumption
    | with_reducible apply keeps_unhalt
    | with_reducible apply keeps_modThr
    | with_reducible apply keeps_modCore
    | with_reducible apply keeps_mcHalt
    | split
    | intro _

theorem keeps_abortHalted {σ : State} (s : State) (h : HaltRec) (h_s : Keeps σ s) : Keeps σ (State.abortHalted s h) := by
  unfold State.abortHalted
  try dsimp only
  all_goals repeat' first
    | with_reducible assumption
    | with_reducible apply keeps_unhalt
    | with_reducible apply keeps_kindFault
    | with_reducible apply keeps_mcHalt
    | with_reducible apply keeps_collEnd
    | with_reducible apply keeps_modBatch
    | with_reducible apply keeps_abortJob
    | split
    | intro _

theorem keeps_drainFaults {σ : State} (p : Nat) (a0 : List HaltRec) (a1 : State) (h_a1 : Keeps σ a1) : Keeps σ (drainFaults p a0 a1) := by
  induction a0 generalizing p a1 with
  | nil =>
    unfold drainFaults
    try dsimp only
    all_goals repeat' first
      | with_reducible assumption
      | with_reducible apply ih
      | with_reducible apply keeps_putFault
      | with_reducible apply keeps_unhalt
      | with_reducible apply keeps_modXl
      | with_reducible apply keeps_abortHalted
      | split
      | intro _
  | cons x xs ih =>
    unfold drainFaults
    try dsimp only
    all_goals repeat' first
      | with_reducible assumption
      | with_reducible apply ih
      | with_reducible apply keeps_putFault
      | with_reducible apply keeps_unhalt
      | with_reducible apply keeps_modXl
      | with_reducible apply keeps_abortHalted
      | split
      | intro _

theorem keeps_faultCons {σ : State} (s : State) (p : Nat) (v : BitVec 32) (h_s : Keeps σ s) : Keeps σ (State.faultCons s p v) := by
  unfold State.faultCons
  try dsimp only
  all_goals repeat' first
    | with_reducible assumption
    | with_reducible apply keeps_modPtn
    | with_reducible apply keeps_drainFaults
    | split
    | intro _

theorem keeps_execFaultQueueConsWrite {σ : State} (p : Fin 32) (v : BitVec 32) (s : State) (h_s : Keeps σ s) : KeepsO σ (execFaultQueueConsWrite p v s) := by
  unfold execFaultQueueConsWrite
  try dsimp only
  all_goals repeat' first
    | with_reducible assumption
    | with_reducible apply keeps_faultCons
    | with_reducible apply KeepsO.next
    | split
    | intro _

theorem keeps_lateRecord {σ : State} (s : State) (h : HaltRec) (h_s : Keeps σ s) : Keeps σ (State.lateRecord s h) := by
  unfold State.lateRecord
  try dsimp only
  all_goals repeat' first
    | with_reducible assumption
    | with_reducible apply keeps_modPtn
    | split
    | intro _

theorem keeps_execResumeWindowExpiry {σ : State} (agent : BitVec 16) (s : State) (h_s : Keeps σ s) : KeepsO σ (execResumeWindowExpiry agent s) := by
  unfold execResumeWindowExpiry
  try dsimp only
  all_goals repeat' first
    | with_reducible assumption
    | with_reducible apply keeps_lateRecord
    | with_reducible apply keeps_abortHalted
    | with_reducible apply keeps_unhalt
    | with_reducible apply KeepsO.next
    | split
    | intro _

theorem keeps_noticeCons {σ : State} (s : State) (r : Nat) (v : BitVec 32) (h_s : Keeps σ s) : Keeps σ (State.noticeCons s r v) := by
  unfold State.noticeCons
  try dsimp only
  all_goals repeat' first
    | with_reducible assumption
    | with_reducible apply keeps_modNring
    | with_reducible apply keeps_drainRing
    | split
    | intro _

theorem keeps_execNoticeRingConsWrite {σ : State} (ring : Fin 33) (v : BitVec 32) (s : State) (h_s : Keeps σ s) : KeepsO σ (execNoticeRingConsWrite ring v s) := by
  unfold execNoticeRingConsWrite
  try dsimp only
  all_goals repeat' first
    | with_reducible assumption
    | with_reducible apply keeps_noticeCons
    | with_reducible apply KeepsO.next
    | split
    | intro _

theorem keeps_evalMonitor {σ : State} (s : State) (w : Nat) (h_s : Keeps σ s) : Keeps σ (State.evalMonitor s w) := by
  unfold State.evalMonitor
  try dsimp only
  all_goals repeat' first
    | with_reducible assumption
    | with_reducible apply keeps_modNotice
    | with_reducible apply keeps_noticeRun
    | with_reducible apply keeps_send
    | split
    | intro _

theorem keeps_meetLevels {σ : State} (s : State) (h_s : Keeps σ s) : Keeps σ (State.meetLevels s) := by
  unfold State.meetLevels
  try dsimp only
  all_goals repeat' first
    | with_reducible assumption
    | with_reducible apply keeps_each
    | with_reducible apply keeps_evalLevel
    | intro _

theorem keeps_wmClear {σ : State} (s : State) (w : Nat) (h_s : Keeps σ s) : Keeps σ (State.wmClear s w) := by
  unfold State.wmClear
  try dsimp only
  all_goals repeat' first
    | with_reducible assumption
    | with_reducible apply keeps_modNotice
    | with_reducible apply keeps_evalMonitor
    | intro _

theorem keeps_execWmHitClear {σ : State} (w : Fin 256) (s : State) (h_s : Keeps σ s) : KeepsO σ (execWmHitClear w s) := by
  unfold execWmHitClear
  try dsimp only
  all_goals repeat' first
    | with_reducible assumption
    | with_reducible apply keeps_wmClear
    | with_reducible apply KeepsO.next
    | split
    | intro _

theorem keeps_wmCfg {σ : State} (s : State) (w : Nat) (v : Nat) (h_s : Keeps σ s) : Keeps σ (State.wmCfg s w v) := by
  unfold State.wmCfg
  try dsimp only
  all_goals repeat' first
    | with_reducible assumption
    | with_reducible apply keeps_modNotice
    | with_reducible apply keeps_evalMonitor
    | split
    | intro _

theorem keeps_execWmCfgWrite {σ : State} (w : Fin 256) (v : BitVec 64) (s : State) (h_s : Keeps σ s) : KeepsO σ (execWmCfgWrite w v s) := by
  unfold execWmCfgWrite
  try dsimp only
  all_goals repeat' first
    | with_reducible assumption
    | with_reducible apply keeps_wmCfg
    | with_reducible apply KeepsO.next
    | split
    | intro _

end Sys2Proof.Machine
end

