-- ==== Sys2Proof/Laws/Keeps3.lean ====
section
/-! SUPPORT. What the operations of these files of the model keep: Buf, Weft, Search, Secure, Nvme, Level, Link, Fabric. -/

namespace Sys2Proof.Machine
open Sys2Proof

theorem keeps_bufMapAs {σ : State} (s : State) (j : Job) (free : Bool) (unit : Nat) (va : Nat) (n : Nat) (write : Bool) (h_s : Keeps σ s) : Keeps σ (State.bufMapAs s j free unit va n write).2 := by
  unfold State.bufMapAs
  try dsimp only
  all_goals repeat' first
    | with_reducible assumption
    | with_reducible apply keeps_bufXlate
    | with_reducible apply keeps_takeFault
    | with_reducible apply keeps_abortJob
    | split
    | refine Keeps.of_snd (by assumption) ?_

theorem keeps_bufMap {σ : State} (s : State) (j : Job) (unit : Nat) (va : Nat) (n : Nat) (write : Bool) (h_s : Keeps σ s) : Keeps σ (State.bufMap s j unit va n write).2 := by
  unfold State.bufMap
  try dsimp only
  all_goals repeat' first
    | with_reducible assumption
    | with_reducible apply keeps_bufMapAs

theorem keeps_piecesFx {σ : State} (s : State) (p : Nat) (ps : List (Nat × Nat)) (h_s : Keeps σ s) : Keeps σ (State.piecesFx s p ps) := by
  unfold State.piecesFx
  try dsimp only
  all_goals repeat' first
    | with_reducible assumption
    | with_reducible apply keeps_each
    | with_reducible apply keeps_sendRemote
    | with_reducible apply keeps_paReadFx
    | with_reducible apply keeps_chargeMem
    | intro _

theorem keeps_writePieces {σ : State} (p : Nat) (a0 : List (Nat × Nat)) (a1 : List Byte) (a2 : State) (h_a2 : Keeps σ a2) : Keeps σ (State.writePieces p a0 a1 a2) := by
  induction a0 generalizing p a1 a2 with
  | nil =>
    unfold State.writePieces
    try dsimp only
    all_goals repeat' first
      | with_reducible assumption
      | with_reducible apply ih
      | with_reducible apply keeps_sendRemote
      | with_reducible apply keeps_paWrite
      | with_reducible apply keeps_chargeMem
      | split
  | cons x xs ih =>
    unfold State.writePieces
    try dsimp only
    all_goals repeat' first
      | with_reducible assumption
      | with_reducible apply ih
      | with_reducible apply keeps_sendRemote
      | with_reducible apply keeps_paWrite
      | with_reducible apply keeps_chargeMem
      | split

theorem keeps_bufReadAs {σ : State} (s : State) (j : Job) (free : Bool) (unit : Nat) (va : Nat) (n : Nat) (h_s : Keeps σ s) : Keeps σ (State.bufReadAs s j free unit va n).2 := by
  unfold State.bufReadAs
  try dsimp only
  all_goals repeat' first
    | with_reducible assumption
    | with_reducible apply keeps_bufMapAs
    | with_reducible apply keeps_piecesFx
    | with_reducible apply keeps_piecesUe
    | with_reducible apply keeps_abortJob
    | split
    | refine Keeps.of_snd (by assumption) ?_

theorem keeps_bufRead {σ : State} (s : State) (j : Job) (unit : Nat) (va : Nat) (n : Nat) (h_s : Keeps σ s) : Keeps σ (State.bufRead s j unit va n).2 := by
  unfold State.bufRead
  try dsimp only
  all_goals repeat' first
    | with_reducible assumption
    | with_reducible apply keeps_bufReadAs

theorem keeps_bufWrite {σ : State} (s : State) (j : Job) (unit : Nat) (va : Nat) (bs : List Byte) (go : State → State) (h_s : Keeps σ s) (h_go : ∀ x0, Keeps σ x0 → Keeps σ (go x0)) : Keeps σ (State.bufWrite s j unit va bs go) := by
  unfold State.bufWrite
  try dsimp only
  all_goals repeat' first
    | with_reducible assumption
    | with_reducible apply keeps_bufMap
    | with_reducible apply keeps_writePieces
    | with_reducible apply h_go
    | split
    | intro _
    | refine Keeps.of_snd (by assumption) ?_

theorem keeps_badWrite {σ : State} (s : State) (p : Nat) (bit : Nat) (v : Nat) (h_s : Keeps σ s) : Keeps σ (State.badWrite s p bit v) := by
  unfold State.badWrite
  try dsimp only
  all_goals repeat' first
    | with_reducible assumption
    | with_reducible apply keeps_modPage
    | with_reducible apply keeps_notify
    | split
    | intro _

theorem keeps_ringLevel {σ : State} (s : State) (p : Nat) (r : Nat) (h_s : Keeps σ s) : Keeps σ (State.ringLevel s p r) := by
  unfold State.ringLevel
  try dsimp only
  all_goals repeat' first
    | with_reducible assumption
    | with_reducible apply keeps_evalLevel

theorem keeps_sqTailWrite {σ : State} (s : State) (p : Nat) (r : Nat) (v : Nat) (h_s : Keeps σ s) : Keeps σ (State.sqTailWrite s p r v) := by
  unfold State.sqTailWrite
  try dsimp only
  all_goals repeat' first
    | with_reducible assumption
    | with_reducible apply keeps_badWrite
    | with_reducible apply keeps_modWring
    | with_reducible apply keeps_modSh
    | with_reducible apply keeps_ringLevel
    | split
    | intro _

theorem keeps_execDbSqTailWrite {σ : State} (p : Fin 32) (r : Fin 4) (v : BitVec 32) (s : State) (h_s : Keeps σ s) : KeepsO σ (execDbSqTailWrite p r v s) := by
  unfold execDbSqTailWrite
  try dsimp only
  all_goals repeat' first
    | with_reducible assumption
    | with_reducible apply keeps_sqTailWrite
    | with_reducible apply KeepsO.next
    | split
    | intro _

theorem keeps_cqHeadWrite {σ : State} (s : State) (p : Nat) (r : Nat) (v : Nat) (h_s : Keeps σ s) : Keeps σ (State.cqHeadWrite s p r v) := by
  unfold State.cqHeadWrite
  try dsimp only
  all_goals repeat' first
    | with_reducible assumption
    | with_reducible apply keeps_badWrite
    | with_reducible apply keeps_modWring
    | split
    | intro _

theorem keeps_execDbCqHeadWrite {σ : State} (p : Fin 32) (r : Fin 4) (v : BitVec 32) (s : State) (h_s : Keeps σ s) : KeepsO σ (execDbCqHeadWrite p r v s) := by
  unfold execDbCqHeadWrite
  try dsimp only
  all_goals repeat' first
    | with_reducible assumption
    | with_reducible apply keeps_cqHeadWrite
    | with_reducible apply KeepsO.next
    | split
    | intro _

theorem keeps_ringConfig {σ : State} (s : State) (p : Nat) (r : Nat) (v : Nat) (f : WeftRing → WeftRing) (h_s : Keeps σ s) : Keeps σ (State.ringConfig s p r v f) := by
  unfold State.ringConfig
  try dsimp only
  all_goals repeat' first
    | with_reducible assumption
    | with_reducible apply keeps_badWrite
    | with_reducible apply keeps_modWring
    | split

theorem keeps_helloWrite {σ : State} (s : State) (p : Nat) (v : BitVec 64) (h_s : Keeps σ s) : Keeps σ (State.helloWrite s p v) := by
  unfold State.helloWrite
  try dsimp only
  all_goals repeat' first
    | with_reducible assumption
    | with_reducible apply keeps_modPage
    | with_reducible apply keeps_modSh
    | with_reducible apply keeps_log
    | with_reducible apply KeepsI.map
    | with_reducible apply KeepsI.getD
    | split
    | intro _

theorem keeps_execHello {σ : State} (p : Fin 32) (v : BitVec 64) (s : State) (h_s : Keeps σ s) : KeepsO σ (execHello p v s) := by
  unfold execHello
  try dsimp only
  all_goals repeat' first
    | with_reducible assumption
    | with_reducible apply keeps_helloWrite
    | with_reducible apply KeepsO.next
    | split
    | intro _

theorem keeps_fetchTurn {σ : State} (s : State) (p : Nat) (r : Nat) (h_s : Keeps σ s) : Keeps σ (State.fetchTurn s p r) := by
  unfold State.fetchTurn
  try dsimp only
  all_goals repeat' first
    | with_reducible assumption
    | with_reducible apply keeps_modSh
    | split
    | intro _

theorem keeps_newJobId {σ : State} (s : State) (p : Nat) (h_s : Keeps σ s) : Keeps σ (State.newJobId s p).2 := by
  unfold State.newJobId
  try dsimp only
  all_goals repeat' first
    | with_reducible assumption
    | with_reducible apply keeps_modPtn
    | split
    | intro _

theorem keeps_judgeEntry {σ : State} (s : State) (p : Nat) (r : Nat) (order : Nat) (e : List Byte) (h_s : Keeps σ s) : Keeps σ (State.judgeEntry s p r order e) := by
  unfold State.judgeEntry
  try dsimp only
  all_goals repeat' first
    | with_reducible assumption
    | with_reducible apply keeps_complete
    | with_reducible apply keeps_newJobId
    | with_reducible apply keeps_modSh
    | with_reducible apply keeps_pinSearch
    | split
    | intro _
    | refine Keeps.of_snd (by assumption) ?_

theorem keeps_execEntryFetch {σ : State} (p : Fin 32) (r : Fin 4) (s : State) (h_s : Keeps σ s) : KeepsO σ (execEntryFetch p r s) := by
  unfold execEntryFetch
  try dsimp only
  all_goals repeat' first
    | with_reducible assumption
    | with_reducible apply keeps_memPoint
    | with_reducible apply keeps_modWring
    | with_reducible apply keeps_modSh
    | with_reducible apply keeps_fetchTurn
    | with_reducible apply keeps_ringLevel
    | with_reducible apply keeps_judgeEntry
    | with_reducible apply keeps_linesUe
    | with_reducible apply keeps_devUnread
    | with_reducible apply keeps_complete
    | with_reducible apply keeps_notify
    | with_reducible apply KeepsO.next
    | split
    | intro _

theorem keeps_execCqIrqTimer {σ : State} (p : Fin 32) (r : Fin 4) (s : State) (h_s : Keeps σ s) : KeepsO σ (execCqIrqTimer p r s) := by
  unfold execCqIrqTimer
  try dsimp only
  all_goals repeat' first
    | with_reducible assumption
    | with_reducible apply keeps_modWring
    | with_reducible apply keeps_raise
    | with_reducible apply KeepsO.next
    | split
    | intro _

theorem keeps_execRunTask {σ : State} (job : BitVec 32) (s : State) (h_s : Keeps σ s) : KeepsO σ (execRunTask job s) := by
  unfold execRunTask
  try dsimp only
  all_goals repeat' first
    | with_reducible assumption
    | with_reducible apply keeps_endJob
    | with_reducible apply keeps_postTask
    | with_reducible apply keeps_modJob
    | with_reducible apply KeepsO.next
    | split
    | intro _
    | refine Keeps.of_snd (by assumption) ?_

theorem keeps_execWeftFence {σ : State} (job : BitVec 32) (s : State) (h_s : Keeps σ s) : KeepsO σ (execWeftFence job s) := by
  unfold execWeftFence
  try dsimp only
  all_goals repeat' first
    | with_reducible assumption
    | with_reducible apply keeps_endJob
    | with_reducible apply KeepsO.next
    | split
    | intro _

theorem keeps_acctSnapshot {σ : State} (s : State) (p : Nat) (h_s : Keeps σ s) : Keeps σ (State.acctSnapshot s p) := by
  unfold State.acctSnapshot
  try dsimp only
  all_goals repeat' first
    | with_reducible assumption
    | with_reducible apply keeps_modPtn
    | with_reducible apply KeepsI.map
    | intro _

theorem keeps_execQueryAccounts {σ : State} (job : BitVec 32) (s : State) (h_s : Keeps σ s) : KeepsO σ (execQueryAccounts job s) := by
  unfold execQueryAccounts
  try dsimp only
  all_goals repeat' first
    | with_reducible assumption
    | with_reducible apply keeps_bufMap
    | with_reducible apply keeps_acctSnapshot
    | with_reducible apply keeps_writePieces
    | with_reducible apply keeps_endJob
    | with_reducible apply KeepsO.next
    | split
    | intro _
    | refine Keeps.of_snd (by assumption) ?_

theorem keeps_acctGo {σ : State} (s : State) (p : Nat) (h_s : Keeps σ s) : Keeps σ (State.acctGo s p) := by
  unfold State.acctGo
  try dsimp only
  all_goals repeat' first
    | with_reducible assumption
    | with_reducible apply keeps_acctSnapshot
    | with_reducible apply keeps_modPtn
    | split
    | intro _

theorem keeps_execAcctSnapshotGo {σ : State} (p : Fin 32) (s : State) (h_s : Keeps σ s) : KeepsO σ (execAcctSnapshotGo p s) := by
  unfold execAcctSnapshotGo
  try dsimp only
  all_goals repeat' first
    | with_reducible assumption
    | with_reducible apply keeps_acctGo
    | with_reducible apply KeepsO.next
    | split
    | intro _

theorem keeps_execCancelJob {σ : State} (job : BitVec 32) (s : State) (h_s : Keeps σ s) : KeepsO σ (execCancelJob job s) := by
  unfold execCancelJob
  try dsimp only
  all_goals repeat' first
    | with_reducible assumption
    | with_reducible apply keeps_stopJob
    | with_reducible apply keeps_endJob
    | with_reducible apply KeepsO.next
    | split
    | intro _

theorem keeps_endSession {σ : State} (s : State) (p : Nat) (h_s : Keeps σ s) : Keeps σ (State.endSession s p) := by
  unfold State.endSession
  try dsimp only
  all_goals repeat' first
    | with_reducible assumption
    | with_reducible apply keeps_modHost
    | with_reducible apply keeps_modSh
    | with_reducible apply keeps_meetLevels
    | intro _

theorem keeps_mirror {σ : State} (s : State) (p : Nat) (ix : IndexSt) (h_s : Keeps σ s) : Keeps σ (State.mirror s p ix) := by
  unfold State.mirror
  try dsimp only
  all_goals repeat' first
    | with_reducible assumption
    | with_reducible apply keeps_bufXlate
    | with_reducible apply keeps_writePieces
    | with_reducible apply keeps_setFree
    | split
    | refine Keeps.of_snd (by assumption) ?_

theorem keeps_commitIndex {σ : State} (s : State) (p : Nat) (ix : IndexSt) (ix' : IndexSt) (h_s : Keeps σ s) : Keeps σ (State.commitIndex s p ix ix') := by
  unfold State.commitIndex
  try dsimp only
  all_goals repeat' first
    | with_reducible assumption
    | with_reducible apply keeps_modIndex
    | with_reducible apply keeps_journal
    | with_reducible apply keeps_mirror
    | with_reducible apply keeps_retain
    | split
    | intro _

theorem keeps_changeJob {σ : State} (s : State) (j : Job) (len : IndexSt → Nat) (one : IndexSt → List Byte → IndexSt × Verdict) (h_s : Keeps σ s) : Keeps σ (State.changeJob s j len one) := by
  unfold State.changeJob
  try dsimp only
  all_goals repeat' first
    | with_reducible assumption
    | with_reducible apply keeps_endJob
    | with_reducible apply keeps_bufMap
    | with_reducible apply keeps_bufReadAs
    | with_reducible apply keeps_commitIndex
    | with_reducible apply keeps_writePieces
    | split
    | intro _
    | refine Keeps.of_snd (by assumption) ?_

theorem keeps_execInsertJob {σ : State} (job : BitVec 32) (s : State) (h_s : Keeps σ s) : KeepsO σ (execInsertJob job s) := by
  unfold execInsertJob
  try dsimp only
  all_goals repeat' first
    | with_reducible assumption
    | with_reducible apply keeps_flashJob
    | with_reducible apply keeps_changeJob
    | with_reducible apply KeepsO.next
    | split
    | intro _

theorem keeps_execDeleteJob {σ : State} (job : BitVec 32) (s : State) (h_s : Keeps σ s) : KeepsO σ (execDeleteJob job s) := by
  unfold execDeleteJob
  try dsimp only
  all_goals repeat' first
    | with_reducible assumption
    | with_reducible apply keeps_flashJob
    | with_reducible apply keeps_changeJob
    | with_reducible apply KeepsO.next
    | split
    | intro _

theorem keeps_recFx {σ : State} (s : State) (p : Nat) (ix : IndexSt) (snap : Nat) (ls : List (Nat × Nat)) (h_s : Keeps σ s) : Keeps σ (State.recFx s p ix snap ls) := by
  unfold State.recFx
  try dsimp only
  all_goals repeat' first
    | with_reducible assumption
    | with_reducible apply keeps_foldl
    | with_reducible apply keeps_foldl_snd
    | with_reducible apply keeps_foldl_fst
    | with_reducible apply keeps_each
    | with_reducible apply keeps_modBlk
    | with_reducible apply keeps_charge
    | with_reducible apply KeepsI.map
    | split
    | intro _

theorem keeps_fetchRest {σ : State} (s : State) (b : Batch) (ix : IndexSt) (h_s : Keeps σ s) : Keeps σ (State.fetchRest s b ix) := by
  unfold State.fetchRest
  try dsimp only
  all_goals repeat' first
    | with_reducible assumption
    | with_reducible apply keeps_recFx
    | with_reducible apply keeps_modBatch
    | split
    | intro _

theorem keeps_searchEnd {σ : State} (s : State) (j : Job) (b : Batch) (h_s : Keeps σ s) : Keeps σ (State.searchEnd s j b) := by
  unfold State.searchEnd
  try dsimp only
  all_goals repeat' first
    | with_reducible assumption
    | with_reducible apply keeps_endJob
    | with_reducible apply keeps_dropBatch
    | with_reducible apply keeps_atPoint
    | with_reducible apply keeps_fetchRest
    | with_reducible apply keeps_bufWrite
    | with_reducible apply keeps_setFree
    | with_reducible apply KeepsI.map
    | split
    | intro _

theorem keeps_poke {σ : State} (s : State) (p : Nat) (va : Nat) (bs : List Byte) (h_s : Keeps σ s) : Keeps σ (State.poke s p va bs) := by
  unfold State.poke
  try dsimp only
  all_goals repeat' first
    | with_reducible assumption
    | with_reducible apply keeps_bufXlate
    | with_reducible apply keeps_writePieces
    | split
    | refine Keeps.of_snd (by assumption) ?_

theorem keeps_writeHeader {σ : State} (s : State) (b : Batch) (h_s : Keeps σ s) : Keeps σ (State.writeHeader s b) := by
  unfold State.writeHeader
  try dsimp only
  all_goals repeat' first
    | with_reducible assumption
    | with_reducible apply keeps_each
    | with_reducible apply keeps_poke
    | with_reducible apply keeps_modBatch
    | with_reducible apply KeepsI.map
    | split
    | intro _

theorem keeps_finishBatch {σ : State} (s : State) (b : Batch) (h_s : Keeps σ s) : Keeps σ (State.finishBatch s b) := by
  unfold State.finishBatch
  try dsimp only
  all_goals repeat' first
    | with_reducible assumption
    | with_reducible apply keeps_writeHeader
    | with_reducible apply keeps_searchEnd
    | with_reducible apply keeps_dropBatch
    | with_reducible apply keeps_signalDone
    | split

theorem keeps_searchGo {σ : State} (s : State) (j : Job) (ix : IndexSt) (snap : Nat) (qb : List Byte) (fb : List Byte) (sv : Nat) (n : Nat) (h_s : Keeps σ s) : Keeps σ (State.searchGo s j ix snap qb fb sv n) := by
  unfold State.searchGo
  try dsimp only
  all_goals repeat' first
    | with_reducible assumption
    | with_reducible apply keeps_foldl
    | with_reducible apply keeps_foldl_snd
    | with_reducible apply keeps_foldl_fst
    | with_reducible apply keeps_modSearch
    | with_reducible apply keeps_modJob
    | with_reducible apply KeepsI.map
    | with_reducible apply KeepsI.getD
    | split
    | intro _

theorem keeps_searchStart {σ : State} (s : State) (j : Job) (h_s : Keeps σ s) : Keeps σ (State.searchStart s j) := by
  unfold State.searchStart
  try dsimp only
  all_goals repeat' first
    | with_reducible assumption
    | with_reducible apply KeepsI.bind
    | with_reducible apply keeps_endJob
    | with_reducible apply keeps_bufRead
    | with_reducible apply keeps_bufReadAs
    | with_reducible apply keeps_bufMapAs
    | with_reducible apply keeps_writePieces
    | with_reducible apply keeps_setFree
    | with_reducible apply keeps_searchGo
    | with_reducible apply KeepsI.map
    | split
    | intro _
    | refine Keeps.of_snd (by assumption) ?_

theorem keeps_execSearchJob {σ : State} (job : BitVec 32) (s : State) (h_s : Keeps σ s) : KeepsO σ (execSearchJob job s) := by
  unfold execSearchJob
  try dsimp only
  all_goals repeat' first
    | with_reducible assumption
    | with_reducible apply keeps_flashJob
    | with_reducible apply keeps_searchStart
    | with_reducible apply keeps_finishBatch
    | with_reducible apply KeepsO.next
    | split
    | intro _

theorem keeps_execCreateIx {σ : State} (job : BitVec 32) (s : State) (h_s : Keeps σ s) : KeepsO σ (execCreateIx job s) := by
  unfold execCreateIx
  try dsimp only
  all_goals repeat' first
    | with_reducible assumption
    | with_reducible apply keeps_flashJob
    | with_reducible apply keeps_endJob
    | with_reducible apply keeps_bufRead
    | with_reducible apply keeps_bufReadAs
    | with_reducible apply keeps_modSearch
    | with_reducible apply keeps_journal
    | with_reducible apply KeepsI.map
    | with_reducible apply KeepsO.next
    | split
    | intro _
    | refine Keeps.of_snd (by assumption) ?_

theorem keeps_execOpenIx {σ : State} (job : BitVec 32) (s : State) (h_s : Keeps σ s) : KeepsO σ (execOpenIx job s) := by
  unfold execOpenIx
  try dsimp only
  all_goals repeat' first
    | with_reducible assumption
    | with_reducible apply keeps_flashJob
    | with_reducible apply keeps_endJob
    | with_reducible apply keeps_bufWrite
    | with_reducible apply keeps_setFree
    | with_reducible apply keeps_modIndex
    | with_reducible apply KeepsI.map
    | with_reducible apply KeepsO.next
    | split
    | intro _

theorem keeps_execMergeIx {σ : State} (job : BitVec 32) (s : State) (h_s : Keeps σ s) : KeepsO σ (execMergeIx job s) := by
  unfold execMergeIx
  try dsimp only
  all_goals repeat' first
    | with_reducible assumption
    | with_reducible apply keeps_flashJob
    | with_reducible apply keeps_endJob
    | with_reducible apply keeps_modIndex
    | with_reducible apply keeps_modJob
    | with_reducible apply KeepsI.map
    | with_reducible apply KeepsO.next
    | split
    | intro _

theorem keeps_placePages {σ : State} (s : State) (nsid : Nat) (ch : Nat) (pages : List (List Byte)) (bad : List Nat) (h_s : Keeps σ s) : KeepsP σ (State.placePages s nsid ch pages bad) := by
  unfold State.placePages
  cases s.freeLbas nsid (4 * pages.length) with
  | none => exact KeepsP.none
  | some lba =>
    intro x hx
    obtain ⟨s1, h1, rfl⟩ := Option.map_eq_some_iff.mp hx
    exact keeps_placeUnits nsid lba ch _ _ bad s h_s s1 h1

theorem keeps_placeVersion {σ : State} (s : State) (ix : IndexSt) (list : Nat) (v : Version) (bad : List Nat) (h_s : Keeps σ s) : Keeps σ (State.placeVersion s ix list v bad).2 := by
  unfold State.placeVersion
  try dsimp only
  all_goals repeat' first
    | with_reducible assumption
    | with_reducible apply keeps_foldl
    | with_reducible apply keeps_foldl_snd
    | with_reducible apply keeps_foldl_fst
    | with_reducible apply keeps_freeVersion
    | with_reducible apply keeps_placePages
    | with_reducible apply keeps_freeExtent
    | split
    | intro _
    | refine Keeps.of_pair (by assumption) ?_

theorem keeps_placeAll {σ : State} (s : State) (ix : IndexSt) (p : Nat) (bad : List Nat) (h_s : Keeps σ s) : Keeps σ (State.placeAll s ix p bad).2 := by
  unfold State.placeAll
  try dsimp only
  all_goals repeat' first
    | with_reducible assumption
    | with_reducible apply keeps_foldl
    | with_reducible apply keeps_foldl_snd
    | with_reducible apply keeps_foldl_fst
    | with_reducible apply keeps_placeVersion
    | with_reducible apply keeps_each
    | with_reducible apply keeps_freeVersion
    | split
    | intro _
    | refine Keeps.of_snd (by assumption) ?_

theorem keeps_execMergePublish {σ : State} (job : BitVec 32) (bad : List (BitVec 21)) (s : State) (h_s : Keeps σ s) : KeepsO σ (execMergePublish job bad s) := by
  unfold execMergePublish
  try dsimp only
  all_goals repeat' first
    | with_reducible assumption
    | with_reducible apply keeps_flashJob
    | with_reducible apply keeps_modIndex
    | with_reducible apply keeps_endJob
    | with_reducible apply keeps_atPoint
    | with_reducible apply keeps_placeAll
    | with_reducible apply keeps_moveRetired
    | with_reducible apply keeps_charge
    | with_reducible apply keeps_journal
    | with_reducible apply keeps_log
    | with_reducible apply keeps_mirror
    | with_reducible apply keeps_retain
    | with_reducible apply KeepsI.map
    | with_reducible apply KeepsI.getD
    | with_reducible apply KeepsI.some
    | with_reducible apply KeepsI.none
    | with_reducible apply KeepsO.next
    | split
    | intro _
    | refine Keeps.of_snd (by assumption) ?_

theorem keeps_execDropIx {σ : State} (job : BitVec 32) (s : State) (h_s : Keeps σ s) : KeepsO σ (execDropIx job s) := by
  unfold execDropIx
  try dsimp only
  all_goals repeat' first
    | with_reducible assumption
    | with_reducible apply keeps_flashJob
    | with_reducible apply keeps_endJob
    | with_reducible apply keeps_modIndex
    | with_reducible apply keeps_modJob
    | with_reducible apply keeps_dropCheck
    | with_reducible apply KeepsO.next
    | split
    | intro _

theorem keeps_execStatIx {σ : State} (job : BitVec 32) (s : State) (h_s : Keeps σ s) : KeepsO σ (execStatIx job s) := by
  unfold execStatIx
  try dsimp only
  all_goals repeat' first
    | with_reducible assumption
    | with_reducible apply keeps_flashJob
    | with_reducible apply keeps_endJob
    | with_reducible apply keeps_bufWrite
    | with_reducible apply KeepsO.next
    | split
    | intro _

theorem keeps_execIngestBind {σ : State} (job : BitVec 32) (s : State) (h_s : Keeps σ s) : KeepsO σ (execIngestBind job s) := by
  unfold execIngestBind
  try dsimp only
  all_goals repeat' first
    | with_reducible assumption
    | with_reducible apply keeps_endJob
    | with_reducible apply keeps_bufMap
    | with_reducible apply keeps_paWrite
    | with_reducible apply keeps_modIngest
    | with_reducible apply keeps_meetLevels
    | with_reducible apply KeepsI.map
    | with_reducible apply KeepsI.getD
    | with_reducible apply KeepsI.some
    | with_reducible apply KeepsI.none
    | with_reducible apply KeepsO.next
    | split
    | intro _
    | refine Keeps.of_snd (by assumption) ?_

theorem keeps_execUnbind {σ : State} (job : BitVec 32) (s : State) (h_s : Keeps σ s) : KeepsO σ (execUnbind job s) := by
  unfold execUnbind
  try dsimp only
  all_goals repeat' first
    | with_reducible assumption
    | with_reducible apply keeps_modIngest
    | with_reducible apply keeps_meetLevels
    | with_reducible apply keeps_endJob
    | with_reducible apply KeepsI.map
    | with_reducible apply KeepsO.next
    | split
    | intro _

theorem keeps_stagePiece {σ : State} (s : State) (src : Src) (off : Nat) (bs : List Byte) (h_s : Keeps σ s) : Keeps σ (State.stagePiece s src off bs).2 := by
  unfold State.stagePiece
  try dsimp only
  all_goals repeat' first
    | with_reducible assumption
    | with_reducible apply keeps_modMgt
    | with_reducible apply keeps_foldl
    | with_reducible apply keeps_foldl_snd
    | with_reducible apply keeps_foldl_fst
    | with_reducible apply keeps_log
    | with_reducible apply KeepsI.map
    | (intro _; rfl)
    | exact setSlot_secverMin _ _ _
    | split
    | intro _

theorem keeps_nameSlot {σ : State} (s : State) (slot : Nat) (h_s : Keeps σ s) : Keeps σ (State.nameSlot s slot) := by
  unfold State.nameSlot
  try dsimp only
  all_goals repeat' first
    | with_reducible assumption
    | with_reducible apply keeps_modMgt
    | (intro _; rfl)
    | intro _

theorem keeps_fwLog {σ : State} (s : State) (src : Src) (slot : Nat) (action : Nat) (e : FwEnd) (h_s : Keeps σ s) : Keeps σ (State.fwLog s src slot action e) := by
  unfold State.fwLog
  try dsimp only
  all_goals repeat' first
    | with_reducible assumption
    | with_reducible apply keeps_log

theorem keeps_fwActivate {σ : State} (s : State) (slot : Nat) (action : Nat) (h_s : Keeps σ s) : Keeps σ (State.fwActivate s slot action).2 := by
  unfold State.fwActivate
  try dsimp only
  all_goals repeat' first
    | with_reducible assumption
    | with_reducible apply keeps_nameSlot
    | split

theorem keeps_fwSteps {σ : State} (s : State) (src : Src) (job : Nat) (slot : Nat) (action : Nat) (h_s : Keeps σ s) : Keeps σ (State.fwSteps s src job slot action).2 := by
  unfold State.fwSteps
  try dsimp only
  all_goals repeat' first
    | with_reducible assumption
    | with_reducible apply keeps_fwActivate
    | with_reducible apply keeps_foldl
    | with_reducible apply keeps_foldl_snd
    | with_reducible apply keeps_foldl_fst
    | with_reducible apply keeps_modMgt
    | with_reducible apply KeepsI.map
    | (intro _; rfl)
    | exact setSlot_secverMin _ _ _
    | split
    | intro _

theorem keeps_fwCommitOp {σ : State} (s : State) (src : Src) (job : Nat) (slot : Nat) (action : Nat) (h_s : Keeps σ s) : Keeps σ (State.fwCommitOp s src job slot action).2 := by
  unfold State.fwCommitOp
  try dsimp only
  all_goals repeat' first
    | with_reducible assumption
    | with_reducible apply keeps_fwSteps
    | with_reducible apply keeps_fwLog
    | split
    | refine Keeps.of_snd (by assumption) ?_

theorem keeps_fwWritten {σ : State} (s : State) (l : LongFw) (ok : Bool) (h_s : Keeps σ s) : Keeps σ (State.fwWritten s l ok).2 := by
  unfold State.fwWritten
  try dsimp only
  all_goals repeat' first
    | with_reducible assumption
    | with_reducible apply keeps_modMgt
    | with_reducible apply keeps_fwActivate
    | with_reducible apply keeps_fwLog
    | (intro _; rfl)
    | exact setSlot_secverMin _ _ _
    | split
    | intro _

theorem keeps_makeKey {σ : State} (s : State) (nsid : Nat) (h_s : Keeps σ s) : Keeps σ (State.makeKey s nsid).2 := by
  unfold State.makeKey
  try dsimp only
  all_goals repeat' first
    | with_reducible assumption
    | with_reducible apply keeps_modMgt
    | (intro _; rfl)
    | exact (by dsimp only; exact keySlots_secverMin _ _)
    | split
    | intro _

theorem keeps_killKey {σ : State} (s : State) (nsid : Nat) (h_s : Keeps σ s) : Keeps σ (State.killKey s nsid) := by
  unfold State.killKey
  try dsimp only
  all_goals repeat' first
    | with_reducible assumption
    | with_reducible apply keeps_modMgt
    | (intro _; rfl)
    | intro _

theorem keeps_releaseNs {σ : State} (s : State) (nsid : Nat) (h_s : Keeps σ s) : Keeps σ (State.releaseNs s nsid) := by
  unfold State.releaseNs
  try dsimp only
  all_goals repeat' first
    | with_reducible assumption
    | with_reducible apply keeps_each
    | with_reducible apply keeps_stopJob
    | with_reducible apply keeps_dropBatch
    | with_reducible apply keeps_freeIndex
    | with_reducible apply keeps_modIngest
    | with_reducible apply KeepsI.map
    | split
    | intro _

theorem keeps_eraseNs {σ : State} (s : State) (src : Src) (nsid : Nat) (h_s : Keeps σ s) : Keeps σ (State.eraseNs s src nsid) := by
  unfold State.eraseNs
  try dsimp only
  all_goals repeat' first
    | with_reducible assumption
    | with_reducible apply keeps_releaseNs
    | with_reducible apply keeps_makeKey
    | with_reducible apply keeps_killKey
    | with_reducible apply keeps_modMgt
    | with_reducible apply keeps_unmapAll
    | with_reducible apply keeps_log
    | (intro _; rfl)
    | split
    | intro _

theorem keeps_nvPush {σ : State} (a0 : List (Nat × Nat)) (a1 : List Byte) (a2 : State) (h_a2 : Keeps σ a2) : Keeps σ (nvPush a0 a1 a2) := by
  induction a0 generalizing a1 a2 with
  | nil =>
    unfold nvPush
    try dsimp only
    all_goals repeat' first
      | with_reducible assumption
      | with_reducible apply ih
      | with_reducible apply keeps_paWrite
      | split
  | cons x xs ih =>
    unfold nvPush
    try dsimp only
    all_goals repeat' first
      | with_reducible assumption
      | with_reducible apply ih
      | with_reducible apply keeps_paWrite
      | split

theorem keeps_nvEnd {σ : State} (s : State) (o : NvmeOut) (status : Nat) (dw0 : Nat) (h_s : Keeps σ s) : Keeps σ (State.nvEnd s o status dw0) := by
  unfold State.nvEnd
  try dsimp only
  all_goals repeat' first
    | with_reducible assumption
    | with_reducible apply keeps_modNvme
    | with_reducible apply keeps_nvComplete
    | intro _

theorem keeps_nvDoRead {σ : State} (s : State) (o : NvmeOut) (h_s : Keeps σ s) : Keeps σ (State.nvDoRead s o) := by
  unfold State.nvDoRead
  try dsimp only
  all_goals repeat' first
    | with_reducible assumption
    | with_reducible apply keeps_nvEnd
    | with_reducible apply keeps_nsRead
    | with_reducible apply keeps_nvPush
    | with_reducible apply keeps_charge
    | with_reducible apply keeps_modNvme
    | split
    | intro _
    | refine Keeps.of_snd (by assumption) ?_

theorem keeps_nvDoWrite {σ : State} (s : State) (o : NvmeOut) (h_s : Keeps σ s) : Keeps σ (State.nvDoWrite s o) := by
  unfold State.nvDoWrite
  try dsimp only
  all_goals repeat' first
    | with_reducible assumption
    | with_reducible apply keeps_nvEnd
    | with_reducible apply keeps_modNvme
    | with_reducible apply keeps_charge
    | with_reducible apply keeps_each
    | with_reducible apply keeps_gatherPiece
    | with_reducible apply KeepsI.map
    | split
    | intro _

theorem keeps_nvDoDsm {σ : State} (s : State) (o : NvmeOut) (h_s : Keeps σ s) : Keeps σ (State.nvDoDsm s o) := by
  unfold State.nvDoDsm
  try dsimp only
  all_goals repeat' first
    | with_reducible assumption
    | with_reducible apply keeps_nvEnd
    | with_reducible apply keeps_each
    | with_reducible apply keeps_discardRange
    | with_reducible apply KeepsI.map
    | with_reducible apply KeepsI.getD
    | with_reducible apply KeepsI.some
    | with_reducible apply KeepsI.none
    | split
    | intro _

theorem keeps_nvDoFormat {σ : State} (s : State) (o : NvmeOut) (h_s : Keeps σ s) : Keeps σ (State.nvDoFormat s o) := by
  unfold State.nvDoFormat
  try dsimp only
  all_goals repeat' first
    | with_reducible assumption
    | with_reducible apply keeps_each
    | with_reducible apply keeps_unmapAll
    | with_reducible apply keeps_eraseNs
    | with_reducible apply keeps_nvEnd
    | with_reducible apply KeepsI.map
    | split
    | intro _

theorem keeps_nvStart {σ : State} (s : State) (o : NvmeOut) (h_s : Keeps σ s) : Keeps σ (State.nvStart s o) := by
  unfold State.nvStart
  try dsimp only
  all_goals repeat' first
    | with_reducible assumption
    | with_reducible apply keeps_nvDoFormat
    | with_reducible apply keeps_nvDoRead
    | with_reducible apply keeps_nvDoWrite
    | with_reducible apply keeps_nvEnd
    | with_reducible apply keeps_unmapRange
    | with_reducible apply keeps_nvDoDsm
    | split

theorem keeps_nvNote {σ : State} (s : State) (h_s : Keeps σ s) : Keeps σ (State.nvNote s) := by
  unfold State.nvNote
  try dsimp only
  all_goals repeat' first
    | with_reducible assumption
    | with_reducible apply keeps_each
    | with_reducible apply keeps_holdRequest
    | split
    | intro _

theorem keeps_nvBegin {σ : State} (s : State) (o : NvmeOut) (h_s : Keeps σ s) : Keeps σ (State.nvBegin s o) := by
  unfold State.nvBegin
  try dsimp only
  all_goals repeat' first
    | with_reducible assumption
    | with_reducible apply keeps_unheld
    | with_reducible apply keeps_nvStart
    | split

theorem keeps_nvPump {σ : State} (a0 : Nat) (a1 : State) (h_a1 : Keeps σ a1) : Keeps σ (nvPump a0 a1) := by
  induction a0 generalizing a1 with
  | zero =>
    unfold nvPump
    try dsimp only
    all_goals repeat' first
      | with_reducible assumption
      | with_reducible apply ih
      | with_reducible apply keeps_nvBegin
      | split
      | intro _
  | succ n ih =>
    unfold nvPump
    try dsimp only
    all_goals repeat' first
      | with_reducible assumption
      | with_reducible apply ih
      | with_reducible apply keeps_nvBegin
      | split
      | intro _

theorem keeps_nvGo {σ : State} (s : State) (h_s : Keeps σ s) : Keeps σ (State.nvGo s) := by
  unfold State.nvGo
  try dsimp only
  all_goals repeat' first
    | with_reducible assumption
    | with_reducible apply keeps_nvPump
    | with_reducible apply keeps_nvNote

theorem keeps_nvFetch {σ : State} (s : State) (q : Nat) (h_s : Keeps σ s) : Keeps σ (State.nvFetch s q).2 := by
  unfold State.nvFetch
  try dsimp only
  all_goals repeat' first
    | with_reducible assumption
    | with_reducible apply keeps_modNvme
    | split
    | intro _

theorem keeps_nvIo {σ : State} (s : State) (q : BitVec 16) (c : NvmeCmd) (op : BitVec 8) (h_s : Keeps σ s) : Keeps σ (State.nvIo s q c op) := by
  unfold State.nvIo
  try dsimp only
  all_goals repeat' first
    | with_reducible assumption
    | with_reducible apply keeps_nvFetch
    | with_reducible apply keeps_nvComplete
    | with_reducible apply keeps_modNvme
    | with_reducible apply keeps_flashWake
    | with_reducible apply keeps_nvGo
    | split
    | intro _
    | refine Keeps.of_snd (by assumption) ?_

theorem keeps_execNvmeWrite {σ : State} (q : BitVec 16) (cmd : NvmeCmd) (s : State) (h_s : Keeps σ s) : KeepsO σ (execNvmeWrite q cmd s) := by
  unfold execNvmeWrite
  try dsimp only
  all_goals repeat' first
    | with_reducible assumption
    | with_reducible apply keeps_nvIo
    | with_reducible apply KeepsO.next
    | intro _

theorem keeps_execNvmeRead {σ : State} (q : BitVec 16) (cmd : NvmeCmd) (s : State) (h_s : Keeps σ s) : KeepsO σ (execNvmeRead q cmd s) := by
  unfold execNvmeRead
  try dsimp only
  all_goals repeat' first
    | with_reducible assumption
    | with_reducible apply keeps_nvIo
    | with_reducible apply KeepsO.next
    | intro _

theorem keeps_execNvmeFlush {σ : State} (q : BitVec 16) (cmd : NvmeCmd) (s : State) (h_s : Keeps σ s) : KeepsO σ (execNvmeFlush q cmd s) := by
  unfold execNvmeFlush
  try dsimp only
  all_goals repeat' first
    | with_reducible assumption
    | with_reducible apply keeps_nvIo
    | with_reducible apply KeepsO.next
    | intro _

theorem keeps_execWriteZeroes {σ : State} (q : BitVec 16) (cmd : NvmeCmd) (s : State) (h_s : Keeps σ s) : KeepsO σ (execWriteZeroes q cmd s) := by
  unfold execWriteZeroes
  try dsimp only
  all_goals repeat' first
    | with_reducible assumption
    | with_reducible apply keeps_nvIo
    | with_reducible apply KeepsO.next
    | intro _

theorem keeps_execDatasetManagement {σ : State} (q : BitVec 16) (cmd : NvmeCmd) (s : State) (h_s : Keeps σ s) : KeepsO σ (execDatasetManagement q cmd s) := by
  unfold execDatasetManagement
  try dsimp only
  all_goals repeat' first
    | with_reducible assumption
    | with_reducible apply keeps_nvIo
    | with_reducible apply KeepsO.next
    | intro _

theorem keeps_execOrderedWrite {σ : State} (q : BitVec 16) (cmd : NvmeCmd) (s : State) (h_s : Keeps σ s) : KeepsO σ (execOrderedWrite q cmd s) := by
  unfold execOrderedWrite
  try dsimp only
  all_goals repeat' first
    | with_reducible assumption
    | with_reducible apply keeps_nvIo
    | with_reducible apply KeepsO.next
    | intro _

theorem keeps_execOrderedRead {σ : State} (q : BitVec 16) (cmd : NvmeCmd) (s : State) (h_s : Keeps σ s) : KeepsO σ (execOrderedRead q cmd s) := by
  unfold execOrderedRead
  try dsimp only
  all_goals repeat' first
    | with_reducible assumption
    | with_reducible apply keeps_nvIo
    | with_reducible apply KeepsO.next
    | intro _

theorem keeps_nvUnits {σ : State} (s : State) (order : Nat) (n : Nat) (h_s : Keeps σ s) : Keeps σ (State.nvUnits s order n) := by
  unfold State.nvUnits
  try dsimp only
  all_goals repeat' first
    | with_reducible assumption
    | with_reducible apply keeps_nvEnd
    | with_reducible apply keeps_modNvme
    | with_reducible apply KeepsI.map
    | split
    | intro _

theorem keeps_nvWriteFailed {σ : State} (s : State) (order : Nat) (h_s : Keeps σ s) : Keeps σ (State.nvWriteFailed s order) := by
  unfold State.nvWriteFailed
  try dsimp only
  all_goals repeat' first
    | with_reducible assumption
    | with_reducible apply keeps_nvEnd
    | split
    | intro _

theorem keeps_execNandProgramComplete {σ : State} (ch : Fin 64) (ok : Bool) (s : State) (h_s : Keeps σ s) : KeepsO σ (execNandProgramComplete ch ok s) := by
  unfold execNandProgramComplete
  try dsimp only
  all_goals repeat' first
    | with_reducible assumption
    | with_reducible apply keeps_progDone
    | with_reducible apply keeps_each
    | with_reducible apply keeps_nvUnits
    | with_reducible apply keeps_nvGo
    | with_reducible apply keeps_startProg
    | with_reducible apply keeps_progFailed
    | with_reducible apply keeps_nvWriteFailed
    | with_reducible apply KeepsO.next
    | split
    | intro _
    | refine Keeps.of_snd (by assumption) ?_

theorem keeps_nvAdmin {σ : State} (s : State) (c : NvmeCmd) (op : BitVec 8) (run : Nat → State → Option (Nat × Nat) × State) (h_s : Keeps σ s) (h_run : ∀ x0 x1, Keeps σ x1 → Keeps σ (run x0 x1).2) : Keeps σ (State.nvAdmin s c op run) := by
  unfold State.nvAdmin
  try dsimp only
  all_goals repeat' first
    | with_reducible assumption
    | with_reducible apply keeps_nvFetch
    | with_reducible apply keeps_nvComplete
    | with_reducible apply h_run
    | split
    | intro _
    | refine Keeps.of_snd (by assumption) ?_

theorem keeps_execCreateIoCq {σ : State} (cmd : NvmeCmd) (s : State) (h_s : Keeps σ s) : KeepsO σ (execCreateIoCq cmd s) := by
  unfold execCreateIoCq
  try dsimp only
  all_goals repeat' first
    | with_reducible assumption
    | with_reducible apply keeps_nvAdmin
    | with_reducible apply keeps_modNvme
    | with_reducible apply KeepsO.next
    | split
    | intro _

theorem keeps_execCreateIoSq {σ : State} (cmd : NvmeCmd) (s : State) (h_s : Keeps σ s) : KeepsO σ (execCreateIoSq cmd s) := by
  unfold execCreateIoSq
  try dsimp only
  all_goals repeat' first
    | with_reducible assumption
    | with_reducible apply keeps_nvAdmin
    | with_reducible apply keeps_modNvme
    | with_reducible apply KeepsO.next
    | split
    | intro _

theorem keeps_execDeleteIoSq {σ : State} (cmd : NvmeCmd) (s : State) (h_s : Keeps σ s) : KeepsO σ (execDeleteIoSq cmd s) := by
  unfold execDeleteIoSq
  try dsimp only
  all_goals repeat' first
    | with_reducible assumption
    | with_reducible apply keeps_nvAdmin
    | with_reducible apply keeps_each
    | with_reducible apply keeps_nvEnd
    | with_reducible apply keeps_modNvme
    | with_reducible apply keeps_nvGo
    | with_reducible apply KeepsO.next
    | split
    | intro _

theorem keeps_execDeleteIoCq {σ : State} (cmd : NvmeCmd) (s : State) (h_s : Keeps σ s) : KeepsO σ (execDeleteIoCq cmd s) := by
  unfold execDeleteIoCq
  try dsimp only
  all_goals repeat' first
    | with_reducible assumption
    | with_reducible apply keeps_nvAdmin
    | with_reducible apply keeps_modNvme
    | with_reducible apply KeepsO.next
    | split
    | intro _

theorem keeps_nvSend {σ : State} (s : State) (c : NvmeCmd) (bs : List Byte) (h_s : Keeps σ s) : Keeps σ (State.nvSend s c bs).2 := by
  unfold State.nvSend
  try dsimp only
  all_goals repeat' first
    | with_reducible assumption
    | with_reducible apply keeps_nvPush
    | split

theorem keeps_execIdentify {σ : State} (cmd : NvmeCmd) (s : State) (h_s : Keeps σ s) : KeepsO σ (execIdentify cmd s) := by
  unfold execIdentify
  try dsimp only
  all_goals repeat' first
    | with_reducible assumption
    | with_reducible apply keeps_nvAdmin
    | with_reducible apply keeps_nvSend
    | with_reducible apply keeps_setFree
    | with_reducible apply KeepsI.map
    | with_reducible apply KeepsO.next
    | split
    | intro _
    | refine Keeps.of_snd (by assumption) ?_

theorem keeps_execNvmeAbort {σ : State} (cmd : NvmeCmd) (s : State) (h_s : Keeps σ s) : KeepsO σ (execNvmeAbort cmd s) := by
  unfold execNvmeAbort
  try dsimp only
  all_goals repeat' first
    | with_reducible assumption
    | with_reducible apply keeps_nvAdmin
    | with_reducible apply keeps_nvEnd
    | with_reducible apply keeps_nvGo
    | with_reducible apply KeepsO.next
    | split
    | intro _

theorem keeps_setFeature {σ : State} (s : State) (c : NvmeCmd) (h_s : Keeps σ s) : Keeps σ (State.setFeature s c).2 := by
  unfold State.setFeature
  try dsimp only
  all_goals repeat' first
    | with_reducible assumption
    | with_reducible apply keeps_modNvme
    | with_reducible apply keeps_checkWarn
    | with_reducible apply keeps_setTimestamp
    | split
    | intro _

theorem keeps_execSetFeatures {σ : State} (cmd : NvmeCmd) (s : State) (h_s : Keeps σ s) : KeepsO σ (execSetFeatures cmd s) := by
  unfold execSetFeatures
  try dsimp only
  all_goals repeat' first
    | with_reducible assumption
    | with_reducible apply keeps_nvAdmin
    | with_reducible apply keeps_setFeature
    | with_reducible apply KeepsO.next
    | intro _

theorem keeps_execGetFeatures {σ : State} (cmd : NvmeCmd) (s : State) (h_s : Keeps σ s) : KeepsO σ (execGetFeatures cmd s) := by
  unfold execGetFeatures
  try dsimp only
  all_goals repeat' first
    | with_reducible assumption
    | with_reducible apply keeps_nvAdmin
    | with_reducible apply keeps_nvSend
    | with_reducible apply KeepsO.next
    | split
    | intro _
    | refine Keeps.of_snd (by assumption) ?_

theorem keeps_pageRead {σ : State} (s : State) (lid : Nat) (h_s : Keeps σ s) : Keeps σ (State.pageRead s lid) := by
  unfold State.pageRead
  try dsimp only
  all_goals repeat' first
    | with_reducible assumption
    | with_reducible apply keeps_modNvme
    | with_reducible apply keeps_postEvents
    | split
    | intro _

theorem keeps_execGetLogPage {σ : State} (cmd : NvmeCmd) (s : State) (h_s : Keeps σ s) : KeepsO σ (execGetLogPage cmd s) := by
  unfold execGetLogPage
  try dsimp only
  all_goals repeat' first
    | with_reducible assumption
    | with_reducible apply keeps_nvAdmin
    | with_reducible apply keeps_nvSend
    | with_reducible apply keeps_setFree
    | with_reducible apply keeps_pageRead
    | with_reducible apply KeepsO.next
    | split
    | intro _
    | refine Keeps.of_snd (by assumption) ?_

theorem keeps_execAsyncEventRequest {σ : State} (cmd : NvmeCmd) (s : State) (h_s : Keeps σ s) : KeepsO σ (execAsyncEventRequest cmd s) := by
  unfold execAsyncEventRequest
  try dsimp only
  all_goals repeat' first
    | with_reducible assumption
    | with_reducible apply keeps_nvAdmin
    | with_reducible apply keeps_modNvme
    | with_reducible apply keeps_postEvents
    | with_reducible apply KeepsO.next
    | split
    | intro _

theorem keeps_execFirmwareImageDownload {σ : State} (cmd : NvmeCmd) (s : State) (h_s : Keeps σ s) : KeepsO σ (execFirmwareImageDownload cmd s) := by
  unfold execFirmwareImageDownload
  try dsimp only
  all_goals repeat' first
    | with_reducible assumption
    | with_reducible apply keeps_nvAdmin
    | with_reducible apply keeps_stagePiece
    | with_reducible apply KeepsO.next
    | split
    | intro _
    | refine Keeps.of_snd (by assumption) ?_

theorem keeps_fwEvent {σ : State} (s : State) (e : FwEnd) (slot : Nat) (action : Nat) (h_s : Keeps σ s) : Keeps σ (State.fwEvent s e slot action) := by
  unfold State.fwEvent
  try dsimp only
  all_goals repeat' first
    | with_reducible assumption
    | with_reducible apply keeps_nvEvent
    | split

theorem keeps_execFirmwareCommit {σ : State} (cmd : NvmeCmd) (s : State) (h_s : Keeps σ s) : KeepsO σ (execFirmwareCommit cmd s) := by
  unfold execFirmwareCommit
  try dsimp only
  all_goals repeat' first
    | with_reducible assumption
    | with_reducible apply keeps_nvAdmin
    | with_reducible apply keeps_fwCommitOp
    | with_reducible apply keeps_fwEvent
    | with_reducible apply keeps_modNvme
    | with_reducible apply KeepsO.next
    | split
    | intro _
    | refine Keeps.of_snd (by assumption) ?_

theorem keeps_execFormatNvm {σ : State} (cmd : NvmeCmd) (s : State) (h_s : Keeps σ s) : KeepsO σ (execFormatNvm cmd s) := by
  unfold execFormatNvm
  try dsimp only
  all_goals repeat' first
    | with_reducible assumption
    | with_reducible apply keeps_nvAdmin
    | with_reducible apply keeps_modNvme
    | with_reducible apply keeps_nvGo
    | with_reducible apply KeepsO.next
    | split
    | intro _

theorem keeps_nvReset {σ : State} (s : State) (h_s : Keeps σ s) : Keeps σ (State.nvReset s) := by
  unfold State.nvReset
  try dsimp only
  all_goals repeat' first
    | with_reducible assumption
    | with_reducible apply keeps_modNvme
    | intro _

theorem keeps_nvReadyCheck {σ : State} (s : State) (h_s : Keeps σ s) : Keeps σ (State.nvReadyCheck s) := by
  unfold State.nvReadyCheck
  try dsimp only
  all_goals repeat' first
    | with_reducible assumption
    | with_reducible apply keeps_modNvme
    | split
    | intro _

theorem keeps_ccWrite {σ : State} (s : State) (cc : BitVec 32) (h_s : Keeps σ s) : Keeps σ (State.ccWrite s cc) := by
  unfold State.ccWrite
  try dsimp only
  all_goals repeat' first
    | with_reducible assumption
    | with_reducible apply keeps_modNvme
    | with_reducible apply keeps_nvReadyCheck
    | with_reducible apply keeps_nvReset
    | split
    | intro _

theorem keeps_shnWrite {σ : State} (s : State) (cc : BitVec 32) (h_s : Keeps σ s) : Keeps σ (State.shnWrite s cc) := by
  unfold State.shnWrite
  try dsimp only
  all_goals repeat' first
    | with_reducible assumption
    | with_reducible apply keeps_each
    | with_reducible apply keeps_flushJournal
    | with_reducible apply keeps_modNvme
    | split
    | intro _

theorem keeps_execControllerEnable {σ : State} (cc : BitVec 32) (s : State) (h_s : Keeps σ s) : KeepsO σ (execControllerEnable cc s) := by
  unfold execControllerEnable
  try dsimp only
  all_goals repeat' first
    | with_reducible assumption
    | with_reducible apply keeps_ccWrite
    | with_reducible apply keeps_shnWrite
    | with_reducible apply KeepsO.next
    | split
    | intro _

theorem keeps_execShutdown {σ : State} (cc : BitVec 32) (s : State) (h_s : Keeps σ s) : KeepsO σ (execShutdown cc s) := by
  unfold execShutdown
  try dsimp only
  all_goals repeat' first
    | with_reducible assumption
    | with_reducible apply keeps_ccWrite
    | with_reducible apply keeps_shnWrite
    | with_reducible apply KeepsO.next
    | split
    | intro _

theorem keeps_execPowerStateTransitionDone {σ : State} (s : State) (h_s : Keeps σ s) : KeepsO σ (execPowerStateTransitionDone s) := by
  unfold execPowerStateTransitionDone
  try dsimp only
  all_goals repeat' first
    | with_reducible assumption
    | with_reducible apply keeps_each
    | with_reducible apply keeps_flushJournal
    | with_reducible apply keeps_modNvme
    | with_reducible apply keeps_nvGo
    | with_reducible apply KeepsO.next
    | split
    | intro _

theorem keeps_flr0 {σ : State} (s : State) (h_s : Keeps σ s) : Keeps σ (State.flr0 s) := by
  unfold State.flr0
  try dsimp only
  all_goals repeat' first
    | with_reducible assumption
    | with_reducible apply keeps_modNvme
    | with_reducible apply keeps_nvReset
    | intro _

theorem keeps_execFlrPf0 {σ : State} (s : State) (h_s : Keeps σ s) : KeepsO σ (execFlrPf0 s) := by
  unfold execFlrPf0
  try dsimp only
  all_goals repeat' first
    | with_reducible assumption
    | with_reducible apply keeps_flr0
    | with_reducible apply KeepsO.next
    | split
    | intro _

theorem keeps_flr1 {σ : State} (s : State) (h_s : Keeps σ s) : Keeps σ (State.flr1 s) := by
  unfold State.flr1
  try dsimp only
  all_goals repeat' first
    | with_reducible assumption
    | with_reducible apply keeps_each
    | with_reducible apply keeps_endSession
    | with_reducible apply keeps_stopJob
    | with_reducible apply keeps_modHost
    | with_reducible apply keeps_log
    | with_reducible apply KeepsI.map
    | intro _

theorem keeps_execFlrPf1 {σ : State} (s : State) (h_s : Keeps σ s) : KeepsO σ (execFlrPf1 s) := by
  unfold execFlrPf1
  try dsimp only
  all_goals repeat' first
    | with_reducible assumption
    | with_reducible apply keeps_flr1
    | with_reducible apply KeepsO.next
    | split
    | intro _

theorem keeps_execHotReset {σ : State} (s : State) (h_s : Keeps σ s) : KeepsO σ (execHotReset s) := by
  unfold execHotReset
  try dsimp only
  all_goals repeat' first
    | with_reducible assumption
    | with_reducible apply keeps_flr0
    | with_reducible apply keeps_flr1
    | with_reducible apply keeps_modHost
    | with_reducible apply KeepsO.next
    | split
    | intro _

theorem keeps_stopKey {σ : State} (s : State) (key : BitVec 64) (status : Nat) (h_s : Keeps σ s) : Keeps σ (State.stopKey s key status) := by
  unfold State.stopKey
  try dsimp only
  all_goals repeat' first
    | with_reducible assumption
    | with_reducible apply keeps_each
    | with_reducible apply keeps_stopJob
    | with_reducible apply keeps_abortColl
    | intro _

theorem keeps_hitKey {σ : State} (s : State) (key : BitVec 64) (l : Nat) (h_s : Keeps σ s) : Keeps σ (State.hitKey s key l) := by
  unfold State.hitKey
  try dsimp only
  all_goals repeat' first
    | with_reducible assumption
    | with_reducible apply keeps_stopKey
    | with_reducible apply keeps_sendLink
    | with_reducible apply keeps_modLinks
    | with_reducible apply keeps_log
    | split
    | intro _

theorem keeps_setLevel {σ : State} (s : State) (v : Nat) (l : Nat) (h_s : Keeps σ s) : Keeps σ (State.setLevel s v l) := by
  unfold State.setLevel
  try dsimp only
  all_goals repeat' first
    | with_reducible assumption
    | with_reducible apply keeps_modPwr
    | with_reducible apply keeps_log
    | with_reducible apply keeps_each
    | with_reducible apply keeps_hitKey
    | with_reducible apply keeps_fallToSl2
    | with_reducible apply keeps_nvReadyCheck
    | split
    | intro _

theorem keeps_dropLevel {σ : State} (s : State) (l : Nat) (h_s : Keeps σ s) : Keeps σ (State.dropLevel s l) := by
  unfold State.dropLevel
  try dsimp only
  all_goals repeat' first
    | with_reducible assumption
    | with_reducible apply keeps_setLevel

theorem keeps_raiseLevel {σ : State} (s : State) (h_s : Keeps σ s) : Keeps σ (State.raiseLevel s) := by
  unfold State.raiseLevel
  try dsimp only
  all_goals repeat' first
    | with_reducible assumption
    | with_reducible apply keeps_setLevel

theorem keeps_relevel {σ : State} (s : State) (h_s : Keeps σ s) : Keeps σ (State.relevel s) := by
  unfold State.relevel
  try dsimp only
  all_goals repeat' first
    | with_reducible assumption
    | with_reducible apply keeps_setLevel

theorem keeps_lossProgram {σ : State} (s : State) (ch : Nat) (h_s : Keeps σ s) : Keeps σ (State.lossProgram s ch) := by
  unfold State.lossProgram
  try dsimp only
  all_goals repeat' first
    | with_reducible assumption
    | with_reducible apply keeps_progDone
    | split
    | refine Keeps.of_snd (by assumption) ?_

theorem keeps_powerLoss {σ : State} (s : State) (h_s : Keeps σ s) : Keeps σ (State.powerLoss s) := by
  unfold State.powerLoss
  try dsimp only
  all_goals repeat' first
    | with_reducible assumption
    | with_reducible apply keeps_each
    | with_reducible apply keeps_lossProgram
    | with_reducible apply keeps_modFlash
    | with_reducible apply keeps_modIngest
    | with_reducible apply keeps_foldl
    | with_reducible apply keeps_foldl_snd
    | with_reducible apply keeps_foldl_fst
    | with_reducible apply keeps_flushJournal
    | with_reducible apply KeepsI.map
    | intro _

theorem keeps_searchOff {σ : State} (s : State) (h_s : Keeps σ s) : Keeps σ (State.searchOff s) := by
  unfold State.searchOff
  try dsimp only
  all_goals repeat' first
    | with_reducible assumption
    | with_reducible apply keeps_each
    | with_reducible apply keeps_dropBatch
    | with_reducible apply keeps_log
    | with_reducible apply keeps_modSearch
    | with_reducible apply keeps_retain
    | with_reducible apply KeepsI.map
    | split
    | intro _

theorem keeps_domainDown {σ : State} (s : State) (h_s : Keeps σ s) : Keeps σ s.domainDown := by
  have h := keeps_searchOff _ h_s
  unfold State.domainDown
  refine keeps_setLevel _ _ _ (keeps_modPwr _ _ (keeps_modMgt _ _ ?_ fun _ => rfl))
  exact ⟨fun i => ⟨filter_wf _ _ (h.inv i).1, (h.inv i).2⟩, h.sec, h.cap⟩

theorem keeps_shutDomain {σ : State} (s : State) (h_s : Keeps σ s) : Keeps σ (State.shutDomain s) := by
  unfold State.shutDomain
  try dsimp only
  all_goals repeat' first
    | with_reducible assumption
    | with_reducible apply keeps_powerLoss
    | with_reducible apply keeps_domainDown
    | split

theorem keeps_execNandPageRead {σ : State} (unit : BitVec 36) (res : ReadLadder) (s : State) (h_s : Keeps σ s) : KeepsO σ (execNandPageRead unit res s) := by
  unfold execNandPageRead
  try dsimp only
  all_goals repeat' first
    | with_reducible assumption
    | with_reducible apply keeps_modBlk
    | with_reducible apply keeps_modFcd
    | with_reducible apply keeps_logRated
    | with_reducible apply keeps_log
    | with_reducible apply keeps_refreshPage
    | with_reducible apply keeps_loseUnit
    | with_reducible apply keeps_shutDomain
    | with_reducible apply keeps_modPwr
    | with_reducible apply KeepsO.next
    | split
    | intro _

theorem keeps_execLinkTraining {σ : State} (l : Fin 48) (ok : Bool) (s : State) (h_s : Keeps σ s) : KeepsO σ (execLinkTraining l ok s) := by
  unfold execLinkTraining
  try dsimp only
  all_goals repeat' first
    | with_reducible assumption
    | with_reducible apply keeps_modLink
    | with_reducible apply KeepsO.next
    | split
    | intro _

theorem keeps_reviveDir {σ : State} (s : State) (dir : Nat) (h_s : Keeps σ s) : Keeps σ (State.reviveDir s dir) := by
  unfold State.reviveDir
  try dsimp only
  all_goals repeat' first
    | with_reducible assumption
    | with_reducible apply keeps_modLinks
    | intro _

theorem keeps_linkUp {σ : State} (s : State) (l : Nat) (version : Nat) (h_s : Keeps σ s) : Keeps σ (State.linkUp s l version) := by
  unfold State.linkUp
  try dsimp only
  all_goals repeat' first
    | with_reducible assumption
    | with_reducible apply keeps_modLink
    | with_reducible apply keeps_reviveDir
    | with_reducible apply keeps_log
    | with_reducible apply keeps_raiseLevel
    | intro _

theorem keeps_execIdentityExchange {σ : State} (l : Fin 48) (id : LinkIdent) (s : State) (h_s : Keeps σ s) : KeepsO σ (execIdentityExchange l id s) := by
  unfold execIdentityExchange
  try dsimp only
  all_goals repeat' first
    | with_reducible assumption
    | with_reducible apply keeps_modLink
    | with_reducible apply keeps_log
    | with_reducible apply keeps_linkUp
    | with_reducible apply keeps_fresh
    | with_reducible apply KeepsO.next
    | split
    | intro _
    | refine Keeps.of_snd (by assumption) ?_

theorem keeps_checkDead {σ : State} (s : State) (dir : Nat) (h_s : Keeps σ s) : Keeps σ (State.checkDead s dir) := by
  unfold State.checkDead
  try dsimp only
  all_goals repeat' first
    | with_reducible assumption
    | with_reducible apply keeps_modLinks
    | with_reducible apply keeps_sendLink
    | split
    | intro _

theorem keeps_linkDown {σ : State} (s : State) (l : Nat) (why : Nat) (h_s : Keeps σ s) : Keeps σ (State.linkDown s l why) := by
  unfold State.linkDown
  try dsimp only
  all_goals repeat' first
    | with_reducible assumption
    | with_reducible apply keeps_fresh
    | with_reducible apply keeps_modLink
    | with_reducible apply keeps_log
    | with_reducible apply keeps_each
    | with_reducible apply keeps_checkDead
    | with_reducible apply keeps_hitKey
    | with_reducible apply keeps_dropLevel
    | split
    | intro _
    | refine Keeps.of_snd (by assumption) ?_

theorem keeps_execLinkReplay {σ : State} (l : Fin 48) (fec : BitVec 16) (fail : Option Bool) (s : State) (h_s : Keeps σ s) : KeepsO σ (execLinkReplay l fec fail s) := by
  unfold execLinkReplay
  try dsimp only
  all_goals repeat' first
    | with_reducible assumption
    | with_reducible apply keeps_modLink
    | with_reducible apply keeps_linkDown
    | with_reducible apply KeepsO.next
    | split
    | intro _

theorem keeps_execLaneLockLoss {σ : State} (l : Fin 48) (s : State) (h_s : Keeps σ s) : KeepsO σ (execLaneLockLoss l s) := by
  unfold execLaneLockLoss
  try dsimp only
  all_goals repeat' first
    | with_reducible assumption
    | with_reducible apply keeps_linkDown
    | with_reducible apply KeepsO.next
    | split
    | intro _

theorem keeps_retrainLink {σ : State} (s : State) (l : Nat) (ok : Bool) (h_s : Keeps σ s) : Keeps σ (State.retrainLink s l ok) := by
  unfold State.retrainLink
  try dsimp only
  all_goals repeat' first
    | with_reducible assumption
    | with_reducible apply keeps_modLink
    | with_reducible apply keeps_linkDown
    | split
    | intro _

theorem keeps_execLinkTrainingRetry {σ : State} (l : Fin 48) (ok : Bool) (s : State) (h_s : Keeps σ s) : KeepsO σ (execLinkTrainingRetry l ok s) := by
  unfold execLinkTrainingRetry
  try dsimp only
  all_goals repeat' first
    | with_reducible assumption
    | with_reducible apply keeps_retrainLink
    | with_reducible apply KeepsO.next
    | split
    | intro _

theorem keeps_execLinkDownRetrain {σ : State} (l : Fin 48) (ok : Bool) (s : State) (h_s : Keeps σ s) : KeepsO σ (execLinkDownRetrain l ok s) := by
  unfold execLinkDownRetrain
  try dsimp only
  all_goals repeat' first
    | with_reducible assumption
    | with_reducible apply keeps_retrainLink
    | with_reducible apply KeepsO.next
    | split
    | intro _

theorem keeps_execReachabilityMessage {σ : State} (m : ReachMsg) (s : State) (h_s : Keeps σ s) : KeepsO σ (execReachabilityMessage m s) := by
  unfold execReachabilityMessage
  try dsimp only
  all_goals repeat' first
    | with_reducible assumption
    | with_reducible apply keeps_modLinks
    | with_reducible apply keeps_sendLink
    | with_reducible apply KeepsO.next
    | split
    | intro _

theorem keeps_execJobAbortMessage {σ : State} (l : Fin 48) (key : BitVec 64) (s : State) (h_s : Keeps σ s) : KeepsO σ (execJobAbortMessage l key s) := by
  unfold execJobAbortMessage
  try dsimp only
  all_goals repeat' first
    | with_reducible assumption
    | with_reducible apply keeps_stopKey
    | with_reducible apply keeps_modLinks
    | with_reducible apply keeps_sendLink
    | with_reducible apply KeepsO.next
    | split
    | intro _

theorem keeps_arrived {σ : State} (s : State) (r : RemReq) (h_s : Keeps σ s) : Keeps σ (State.arrived s r) := by
  unfold State.arrived
  try dsimp only
  all_goals repeat' first
    | with_reducible assumption
    | with_reducible apply keeps_modLink
    | intro _

theorem keeps_passOn {σ : State} (s : State) (r : RemReq) (t : Transit) (h_s : Keeps σ s) : Keeps σ (State.passOn s r t) := by
  unfold State.passOn
  try dsimp only
  all_goals repeat' first
    | with_reducible assumption
    | with_reducible apply keeps_modLink
    | with_reducible apply keeps_hitKey
    | with_reducible apply keeps_queueDir
    | split
    | intro _

theorem keeps_execRemoteRequest {σ : State} (r : RemReq) (s : State) (h_s : Keeps σ s) : KeepsO σ (execRemoteRequest r s) := by
  unfold execRemoteRequest
  try dsimp only
  all_goals repeat' first
    | with_reducible assumption
    | with_reducible apply keeps_arrived
    | with_reducible apply keeps_passOn
    | with_reducible apply keeps_serveRemote
    | with_reducible apply keeps_noteRefusal
    | with_reducible apply keeps_sendAnswer
    | with_reducible apply KeepsI.getD
    | with_reducible apply KeepsI.some
    | with_reducible apply KeepsI.none
    | with_reducible apply KeepsO.next
    | split
    | intro _
    | refine Keeps.of_snd (by assumption) ?_

theorem keeps_refuseThread {σ : State} (s : State) (c : Nat) (t : Nat) (h_s : Keeps σ s) : Keeps σ (State.refuseThread s c t) := by
  unfold State.refuseThread
  try dsimp only
  all_goals repeat' first
    | with_reducible assumption
    | with_reducible apply keeps_threadFault
    | with_reducible apply keeps_modThr
    | with_reducible apply keeps_remoteFault
    | split
    | intro _

theorem keeps_refuseBobbin {σ : State} (s : State) (c : Nat) (h_s : Keeps σ s) : Keeps σ (State.refuseBobbin s c) := by
  unfold State.refuseBobbin
  try dsimp only
  all_goals repeat' first
    | with_reducible assumption
    | with_reducible apply keeps_modCore
    | with_reducible apply keeps_noteFault
    | with_reducible apply keeps_kindFault
    | split
    | intro _

theorem keeps_execRemoteRefusal {σ : State} (agent : BitVec 16) (s : State) (h_s : Keeps σ s) : KeepsO σ (execRemoteRefusal agent s) := by
  unfold execRemoteRefusal
  try dsimp only
  all_goals repeat' first
    | with_reducible assumption
    | with_reducible apply keeps_refuseThread
    | with_reducible apply keeps_refuseBobbin
    | with_reducible apply KeepsO.next
    | split
    | intro _

theorem keeps_modPort {σ : State} (s : State) (p : Nat) (f : PortSt → PortSt) (h_s : Keeps σ s) : Keeps σ (State.modPort s p f) := by
  unfold State.modPort
  try dsimp only
  all_goals repeat' first
    | with_reducible assumption
    | with_reducible apply keeps_modFab
    | intro _

theorem keeps_modBook {σ : State} (s : State) (p : Nat) (lane : Nat) (dir : Nat) (vc : Nat) (f : CreditBook → CreditBook) (h_s : Keeps σ s) : Keeps σ (State.modBook s p lane dir vc f) := by
  unfold State.modBook
  try dsimp only
  all_goals repeat' first
    | with_reducible assumption
    | with_reducible apply keeps_modFab
    | intro _

theorem keeps_sendFlit {σ : State} (s : State) (port : Nat) (lane : Nat) (dir : Nat) (p : Packet) (i : Nat) (h_s : Keeps σ s) : Keeps σ (State.sendFlit s port lane dir p i) := by
  unfold State.sendFlit
  try dsimp only
  all_goals repeat' first
    | with_reducible assumption
    | with_reducible apply keeps_modBook
    | with_reducible apply keeps_modPort
    | with_reducible apply keeps_modFab
    | intro _

theorem keeps_leftHub {σ : State} (s : State) (p : Packet) (a0 : List (Nat × Nat)) (h_s : Keeps σ s) : Keeps σ (State.leftHub s p a0) := by
  induction a0 generalizing s p with
  | nil =>
    unfold State.leftHub
    try dsimp only
    all_goals repeat' first
      | with_reducible assumption
      | with_reducible apply ih
      | with_reducible apply keeps_modBook
      | split
      | intro _
  | cons x xs ih =>
    unfold State.leftHub
    try dsimp only
    all_goals repeat' first
      | with_reducible assumption
      | with_reducible apply ih
      | with_reducible apply keeps_modBook
      | split
      | intro _

theorem keeps_pktFailed {σ : State} (s : State) (p : Packet) (h_s : Keeps σ s) : Keeps σ (State.pktFailed s p) := by
  unfold State.pktFailed
  try dsimp only
  all_goals repeat' first
    | with_reducible assumption
    | with_reducible apply keeps_modFab
    | with_reducible apply keeps_log
    | split
    | intro _

theorem keeps_deliver {σ : State} (s : State) (port : Nat) (p : Packet) (h_s : Keeps σ s) : Keeps σ (State.deliver s port p) := by
  unfold State.deliver
  try dsimp only
  all_goals repeat' first
    | with_reducible assumption
    | with_reducible apply keeps_modPort
    | with_reducible apply keeps_each
    | with_reducible apply keeps_modFab
    | split
    | intro _

theorem keeps_failedCopies {σ : State} (s : State) (p : Packet) (a0 : List (Nat × Nat)) (h_s : Keeps σ s) : Keeps σ (State.failedCopies s p a0).1 := by
  induction a0 generalizing s p with
  | nil =>
    unfold State.failedCopies
    try dsimp only
    all_goals repeat' first
      | with_reducible assumption
      | with_reducible apply ih
      | with_reducible apply keeps_modFab
      | with_reducible apply keeps_pktFailed
      | split
      | intro _
  | cons x xs ih =>
    unfold State.failedCopies
    try dsimp only
    all_goals repeat' first
      | with_reducible assumption
      | with_reducible apply ih
      | with_reducible apply keeps_modFab
      | with_reducible apply keeps_pktFailed
      | split
      | intro _

theorem keeps_hubArrive {σ : State} (s : State) (p : Packet) (onLanes : List (Nat × Nat)) (h_s : Keeps σ s) : Keeps σ (State.hubArrive s p onLanes) := by
  unfold State.hubArrive
  try dsimp only
  all_goals repeat' first
    | with_reducible assumption
    | with_reducible apply keeps_modFab
    | with_reducible apply keeps_leftHub
    | with_reducible apply keeps_failedCopies
    | with_reducible apply KeepsI.map
    | split
    | intro _

theorem keeps_inSlot {σ : State} (s : State) (port : Nat) (lane : Nat) (h_s : Keeps σ s) : KeepsI σ (State.inSlot s port lane) := by
  unfold State.inSlot
  try dsimp only
  all_goals repeat' first
    | with_reducible assumption
    | with_reducible apply keeps_sendFlit
    | with_reducible apply keeps_modFab
    | with_reducible apply keeps_hubArrive
    | with_reducible apply KeepsI.some
    | with_reducible apply KeepsI.none
    | split
    | intro _

theorem keeps_outSlot {σ : State} (s : State) (port : Nat) (lane : Nat) (h_s : Keeps σ s) : KeepsI σ (State.outSlot s port lane) := by
  unfold State.outSlot
  try dsimp only
  all_goals repeat' first
    | with_reducible assumption
    | with_reducible apply keeps_sendFlit
    | with_reducible apply keeps_modFab
    | with_reducible apply keeps_leftHub
    | with_reducible apply keeps_deliver
    | with_reducible apply KeepsI.map
    | with_reducible apply KeepsI.getD
    | with_reducible apply KeepsI.some
    | with_reducible apply KeepsI.none
    | split
    | intro _

theorem keeps_grant {σ : State} (s : State) (p : Packet) (h_s : Keeps σ s) : KeepsI σ (State.grant s p) := by
  unfold State.grant
  try dsimp only
  all_goals repeat' first
    | with_reducible assumption
    | with_reducible apply keeps_modFab
    | with_reducible apply keeps_modPtn
    | with_reducible apply KeepsI.some
    | with_reducible apply KeepsI.none
    | split
    | intro _

theorem keeps_admitPkt {σ : State} (s : State) (ahead : List SrcPkt) (w : SrcPkt) (h_s : Keeps σ s) : KeepsI σ (State.admitPkt s ahead w) := by
  unfold State.admitPkt
  try dsimp only
  all_goals repeat' first
    | with_reducible assumption
    | with_reducible apply keeps_grant
    | with_reducible apply keeps_charge
    | with_reducible apply keeps_modFab
    | with_reducible apply KeepsI.map
    | with_reducible apply KeepsI.some
    | with_reducible apply KeepsI.none
    | split
    | intro _
    | refine Keeps.of_some (by assumption) ?_

theorem keeps_heldPkt {σ : State} (s : State) (w : SrcPkt) (h_s : Keeps σ s) : Keeps σ (State.heldPkt s w).1 := by
  unfold State.heldPkt
  try dsimp only
  all_goals repeat' first
    | with_reducible assumption
    | with_reducible apply keeps_grant
    | with_reducible apply keeps_modPtn
    | split
    | intro _
    | refine Keeps.of_some (by assumption) ?_

theorem keeps_unheldPkt {σ : State} (s : State) (w : SrcPkt) (h_s : Keeps σ s) : Keeps σ (State.unheldPkt s w) := by
  unfold State.unheldPkt
  try dsimp only
  all_goals repeat' first
    | with_reducible assumption
    | with_reducible apply keeps_modPtn
    | split
    | intro _

theorem keeps_admitWaiting {σ : State} (s : State) (h_s : Keeps σ s) : Keeps σ (State.admitWaiting s) := by
  unfold State.admitWaiting
  try dsimp only
  all_goals repeat' first
    | with_reducible assumption
    | with_reducible apply keeps_foldl
    | with_reducible apply keeps_foldl_snd
    | with_reducible apply keeps_foldl_fst
    | with_reducible apply keeps_unheldPkt
    | with_reducible apply keeps_admitPkt
    | with_reducible apply keeps_heldPkt
    | with_reducible apply keeps_modFab
    | split
    | intro _
    | refine Keeps.of_fst (by assumption) ?_
    | refine Keeps.of_some (by assumption) ?_

theorem keeps_laneSlot {σ : State} (s : State) (h_s : Keeps σ s) : KeepsI σ (State.laneSlot s) := by
  unfold State.laneSlot
  dsimp only
  generalize hr : List.findSome? _ _ = r
  cases r with
  | some s1 => exact KeepsI.some (KeepsI.findSome _ _ (fun _ => keeps_outSlot _ _ _ h_s) s1 hr)
  | none => exact KeepsI.findSome _ _ fun _ => keeps_inSlot _ _ _ h_s

theorem keeps_runLanes {σ : State} (a0 : Nat) (a1 : State) (h_a1 : Keeps σ a1) : Keeps σ (State.runLanes a0 a1) := by
  induction a0 generalizing a1 with
  | zero =>
    unfold State.runLanes
    try dsimp only
    all_goals repeat' first
      | with_reducible assumption
      | with_reducible apply ih
      | with_reducible apply keeps_laneSlot
      | with_reducible apply keeps_admitWaiting
      | split
      | refine Keeps.of_some (by assumption) ?_
  | succ n ih =>
    unfold State.runLanes
    try dsimp only
    all_goals repeat' first
      | with_reducible assumption
      | with_reducible apply ih
      | with_reducible apply keeps_laneSlot
      | with_reducible apply keeps_admitWaiting
      | split
      | refine Keeps.of_some (by assumption) ?_

theorem keeps_pumpFabric {σ : State} (s : State) (h_s : Keeps σ s) : Keeps σ (State.pumpFabric s) := by
  unfold State.pumpFabric
  try dsimp only
  all_goals repeat' first
    | with_reducible assumption
    | with_reducible apply keeps_admitWaiting
    | with_reducible apply keeps_runLanes

theorem keeps_portDrops {σ : State} (s : State) (port : Nat) (h_s : Keeps σ s) : Keeps σ (State.portDrops s port) := by
  unfold State.portDrops
  try dsimp only
  all_goals repeat' first
    | with_reducible assumption
    | with_reducible apply keeps_modFab
    | with_reducible apply keeps_each
    | with_reducible apply keeps_failedCopies
    | with_reducible apply keeps_leftHub
    | split
    | intro _

theorem keeps_resend {σ : State} (s : State) (port : Nat) (lane : Nat) (dir : Nat) (h_s : Keeps σ s) : Keeps σ (State.resend s port lane dir) := by
  unfold State.resend
  try dsimp only
  all_goals repeat' first
    | with_reducible assumption
    | with_reducible apply keeps_each
    | with_reducible apply keeps_modPort
    | intro _

theorem keeps_execFabricPacket {σ : State} (p : Packet) (s : State) (h_s : Keeps σ s) : KeepsO σ (execFabricPacket p s) := by
  unfold execFabricPacket
  try dsimp only
  all_goals repeat' first
    | with_reducible assumption
    | with_reducible apply keeps_modFab
    | with_reducible apply keeps_pumpFabric
    | with_reducible apply KeepsO.next
    | split
    | intro _

theorem keeps_execCreditReturn {σ : State} (port : Fin 31) (lane : Fin 48) (dir : Bool) (vc : Fin 6) (s : State) (h_s : Keeps σ s) : KeepsO σ (execCreditReturn port lane dir vc s) := by
  unfold execCreditReturn
  try dsimp only
  all_goals repeat' first
    | with_reducible assumption
    | with_reducible apply keeps_modBook
    | with_reducible apply keeps_pumpFabric
    | with_reducible apply KeepsO.next
    | split
    | intro _

theorem keeps_snapWrite {σ : State} (s : State) (w : BitVec 32) (h_s : Keeps σ s) : Keeps σ (State.snapWrite s w) := by
  unfold State.snapWrite
  try dsimp only
  all_goals repeat' first
    | with_reducible assumption
    | with_reducible apply keeps_modFab
    | split
    | intro _

theorem keeps_execCreditSnapGo {σ : State} (w : BitVec 32) (s : State) (h_s : Keeps σ s) : KeepsO σ (execCreditSnapGo w s) := by
  unfold execCreditSnapGo
  try dsimp only
  all_goals repeat' first
    | with_reducible assumption
    | with_reducible apply keeps_snapWrite
    | with_reducible apply KeepsO.next
    | split
    | intro _

theorem keeps_lnkSnapWrite {σ : State} (s : State) (l : Nat) (w : BitVec 32) (h_s : Keeps σ s) : Keeps σ (State.lnkSnapWrite s l w) := by
  unfold State.lnkSnapWrite
  try dsimp only
  all_goals repeat' first
    | with_reducible assumption
    | with_reducible apply keeps_modLink
    | split
    | intro _

theorem keeps_execLnkCreditSnapGo {σ : State} (l : Fin 48) (w : BitVec 32) (s : State) (h_s : Keeps σ s) : KeepsO σ (execLnkCreditSnapGo l w s) := by
  unfold execLnkCreditSnapGo
  try dsimp only
  all_goals repeat' first
    | with_reducible assumption
    | with_reducible apply keeps_lnkSnapWrite
    | with_reducible apply KeepsO.next
    | split
    | intro _

end Sys2Proof.Machine
end

