-- ==== Sys2Proof/Laws/Keeps4.lean ====
section
/-! SUPPORT. What the operations of these files of the model keep: Nor, Matrix, Vector, Sfu, Model, Apply, Warp, Boot, Unit, Power. -/

namespace Sys2Proof.Machine
open Sys2Proof

theorem keeps_mbAnswer {σ : State} (s : State) (a : MgmtAns) (h_s : Keeps σ s) : Keeps σ (State.mbAnswer s a) := by
  unfold State.mbAnswer
  try dsimp only
  all_goals repeat' first
    | with_reducible assumption
    | with_reducible apply keeps_modMgt
    | with_reducible apply keeps_raise
    | (intro _; rfl)
    | intro _

theorem keeps_chainReply {σ : State} (s : State) (tag : Nat) (a : MgmtAns) (h_s : Keeps σ s) : Keeps σ (State.chainReply s tag a) := by
  unfold State.chainReply
  try dsimp only
  all_goals repeat' first
    | with_reducible assumption
    | with_reducible apply keeps_chainUp
    | split

theorem keeps_fwAnswer {σ : State} (s : State) (l : LongFw) (e : FwEnd) (seq : BitVec 32) (h_s : Keeps σ s) : Keeps σ (State.fwAnswer s l e seq) := by
  unfold State.fwAnswer
  try dsimp only
  all_goals repeat' first
    | with_reducible assumption
    | with_reducible apply keeps_mbAnswer
    | with_reducible apply keeps_endJob
    | with_reducible apply keeps_chainReply
    | with_reducible apply keeps_fwEvent
    | with_reducible apply keeps_nvEnd
    | split
    | intro _

theorem keeps_fwDone {σ : State} (s : State) (ok : Bool) (h_s : Keeps σ s) : Keeps σ (State.fwDone s ok) := by
  unfold State.fwDone
  try dsimp only
  all_goals repeat' first
    | with_reducible assumption
    | with_reducible apply keeps_fwWritten
    | with_reducible apply keeps_fwAnswer
    | split
    | refine Keeps.of_snd (by assumption) ?_

theorem keeps_logGap {σ : State} (s : State) (es : List LogEnt) (h_s : Keeps σ s) : Keeps σ (State.logGap s es) := by
  unfold State.logGap
  try dsimp only
  all_goals repeat' first
    | with_reducible assumption
    | with_reducible apply keeps_modLog
    | with_reducible apply keeps_log
    | split
    | intro _

theorem keeps_logTrim {σ : State} (a0 : Nat) (a1 : State) (h_a1 : Keeps σ a1) : Keeps σ (State.logTrim a0 a1) := by
  induction a0 generalizing a1 with
  | zero =>
    unfold State.logTrim
    try dsimp only
    all_goals repeat' first
      | with_reducible assumption
      | with_reducible apply ih
      | with_reducible apply keeps_log
      | with_reducible apply keeps_modLog
      | with_reducible apply keeps_logGap
      | split
      | intro _
  | succ n ih =>
    unfold State.logTrim
    try dsimp only
    all_goals repeat' first
      | with_reducible assumption
      | with_reducible apply ih
      | with_reducible apply keeps_log
      | with_reducible apply keeps_modLog
      | with_reducible apply keeps_logGap
      | split
      | intro _

theorem keeps_logRow {σ : State} (s : State) (e : LogEnt) (h_s : Keeps σ s) : Keeps σ (State.logRow s e) := by
  unfold State.logRow
  try dsimp only
  all_goals repeat' first
    | with_reducible assumption
    | with_reducible apply keeps_log
    | with_reducible apply keeps_modLog
    | with_reducible apply keeps_logTrim
    | split
    | intro _

theorem keeps_logFreed {σ : State} (s : State) (h_s : Keeps σ s) : Keeps σ (State.logFreed s) := by
  unfold State.logFreed
  try dsimp only
  all_goals repeat' first
    | with_reducible assumption
    | with_reducible apply keeps_log
    | with_reducible apply keeps_modLog
    | split
    | intro _

theorem keeps_logFlush {σ : State} (a0 : Nat) (a1 : State) (h_a1 : Keeps σ a1) : Keeps σ (State.logFlush a0 a1) := by
  induction a0 generalizing a1 with
  | zero =>
    unfold State.logFlush
    try dsimp only
    all_goals repeat' first
      | with_reducible assumption
      | with_reducible apply ih
      | with_reducible apply keeps_log
      | with_reducible apply keeps_modLog
      | with_reducible apply keeps_logRow
      | with_reducible apply keeps_logFreed
      | split
      | intro _
  | succ n ih =>
    unfold State.logFlush
    try dsimp only
    all_goals repeat' first
      | with_reducible assumption
      | with_reducible apply ih
      | with_reducible apply keeps_log
      | with_reducible apply keeps_modLog
      | with_reducible apply keeps_logRow
      | with_reducible apply keeps_logFreed
      | split
      | intro _

theorem keeps_logAll {σ : State} (s : State) (h_s : Keeps σ s) : Keeps σ (State.logAll s) := by
  unfold State.logAll
  try dsimp only
  all_goals repeat' first
    | with_reducible assumption
    | with_reducible apply keeps_modLog
    | with_reducible apply keeps_logFlush
    | intro _

theorem keeps_setNor {σ : State} (s : State) (b : Nat) (ops : List NorOp) (h_s : Keeps σ s) : Keeps σ (State.setNor s b ops) := by
  unfold State.setNor
  try dsimp only
  all_goals repeat' first
    | with_reducible assumption
    | with_reducible apply keeps_modMgt
    | (intro _; rfl)
    | intro _

theorem keeps_execLogEntryProgram {σ : State} (s : State) (h_s : Keeps σ s) : KeepsO σ (execLogEntryProgram s) := by
  unfold execLogEntryProgram
  try dsimp only
  all_goals repeat' first
    | with_reducible assumption
    | with_reducible apply keeps_log
    | with_reducible apply keeps_modLog
    | with_reducible apply keeps_logRow
    | with_reducible apply keeps_setNor
    | with_reducible apply KeepsO.next
    | split
    | intro _

theorem keeps_refreshOne {σ : State} (s : State) (x : Nat × Nat) (h_s : Keeps σ s) : Keeps σ (State.refreshOne s x) := by
  unfold State.refreshOne
  try dsimp only
  all_goals repeat' first
    | with_reducible assumption
    | with_reducible apply keeps_modMgt
    | with_reducible apply keeps_log
    | (intro _; rfl)
    | split
    | intro _

theorem keeps_refreshBank {σ : State} (s : State) (bank : Nat) (h_s : Keeps σ s) : Keeps σ (State.refreshBank s bank) := by
  unfold State.refreshBank
  try dsimp only
  all_goals repeat' first
    | with_reducible assumption
    | with_reducible apply keeps_each
    | with_reducible apply keeps_refreshOne
    | with_reducible apply keeps_modMgt
    | (intro _; rfl)
    | split
    | intro _

theorem keeps_scheduleRefresh {σ : State} (s : State) (x : Nat × Nat) (h_s : Keeps σ s) : Keeps σ (State.scheduleRefresh s x) := by
  unfold State.scheduleRefresh
  try dsimp only
  all_goals repeat' first
    | with_reducible assumption
    | with_reducible apply keeps_modMgt
    | (intro _; rfl)
    | split
    | intro _

theorem keeps_norFound {σ : State} (s : State) (a0 : NorFind) (h_s : Keeps σ s) : Keeps σ (State.norFound s a0) := by
  unfold State.norFound
  try dsimp only
  all_goals repeat' first
    | with_reducible assumption
    | with_reducible apply keeps_scheduleRefresh
    | with_reducible apply keeps_logRated
    | with_reducible apply keeps_modMgt
    | with_reducible apply keeps_modLog
    | (intro _; rfl)
    | split
    | intro _

theorem keeps_execNorDailyScan {σ : State} (finds : List NorFind) (s : State) (h_s : Keeps σ s) : KeepsO σ (execNorDailyScan finds s) := by
  unfold execNorDailyScan
  try dsimp only
  all_goals repeat' first
    | with_reducible assumption
    | with_reducible apply keeps_each
    | with_reducible apply keeps_norFound
    | with_reducible apply keeps_refreshBank
    | with_reducible apply KeepsO.next
    | split
    | intro _

theorem keeps_norIdle {σ : State} (s : State) (bank : Nat) (h_s : Keeps σ s) : Keeps σ (State.norIdle s bank) := by
  unfold State.norIdle
  try dsimp only
  all_goals repeat' first
    | with_reducible assumption
    | with_reducible apply keeps_log
    | with_reducible apply keeps_modLog
    | with_reducible apply keeps_setNor
    | with_reducible apply keeps_refreshBank
    | split
    | intro _

theorem keeps_norProgOk {σ : State} (s : State) (bank : Nat) (h_s : Keeps σ s) : Keeps σ (State.norProgOk s bank) := by
  unfold State.norProgOk
  try dsimp only
  all_goals repeat' first
    | with_reducible assumption
    | with_reducible apply keeps_modLog
    | with_reducible apply keeps_logFreed
    | with_reducible apply keeps_fwDone
    | split
    | intro _

theorem keeps_norProgFail {σ : State} (s : State) (bank : Nat) (row : Nat) (h_s : Keeps σ s) : Keeps σ (State.norProgFail s bank row) := by
  unfold State.norProgFail
  try dsimp only
  all_goals repeat' first
    | with_reducible assumption
    | with_reducible apply keeps_modLog
    | with_reducible apply keeps_log
    | with_reducible apply keeps_fresh
    | with_reducible apply keeps_fwDone
    | split
    | intro _

theorem keeps_norEraseOk {σ : State} (s : State) (bank : Nat) (h_s : Keeps σ s) : Keeps σ (State.norEraseOk s bank) := by
  unfold State.norEraseOk
  try dsimp only
  all_goals repeat' first
    | with_reducible assumption
    | with_reducible apply keeps_modLog
    | with_reducible apply keeps_modMgt
    | with_reducible apply keeps_setNor
    | (intro _; rfl)
    | split
    | intro _

theorem keeps_norEraseFail {σ : State} (s : State) (bank : Nat) (h_s : Keeps σ s) : Keeps σ (State.norEraseFail s bank) := by
  unfold State.norEraseFail
  try dsimp only
  all_goals repeat' first
    | with_reducible assumption
    | with_reducible apply keeps_fresh
    | with_reducible apply keeps_log
    | with_reducible apply keeps_modLog
    | with_reducible apply keeps_logTrim
    | with_reducible apply keeps_modMgt
    | with_reducible apply keeps_fwDone
    | (intro _; rfl)
    | split
    | intro _

theorem keeps_execNorOpComplete {σ : State} (bank : Fin 3) (ok : Bool) (s : State) (h_s : Keeps σ s) : KeepsO σ (execNorOpComplete bank ok s) := by
  unfold execNorOpComplete
  try dsimp only
  all_goals repeat' first
    | with_reducible assumption
    | with_reducible apply keeps_setNor
    | with_reducible apply keeps_norEraseOk
    | with_reducible apply keeps_norEraseFail
    | with_reducible apply keeps_norProgOk
    | with_reducible apply keeps_norProgFail
    | with_reducible apply keeps_norIdle
    | with_reducible apply KeepsO.next
    | split
    | intro _

theorem keeps_execLogArchivePage {σ : State} (ok : Bool) (s : State) (h_s : Keeps σ s) : KeepsO σ (execLogArchivePage ok s) := by
  unfold execLogArchivePage
  try dsimp only
  all_goals repeat' first
    | with_reducible assumption
    | with_reducible apply keeps_log
    | with_reducible apply keeps_modLog
    | with_reducible apply KeepsO.next
    | split
    | intro _

theorem keeps_mxAbort {σ : State} (s : State) (c : Nat) (d : MxDesc) (h_s : Keeps σ s) : Keeps σ (State.mxAbort s c d) := by
  unfold State.mxAbort
  try dsimp only
  all_goals repeat' first
    | with_reducible assumption
    | with_reducible apply keeps_scramble

theorem keeps_mmaRun {σ : State} (c : Nat) (e : QEntry) (s : State) (h_s : Keeps σ s) : KeepsE σ (mmaRun c e s) := by
  unfold mmaRun
  try dsimp only
  all_goals repeat' first
    | with_reducible assumption
    | with_reducible apply keeps_spadUe
    | with_reducible apply keeps_mxAbort
    | with_reducible apply keeps_fresh
    | with_reducible apply keeps_accUe
    | with_reducible apply keeps_modCore
    | with_reducible apply KeepsE.ok
    | with_reducible apply KeepsE.unc
    | with_reducible apply KeepsE.reject
    | split
    | intro _
    | refine Keeps.of_snd (by assumption) ?_

theorem keeps_lcMeasure {σ : State} (s : State) (lc : Bool) (h_s : Keeps σ s) : Keeps σ (State.lcMeasure s lc) := by
  unfold State.lcMeasure
  try dsimp only
  all_goals repeat' first
    | with_reducible assumption
    | with_reducible apply keeps_fresh
    | with_reducible apply keeps_modSh
    | split
    | intro _

theorem keeps_execMma {σ : State} (c : Fin 64) (hits : List CoreHit) (s0 : State) (h_s0 : Keeps σ s0) : KeepsO σ (execMma c hits s0) := by
  unfold execMma
  try dsimp only
  all_goals repeat' first
    | with_reducible assumption
    | with_reducible apply keeps_coreHits
    | with_reducible apply keeps_engineRun
    | with_reducible apply keeps_mmaRun
    | with_reducible apply keeps_lcMeasure
    | with_reducible apply keeps_modCore
    | with_reducible apply KeepsO.next
    | split
    | intro _
    | refine Keeps.of_ok (by assumption) ?_
    | refine Keeps.of_unc (by assumption) ?_

theorem keeps_accRun {σ : State} (c : Nat) (e : QEntry) (s : State) (h_s : Keeps σ s) : KeepsE σ (accRun c e s) := by
  unfold accRun
  try dsimp only
  all_goals repeat' first
    | with_reducible assumption
    | with_reducible apply keeps_spadUe
    | with_reducible apply keeps_mxAbort
    | with_reducible apply keeps_modCore
    | with_reducible apply keeps_accUe
    | with_reducible apply keeps_foldl
    | with_reducible apply keeps_foldl_snd
    | with_reducible apply keeps_foldl_fst
    | with_reducible apply KeepsI.map
    | with_reducible apply KeepsE.ok
    | with_reducible apply KeepsE.unc
    | with_reducible apply KeepsE.reject
    | split
    | intro _

theorem keeps_accOp {σ : State} (s : State) (c : Nat) (kind : Nat) (h_s : Keeps σ s) : Keeps σ (State.accOp s c kind) := by
  unfold State.accOp
  try dsimp only
  all_goals repeat' first
    | with_reducible assumption
    | with_reducible apply keeps_engineRun
    | with_reducible apply keeps_accRun
    | split
    | intro _
    | refine Keeps.of_ok (by assumption) ?_
    | refine Keeps.of_unc (by assumption) ?_

theorem keeps_execAccLoad {σ : State} (c : Fin 64) (s : State) (h_s : Keeps σ s) : KeepsO σ (execAccLoad c s) := by
  unfold execAccLoad
  try dsimp only
  all_goals repeat' first
    | with_reducible assumption
    | with_reducible apply keeps_accOp
    | with_reducible apply KeepsO.next
    | intro _

theorem keeps_execAccStore {σ : State} (c : Fin 64) (hits : List CoreHit) (s : State) (h_s : Keeps σ s) : KeepsO σ (execAccStore c hits s) := by
  unfold execAccStore
  try dsimp only
  all_goals repeat' first
    | with_reducible assumption
    | with_reducible apply keeps_coreHits
    | with_reducible apply keeps_accOp
    | with_reducible apply KeepsO.next
    | intro _

theorem keeps_execAccClear {σ : State} (c : Fin 64) (s : State) (h_s : Keeps σ s) : KeepsO σ (execAccClear c s) := by
  unfold execAccClear
  try dsimp only
  all_goals repeat' first
    | with_reducible assumption
    | with_reducible apply keeps_accOp
    | with_reducible apply KeepsO.next
    | intro _

theorem keeps_execRemainderPass {σ : State} (c : Fin 64) (s : State) (h_s : Keeps σ s) : KeepsO σ (execRemainderPass c s) := by
  unfold execRemainderPass
  try dsimp only
  all_goals repeat' first
    | with_reducible assumption
    | with_reducible apply keeps_fresh
    | with_reducible apply keeps_foldl
    | with_reducible apply keeps_foldl_snd
    | with_reducible apply keeps_foldl_fst
    | with_reducible apply keeps_mxAbort
    | with_reducible apply keeps_spadUe
    | with_reducible apply keeps_ueEvent
    | with_reducible apply keeps_threadUncorrectable
    | with_reducible apply keeps_accUe
    | with_reducible apply keeps_modCore
    | with_reducible apply KeepsI.map
    | with_reducible apply KeepsI.some
    | with_reducible apply KeepsI.none
    | with_reducible apply KeepsO.next
    | split
    | intro _
    | refine Keeps.of_snd (by assumption) ?_
    | refine Keeps.of_fst (by assumption) ?_
    | refine Keeps.of_some (by assumption) ?_
    | refine Keeps.of_pair (by assumption) ?_
    | refine Keeps.of_ok (by assumption) ?_
    | refine Keeps.of_unc (by assumption) ?_
    | (intro _; assumption)
    | dsimp only
    | exact memWrite_wf _ _ _ (by assumption)

theorem keeps_execMatrixComplete {σ : State} (c : Fin 64) (s : State) (h_s : Keeps σ s) : KeepsO σ (execMatrixComplete c s) := by
  unfold execMatrixComplete
  try dsimp only
  all_goals repeat' first
    | with_reducible assumption
    | with_reducible apply keeps_engineDone
    | with_reducible apply keeps_modCore
    | with_reducible apply keeps_foldl
    | with_reducible apply keeps_foldl_snd
    | with_reducible apply keeps_foldl_fst
    | with_reducible apply keeps_completeOp
    | with_reducible apply KeepsO.next
    | split
    | intro _
    | refine Keeps.of_snd (by assumption) ?_
    | refine Keeps.of_fst (by assumption) ?_
    | refine Keeps.of_some (by assumption) ?_
    | refine Keeps.of_pair (by assumption) ?_
    | refine Keeps.of_ok (by assumption) ?_
    | refine Keeps.of_unc (by assumption) ?_
    | (intro _; assumption)
    | dsimp only
    | exact memWrite_wf _ _ _ (by assumption)

theorem keeps_ccRun {σ : State} (c : Nat) (e : QEntry) (s : State) (h_s : Keeps σ s) : KeepsE σ (ccRun c e s) := by
  unfold ccRun
  try dsimp only
  all_goals repeat' first
    | with_reducible assumption
    | with_reducible apply keeps_laneStart
    | with_reducible apply KeepsE.ok
    | with_reducible apply KeepsE.unc
    | with_reducible apply KeepsE.reject
    | split
    | refine Keeps.of_ok (by assumption) ?_
    | refine Keeps.of_unc (by assumption) ?_

theorem keeps_execCompareAndCount {σ : State} (c : Fin 64) (hits : List CoreHit) (s0 : State) (h_s0 : Keeps σ s0) : KeepsO σ (execCompareAndCount c hits s0) := by
  unfold execCompareAndCount
  try dsimp only
  all_goals repeat' first
    | with_reducible assumption
    | with_reducible apply keeps_coreHits
    | with_reducible apply keeps_engineDone
    | with_reducible apply keeps_engineRun
    | with_reducible apply keeps_ccRun
    | with_reducible apply KeepsO.next
    | split
    | intro _
    | refine Keeps.of_ok (by assumption) ?_
    | refine Keeps.of_unc (by assumption) ?_

theorem keeps_vuRun {σ : State} (c : Nat) (e : QEntry) (s : State) (h_s : Keeps σ s) : KeepsE σ (vuRun c e s) := by
  unfold vuRun
  try dsimp only
  all_goals repeat' first
    | with_reducible assumption
    | with_reducible apply keeps_runUe
    | with_reducible apply keeps_scramble
    | with_reducible apply keeps_laneStart
    | with_reducible apply KeepsE.ok
    | with_reducible apply KeepsE.unc
    | with_reducible apply KeepsE.reject
    | split
    | intro _
    | refine Keeps.of_ok (by assumption) ?_
    | refine Keeps.of_unc (by assumption) ?_

theorem keeps_vuOp {σ : State} (s : State) (c : Nat) (op : Nat) (h_s : Keeps σ s) : Keeps σ (State.vuOp s c op) := by
  unfold State.vuOp
  try dsimp only
  all_goals repeat' first
    | with_reducible assumption
    | with_reducible apply keeps_engineRun
    | with_reducible apply keeps_vuRun
    | intro _
    | refine Keeps.of_ok (by assumption) ?_
    | refine Keeps.of_unc (by assumption) ?_

theorem keeps_execVAdd {σ : State} (c : Fin 64) (s : State) (h_s : Keeps σ s) : KeepsO σ (execVAdd c s) := by
  unfold execVAdd
  try dsimp only
  all_goals repeat' first
    | with_reducible assumption
    | with_reducible apply keeps_vuOp
    | with_reducible apply KeepsO.next
    | intro _

theorem keeps_execVSub {σ : State} (c : Fin 64) (s : State) (h_s : Keeps σ s) : KeepsO σ (execVSub c s) := by
  unfold execVSub
  try dsimp only
  all_goals repeat' first
    | with_reducible assumption
    | with_reducible apply keeps_vuOp
    | with_reducible apply KeepsO.next
    | intro _

theorem keeps_execVMul {σ : State} (c : Fin 64) (s : State) (h_s : Keeps σ s) : KeepsO σ (execVMul c s) := by
  unfold execVMul
  try dsimp only
  all_goals repeat' first
    | with_reducible assumption
    | with_reducible apply keeps_vuOp
    | with_reducible apply KeepsO.next
    | intro _

theorem keeps_execVFma {σ : State} (c : Fin 64) (s : State) (h_s : Keeps σ s) : KeepsO σ (execVFma c s) := by
  unfold execVFma
  try dsimp only
  all_goals repeat' first
    | with_reducible assumption
    | with_reducible apply keeps_vuOp
    | with_reducible apply KeepsO.next
    | intro _

theorem keeps_execVMin {σ : State} (c : Fin 64) (s : State) (h_s : Keeps σ s) : KeepsO σ (execVMin c s) := by
  unfold execVMin
  try dsimp only
  all_goals repeat' first
    | with_reducible assumption
    | with_reducible apply keeps_vuOp
    | with_reducible apply KeepsO.next
    | intro _

theorem keeps_execVMax {σ : State} (c : Fin 64) (s : State) (h_s : Keeps σ s) : KeepsO σ (execVMax c s) := by
  unfold execVMax
  try dsimp only
  all_goals repeat' first
    | with_reducible assumption
    | with_reducible apply keeps_vuOp
    | with_reducible apply KeepsO.next
    | intro _

theorem keeps_execVAbs {σ : State} (c : Fin 64) (s : State) (h_s : Keeps σ s) : KeepsO σ (execVAbs c s) := by
  unfold execVAbs
  try dsimp only
  all_goals repeat' first
    | with_reducible assumption
    | with_reducible apply keeps_vuOp
    | with_reducible apply KeepsO.next
    | intro _

theorem keeps_execVNeg {σ : State} (c : Fin 64) (s : State) (h_s : Keeps σ s) : KeepsO σ (execVNeg c s) := by
  unfold execVNeg
  try dsimp only
  all_goals repeat' first
    | with_reducible assumption
    | with_reducible apply keeps_vuOp
    | with_reducible apply KeepsO.next
    | intro _

theorem keeps_execVClt {σ : State} (c : Fin 64) (s : State) (h_s : Keeps σ s) : KeepsO σ (execVClt c s) := by
  unfold execVClt
  try dsimp only
  all_goals repeat' first
    | with_reducible assumption
    | with_reducible apply keeps_vuOp
    | with_reducible apply KeepsO.next
    | intro _

theorem keeps_execVCeq {σ : State} (c : Fin 64) (s : State) (h_s : Keeps σ s) : KeepsO σ (execVCeq c s) := by
  unfold execVCeq
  try dsimp only
  all_goals repeat' first
    | with_reducible assumption
    | with_reducible apply keeps_vuOp
    | with_reducible apply KeepsO.next
    | intro _

theorem keeps_execVCopy {σ : State} (c : Fin 64) (s : State) (h_s : Keeps σ s) : KeepsO σ (execVCopy c s) := by
  unfold execVCopy
  try dsimp only
  all_goals repeat' first
    | with_reducible assumption
    | with_reducible apply keeps_vuOp
    | with_reducible apply KeepsO.next
    | intro _

theorem keeps_execVFill {σ : State} (c : Fin 64) (s : State) (h_s : Keeps σ s) : KeepsO σ (execVFill c s) := by
  unfold execVFill
  try dsimp only
  all_goals repeat' first
    | with_reducible assumption
    | with_reducible apply keeps_vuOp
    | with_reducible apply KeepsO.next
    | intro _

theorem keeps_execRsum {σ : State} (c : Fin 64) (s : State) (h_s : Keeps σ s) : KeepsO σ (execRsum c s) := by
  unfold execRsum
  try dsimp only
  all_goals repeat' first
    | with_reducible assumption
    | with_reducible apply keeps_vuOp
    | with_reducible apply KeepsO.next
    | intro _

theorem keeps_execRmax {σ : State} (c : Fin 64) (s : State) (h_s : Keeps σ s) : KeepsO σ (execRmax c s) := by
  unfold execRmax
  try dsimp only
  all_goals repeat' first
    | with_reducible assumption
    | with_reducible apply keeps_vuOp
    | with_reducible apply KeepsO.next
    | intro _

theorem keeps_execStats {σ : State} (c : Fin 64) (s : State) (h_s : Keeps σ s) : KeepsO σ (execStats c s) := by
  unfold execStats
  try dsimp only
  all_goals repeat' first
    | with_reducible assumption
    | with_reducible apply keeps_vuOp
    | with_reducible apply KeepsO.next
    | intro _

theorem keeps_execLnorm {σ : State} (c : Fin 64) (s : State) (h_s : Keeps σ s) : KeepsO σ (execLnorm c s) := by
  unfold execLnorm
  try dsimp only
  all_goals repeat' first
    | with_reducible assumption
    | with_reducible apply keeps_vuOp
    | with_reducible apply KeepsO.next
    | intro _

theorem keeps_execRnorm {σ : State} (c : Fin 64) (s : State) (h_s : Keeps σ s) : KeepsO σ (execRnorm c s) := by
  unfold execRnorm
  try dsimp only
  all_goals repeat' first
    | with_reducible assumption
    | with_reducible apply keeps_vuOp
    | with_reducible apply KeepsO.next
    | intro _

theorem keeps_execSmaxSum {σ : State} (c : Fin 64) (s : State) (h_s : Keeps σ s) : KeepsO σ (execSmaxSum c s) := by
  unfold execSmaxSum
  try dsimp only
  all_goals repeat' first
    | with_reducible assumption
    | with_reducible apply keeps_vuOp
    | with_reducible apply KeepsO.next
    | intro _

theorem keeps_execSmaxNorm {σ : State} (c : Fin 64) (s : State) (h_s : Keeps σ s) : KeepsO σ (execSmaxNorm c s) := by
  unfold execSmaxNorm
  try dsimp only
  all_goals repeat' first
    | with_reducible assumption
    | with_reducible apply keeps_vuOp
    | with_reducible apply KeepsO.next
    | intro _

theorem keeps_execVectorComplete {σ : State} (c : Fin 64) (hits : List CoreHit) (s : State) (h_s : Keeps σ s) : KeepsO σ (execVectorComplete c hits s) := by
  unfold execVectorComplete
  try dsimp only
  all_goals repeat' first
    | with_reducible assumption
    | with_reducible apply keeps_coreHits
    | with_reducible apply keeps_engineDone
    | with_reducible apply KeepsO.next
    | split
    | intro _

theorem keeps_slotUe {σ : State} (s : State) (c : Nat) (slot : Nat) (h_s : Keeps σ s) : Keeps σ (State.slotUe s c slot) := by
  unfold State.slotUe
  try dsimp only
  all_goals repeat' first
    | with_reducible assumption
    | with_reducible apply keeps_modCore
    | with_reducible apply keeps_log
    | with_reducible apply keeps_retireCore
    | split
    | intro _

theorem keeps_sfuRun {σ : State} (c : Nat) (e : QEntry) (s : State) (h_s : Keeps σ s) : KeepsE σ (sfuRun c e s) := by
  unfold sfuRun
  try dsimp only
  all_goals repeat' first
    | with_reducible assumption
    | with_reducible apply keeps_runUe
    | with_reducible apply keeps_scramble
    | with_reducible apply keeps_laneStart
    | with_reducible apply KeepsE.ok
    | with_reducible apply KeepsE.unc
    | with_reducible apply KeepsE.reject
    | split
    | refine Keeps.of_ok (by assumption) ?_
    | refine Keeps.of_unc (by assumption) ?_

theorem keeps_execSfuOp {σ : State} (c : Fin 64) (hits : List CoreHit) (s0 : State) (h_s0 : Keeps σ s0) : KeepsO σ (execSfuOp c hits s0) := by
  unfold execSfuOp
  try dsimp only
  all_goals repeat' first
    | with_reducible assumption
    | with_reducible apply keeps_coreHits
    | with_reducible apply keeps_takeEntry
    | with_reducible apply keeps_scramble
    | with_reducible apply keeps_slotUe
    | with_reducible apply keeps_threadUncorrectable
    | with_reducible apply keeps_engineRun
    | with_reducible apply keeps_sfuRun
    | with_reducible apply KeepsO.next
    | split
    | intro _
    | refine Keeps.of_ok (by assumption) ?_
    | refine Keeps.of_unc (by assumption) ?_

theorem keeps_execSfuComplete {σ : State} (c : Fin 64) (s : State) (h_s : Keeps σ s) : KeepsO σ (execSfuComplete c s) := by
  unfold execSfuComplete
  try dsimp only
  all_goals repeat' first
    | with_reducible assumption
    | with_reducible apply keeps_engineDone
    | with_reducible apply KeepsO.next
    | intro _

theorem keeps_execSfuSlotReload {σ : State} (c : Fin 64) (s : State) (h_s : Keeps σ s) : KeepsO σ (execSfuSlotReload c s) := by
  unfold execSfuSlotReload
  try dsimp only
  all_goals repeat' first
    | with_reducible assumption
    | with_reducible apply keeps_modCore
    | with_reducible apply KeepsO.next
    | split
    | intro _

theorem keeps_storeSource {σ : State} (s : State) (nsid : Nat) (lba : Nat) (len : Nat) (h_s : Keeps σ s) : Keeps σ (State.storeSource s nsid lba len).2 := by
  unfold State.storeSource
  try dsimp only
  all_goals repeat' first
    | with_reducible assumption
    | with_reducible apply keeps_nsRead
    | with_reducible apply KeepsI.map
    | split
    | intro _
    | refine Keeps.of_snd (by assumption) ?_

theorem keeps_loadSource {σ : State} (s : State) (j : Job) (h : Option HostErr) (h_s : Keeps σ s) : Keeps σ (State.loadSource s j h).2 := by
  unfold State.loadSource
  try dsimp only
  all_goals repeat' first
    | with_reducible assumption
    | with_reducible apply keeps_storeSource
    | with_reducible apply keeps_bufMap
    | with_reducible apply keeps_piecesFx
    | split
    | refine Keeps.of_snd (by assumption) ?_

theorem keeps_loadStart {σ : State} (s : State) (j : Job) (unload : Bool) (h_s : Keeps σ s) : Keeps σ (State.loadStart s j unload) := by
  unfold State.loadStart
  try dsimp only
  all_goals repeat' first
    | with_reducible assumption
    | with_reducible apply keeps_modModel
    | with_reducible apply keeps_modJob
    | intro _

theorem keeps_execLoadImage {σ : State} (job : BitVec 32) (s : State) (h_s : Keeps σ s) : KeepsO σ (execLoadImage job s) := by
  unfold execLoadImage
  try dsimp only
  all_goals repeat' first
    | with_reducible assumption
    | with_reducible apply keeps_endJob
    | with_reducible apply keeps_flashWork
    | with_reducible apply keeps_loadStart
    | with_reducible apply KeepsO.next
    | split
    | intro _

theorem keeps_execImageUnload {σ : State} (job : BitVec 32) (s : State) (h_s : Keeps σ s) : KeepsO σ (execImageUnload job s) := by
  unfold execImageUnload
  try dsimp only
  all_goals repeat' first
    | with_reducible assumption
    | with_reducible apply keeps_endJob
    | with_reducible apply keeps_loadStart
    | with_reducible apply KeepsO.next
    | split
    | intro _

theorem keeps_loadFails {σ : State} (s : State) (id : Nat) (status : Nat) (offset : Nat) (h_s : Keeps σ s) : Keeps σ (State.loadFails s id status offset) := by
  unfold State.loadFails
  try dsimp only
  all_goals repeat' first
    | with_reducible assumption
    | with_reducible apply keeps_loadFailed
    | with_reducible apply keeps_endJob

theorem keeps_execLoadDrainEnd {σ : State} (h : Option HostErr) (s : State) (h_s : Keeps σ s) : KeepsO σ (execLoadDrainEnd h s) := by
  unfold execLoadDrainEnd
  try dsimp only
  all_goals repeat' first
    | with_reducible assumption
    | with_reducible apply keeps_each
    | with_reducible apply keeps_stopJob
    | with_reducible apply keeps_unloadModel
    | with_reducible apply keeps_modModel
    | with_reducible apply keeps_loadEnded
    | with_reducible apply keeps_endJob
    | with_reducible apply keeps_loadSource
    | with_reducible apply keeps_loadFails
    | with_reducible apply KeepsI.getD
    | with_reducible apply KeepsI.some
    | with_reducible apply KeepsI.none
    | with_reducible apply KeepsO.next
    | split
    | intro _
    | refine Keeps.of_snd (by assumption) ?_

theorem keeps_execLoadCopyDone {σ : State} (h : Option HostErr) (s : State) (h_s : Keeps σ s) : KeepsO σ (execLoadCopyDone h s) := by
  unfold execLoadCopyDone
  try dsimp only
  all_goals repeat' first
    | with_reducible assumption
    | with_reducible apply keeps_loadSource
    | with_reducible apply keeps_loadFails
    | with_reducible apply keeps_each
    | with_reducible apply keeps_paWrite
    | with_reducible apply keeps_modModel
    | with_reducible apply keeps_log
    | with_reducible apply keeps_notifyModule
    | with_reducible apply keeps_loadEnded
    | with_reducible apply keeps_endJob
    | with_reducible apply KeepsI.map
    | with_reducible apply KeepsO.next
    | split
    | intro _
    | refine Keeps.of_snd (by assumption) ?_

theorem keeps_clearObjects {σ : State} (s : State) (p : Nat) (h_s : Keeps σ s) : Keeps σ (State.clearObjects s p) := by
  unfold State.clearObjects
  try dsimp only
  all_goals repeat' first
    | with_reducible assumption
    | with_reducible apply keeps_modSync
    | intro _

theorem keeps_uncommand {σ : State} (s : State) (p : Nat) (h_s : Keeps σ s) : Keeps σ (State.uncommand s p) := by
  unfold State.uncommand
  try dsimp only
  all_goals repeat' first
    | with_reducible assumption
    | with_reducible apply keeps_foldl
    | with_reducible apply keeps_foldl_snd
    | with_reducible apply keeps_foldl_fst
    | with_reducible apply keeps_modField
    | with_reducible apply KeepsI.getD
    | intro _

theorem keeps_ptnReset {σ : State} (s : State) (p : Nat) (h_s : Keeps σ s) : Keeps σ (State.ptnReset s p) := by
  unfold State.ptnReset
  try dsimp only
  all_goals repeat' first
    | with_reducible assumption
    | with_reducible apply keeps_each
    | with_reducible apply keeps_coreReset
    | with_reducible apply keeps_clearObjects
    | with_reducible apply keeps_endSession
    | with_reducible apply keeps_uncommand
    | with_reducible apply keeps_modNring
    | with_reducible apply keeps_modXl
    | with_reducible apply keeps_modSh
    | with_reducible apply keeps_modSearch
    | with_reducible apply keeps_modPtn
    | with_reducible apply keeps_meetLevels
    | with_reducible apply KeepsI.map
    | split
    | intro _

theorem keeps_applyRetire {σ : State} (s : State) (img : WarpImg) (h_s : Keeps σ s) : Keeps σ (State.applyRetire s img) := by
  unfold State.applyRetire
  try dsimp only
  all_goals repeat' first
    | with_reducible assumption
    | with_reducible apply keeps_modWarp
    | with_reducible apply keeps_each
    | with_reducible apply keeps_coreReset
    | intro _

theorem keeps_applyParts {σ : State} (s : State) (img : WarpImg) (h_s : Keeps σ s) : Keeps σ (State.applyParts s img) := by
  unfold State.applyParts
  try dsimp only
  all_goals repeat' first
    | with_reducible assumption
    | with_reducible apply keeps_each
    | with_reducible apply keeps_modPtn
    | with_reducible apply keeps_coreReset
    | split
    | intro _

theorem keeps_applyGroups {σ : State} (s : State) (img : WarpImg) (h_s : Keeps σ s) : Keeps σ (State.applyGroups s img) := by
  unfold State.applyGroups
  try dsimp only
  all_goals repeat' first
    | with_reducible assumption
    | with_reducible apply keeps_modFab
    | with_reducible apply keeps_setMctok
    | with_reducible apply KeepsI.map
    | intro _

theorem keeps_applyTables {σ : State} (s : State) (img : WarpImg) (h_s : Keeps σ s) : Keeps σ (State.applyTables s img) := by
  unfold State.applyTables
  try dsimp only
  all_goals repeat' first
    | with_reducible assumption
    | with_reducible apply keeps_foldl
    | with_reducible apply keeps_foldl_snd
    | with_reducible apply keeps_foldl_fst
    | with_reducible apply keeps_modWarp
    | with_reducible apply keeps_each
    | with_reducible apply keeps_modCore
    | with_reducible apply keeps_modModel
    | with_reducible apply keeps_log
    | split
    | intro _

theorem keeps_applyFtl {σ : State} (s : State) (img : WarpImg) (h_s : Keeps σ s) : Keeps σ (State.applyFtl s img) := by
  unfold State.applyFtl
  try dsimp only
  all_goals repeat' first
    | with_reducible assumption
    | with_reducible apply keeps_fresh
    | with_reducible apply keeps_writeBackAll
    | with_reducible apply keeps_modFlash
    | with_reducible apply keeps_modSh
    | with_reducible apply KeepsI.map
    | with_reducible apply KeepsI.getD
    | split
    | intro _

theorem keeps_putNs {σ : State} (s : State) (n : NsSt) (h_s : Keeps σ s) : Keeps σ (State.putNs s n) := by
  unfold State.putNs
  try dsimp only
  all_goals repeat' first
    | with_reducible assumption
    | with_reducible apply keeps_modFlash
    | with_reducible apply keeps_journal
    | intro _

theorem keeps_dropNs {σ : State} (s : State) (nsid : Nat) (h_s : Keeps σ s) : Keeps σ (State.dropNs s nsid) := by
  unfold State.dropNs
  try dsimp only
  all_goals repeat' first
    | with_reducible assumption
    | with_reducible apply keeps_modFlash
    | with_reducible apply keeps_killKey
    | with_reducible apply keeps_journal
    | intro _

theorem keeps_markNs {σ : State} (s : State) (nsid : Nat) (h_s : Keeps σ s) : Keeps σ (State.markNs s nsid) := by
  unfold State.markNs
  try dsimp only
  all_goals repeat' first
    | with_reducible assumption
    | with_reducible apply keeps_modNvme
    | intro _

theorem keeps_nsEvent {σ : State} (s : State) (h_s : Keeps σ s) : Keeps σ (State.nsEvent s) := by
  unfold State.nsEvent
  try dsimp only
  all_goals repeat' first
    | with_reducible assumption
    | with_reducible apply keeps_nvEvent
    | split

theorem keeps_settleChan {σ : State} (a0 : Nat) (a1 : State) (a2 : Nat) (h_a1 : Keeps σ a1) : Keeps σ (State.settleChan a0 a1 a2) := by
  induction a0 generalizing a1 a2 with
  | zero =>
    unfold State.settleChan
    try dsimp only
    all_goals repeat' first
      | with_reducible assumption
      | with_reducible apply ih
      | with_reducible apply keeps_progDone
      | with_reducible apply keeps_each
      | with_reducible apply keeps_nvUnits
      | with_reducible apply keeps_nvGo
      | with_reducible apply keeps_startProg
      | split
      | intro _
      | refine Keeps.of_snd (by assumption) ?_
  | succ n ih =>
    unfold State.settleChan
    try dsimp only
    all_goals repeat' first
      | with_reducible assumption
      | with_reducible apply ih
      | with_reducible apply keeps_progDone
      | with_reducible apply keeps_each
      | with_reducible apply keeps_nvUnits
      | with_reducible apply keeps_nvGo
      | with_reducible apply keeps_startProg
      | split
      | intro _
      | refine Keeps.of_snd (by assumption) ?_

theorem keeps_settleWrites {σ : State} (s : State) (h_s : Keeps σ s) : Keeps σ (State.settleWrites s) := by
  unfold State.settleWrites
  try dsimp only
  all_goals repeat' first
    | with_reducible assumption
    | with_reducible apply keeps_each
    | with_reducible apply keeps_settleChan
    | intro _

theorem keeps_destroyNs {σ : State} (s : State) (src : Src) (x : WNs) (old : NsSt) (h_s : Keeps σ s) : Keeps σ (State.destroyNs s src x old) := by
  unfold State.destroyNs
  try dsimp only
  all_goals repeat' first
    | with_reducible assumption
    | with_reducible apply keeps_settleWrites
    | with_reducible apply keeps_eraseNs
    | with_reducible apply keeps_modLinks
    | with_reducible apply keeps_modIngest
    | with_reducible apply keeps_dropNs
    | with_reducible apply keeps_putNs
    | with_reducible apply keeps_markNs
    | with_reducible apply keeps_nsEvent
    | split
    | intro _

theorem keeps_applyNs {σ : State} (s : State) (src : Src) (x : WNs) (h_s : Keeps σ s) : Keeps σ (State.applyNs s src x) := by
  unfold State.applyNs
  try dsimp only
  all_goals repeat' first
    | with_reducible assumption
    | with_reducible apply keeps_destroyNs
    | with_reducible apply keeps_modFlash
    | with_reducible apply keeps_markNs
    | with_reducible apply keeps_makeKey
    | with_reducible apply keeps_putNs
    | with_reducible apply KeepsI.map
    | split
    | intro _
    | refine Keeps.of_snd (by assumption) ?_

theorem keeps_keepNs {σ : State} (s : State) (src : Src) (n : NsSt) (h_s : Keeps σ s) : Keeps σ (State.keepNs s src n) := by
  unfold State.keepNs
  try dsimp only
  all_goals repeat' first
    | with_reducible assumption
    | with_reducible apply keeps_modFlash
    | with_reducible apply keeps_log
    | with_reducible apply keeps_markNs
    | with_reducible apply KeepsI.map
    | split
    | intro _

theorem keeps_applyNss {σ : State} (s : State) (src : Src) (img : WarpImg) (h_s : Keeps σ s) : Keeps σ (State.applyNss s src img) := by
  unfold State.applyNss
  try dsimp only
  all_goals repeat' first
    | with_reducible assumption
    | with_reducible apply keeps_each
    | with_reducible apply keeps_applyNs
    | with_reducible apply keeps_keepNs
    | with_reducible apply KeepsI.map
    | split
    | intro _

theorem keeps_applyLinks {σ : State} (s : State) (img : WarpImg) (structural : Bool) (h_s : Keeps σ s) : Keeps σ (State.applyLinks s img structural) := by
  unfold State.applyLinks
  try dsimp only
  all_goals repeat' first
    | with_reducible assumption
    | with_reducible apply keeps_each
    | with_reducible apply keeps_modLink
    | with_reducible apply keeps_modLinks
    | with_reducible apply KeepsI.getD
    | split
    | intro _

theorem keeps_loadField {σ : State} (s : State) (fs : FieldSet) (commit : Bool) (h_s : Keeps σ s) : Keeps σ (State.loadField s fs commit) := by
  unfold State.loadField
  try dsimp only
  all_goals repeat' first
    | with_reducible assumption
    | with_reducible apply keeps_modField
    | with_reducible apply KeepsI.map
    | with_reducible apply KeepsI.getD
    | intro _

theorem keeps_applyImage {σ : State} (s : State) (src : Src) (img : WarpImg) (structural : Bool) (h_s : Keeps σ s) : Keeps σ (State.applyImage s src img structural) := by
  unfold State.applyImage
  try dsimp only
  all_goals repeat' first
    | with_reducible assumption
    | with_reducible apply keeps_unloadModel
    | with_reducible apply keeps_applyRetire
    | with_reducible apply keeps_applyParts
    | with_reducible apply keeps_applyGroups
    | with_reducible apply keeps_applyTables
    | with_reducible apply keeps_applyFtl
    | with_reducible apply keeps_applyNss
    | with_reducible apply keeps_applyLinks
    | with_reducible apply keeps_loadField
    | with_reducible apply keeps_modWarp
    | split
    | intro _

theorem keeps_warpError {σ : State} (s : State) (status : Nat) (sec : Nat) (off : Nat) (h_s : Keeps σ s) : Keeps σ (State.warpError s status sec off) := by
  unfold State.warpError
  try dsimp only
  all_goals repeat' first
    | with_reducible assumption
    | with_reducible apply keeps_modWarp
    | intro _

theorem keeps_warpCopy {σ : State} (s : State) (src : Src) (job : Nat) (len : Nat) (pieces : List (Nat × Nat)) (bad : Option Nat) (h_s : Keeps σ s) : Keeps σ (State.warpCopy s src job len pieces bad) := by
  unfold State.warpCopy
  try dsimp only
  all_goals repeat' first
    | with_reducible assumption
    | with_reducible apply keeps_foldl
    | with_reducible apply keeps_foldl_snd
    | with_reducible apply keeps_foldl_fst
    | with_reducible apply keeps_piecesUe
    | with_reducible apply keeps_devUnread
    | with_reducible apply keeps_modWarp
    | with_reducible apply KeepsI.getD
    | with_reducible apply KeepsI.some
    | with_reducible apply KeepsI.none
    | split
    | intro _

theorem keeps_warpStageCsr {σ : State} (s : State) (src : Src) (h_s : Keeps σ s) : Keeps σ (State.warpStageCsr s src) := by
  unfold State.warpStageCsr
  try dsimp only
  all_goals repeat' first
    | with_reducible assumption
    | with_reducible apply keeps_warpCopy
    | split

theorem keeps_stageEnds {σ : State} (s : State) (src : Src) (job : Nat) (status : Nat) (h_s : Keeps σ s) : Keeps σ (State.stageEnds s src job status) := by
  unfold State.stageEnds
  try dsimp only
  all_goals repeat' first
    | with_reducible assumption
    | with_reducible apply keeps_endJob
    | with_reducible apply keeps_mbAnswer
    | with_reducible apply keeps_chainReply
    | with_reducible apply keeps_raise
    | split

theorem keeps_stageFails {σ : State} (s : State) (status : Nat) (sec : Nat) (off : Nat) (why : Nat) (h_s : Keeps σ s) : Keeps σ (State.stageFails s status sec off why) := by
  unfold State.stageFails
  try dsimp only
  all_goals repeat' first
    | with_reducible assumption
    | with_reducible apply keeps_warpError
    | with_reducible apply keeps_modWarp
    | with_reducible apply keeps_log
    | with_reducible apply keeps_stageEnds
    | split
    | intro _

theorem keeps_execStageComplete {σ : State} (h : Option HostErr) (s : State) (h_s : Keeps σ s) : KeepsO σ (execStageComplete h s) := by
  unfold execStageComplete
  try dsimp only
  all_goals repeat' first
    | with_reducible assumption
    | with_reducible apply keeps_stageFails
    | with_reducible apply keeps_modWarp
    | with_reducible apply keeps_log
    | with_reducible apply keeps_stageEnds
    | with_reducible apply KeepsO.next
    | split
    | intro _

theorem keeps_warpCommitBy {σ : State} (s : State) (src : Src) (h_s : Keeps σ s) : Keeps σ (State.warpCommitBy s src).2 := by
  unfold State.warpCommitBy
  try dsimp only
  all_goals repeat' first
    | with_reducible assumption
    | with_reducible apply keeps_warpError
    | with_reducible apply keeps_applyImage
    | with_reducible apply keeps_modWarp
    | with_reducible apply keeps_log
    | with_reducible apply keeps_raiseLevel
    | split
    | intro _

theorem keeps_warpResetBy {σ : State} (s : State) (src : Src) (h_s : Keeps σ s) : Keeps σ (State.warpResetBy s src).2 := by
  unfold State.warpResetBy
  try dsimp only
  all_goals repeat' first
    | with_reducible assumption
    | with_reducible apply keeps_warpError
    | with_reducible apply keeps_modWarp
    | with_reducible apply keeps_log
    | with_reducible apply KeepsI.map
    | with_reducible apply KeepsI.getD
    | split
    | intro _

theorem keeps_warpDiscardBy {σ : State} (s : State) (src : Src) (h_s : Keeps σ s) : Keeps σ (State.warpDiscardBy s src).2 := by
  unfold State.warpDiscardBy
  try dsimp only
  all_goals repeat' first
    | with_reducible assumption
    | with_reducible apply keeps_warpError
    | with_reducible apply keeps_modWarp
    | with_reducible apply keeps_log
    | split
    | intro _

theorem keeps_warpCtl {σ : State} (s : State) (src : Src) (v : Nat) (h_s : Keeps σ s) : Keeps σ (State.warpCtl s src v) := by
  unfold State.warpCtl
  try dsimp only
  all_goals repeat' first
    | with_reducible assumption
    | with_reducible apply keeps_modWarp
    | with_reducible apply keeps_raise
    | with_reducible apply keeps_warpStageCsr
    | with_reducible apply keeps_warpCommitBy
    | with_reducible apply keeps_warpResetBy
    | with_reducible apply keeps_warpDiscardBy
    | split
    | intro _

theorem keeps_execStage {σ : State} (s : State) (h_s : Keeps σ s) : KeepsO σ (execStage s) := by
  unfold execStage
  try dsimp only
  all_goals repeat' first
    | with_reducible assumption
    | with_reducible apply keeps_warpCtl
    | with_reducible apply KeepsO.next
    | split
    | intro _

theorem keeps_execCommit {σ : State} (s : State) (h_s : Keeps σ s) : KeepsO σ (execCommit s) := by
  unfold execCommit
  try dsimp only
  all_goals repeat' first
    | with_reducible assumption
    | with_reducible apply keeps_warpCtl
    | with_reducible apply KeepsO.next
    | split
    | intro _

theorem keeps_execStructReset {σ : State} (s : State) (h_s : Keeps σ s) : KeepsO σ (execStructReset s) := by
  unfold execStructReset
  try dsimp only
  all_goals repeat' first
    | with_reducible assumption
    | with_reducible apply keeps_warpCtl
    | with_reducible apply KeepsO.next
    | split
    | intro _

theorem keeps_execDiscard {σ : State} (s : State) (h_s : Keeps σ s) : KeepsO σ (execDiscard s) := by
  unfold execDiscard
  try dsimp only
  all_goals repeat' first
    | with_reducible assumption
    | with_reducible apply keeps_warpCtl
    | with_reducible apply KeepsO.next
    | split
    | intro _

theorem keeps_drainStop {σ : State} (s : State) (h_s : Keeps σ s) : Keeps σ (State.drainStop s) := by
  unfold State.drainStop
  try dsimp only
  all_goals repeat' first
    | with_reducible assumption
    | with_reducible apply keeps_each
    | with_reducible apply keeps_stopJob
    | with_reducible apply keeps_dropBatch
    | with_reducible apply keeps_log
    | with_reducible apply KeepsI.map
    | intro _

theorem keeps_structClear {σ : State} (s : State) (h_s : Keeps σ s) : Keeps σ (State.structClear s) := by
  unfold State.structClear
  try dsimp only
  all_goals repeat' first
    | with_reducible assumption
    | with_reducible apply keeps_each
    | with_reducible apply keeps_ptnReset
    | with_reducible apply keeps_setPtns
    | with_reducible apply keeps_setSync
    | with_reducible apply keeps_setNotice
    | with_reducible apply keeps_setMctok
    | with_reducible apply keeps_modSh
    | with_reducible apply keeps_modFab
    | with_reducible apply keeps_modSearch
    | with_reducible apply KeepsI.map
    | intro _

theorem keeps_structApply {σ : State} (s : State) (img : WarpImg) (staged : Bool) (h_s : Keeps σ s) : Keeps σ (State.structApply s img staged) := by
  unfold State.structApply
  try dsimp only
  all_goals repeat' first
    | with_reducible assumption
    | with_reducible apply keeps_modWarp
    | with_reducible apply keeps_applyImage
    | with_reducible apply keeps_notifyModule
    | with_reducible apply keeps_log
    | with_reducible apply keeps_nsEvent
    | with_reducible apply keeps_relevel
    | split
    | intro _

theorem keeps_execDrainWindowExpiry {σ : State} (s : State) (h_s : Keeps σ s) : KeepsO σ (execDrainWindowExpiry s) := by
  unfold execDrainWindowExpiry
  try dsimp only
  all_goals repeat' first
    | with_reducible assumption
    | with_reducible apply keeps_drainStop
    | with_reducible apply keeps_structClear
    | with_reducible apply keeps_structApply
    | with_reducible apply KeepsO.next
    | split
    | intro _

theorem keeps_execConfigStoreWrite {σ : State} (ok : Bool) (s : State) (h_s : Keeps σ s) : KeepsO σ (execConfigStoreWrite ok s) := by
  unfold execConfigStoreWrite
  try dsimp only
  all_goals repeat' first
    | with_reducible assumption
    | with_reducible apply keeps_modMgt
    | with_reducible apply keeps_modWarp
    | with_reducible apply KeepsI.map
    | with_reducible apply KeepsO.next
    | (intro _; rfl)
    | split
    | intro _

theorem keeps_lockClear {σ : State} (s : State) (h_s : Keeps σ s) : Keeps σ (State.lockClear s) := by
  unfold State.lockClear
  try dsimp only
  all_goals repeat' first
    | with_reducible assumption
    | with_reducible apply keeps_modWarp
    | intro _

theorem keeps_execLockerrClear {σ : State} (s : State) (h_s : Keeps σ s) : KeepsO σ (execLockerrClear s) := by
  unfold execLockerrClear
  try dsimp only
  all_goals repeat' first
    | with_reducible assumption
    | with_reducible apply keeps_lockClear
    | with_reducible apply KeepsO.next
    | split
    | intro _

theorem keeps_logRefused {σ : State} (s : State) (n : Nat) (why : Nat) (h_s : Keeps σ s) : Keeps σ (State.logRefused s n why) := by
  unfold State.logRefused
  try dsimp only
  all_goals repeat' first
    | with_reducible assumption
    | with_reducible apply keeps_log

theorem keeps_mgtStarts {σ : State} (s : State) (h_s : Keeps σ s) : Keeps σ (State.mgtStarts s) := by
  unfold State.mgtStarts
  try dsimp only
  all_goals repeat' first
    | with_reducible assumption
    | with_reducible apply keeps_loadField
    | with_reducible apply keeps_modField
    | with_reducible apply keeps_modMgt
    | with_reducible apply keeps_log
    | with_reducible apply keeps_relevel
    | (intro _; rfl)
    | split
    | intro _

theorem keeps_bootFrom {σ : State} (s : State) (n : Nat) (trialOk : Bool) (h_s : Keeps σ s) : Keeps σ (State.bootFrom s n trialOk) := by
  unfold State.bootFrom
  try dsimp only
  all_goals repeat' first
    | with_reducible assumption
    | with_reducible apply keeps_modMgt
    | with_reducible apply keeps_log
    | with_reducible apply keeps_mgtStarts
    | (intro _; rfl)
    | split
    | intro _

theorem keeps_bootMgt {σ : State} (s : State) (trialOk : Bool) (h_s : Keeps σ s) : Keeps σ (State.bootMgt s trialOk) := by
  unfold State.bootMgt
  try dsimp only
  all_goals repeat' first
    | with_reducible assumption
    | with_reducible apply keeps_modMgt
    | with_reducible apply keeps_bootFrom
    | with_reducible apply keeps_logRefused
    | with_reducible apply keeps_relevel
    | (intro _; rfl)
    | split
    | intro _

theorem keeps_execTrialTimeout {σ : State} (e : BootEnv) (s : State) (h_s : Keeps σ s) : KeepsO σ (execTrialTimeout e s) := by
  unfold execTrialTimeout
  try dsimp only
  all_goals repeat' first
    | with_reducible assumption
    | with_reducible apply keeps_modMgt
    | with_reducible apply keeps_logRefused
    | with_reducible apply keeps_bootMgt
    | with_reducible apply KeepsO.next
    | (intro _; rfl)
    | split
    | intro _

theorem keeps_moduleReset {σ : State} (s : State) (cause : Nat) (src : BitVec 16) (h_s : Keeps σ s) : Keeps σ (State.moduleReset s cause src) := by
  unfold State.moduleReset
  try dsimp only
  all_goals repeat' first
    | with_reducible assumption
    | with_reducible apply keeps_shutDomain
    | with_reducible apply keeps_fresh
    | with_reducible apply keeps_modMgt
    | with_reducible apply keeps_modField
    | with_reducible apply keeps_modChain
    | with_reducible apply keeps_modPwr
    | with_reducible apply keeps_bootMgt
    | with_reducible apply KeepsI.map
    | (intro _; rfl)
    | split
    | intro _

theorem keeps_toXclk {σ : State} (s : State) (h_s : Keeps σ s) : Keeps σ (State.toXclk s) := by
  unfold State.toXclk
  try dsimp only
  all_goals repeat' first
    | with_reducible assumption
    | with_reducible apply keeps_modClk
    | with_reducible apply keeps_modTime
    | with_reducible apply keeps_modField
    | with_reducible apply keeps_log
    | intro _

theorem keeps_lockBack {σ : State} (s : State) (h_s : Keeps σ s) : Keeps σ (State.lockBack s) := by
  unfold State.lockBack
  try dsimp only
  all_goals repeat' first
    | with_reducible assumption
    | with_reducible apply keeps_modClk
    | with_reducible apply keeps_modTime
    | with_reducible apply keeps_modField
    | split
    | intro _

theorem keeps_clocksFail {σ : State} (s : State) (clks : BitVec 6) (lockLost : Bool) (h_s : Keeps σ s) : Keeps σ (State.clocksFail s clks lockLost) := by
  unfold State.clocksFail
  try dsimp only
  all_goals repeat' first
    | with_reducible assumption
    | with_reducible apply keeps_modClk
    | with_reducible apply keeps_each
    | with_reducible apply keeps_log
    | with_reducible apply keeps_toXclk
    | split
    | intro _

theorem keeps_execClockFailure {σ : State} (clks : BitVec 6) (lockLost : Bool) (s : State) (h_s : Keeps σ s) : KeepsO σ (execClockFailure clks lockLost s) := by
  unfold execClockFailure
  try dsimp only
  all_goals repeat' first
    | with_reducible assumption
    | with_reducible apply keeps_clocksFail
    | with_reducible apply keeps_moduleReset
    | with_reducible apply KeepsO.next
    | split
    | intro _

theorem keeps_execPllLockRetry {σ : State} (locks : Bool) (s : State) (h_s : Keeps σ s) : KeepsO σ (execPllLockRetry locks s) := by
  unfold execPllLockRetry
  try dsimp only
  all_goals repeat' first
    | with_reducible assumption
    | with_reducible apply keeps_lockBack
    | with_reducible apply KeepsO.next
    | split
    | intro _

theorem keeps_execPllLockReturn {σ : State} (s : State) (h_s : Keeps σ s) : KeepsO σ (execPllLockReturn s) := by
  unfold execPllLockReturn
  try dsimp only
  all_goals repeat' first
    | with_reducible assumption
    | with_reducible apply keeps_lockBack
    | with_reducible apply KeepsO.next
    | split
    | intro _

theorem keeps_execXclkLoss {σ : State} (s : State) (h_s : Keeps σ s) : KeepsO σ (execXclkLoss s) := by
  unfold execXclkLoss
  try dsimp only
  all_goals repeat' first
    | with_reducible assumption
    | with_reducible apply keeps_modField
    | with_reducible apply KeepsO.next
    | intro _

theorem keeps_execXclkReturn {σ : State} (s : State) (h_s : Keeps σ s) : KeepsO σ (execXclkReturn s) := by
  unfold execXclkReturn
  try dsimp only
  all_goals repeat' first
    | with_reducible assumption
    | with_reducible apply keeps_modField
    | with_reducible apply keeps_loadField
    | with_reducible apply KeepsO.next
    | split
    | intro _

theorem keeps_kept {σ : State} (s : State) (h_s : Keeps σ s) : Keeps σ s.kept :=
  ⟨fun i => ⟨(h_s.inv i).1, Nat.zero_lt_succ _, Nat.zero_lt_succ _⟩, h_s.sec, h_s.cap⟩

theorem keeps_powerOn {σ : State} (s : State) (e : BootEnv) (cause : Nat) (src : BitVec 16) (h_s : Keeps σ s) : Keeps σ (State.powerOn s e cause src) := by
  unfold State.powerOn
  try dsimp only
  all_goals repeat' first
    | with_reducible assumption
    | with_reducible apply keeps_shutDomain
    | with_reducible apply keeps_logAll
    | with_reducible apply keeps_kept
    | with_reducible apply keeps_modPwr
    | with_reducible apply keeps_modClk
    | with_reducible apply keeps_clocksFail
    | with_reducible apply keeps_toXclk
    | with_reducible apply keeps_bootMgt
    | split
    | intro _

theorem keeps_execPowerOnReset {σ : State} (e : BootEnv) (s : State) (h_s : Keeps σ s) : KeepsO σ (execPowerOnReset e s) := by
  unfold execPowerOnReset
  try dsimp only
  all_goals repeat' first
    | with_reducible assumption
    | with_reducible apply keeps_powerOn
    | with_reducible apply KeepsO.next
    | intro _

theorem keeps_powerCycle {σ : State} (s : State) (cause : Nat) (src : BitVec 16) (h_s : Keeps σ s) : Keeps σ (State.powerCycle s cause src) := by
  unfold State.powerCycle
  try dsimp only
  all_goals repeat' first
    | with_reducible assumption
    | with_reducible apply keeps_fresh
    | with_reducible apply keeps_powerOn

theorem keeps_markLost {σ : State} (s : State) (u : DieUnit) (h_s : Keeps σ s) : Keeps σ (State.markLost s u) := by
  unfold State.markLost
  try dsimp only
  all_goals repeat' first
    | with_reducible assumption
    | with_reducible apply keeps_modPwr
    | with_reducible apply keeps_log
    | with_reducible apply keeps_modFcd
    | split
    | intro _

theorem keeps_memoryLost {σ : State} (s : State) (spans : List (Nat × Nat)) (h_s : Keeps σ s) : Keeps σ (State.memoryLost s spans) := by
  unfold State.memoryLost
  try dsimp only
  all_goals repeat' first
    | with_reducible assumption
    | with_reducible apply keeps_each
    | with_reducible apply keeps_stopJob
    | with_reducible apply keeps_unloadModel
    | split
    | intro _

theorem keeps_tileLost {σ : State} (s : State) (t : Nat) (h_s : Keeps σ s) : Keeps σ (State.tileLost s t) := by
  unfold State.tileLost
  try dsimp only
  all_goals repeat' first
    | with_reducible assumption
    | with_reducible apply keeps_each
    | with_reducible apply keeps_stopJob
    | with_reducible apply keeps_coreReset
    | with_reducible apply KeepsI.map
    | intro _

theorem keeps_dieLost {σ : State} (s : State) (u : DieUnit) (l : Nat) (h_s : Keeps σ s) : Keeps σ (State.dieLost s u l) := by
  unfold State.dieLost
  try dsimp only
  all_goals repeat' first
    | with_reducible assumption
    | with_reducible apply keeps_modPwr
    | with_reducible apply keeps_markLost
    | with_reducible apply keeps_moduleReset
    | with_reducible apply keeps_tileLost
    | with_reducible apply keeps_memoryLost
    | with_reducible apply keeps_each
    | with_reducible apply keeps_linkDown
    | with_reducible apply keeps_dropLevel
    | with_reducible apply keeps_shutDomain
    | with_reducible apply keeps_checkWarn
    | with_reducible apply KeepsI.map
    | split
    | intro _

theorem keeps_loseStacks {σ : State} (s : State) (h_s : Keeps σ s) : Keeps σ (State.loseStacks s) := by
  unfold State.loseStacks
  try dsimp only
  all_goals repeat' first
    | with_reducible assumption
    | with_reducible apply keeps_each
    | with_reducible apply keeps_dieLost
    | intro _

theorem keeps_execHealthPollMiss {σ : State} (u : DieUnit) (s : State) (h_s : Keeps σ s) : KeepsO σ (execHealthPollMiss u s) := by
  unfold execHealthPollMiss
  try dsimp only
  all_goals repeat' first
    | with_reducible assumption
    | with_reducible apply keeps_dieLost
    | with_reducible apply KeepsO.next
    | intro _

theorem keeps_execMgtWatchdogExpiry {σ : State} (s : State) (h_s : Keeps σ s) : KeepsO σ (execMgtWatchdogExpiry s) := by
  unfold execMgtWatchdogExpiry
  try dsimp only
  all_goals repeat' first
    | with_reducible assumption
    | with_reducible apply keeps_moduleReset
    | with_reducible apply KeepsO.next
    | intro _

theorem keeps_portFails {σ : State} (s : State) (p : Nat) (h_s : Keeps σ s) : Keeps σ (State.portFails s p) := by
  unfold State.portFails
  try dsimp only
  all_goals repeat' first
    | with_reducible assumption
    | with_reducible apply keeps_modPort
    | with_reducible apply keeps_log
    | with_reducible apply keeps_notifyModule
    | with_reducible apply keeps_portDrops
    | with_reducible apply keeps_pumpFabric
    | with_reducible apply keeps_dieLost
    | split
    | intro _

theorem keeps_restoreBooks {σ : State} (s : State) (p : Nat) (h_s : Keeps σ s) : Keeps σ (State.restoreBooks s p) := by
  unfold State.restoreBooks
  try dsimp only
  all_goals repeat' first
    | with_reducible assumption
    | with_reducible apply keeps_modFab
    | with_reducible apply KeepsI.map
    | split
    | intro _

theorem keeps_retrainPort {σ : State} (s : State) (p : Nat) (ok : Bool) (h_s : Keeps σ s) : Keeps σ (State.retrainPort s p ok) := by
  unfold State.retrainPort
  try dsimp only
  all_goals repeat' first
    | with_reducible assumption
    | with_reducible apply keeps_modPort
    | with_reducible apply keeps_portFails
    | with_reducible apply keeps_restoreBooks
    | with_reducible apply keeps_pumpFabric
    | with_reducible apply keeps_log
    | split
    | intro _

theorem keeps_retireLane {σ : State} (s : State) (p : Nat) (lane : Nat) (h_s : Keeps σ s) : Keeps σ (State.retireLane s p lane) := by
  unfold State.retireLane
  try dsimp only
  all_goals repeat' first
    | with_reducible assumption
    | with_reducible apply keeps_modPort
    | with_reducible apply keeps_log
    | with_reducible apply keeps_portFails
    | with_reducible apply keeps_resend
    | with_reducible apply keeps_pumpFabric
    | split
    | intro _

theorem keeps_execFlitCrcFail {σ : State} (port : Fin 31) (lane : Fin 48) (dir : Bool) (again : Bool) (retrain : Option Bool) (s : State) (h_s : Keeps σ s) : KeepsO σ (execFlitCrcFail port lane dir again retrain s) := by
  unfold execFlitCrcFail
  try dsimp only
  all_goals repeat' first
    | with_reducible assumption
    | with_reducible apply keeps_modPort
    | with_reducible apply keeps_logRated
    | with_reducible apply keeps_retireLane
    | with_reducible apply keeps_retrainPort
    | with_reducible apply KeepsO.next
    | split
    | intro _

theorem keeps_startUnits {σ : State} (s : State) (e : StartEnv) (h_s : Keeps σ s) : Keeps σ (State.startUnits s e) := by
  unfold State.startUnits
  try dsimp only
  all_goals repeat' first
    | with_reducible assumption
    | with_reducible apply keeps_modPwr
    | with_reducible apply keeps_modIngest
    | with_reducible apply keeps_modFlash
    | with_reducible apply keeps_modFab
    | with_reducible apply keeps_each
    | with_reducible apply keeps_log
    | with_reducible apply keeps_markLost
    | with_reducible apply KeepsI.map
    | with_reducible apply KeepsI.getD
    | split
    | intro _

theorem keeps_selfTest {σ : State} (s : State) (e : StartEnv) (c : Nat) (h_s : Keeps σ s) : Keeps σ (State.selfTest s e c) := by
  unfold State.selfTest
  try dsimp only
  all_goals repeat' first
    | with_reducible assumption
    | with_reducible apply keeps_modMgt
    | with_reducible apply keeps_modCore
    | with_reducible apply keeps_each
    | with_reducible apply keeps_log
    | with_reducible apply KeepsI.map
    | with_reducible apply KeepsI.getD
    | (intro _; rfl)
    | split
    | intro _

theorem keeps_loadKeys {σ : State} (s : State) (h_s : Keeps σ s) : Keeps σ (State.loadKeys s) := by
  unfold State.loadKeys
  try dsimp only
  all_goals repeat' first
    | with_reducible assumption
    | with_reducible apply keeps_modMgt
    | with_reducible apply KeepsI.map
    | (intro _; rfl)
    | intro _

theorem keeps_rebuild {σ : State} (s : State) (cut : Bool) (h_s : Keeps σ s) : Keeps σ (State.rebuild s cut) := by
  unfold State.rebuild
  try dsimp only
  all_goals repeat' first
    | with_reducible assumption
    | with_reducible apply keeps_fresh
    | with_reducible apply keeps_log
    | with_reducible apply keeps_modFlash
    | with_reducible apply keeps_each
    | with_reducible apply keeps_unmapAll
    | with_reducible apply keeps_modMgt
    | with_reducible apply keeps_modLinks
    | with_reducible apply KeepsI.map
    | (intro _; rfl)
    | split
    | intro _

theorem keeps_noImage {σ : State} (s : State) (h_s : Keeps σ s) : Keeps σ (State.noImage s) := by
  unfold State.noImage
  try dsimp only
  all_goals repeat' first
    | with_reducible assumption
    | with_reducible apply keeps_modFlash
    | with_reducible apply keeps_loadField
    | with_reducible apply KeepsI.map
    | with_reducible apply KeepsI.getD
    | intro _

theorem keeps_tryCopies {σ : State} (s : State) (a0 : List StoreCopy) (h_s : Keeps σ s) : Keeps σ (State.tryCopies s a0) := by
  induction a0 generalizing s with
  | nil =>
    unfold State.tryCopies
    try dsimp only
    all_goals repeat' first
      | with_reducible assumption
      | with_reducible apply ih
      | with_reducible apply keeps_noImage
      | with_reducible apply keeps_warpError
      | with_reducible apply keeps_log
      | with_reducible apply keeps_applyImage
      | with_reducible apply keeps_modWarp
      | with_reducible apply keeps_modMgt
      | (intro _; rfl)
      | split
      | intro _
  | cons x xs ih =>
    unfold State.tryCopies
    try dsimp only
    all_goals repeat' first
      | with_reducible assumption
      | with_reducible apply ih
      | with_reducible apply keeps_noImage
      | with_reducible apply keeps_warpError
      | with_reducible apply keeps_log
      | with_reducible apply keeps_applyImage
      | with_reducible apply keeps_modWarp
      | with_reducible apply keeps_modMgt
      | (intro _; rfl)
      | split
      | intro _

theorem keeps_finishStart {σ : State} (s : State) (h_s : Keeps σ s) : Keeps σ (State.finishStart s) := by
  unfold State.finishStart
  try dsimp only
  all_goals repeat' first
    | with_reducible assumption
    | with_reducible apply keeps_setLevel
    | with_reducible apply keeps_tryCopies
    | with_reducible apply keeps_raiseLevel
    | with_reducible apply keeps_checkWarn
    | split
    | intro _

theorem keeps_startFails {σ : State} (s : State) (h_s : Keeps σ s) : Keeps σ (State.startFails s) := by
  unfold State.startFails
  try dsimp only
  all_goals repeat' first
    | with_reducible assumption
    | with_reducible apply keeps_domainDown
    | with_reducible apply keeps_modPwr
    | with_reducible apply keeps_log
    | with_reducible apply keeps_moduleReset
    | split
    | intro _

theorem keeps_execDomainRestart {σ : State} (e : StartEnv) (s : State) (h_s : Keeps σ s) : KeepsO σ (execDomainRestart e s) := by
  unfold execDomainRestart
  try dsimp only
  all_goals repeat' first
    | with_reducible assumption
    | with_reducible apply keeps_modClk
    | with_reducible apply keeps_startUnits
    | with_reducible apply keeps_each
    | with_reducible apply keeps_selfTest
    | with_reducible apply keeps_startFails
    | with_reducible apply keeps_loadKeys
    | with_reducible apply keeps_rebuild
    | with_reducible apply keeps_finishStart
    | with_reducible apply KeepsO.next
    | split
    | intro _

theorem keeps_inputFails {σ : State} (s : State) (high : Bool) (h_s : Keeps σ s) : Keeps σ (State.inputFails s high) := by
  unfold State.inputFails
  try dsimp only
  all_goals repeat' first
    | with_reducible assumption
    | with_reducible apply keeps_modPwr
    | with_reducible apply keeps_log
    | with_reducible apply keeps_shutDomain
    | split
    | intro _

theorem keeps_execInput54vFail {σ : State} (high : Bool) (s : State) (h_s : Keeps σ s) : KeepsO σ (execInput54vFail high s) := by
  unfold execInput54vFail
  try dsimp only
  all_goals repeat' first
    | with_reducible assumption
    | with_reducible apply keeps_inputFails
    | with_reducible apply KeepsO.next
    | split
    | intro _

theorem keeps_execInput54vReturn {σ : State} (s : State) (h_s : Keeps σ s) : KeepsO σ (execInput54vReturn s) := by
  unfold execInput54vReturn
  try dsimp only
  all_goals repeat' first
    | with_reducible assumption
    | with_reducible apply keeps_modPwr
    | with_reducible apply keeps_moduleReset
    | with_reducible apply KeepsO.next
    | split
    | intro _

theorem keeps_execStandbyFail {σ : State} (s : State) (h_s : Keeps σ s) : KeepsO σ (execStandbyFail s) := by
  unfold execStandbyFail
  try dsimp only
  all_goals repeat' first
    | with_reducible assumption
    | with_reducible apply keeps_shutDomain
    | with_reducible apply keeps_modMgt
    | with_reducible apply keeps_setLevel
    | with_reducible apply keeps_logAll
    | with_reducible apply keeps_log
    | with_reducible apply keeps_modPwr
    | with_reducible apply keeps_modChain
    | with_reducible apply KeepsO.next
    | (intro _; rfl)
    | split
    | intro _

theorem keeps_execHoldupReady {σ : State} (s : State) (h_s : Keeps σ s) : KeepsO σ (execHoldupReady s) := by
  unfold execHoldupReady
  try dsimp only
  all_goals repeat' first
    | with_reducible assumption
    | with_reducible apply keeps_modPwr
    | with_reducible apply keeps_each
    | with_reducible apply keeps_startProg
    | with_reducible apply keeps_finishStart
    | with_reducible apply keeps_checkWarn
    | with_reducible apply KeepsO.next
    | split
    | intro _

theorem keeps_execHoldupFault {σ : State} (s : State) (h_s : Keeps σ s) : KeepsO σ (execHoldupFault s) := by
  unfold execHoldupFault
  try dsimp only
  all_goals repeat' first
    | with_reducible assumption
    | with_reducible apply keeps_modPwr
    | with_reducible apply keeps_log
    | with_reducible apply keeps_modFlash
    | with_reducible apply keeps_each
    | with_reducible apply keeps_nvEnd
    | with_reducible apply keeps_finishStart
    | with_reducible apply keeps_checkWarn
    | with_reducible apply KeepsI.map
    | with_reducible apply KeepsO.next
    | split
    | intro _

theorem keeps_execPowerCapStep {σ : State} (avg : BitVec 16) (s : State) (h_s : Keeps σ s) : KeepsO σ (execPowerCapStep avg s) := by
  unfold execPowerCapStep
  try dsimp only
  all_goals repeat' first
    | with_reducible assumption
    | with_reducible apply keeps_modPwr
    | with_reducible apply keeps_logRated
    | with_reducible apply KeepsO.next
    | split
    | intro _

theorem keeps_critical {σ : State} (s : State) (k : Nat) (h_s : Keeps σ s) : Keeps σ (State.critical s k) := by
  unfold State.critical
  try dsimp only
  all_goals repeat' first
    | with_reducible assumption
    | with_reducible apply keeps_dieLost
    | with_reducible apply keeps_moduleReset
    | with_reducible apply keeps_modPwr
    | with_reducible apply keeps_shutDomain
    | with_reducible apply keeps_each
    | with_reducible apply keeps_linkDown
    | with_reducible apply KeepsI.map
    | split
    | intro _

theorem keeps_tempWarn {σ : State} (s : State) (k : Nat) (h_s : Keeps σ s) : Keeps σ (State.tempWarn s k) := by
  unfold State.tempWarn
  try dsimp only
  all_goals repeat' first
    | with_reducible assumption
    | with_reducible apply keeps_logRated
    | with_reducible apply keeps_log
    | with_reducible apply keeps_notifyModule
    | split

theorem keeps_execTemperatureLimit {σ : State} (sensor : Fin 162) (limit : Fin 3) (s : State) (h_s : Keeps σ s) : KeepsO σ (execTemperatureLimit sensor limit s) := by
  unfold execTemperatureLimit
  try dsimp only
  all_goals repeat' first
    | with_reducible assumption
    | with_reducible apply keeps_modPwr
    | with_reducible apply keeps_tempWarn
    | with_reducible apply keeps_log
    | with_reducible apply keeps_critical
    | with_reducible apply KeepsO.next
    | split
    | intro _

theorem keeps_execTemperatureRelease {σ : State} (sensor : Fin 162) (limit : Fin 3) (s : State) (h_s : Keeps σ s) : KeepsO σ (execTemperatureRelease sensor limit s) := by
  unfold execTemperatureRelease
  try dsimp only
  all_goals repeat' first
    | with_reducible assumption
    | with_reducible apply keeps_modPwr
    | with_reducible apply keeps_each
    | with_reducible apply keeps_startProg
    | with_reducible apply KeepsI.map
    | with_reducible apply KeepsO.next
    | split
    | intro _

theorem keeps_execLowFlow {σ : State} (s : State) (h_s : Keeps σ s) : KeepsO σ (execLowFlow s) := by
  unfold execLowFlow
  try dsimp only
  all_goals repeat' first
    | with_reducible assumption
    | with_reducible apply keeps_log
    | with_reducible apply KeepsO.next
    | split
    | intro _

theorem keeps_execRailOutOfRange {σ : State} (rail : Fin 34) (high : Bool) (s : State) (h_s : Keeps σ s) : KeepsO σ (execRailOutOfRange rail high s) := by
  unfold execRailOutOfRange
  try dsimp only
  all_goals repeat' first
    | with_reducible assumption
    | with_reducible apply keeps_dieLost
    | with_reducible apply keeps_inputFails
    | with_reducible apply keeps_moduleReset
    | with_reducible apply keeps_loseStacks
    | with_reducible apply KeepsO.next
    | split
    | intro _

theorem keeps_sampleOne {σ : State} (s : State) (i : Nat) (v : Option (BitVec 32)) (h_s : Keeps σ s) : Keeps σ (State.sampleOne s i v) := by
  unfold State.sampleOne
  try dsimp only
  all_goals repeat' first
    | with_reducible assumption
    | with_reducible apply keeps_modMgt
    | with_reducible apply keeps_log
    | (intro _; rfl)
    | split
    | intro _

theorem keeps_checkInlet {σ : State} (s : State) (h_s : Keeps σ s) : Keeps σ (State.checkInlet s) := by
  unfold State.checkInlet
  try dsimp only
  all_goals repeat' first
    | with_reducible assumption
    | with_reducible apply keeps_modPwr
    | with_reducible apply keeps_log
    | with_reducible apply keeps_notifyModule
    | split
    | intro _

theorem keeps_checkCooled {σ : State} (s : State) (h_s : Keeps σ s) : Keeps σ (State.checkCooled s) := by
  unfold State.checkCooled
  try dsimp only
  all_goals repeat' first
    | with_reducible assumption
    | with_reducible apply keeps_modPwr
    | split
    | intro _

theorem keeps_execSensorSample {σ : State} (vals : List (Option (BitVec 32))) (s : State) (h_s : Keeps σ s) : KeepsO σ (execSensorSample vals s) := by
  unfold execSensorSample
  try dsimp only
  all_goals repeat' first
    | with_reducible assumption
    | with_reducible apply keeps_each
    | with_reducible apply keeps_sampleOne
    | with_reducible apply keeps_checkInlet
    | with_reducible apply keeps_checkCooled
    | with_reducible apply keeps_checkWarn
    | with_reducible apply KeepsO.next
    | split
    | intro _

theorem keeps_execEnergyEstimate {σ : State} (acts : List (Fin 32 × List Nat)) (s : State) (h_s : Keeps σ s) : KeepsO σ (execEnergyEstimate acts s) := by
  unfold execEnergyEstimate
  try dsimp only
  all_goals repeat' first
    | with_reducible assumption
    | with_reducible apply keeps_each
    | with_reducible apply keeps_modPtn
    | with_reducible apply KeepsO.next
    | split
    | intro _

theorem keeps_execEnergyReconcile {σ : State} (meas : Option Nat) (s : State) (h_s : Keeps σ s) : KeepsO σ (execEnergyReconcile meas s) := by
  unfold execEnergyReconcile
  try dsimp only
  all_goals repeat' first
    | with_reducible assumption
    | with_reducible apply keeps_setPtns
    | with_reducible apply keeps_modSh
    | with_reducible apply keeps_logRated
    | with_reducible apply KeepsI.map
    | with_reducible apply KeepsO.next
    | split
    | intro _

end Sys2Proof.Machine
end

