-- ==== Sys2Proof/Laws/Keeps5.lean ====
section
/-! SUPPORT. What the operations of these files of the model keep: Field, Request, Stream, Sched, Csr, RegWrite, Mgmt, Chain, CkptOps. -/

namespace Sys2Proof.Machine
open Sys2Proof

theorem keeps_execFieldSupplyLoss {σ : State} (s : State) (h_s : Keeps σ s) : KeepsO σ (execFieldSupplyLoss s) := by
  unfold execFieldSupplyLoss
  try dsimp only
  all_goals repeat' first
    | with_reducible assumption
    | with_reducible apply keeps_modField
    | with_reducible apply keeps_log
    | with_reducible apply KeepsO.next
    | split
    | intro _

theorem keeps_execFieldSupplyRestore {σ : State} (s : State) (h_s : Keeps σ s) : KeepsO σ (execFieldSupplyRestore s) := by
  unfold execFieldSupplyRestore
  try dsimp only
  all_goals repeat' first
    | with_reducible assumption
    | with_reducible apply keeps_modField
    | with_reducible apply keeps_log
    | with_reducible apply KeepsO.next
    | split
    | intro _

theorem keeps_execDoOverload {σ : State} (n : Fin 8) (s : State) (h_s : Keeps σ s) : KeepsO σ (execDoOverload n s) := by
  unfold execDoOverload
  try dsimp only
  all_goals repeat' first
    | with_reducible assumption
    | with_reducible apply keeps_modField
    | with_reducible apply keeps_log
    | with_reducible apply keeps_notifyModule
    | with_reducible apply KeepsO.next
    | split
    | intro _

theorem keeps_clearFaults {σ : State} (s : State) (mask : BitVec 8) (h_s : Keeps σ s) : Keeps σ (State.clearFaults s mask) := by
  unfold State.clearFaults
  try dsimp only
  all_goals repeat' first
    | with_reducible assumption
    | with_reducible apply keeps_modField
    | intro _

theorem keeps_execDoFaultClear {σ : State} (mask : BitVec 8) (s : State) (h_s : Keeps σ s) : KeepsO σ (execDoFaultClear mask s) := by
  unfold execDoFaultClear
  try dsimp only
  all_goals repeat' first
    | with_reducible assumption
    | with_reducible apply keeps_clearFaults
    | with_reducible apply KeepsO.next
    | split
    | intro _

theorem keeps_execFieldRingEnable {σ : State} (p : Fin 32) (v : BitVec 32) (s : State) (h_s : Keeps σ s) : KeepsO σ (execFieldRingEnable p v s) := by
  unfold execFieldRingEnable
  try dsimp only
  all_goals repeat' first
    | with_reducible assumption
    | with_reducible apply keeps_ringCfg
    | with_reducible apply KeepsO.next
    | split
    | intro _

theorem keeps_takeField {σ : State} (s : State) (p : Nat) (op : Nat) (run : List Byte → State → State) (h_s : Keeps σ s) (h_run : ∀ x0 x1, Keeps σ x1 → Keeps σ (run x0 x1)) : Keeps σ (State.takeField s p op run) := by
  unfold State.takeField
  try dsimp only
  all_goals repeat' first
    | with_reducible assumption
    | with_reducible apply keeps_takeRec
    | with_reducible apply keeps_ringSkip
    | with_reducible apply keeps_signalDone
    | with_reducible apply h_run
    | intro _

theorem keeps_execSlotWrite {σ : State} (p : Fin 32) (s : State) (h_s : Keeps σ s) : KeepsO σ (execSlotWrite p s) := by
  unfold execSlotWrite
  try dsimp only
  all_goals repeat' first
    | with_reducible assumption
    | with_reducible apply keeps_takeField
    | with_reducible apply keeps_modField
    | with_reducible apply KeepsO.next
    | split
    | intro _

theorem keeps_execDoWrite {σ : State} (p : Fin 32) (s : State) (h_s : Keeps σ s) : KeepsO σ (execDoWrite p s) := by
  unfold execDoWrite
  try dsimp only
  all_goals repeat' first
    | with_reducible assumption
    | with_reducible apply keeps_takeField
    | with_reducible apply keeps_modField
    | with_reducible apply keeps_modPtn
    | with_reducible apply KeepsO.next
    | intro _

theorem keeps_execWdog {σ : State} (p : Fin 32) (s : State) (h_s : Keeps σ s) : KeepsO σ (execWdog p s) := by
  unfold execWdog
  try dsimp only
  all_goals repeat' first
    | with_reducible assumption
    | with_reducible apply keeps_takeField
    | with_reducible apply keeps_modPtn
    | with_reducible apply KeepsO.next
    | split
    | intro _

theorem keeps_execFieldWatchdogExpiry {σ : State} (p : Fin 32) (s : State) (h_s : Keeps σ s) : KeepsO σ (execFieldWatchdogExpiry p s) := by
  unfold execFieldWatchdogExpiry
  try dsimp only
  all_goals repeat' first
    | with_reducible assumption
    | with_reducible apply keeps_modPtn
    | with_reducible apply keeps_log
    | with_reducible apply keeps_notify
    | with_reducible apply KeepsO.next
    | split
    | intro _

theorem keeps_execDiChange {σ : State} (n : Fin 8) (level : Bool) (s : State) (h_s : Keeps σ s) : KeepsO σ (execDiChange n level s) := by
  unfold execDiChange
  try dsimp only
  all_goals repeat' first
    | with_reducible assumption
    | with_reducible apply keeps_modField
    | with_reducible apply keeps_notify
    | with_reducible apply KeepsI.getD
    | with_reducible apply KeepsO.next
    | split
    | intro _

theorem keeps_modInh {σ : State} (s : State) (i : Nat) (f : InhSt → InhSt) (h_s : Keeps σ s) : Keeps σ (State.modInh s i f) := by
  unfold State.modInh
  try dsimp only
  all_goals repeat' first
    | with_reducible assumption
    | with_reducible apply keeps_modField
    | intro _

theorem keeps_execInhChannelChange {σ : State} (i : Fin 2) (chB : Bool) (released : Bool) (s : State) (h_s : Keeps σ s) : KeepsO σ (execInhChannelChange i chB released s) := by
  unfold execInhChannelChange
  try dsimp only
  all_goals repeat' first
    | with_reducible assumption
    | with_reducible apply keeps_modInh
    | with_reducible apply keeps_logRated
    | with_reducible apply KeepsO.next
    | split
    | intro _

theorem keeps_execInhDisagreeExpiry {σ : State} (i : Fin 2) (s : State) (h_s : Keeps σ s) : KeepsO σ (execInhDisagreeExpiry i s) := by
  unfold execInhDisagreeExpiry
  try dsimp only
  all_goals repeat' first
    | with_reducible assumption
    | with_reducible apply keeps_modInh
    | with_reducible apply keeps_log
    | with_reducible apply keeps_notifyModule
    | with_reducible apply KeepsO.next
    | split
    | intro _

theorem keeps_execInhAgreeExpiry {σ : State} (i : Fin 2) (s : State) (h_s : Keeps σ s) : KeepsO σ (execInhAgreeExpiry i s) := by
  unfold execInhAgreeExpiry
  try dsimp only
  all_goals repeat' first
    | with_reducible assumption
    | with_reducible apply keeps_modInh
    | with_reducible apply KeepsO.next
    | split
    | intro _

theorem keeps_inhAckOp {σ : State} (s : State) (i : Nat) (src : BitVec 16) (h_s : Keeps σ s) : Keeps σ (State.inhAckOp s i src).2 := by
  unfold State.inhAckOp
  try dsimp only
  all_goals repeat' first
    | with_reducible assumption
    | with_reducible apply keeps_modInh
    | with_reducible apply keeps_log
    | split
    | intro _

theorem keeps_execFieldInhAck {σ : State} (i : Fin 2) (s : State) (h_s : Keeps σ s) : KeepsO σ (execFieldInhAck i s) := by
  unfold execFieldInhAck
  try dsimp only
  all_goals repeat' first
    | with_reducible assumption
    | with_reducible apply keeps_inhAckOp
    | with_reducible apply KeepsO.next
    | split
    | intro _

theorem keeps_execButtonPress {σ : State} (s : State) (h_s : Keeps σ s) : KeepsO σ (execButtonPress s) := by
  unfold execButtonPress
  try dsimp only
  all_goals repeat' first
    | with_reducible assumption
    | with_reducible apply keeps_modField
    | with_reducible apply KeepsO.next
    | split
    | intro _

theorem keeps_execButtonRelease {σ : State} (holdMs : BitVec 30) (s : State) (h_s : Keeps σ s) : KeepsO σ (execButtonRelease holdMs s) := by
  unfold execButtonRelease
  try dsimp only
  all_goals repeat' first
    | with_reducible assumption
    | with_reducible apply keeps_modField
    | with_reducible apply keeps_log
    | with_reducible apply keeps_moduleReset
    | with_reducible apply keeps_powerCycle
    | with_reducible apply KeepsO.next
    | split
    | intro _

theorem keeps_execButtonStuck {σ : State} (s : State) (h_s : Keeps σ s) : KeepsO σ (execButtonStuck s) := by
  unfold execButtonStuck
  try dsimp only
  all_goals repeat' first
    | with_reducible assumption
    | with_reducible apply keeps_modField
    | with_reducible apply keeps_log
    | with_reducible apply KeepsO.next
    | split
    | intro _

theorem keeps_execButtonUnstick {σ : State} (s : State) (h_s : Keeps σ s) : KeepsO σ (execButtonUnstick s) := by
  unfold execButtonUnstick
  try dsimp only
  all_goals repeat' first
    | with_reducible assumption
    | with_reducible apply keeps_modField
    | with_reducible apply keeps_log
    | with_reducible apply KeepsO.next
    | split
    | intro _

theorem keeps_modEth {σ : State} (s : State) (i : Nat) (f : EthPort → EthPort) (h_s : Keeps σ s) : Keeps σ (State.modEth s i f) := by
  unfold State.modEth
  try dsimp only
  all_goals repeat' first
    | with_reducible assumption
    | with_reducible apply keeps_modField
    | intro _

theorem keeps_execFieldPortLink {σ : State} (port : Fin 2) (up : Bool) (s : State) (h_s : Keeps σ s) : KeepsO σ (execFieldPortLink port up s) := by
  unfold execFieldPortLink
  try dsimp only
  all_goals repeat' first
    | with_reducible assumption
    | with_reducible apply keeps_modEth
    | with_reducible apply keeps_linkUp
    | with_reducible apply KeepsO.next
    | split
    | intro _

theorem keeps_storeRecord {σ : State} (s : State) (b : Nat) (x : BindSt) (pos : Nat) (rec_ : List Byte) (h_s : Keeps σ s) : Keeps σ (State.storeRecord s b x pos rec_) := by
  unfold State.storeRecord
  try dsimp only
  all_goals repeat' first
    | with_reducible assumption
    | with_reducible apply keeps_reclaim
    | with_reducible apply keeps_modIngest
    | with_reducible apply keeps_log
    | with_reducible apply keeps_appendStore
    | split
    | intro _

theorem keeps_ingestPut {σ : State} (s : State) (x : BindSt) (o : Nat) (bs : List Byte) (h_s : Keeps σ s) : KeepsI σ (State.ingestPut s x o bs) := by
  unfold State.ingestPut
  try dsimp only
  all_goals repeat' first
    | with_reducible assumption
    | with_reducible apply keeps_bufXlate
    | with_reducible apply keeps_writePieces
    | with_reducible apply KeepsI.some
    | with_reducible apply KeepsI.none
    | split
    | refine Keeps.of_snd (by assumption) ?_

theorem keeps_ingestDrop {σ : State} (s : State) (b : Nat) (x : BindSt) (h_s : Keeps σ s) : Keeps σ (State.ingestDrop s b x) := by
  unfold State.ingestDrop
  try dsimp only
  all_goals repeat' first
    | with_reducible assumption
    | with_reducible apply keeps_modIngest
    | with_reducible apply keeps_ingestPut
    | with_reducible apply keeps_logRated
    | with_reducible apply KeepsI.getD
    | intro _
    | refine Keeps.of_some (by assumption) ?_

theorem keeps_ingestFrame {σ : State} (s : State) (b : Nat) (x : BindSt) (port : Nat) (f : List Byte) (h_s : Keeps σ s) :
    Keeps σ (s.ingestFrame b x port f) := by
  unfold State.ingestFrame
  extract_lets room n at_ pad used pos rec_ jp put
  refine keeps_ite (fun _ => keeps_ingestDrop _ _ _ h_s) fun _ => ?_
  have hp : KeepsI σ put := by
    have hj : ∀ t, Keeps σ t → KeepsI σ (jp t) := fun t ht =>
      KeepsI.bind (keeps_ingestPut _ _ _ _ ht) fun u hu => keeps_ingestPut _ _ _ _ hu
    show KeepsI σ (if pad = 0 then some s >>= jp else _ >>= jp)
    split
    · exact KeepsI.bind (KeepsI.some h_s) hj
    · exact KeepsI.bind (keeps_ingestPut _ _ _ _ h_s) hj
  clear_value put
  split
  · exact keeps_ingestDrop _ _ _ h_s
  · have h1 := hp _ rfl
    extract_lets s2 s3 s4
    have h2 : Keeps σ s2 := keeps_modIngest _ _ h1
    clear_value s2
    have h3 : Keeps σ s3 := keeps_ite (fun _ => h2) fun _ => keeps_storeRecord _ _ _ _ _ (keeps_flashWake _ h2)
    clear_value s3
    exact keeps_evalLevel _ _ _ _ (keeps_signalRel _ _ _ _ _ h3)

theorem keeps_execFieldFrameRx {σ : State} (port : Fin 2) (f : List (BitVec 8)) (fcsOk : Bool) (s : State) (h_s : Keeps σ s) : KeepsO σ (execFieldFrameRx port f fcsOk s) := by
  unfold execFieldFrameRx
  try dsimp only
  all_goals repeat' first
    | with_reducible assumption
    | with_reducible apply keeps_linkUp
    | with_reducible apply keeps_modEth
    | with_reducible apply keeps_each
    | with_reducible apply keeps_ingestFrame
    | with_reducible apply KeepsO.next
    | split
    | intro _

theorem keeps_execCyclicRequest {σ : State} (port : Fin 2) (s : State) (h_s : Keeps σ s) : KeepsO σ (execCyclicRequest port s) := by
  unfold execCyclicRequest
  try dsimp only
  all_goals repeat' first
    | with_reducible assumption
    | with_reducible apply keeps_modEth
    | with_reducible apply keeps_fresh
    | with_reducible apply KeepsO.next
    | split
    | intro _
    | refine Keeps.of_snd (by assumption) ?_

theorem keeps_execCyclicReplyTransmit {σ : State} (port : Fin 2) (late : Bool) (s : State) (h_s : Keeps σ s) : KeepsO σ (execCyclicReplyTransmit port late s) := by
  unfold execCyclicReplyTransmit
  try dsimp only
  all_goals repeat' first
    | with_reducible assumption
    | with_reducible apply keeps_modEth
    | with_reducible apply keeps_logRated
    | with_reducible apply KeepsO.next
    | split
    | intro _

theorem keeps_execQbvListActivate {σ : State} (port : Fin 2) (s : State) (h_s : Keeps σ s) : KeepsO σ (execQbvListActivate port s) := by
  unfold execQbvListActivate
  try dsimp only
  all_goals repeat' first
    | with_reducible assumption
    | with_reducible apply keeps_modEth
    | with_reducible apply KeepsO.next
    | split
    | intro _

theorem keeps_execXreqEnable {σ : State} (p : Fin 32) (v : BitVec 32) (s : State) (h_s : Keeps σ s) : KeepsO σ (execXreqEnable p v s) := by
  unfold execXreqEnable
  try dsimp only
  all_goals repeat' first
    | with_reducible assumption
    | with_reducible apply keeps_ringCfg
    | with_reducible apply KeepsO.next
    | split
    | intro _

theorem keeps_takeXreq {σ : State} (s : State) (p : Nat) (op : Nat) (run : Nat → XReq → State → State) (h_s : Keeps σ s) (h_run : ∀ x0 x1 x2, Keeps σ x2 → Keeps σ (run x0 x1 x2)) : Keeps σ (State.takeXreq s p op run) := by
  unfold State.takeXreq
  try dsimp only
  all_goals repeat' first
    | with_reducible assumption
    | with_reducible apply keeps_takeRec
    | with_reducible apply keeps_ringSkip
    | with_reducible apply h_run
    | intro _

theorem keeps_settleShoots {σ : State} (p : Nat) (a0 : List Shoot) (a1 : State) (h_a1 : Keeps σ a1) : Keeps σ (settleShoots p a0 a1) := by
  induction a0 generalizing p a1 with
  | nil =>
    unfold settleShoots
    try dsimp only
    all_goals repeat' first
      | with_reducible assumption
      | with_reducible apply ih
      | with_reducible apply keeps_modXl
      | with_reducible apply keeps_signalDone
      | split
      | intro _
  | cons x xs ih =>
    unfold settleShoots
    try dsimp only
    all_goals repeat' first
      | with_reducible assumption
      | with_reducible apply ih
      | with_reducible apply keeps_modXl
      | with_reducible apply keeps_signalDone
      | split
      | intro _

theorem keeps_settle {σ : State} (s : State) (p : Nat) (h_s : Keeps σ s) : Keeps σ (State.settle s p) := by
  unfold State.settle
  try dsimp only
  all_goals repeat' first
    | with_reducible assumption
    | with_reducible apply keeps_settleShoots

theorem keeps_addShoot {σ : State} (s : State) (q : Shoot) (h_s : Keeps σ s) : Keeps σ (State.addShoot s q) := by
  unfold State.addShoot
  try dsimp only
  all_goals repeat' first
    | with_reducible assumption
    | with_reducible apply keeps_modXl
    | with_reducible apply keeps_settle
    | intro _

theorem keeps_execShootRange {σ : State} (p : Fin 32) (s : State) (h_s : Keeps σ s) : KeepsO σ (execShootRange p s) := by
  unfold execShootRange
  try dsimp only
  all_goals repeat' first
    | with_reducible assumption
    | with_reducible apply keeps_takeXreq
    | with_reducible apply keeps_addShoot
    | with_reducible apply KeepsO.next
    | intro _

theorem keeps_execShootAll {σ : State} (p : Fin 32) (s : State) (h_s : Keeps σ s) : KeepsO σ (execShootAll p s) := by
  unfold execShootAll
  try dsimp only
  all_goals repeat' first
    | with_reducible assumption
    | with_reducible apply keeps_takeXreq
    | with_reducible apply keeps_addShoot
    | with_reducible apply KeepsO.next
    | intro _

theorem keeps_invalidate {σ : State} (s : State) (p : Nat) (agent : Nat) (lo : Nat) (hi : Nat) (h_s : Keeps σ s) : Keeps σ (State.invalidate s p agent lo hi) := by
  unfold State.invalidate
  try dsimp only
  all_goals repeat' first
    | with_reducible assumption
    | with_reducible apply keeps_modXl
    | with_reducible apply keeps_modCore
    | split
    | intro _

theorem keeps_pinCore {σ : State} (s : State) (p : Nat) (c : Nat) (va : Nat) (h_s : Keeps σ s) : Keeps σ (State.pinCore s p c va) := by
  unfold State.pinCore
  try dsimp only
  all_goals repeat' first
    | with_reducible assumption
    | with_reducible apply keeps_walk
    | with_reducible apply keeps_modXl
    | split
    | intro _
    | refine Keeps.of_snd (by assumption) ?_

theorem keeps_pinRefresh {σ : State} (s : State) (p : Nat) (h_s : Keeps σ s) : Keeps σ (State.pinRefresh s p) := by
  unfold State.pinRefresh
  try dsimp only
  all_goals repeat' first
    | with_reducible assumption
    | with_reducible apply keeps_modPtn
    | with_reducible apply KeepsI.map
    | intro _

theorem keeps_execShootdownAck {σ : State} (p : Fin 32) (agent : Fin 65) (s : State) (h_s : Keeps σ s) : KeepsO σ (execShootdownAck p agent s) := by
  unfold execShootdownAck
  try dsimp only
  all_goals repeat' first
    | with_reducible assumption
    | with_reducible apply keeps_invalidate
    | with_reducible apply keeps_modXl
    | with_reducible apply keeps_each
    | with_reducible apply keeps_pinCore
    | with_reducible apply keeps_pinRefresh
    | with_reducible apply keeps_settle
    | with_reducible apply KeepsO.next
    | split
    | intro _

theorem keeps_execResume {σ : State} (p : Fin 32) (s : State) (h_s : Keeps σ s) : KeepsO σ (execResume p s) := by
  unfold execResume
  try dsimp only
  all_goals repeat' first
    | with_reducible assumption
    | with_reducible apply keeps_takeXreq
    | with_reducible apply keeps_resumeAgent
    | with_reducible apply keeps_modPtn
    | with_reducible apply keeps_addShoot
    | with_reducible apply KeepsO.next
    | split
    | intro _

theorem keeps_execResumePage {σ : State} (p : Fin 32) (s : State) (h_s : Keeps σ s) : KeepsO σ (execResumePage p s) := by
  unfold execResumePage
  try dsimp only
  all_goals repeat' first
    | with_reducible assumption
    | with_reducible apply keeps_takeXreq
    | with_reducible apply keeps_each
    | with_reducible apply keeps_resumeAgent
    | with_reducible apply keeps_addShoot
    | with_reducible apply KeepsO.next
    | intro _

theorem keeps_execAbortAgent {σ : State} (p : Fin 32) (s : State) (h_s : Keeps σ s) : KeepsO σ (execAbortAgent p s) := by
  unfold execAbortAgent
  try dsimp only
  all_goals repeat' first
    | with_reducible assumption
    | with_reducible apply keeps_takeXreq
    | with_reducible apply keeps_abortHalted
    | with_reducible apply keeps_modPtn
    | with_reducible apply keeps_addShoot
    | with_reducible apply KeepsO.next
    | split
    | intro _

theorem keeps_moveFails {σ : State} (s : State) (p : Nat) (slot : Nat) (va : Nat) (h_s : Keeps σ s) : Keeps σ (State.moveFails s p slot va) := by
  unfold State.moveFails
  try dsimp only
  all_goals repeat' first
    | with_reducible assumption
    | with_reducible apply keeps_notify

theorem keeps_moveFault {σ : State} (s : State) (p : Nat) (slot : Nat) (va : Nat) (kind : Nat) (level : Nat) (h_s : Keeps σ s) : Keeps σ (State.moveFault s p slot va kind level) := by
  unfold State.moveFault
  try dsimp only
  all_goals repeat' first
    | with_reducible assumption
    | with_reducible apply keeps_noteFault
    | with_reducible apply keeps_moveFails

theorem keeps_execMovePage {σ : State} (p : Fin 32) (s : State) (h_s : Keeps σ s) : KeepsO σ (execMovePage p s) := by
  unfold execMovePage
  try dsimp only
  all_goals repeat' first
    | with_reducible assumption
    | with_reducible apply keeps_takeXreq
    | with_reducible apply keeps_moveFails
    | with_reducible apply keeps_walk
    | with_reducible apply keeps_moveFault
    | with_reducible apply keeps_paWrite
    | with_reducible apply keeps_chargeMem
    | with_reducible apply keeps_modXl
    | with_reducible apply keeps_addShoot
    | with_reducible apply KeepsO.next
    | split
    | intro _
    | refine Keeps.of_snd (by assumption) ?_

theorem keeps_execMoveCopyDone {σ : State} (p : Fin 32) (s : State) (h_s : Keeps σ s) : KeepsO σ (execMoveCopyDone p s) := by
  unfold execMoveCopyDone
  try dsimp only
  all_goals repeat' first
    | with_reducible assumption
    | with_reducible apply keeps_modXl
    | with_reducible apply keeps_paReadFx
    | with_reducible apply keeps_paWrite
    | with_reducible apply keeps_chargeMem
    | with_reducible apply keeps_settle
    | with_reducible apply keeps_linesUe
    | with_reducible apply keeps_moveFails
    | with_reducible apply KeepsO.next
    | split
    | intro _

theorem keeps_modStrm {σ : State} (s : State) (c : Nat) (e : Nat) (f : StreamSt → StreamSt) (h_s : Keeps σ s) : Keeps σ (State.modStrm s c e f) := by
  unfold State.modStrm
  try dsimp only
  all_goals repeat' first
    | with_reducible assumption
    | with_reducible apply keeps_modCore
    | intro _

theorem keeps_modMct {σ : State} (s : State) (g : Nat) (f : McastTok → McastTok) (h_s : Keeps σ s) : Keeps σ (State.modMct s g f) := by
  unfold State.modMct
  try dsimp only
  all_goals repeat' first
    | with_reducible assumption
    | with_reducible apply keeps_setMctok

theorem keeps_modMember {σ : State} (s : State) (g : Nat) (c : Nat) (e : Nat) (f : StreamSt → StreamSt) (h_s : Keeps σ s) : Keeps σ (State.modMember s g c e f) := by
  unfold State.modMember
  try dsimp only
  all_goals repeat' first
    | with_reducible assumption
    | with_reducible apply keeps_modCore
    | split
    | intro _

theorem keeps_rowXlate {σ : State} (p : Nat) (c : Nat) (need : Need) (a0 : List (Option Nat × Nat)) (a1 : List (Option Nat × Nat)) (a2 : List Nat) (a3 : State) (h_a3 : Keeps σ a3) : Keeps σ (rowXlate p c need a0 a1 a2 a3).2 := by
  induction a0 generalizing a1 a2 a3 with
  | nil  =>
    unfold rowXlate
    try dsimp only
    all_goals repeat' first
      | with_reducible assumption
  | cons x xs ih =>
    rcases x with ⟨_ | pa, n⟩
    all_goals
    unfold rowXlate
    try dsimp only
    all_goals repeat' first
      | with_reducible assumption
      | with_reducible apply ih
      | with_reducible apply keeps_translate
      | split
      | refine Keeps.of_snd (by assumption) ?_

theorem keeps_streamFault {σ : State} (s : State) (c : Nat) (e : Nat) (va : Nat) (kind : Nat) (level : Nat) (h_s : Keeps σ s) : Keeps σ (State.streamFault s c e va kind level) := by
  unfold State.streamFault
  try dsimp only
  all_goals repeat' first
    | with_reducible assumption
    | with_reducible apply keeps_takeFault
    | with_reducible apply keeps_modStrm
    | with_reducible apply keeps_mcHalt
    | with_reducible apply keeps_kindFault
    | split
    | intro _
    | refine Keeps.of_snd (by assumption) ?_

theorem keeps_mcStartTile {σ : State} (s : State) (g : Nat) (h_s : Keeps σ s) : Keeps σ (State.mcStartTile s g) := by
  unfold State.mcStartTile
  try dsimp only
  all_goals repeat' first
    | with_reducible assumption
    | with_reducible apply keeps_modMct
    | with_reducible apply keeps_each
    | with_reducible apply keeps_modMember
    | with_reducible apply KeepsI.map
    | intro _

theorem keeps_pump {σ : State} (c : Nat) (e : Nat) (a0 : Nat) (a1 : State) (h_a1 : Keeps σ a1) : Keeps σ (pump c e a0 a1) := by
  induction a0 generalizing c e a1 with
  | zero =>
    unfold pump
    try dsimp only
    all_goals repeat' first
      | with_reducible assumption
      | with_reducible apply ih
      | with_reducible apply keeps_fresh
      | with_reducible apply keeps_spadUe
      | with_reducible apply keeps_ueEvent
      | with_reducible apply keeps_threadUncorrectable
      | with_reducible apply keeps_rowXlate
      | with_reducible apply keeps_mcStartTile
      | with_reducible apply keeps_modStrm
      | with_reducible apply keeps_streamFault
      | split
      | intro _
      | refine Keeps.of_snd (by assumption) ?_
  | succ n ih =>
    unfold pump
    try dsimp only
    all_goals repeat' first
      | with_reducible assumption
      | with_reducible apply ih
      | with_reducible apply keeps_fresh
      | with_reducible apply keeps_spadUe
      | with_reducible apply keeps_ueEvent
      | with_reducible apply keeps_threadUncorrectable
      | with_reducible apply keeps_rowXlate
      | with_reducible apply keeps_mcStartTile
      | with_reducible apply keeps_modStrm
      | with_reducible apply keeps_streamFault
      | split
      | intro _
      | refine Keeps.of_snd (by assumption) ?_

theorem keeps_startStream {σ : State} (s : State) (c : Nat) (e : Nat) (q : QEntry) (h_s : Keeps σ s) : Keeps σ (State.startStream s c e q) := by
  unfold State.startStream
  try dsimp only
  all_goals repeat' first
    | with_reducible assumption
    | with_reducible apply keeps_modStrm
    | with_reducible apply keeps_syncArrive
    | with_reducible apply keeps_modMct
    | with_reducible apply keeps_pump
    | split
    | intro _

theorem keeps_streamOp {σ : State} (s : State) (c : Nat) (e : Nat) (mode : Nat) (h_s : Keeps σ s) : Keeps σ (State.streamOp s c e mode) := by
  unfold State.streamOp
  try dsimp only
  all_goals repeat' first
    | with_reducible assumption
    | with_reducible apply keeps_takeEntry
    | with_reducible apply keeps_programFault
    | with_reducible apply keeps_startStream
    | split
    | intro _

theorem keeps_execStreamLoad {σ : State} (c : Fin 64) (e : Fin 2) (s : State) (h_s : Keeps σ s) : KeepsO σ (execStreamLoad c e s) := by
  unfold execStreamLoad
  try dsimp only
  all_goals repeat' first
    | with_reducible assumption
    | with_reducible apply keeps_streamOp
    | with_reducible apply KeepsO.next
    | intro _

theorem keeps_execStreamStore {σ : State} (c : Fin 64) (e : Fin 2) (s : State) (h_s : Keeps σ s) : KeepsO σ (execStreamStore c e s) := by
  unfold execStreamStore
  try dsimp only
  all_goals repeat' first
    | with_reducible assumption
    | with_reducible apply keeps_streamOp
    | with_reducible apply KeepsO.next
    | intro _

theorem keeps_execStreamGather {σ : State} (c : Fin 64) (e : Fin 2) (s : State) (h_s : Keeps σ s) : KeepsO σ (execStreamGather c e s) := by
  unfold execStreamGather
  try dsimp only
  all_goals repeat' first
    | with_reducible assumption
    | with_reducible apply keeps_streamOp
    | with_reducible apply KeepsO.next
    | intro _

theorem keeps_execMcLead {σ : State} (c : Fin 64) (e : Fin 2) (s : State) (h_s : Keeps σ s) : KeepsO σ (execMcLead c e s) := by
  unfold execMcLead
  try dsimp only
  all_goals repeat' first
    | with_reducible assumption
    | with_reducible apply keeps_streamOp
    | with_reducible apply KeepsO.next
    | intro _

theorem keeps_execMcJoin {σ : State} (c : Fin 64) (e : Fin 2) (s : State) (h_s : Keeps σ s) : KeepsO σ (execMcJoin c e s) := by
  unfold execMcJoin
  try dsimp only
  all_goals repeat' first
    | with_reducible assumption
    | with_reducible apply keeps_streamOp
    | with_reducible apply keeps_pump
    | with_reducible apply KeepsO.next
    | split
    | intro _

theorem keeps_settleTiles {σ : State} (c : Nat) (e : Nat) (a0 : Nat) (a1 : State) (h_a1 : Keeps σ a1) : Keeps σ (settleTiles c e a0 a1) := by
  induction a0 generalizing c e a1 with
  | zero =>
    unfold settleTiles
    try dsimp only
    all_goals repeat' first
      | with_reducible assumption
      | with_reducible apply ih
      | with_reducible apply keeps_modStrm
      | with_reducible apply keeps_syncArrive
      | with_reducible apply keeps_dropWaiter
      | with_reducible apply keeps_completeOp
      | split
      | intro _
  | succ n ih =>
    unfold settleTiles
    try dsimp only
    all_goals repeat' first
      | with_reducible assumption
      | with_reducible apply ih
      | with_reducible apply keeps_modStrm
      | with_reducible apply keeps_syncArrive
      | with_reducible apply keeps_dropWaiter
      | with_reducible apply keeps_completeOp
      | split
      | intro _

theorem keeps_writeParts {σ : State} (a0 : List (Option Nat × Nat)) (a1 : List Byte) (a2 : State) (h_a2 : Keeps σ a2) : Keeps σ (writeParts a0 a1 a2) := by
  induction a0 generalizing a1 a2 with
  | nil  =>
    unfold writeParts
    try dsimp only
    all_goals repeat' first
      | with_reducible assumption
  | cons x xs ih =>
    rcases x with ⟨_ | pa, n⟩
    all_goals
    unfold writeParts
    try dsimp only
    all_goals repeat' first
      | with_reducible assumption
      | with_reducible apply ih
      | with_reducible apply keeps_paWrite

theorem keeps_chargeRow {σ : State} (s : State) (p : Nat) (ps : List (Option Nat × Nat)) (h_s : Keeps σ s) : Keeps σ (State.chargeRow s p ps) := by
  unfold State.chargeRow
  try dsimp only
  all_goals repeat' first
    | with_reducible assumption
    | with_reducible apply keeps_each
    | with_reducible apply keeps_chargeMem
    | split
    | intro _

theorem keeps_rowReadFx {σ : State} (s : State) (ps : List (Option Nat × Nat)) (h_s : Keeps σ s) : Keeps σ (State.rowReadFx s ps) := by
  unfold State.rowReadFx
  try dsimp only
  all_goals repeat' first
    | with_reducible assumption
    | with_reducible apply keeps_each
    | with_reducible apply keeps_paReadFx
    | split
    | intro _

theorem keeps_mcDeliver {σ : State} (s : State) (g : Nat) (tile : Nat) (row : Nat) (bs : List Byte) (poison : Bool) (h_s : Keeps σ s) : Keeps σ (State.mcDeliver s g tile row bs poison) := by
  unfold State.mcDeliver
  try dsimp only
  all_goals repeat' first
    | with_reducible assumption
    | with_reducible apply keeps_modFab
    | with_reducible apply keeps_each
    | with_reducible apply keeps_modCore
    | with_reducible apply keeps_modMember
    | split
    | intro _

theorem keeps_landRow {σ : State} (s : State) (c : Nat) (e : Nat) (h_s : Keeps σ s) : Keeps σ (State.landRow s c e) := by
  unfold State.landRow
  try dsimp only
  all_goals repeat' first
    | with_reducible assumption
    | with_reducible apply keeps_modCore
    | with_reducible apply keeps_saveInPlace
    | with_reducible apply keeps_chargeRow
    | with_reducible apply keeps_spadUe
    | with_reducible apply keeps_ueEvent
    | with_reducible apply keeps_threadUncorrectable
    | with_reducible apply keeps_writeParts
    | with_reducible apply keeps_programFault
    | with_reducible apply keeps_rowReadFx
    | with_reducible apply keeps_mcDeliver
    | split
    | intro _

theorem keeps_afterLanding {σ : State} (s : State) (c : Nat) (e : Nat) (h_s : Keeps σ s) : Keeps σ (State.afterLanding s c e) := by
  unfold State.afterLanding
  try dsimp only
  all_goals repeat' first
    | with_reducible assumption
    | with_reducible apply keeps_settleTiles
    | with_reducible apply keeps_each
    | with_reducible apply keeps_setMctok
    | split
    | intro _

theorem keeps_serveRow {σ : State} (s0 : State) (c : Nat) (e : Nat) (h_s0 : Keeps σ s0) : Keeps σ (State.serveRow s0 c e) := by
  unfold State.serveRow
  try dsimp only
  all_goals repeat' first
    | with_reducible assumption
    | with_reducible apply keeps_unheld
    | with_reducible apply keeps_pump
    | with_reducible apply keeps_each
    | with_reducible apply keeps_programFault
    | with_reducible apply keeps_landRow
    | with_reducible apply keeps_afterLanding
    | with_reducible apply KeepsI.map
    | split
    | intro _

theorem keeps_execStreamRowLanded {σ : State} (c : Fin 64) (e : Fin 2) (hits : List MemHit) (s : State) (h_s : Keeps σ s) : KeepsO σ (execStreamRowLanded c e hits s) := by
  unfold execStreamRowLanded
  try dsimp only
  all_goals repeat' first
    | with_reducible assumption
    | with_reducible apply keeps_pump
    | with_reducible apply keeps_memHits
    | with_reducible apply keeps_holdRequest
    | with_reducible apply keeps_serveRow
    | with_reducible apply KeepsO.next
    | split
    | intro _

theorem keeps_execFetchToken {σ : State} (g : Fin 32) (c : Fin 64) (s : State) (h_s : Keeps σ s) : KeepsO σ (execFetchToken g c s) := by
  unfold execFetchToken
  try dsimp only
  all_goals repeat' first
    | with_reducible assumption
    | with_reducible apply keeps_modMct
    | with_reducible apply keeps_pump
    | with_reducible apply KeepsO.next
    | split
    | intro _

theorem keeps_bobFault {σ : State} (s : State) (c : Nat) (q : QEntry) (va : Nat) (kind : Nat) (access : Nat) (level : Nat) (h_s : Keeps σ s) : Keeps σ (State.bobFault s c q va kind access level) := by
  unfold State.bobFault
  try dsimp only
  all_goals repeat' first
    | with_reducible assumption
    | with_reducible apply keeps_takeFault
    | with_reducible apply keeps_modCore
    | with_reducible apply keeps_kindFault
    | split
    | intro _
    | refine Keeps.of_snd (by assumption) ?_

theorem keeps_bobMove {σ : State} (s : State) (c : Nat) (q : QEntry) (h_s : Keeps σ s) : Keeps σ (State.bobMove s c q) := by
  unfold State.bobMove
  try dsimp only
  all_goals repeat' first
    | with_reducible assumption
    | with_reducible apply keeps_programFault
    | with_reducible apply keeps_engXlate
    | with_reducible apply keeps_bobFault
    | with_reducible apply keeps_modCore
    | with_reducible apply keeps_threadUncorrectable
    | with_reducible apply keeps_holdRequest
    | with_reducible apply keeps_unheld
    | with_reducible apply keeps_spadUe
    | with_reducible apply keeps_ueEvent
    | with_reducible apply keeps_linesUe
    | with_reducible apply keeps_sendRemote
    | with_reducible apply keeps_paReadFx
    | with_reducible apply keeps_chargeMem
    | with_reducible apply keeps_paWrite
    | with_reducible apply KeepsI.getD
    | with_reducible apply KeepsI.some
    | with_reducible apply KeepsI.none
    | split
    | intro _
    | refine Keeps.of_snd (by assumption) ?_

theorem keeps_bobbinGo {σ : State} (s : State) (c : Nat) (h_s : Keeps σ s) : Keeps σ (State.bobbinGo s c) := by
  unfold State.bobbinGo
  try dsimp only
  all_goals repeat' first
    | with_reducible assumption
    | with_reducible apply keeps_modCore
    | with_reducible apply keeps_bobMove
    | with_reducible apply keeps_takeEntry
    | split
    | intro _

theorem keeps_execBobbin {σ : State} (c : Fin 64) (s : State) (h_s : Keeps σ s) : KeepsO σ (execBobbin c s) := by
  unfold execBobbin
  try dsimp only
  all_goals repeat' first
    | with_reducible assumption
    | with_reducible apply keeps_bobbinGo
    | with_reducible apply KeepsO.next
    | intro _

theorem keeps_execBobbinComplete {σ : State} (c : Fin 64) (s : State) (h_s : Keeps σ s) : KeepsO σ (execBobbinComplete c s) := by
  unfold execBobbinComplete
  try dsimp only
  all_goals repeat' first
    | with_reducible assumption
    | with_reducible apply keeps_modCore
    | with_reducible apply keeps_completeOp
    | with_reducible apply KeepsO.next
    | split
    | intro _

theorem keeps_streamGoesOn {σ : State} (s : State) (c : Nat) (e : Nat) (h_s : Keeps σ s) : Keeps σ (State.streamGoesOn s c e) := by
  unfold State.streamGoesOn
  try dsimp only
  all_goals repeat' first
    | with_reducible assumption
    | with_reducible apply keeps_modStrm
    | with_reducible apply keeps_streamFault
    | with_reducible apply keeps_pump
    | with_reducible apply keeps_afterLanding
    | split
    | intro _

theorem keeps_execInPlaceResume {σ : State} (c : Fin 64) (eng : Fin 7) (s : State) (h_s : Keeps σ s) : KeepsO σ (execInPlaceResume c eng s) := by
  unfold execInPlaceResume
  try dsimp only
  all_goals repeat' first
    | with_reducible assumption
    | with_reducible apply keeps_modCore
    | with_reducible apply keeps_streamGoesOn
    | with_reducible apply KeepsO.next
    | split
    | intro _

theorem keeps_beginSave {σ : State} (s : State) (c : Nat) (job : Nat) (h_s : Keeps σ s) : Keeps σ (State.beginSave s c job) := by
  unfold State.beginSave
  try dsimp only
  all_goals repeat' first
    | with_reducible assumption
    | with_reducible apply keeps_modCore
    | intro _

theorem keeps_execTimeSlice {σ : State} (s : State) (h_s : Keeps σ s) : KeepsO σ (execTimeSlice s) := by
  unfold execTimeSlice
  try dsimp only
  all_goals repeat' first
    | with_reducible assumption
    | with_reducible apply keeps_updateWaits
    | with_reducible apply keeps_each
    | with_reducible apply keeps_modCore
    | with_reducible apply keeps_beginSave
    | with_reducible apply KeepsO.next
    | split
    | intro _

theorem keeps_saveThread {σ : State} (s : State) (c : Nat) (t : Nat) (h_s : Keeps σ s) : Keeps σ (State.saveThread s c t).2 := by
  unfold State.saveThread
  try dsimp only
  all_goals repeat' first
    | with_reducible assumption
    | with_reducible apply keeps_dropWaiter
    | with_reducible apply keeps_modSync
    | with_reducible apply keeps_modXl
    | with_reducible apply keeps_modJob
    | split
    | intro _

theorem keeps_writeFrame {σ : State} (s : State) (f : Frame) (h_s : Keeps σ s) : Keeps σ (State.writeFrame s f) := by
  unfold State.writeFrame
  try dsimp only
  all_goals repeat' first
    | with_reducible assumption
    | with_reducible apply keeps_fillPrivate
    | with_reducible apply keeps_each
    | with_reducible apply keeps_paWrite
    | split
    | intro _

theorem keeps_captureCore {σ : State} (s : State) (c : Nat) (h_s : Keeps σ s) : Keeps σ (State.captureCore s c).2 := by
  unfold State.captureCore
  try dsimp only
  all_goals repeat' first
    | with_reducible assumption
    | with_reducible apply keeps_foldl
    | with_reducible apply keeps_foldl_snd
    | with_reducible apply keeps_foldl_fst
    | with_reducible apply keeps_saveThread
    | with_reducible apply keeps_dropWaiter
    | with_reducible apply keeps_modXl
    | with_reducible apply KeepsI.map
    | intro _

theorem keeps_putStream {σ : State} (s : State) (c : Nat) (e : Nat) (st : StreamSt) (h_s : Keeps σ s) : Keeps σ (State.putStream s c e st) := by
  unfold State.putStream
  try dsimp only
  all_goals repeat' first
    | with_reducible assumption
    | with_reducible apply keeps_modCore
    | with_reducible apply keeps_syncArrive
    | with_reducible apply keeps_modMct
    | with_reducible apply keeps_streamGoesOn
    | split
    | intro _

theorem keeps_restoreFrame {σ : State} (s : State) (f : Frame) (c : Nat) (h_s : Keeps σ s) : Keeps σ (State.restoreFrame s f c) := by
  unfold State.restoreFrame
  try dsimp only
  all_goals repeat' first
    | with_reducible assumption
    | with_reducible apply keeps_modSh
    | with_reducible apply keeps_unsave
    | with_reducible apply keeps_stopJob
    | with_reducible apply keeps_charge
    | with_reducible apply keeps_modCore
    | with_reducible apply keeps_each
    | with_reducible apply keeps_putStream
    | with_reducible apply keeps_updateWaits
    | split
    | intro _

theorem keeps_stopLanes {σ : State} (s : State) (c : Nat) (h_s : Keeps σ s) : Keeps σ (State.stopLanes s c) := by
  unfold State.stopLanes
  try dsimp only
  all_goals repeat' first
    | with_reducible assumption
    | with_reducible apply keeps_each
    | with_reducible apply keeps_laneStop
    | with_reducible apply keeps_modCore
    | intro _

theorem keeps_execFullSaveComplete {σ : State} (c : Fin 64) (s0 : State) (h_s0 : Keeps σ s0) : KeepsO σ (execFullSaveComplete c s0) := by
  unfold execFullSaveComplete
  try dsimp only
  all_goals repeat' first
    | with_reducible assumption
    | with_reducible apply keeps_stopLanes
    | with_reducible apply keeps_atPoint
    | with_reducible apply keeps_captureCore
    | with_reducible apply keeps_modCore
    | with_reducible apply keeps_modSh
    | with_reducible apply keeps_writeFrame
    | with_reducible apply keeps_charge
    | with_reducible apply keeps_updateWaits
    | with_reducible apply keeps_restoreFrame
    | with_reducible apply KeepsO.next
    | split
    | intro _
    | refine Keeps.of_snd (by assumption) ?_

theorem keeps_execFullRestore {σ : State} (c : Fin 64) (s : State) (h_s : Keeps σ s) : KeepsO σ (execFullRestore c s) := by
  unfold execFullRestore
  try dsimp only
  all_goals repeat' first
    | with_reducible assumption
    | with_reducible apply keeps_atPoint
    | with_reducible apply keeps_restoreFrame
    | with_reducible apply KeepsO.next
    | split
    | intro _

theorem keeps_lcPin {σ : State} (s : State) (p : Nat) (i : Nat) (v : Nat) (h_s : Keeps σ s) : Keeps σ (State.lcPin s p i v) := by
  unfold State.lcPin
  try dsimp only
  all_goals repeat' first
    | with_reducible assumption
    | with_reducible apply keeps_modXl
    | with_reducible apply keeps_modPtn
    | with_reducible apply keeps_each
    | with_reducible apply keeps_pinCore
    | with_reducible apply keeps_pinRefresh
    | with_reducible apply KeepsI.map
    | split
    | intro _

theorem keeps_execLcPinWrite {σ : State} (p : Fin 32) (i : Fin 4) (v : BitVec 64) (s : State) (h_s : Keeps σ s) : KeepsO σ (execLcPinWrite p i v s) := by
  unfold execLcPinWrite
  try dsimp only
  all_goals repeat' first
    | with_reducible assumption
    | with_reducible apply keeps_lcPin
    | with_reducible apply KeepsO.next
    | split
    | intro _

theorem keeps_csrRead {σ : State} (s : State) (iface : Nat) (off : Nat) (n : Nat) (h_s : Keeps σ s) : Keeps σ (State.csrRead s iface off n).2 := by
  unfold State.csrRead
  try dsimp only
  all_goals repeat' first
    | with_reducible assumption
    | with_reducible apply keeps_timeLowRead
    | with_reducible apply keeps_timeHighRead
    | split

theorem keeps_lateWrite {σ : State} (s : State) (w : CsrWr) (held : Nat) (h_s : Keeps σ s) : Keeps σ (State.lateWrite s w held) := by
  unfold State.lateWrite
  try dsimp only
  all_goals repeat' first
    | with_reducible assumption
    | with_reducible apply keeps_modWarp
    | with_reducible apply keeps_notifyModule
    | with_reducible apply keeps_logFolded
    | split
    | intro _

theorem keeps_lkWrite {σ : State} (s : State) (w : CsrWr) (held : Nat) (p : Nat) (f : PtnSt → PtnSt) (h_s : Keeps σ s) : Keeps σ (State.lkWrite s w held p f).2 := by
  unfold State.lkWrite
  try dsimp only
  all_goals repeat' first
    | with_reducible assumption
    | with_reducible apply keeps_lateWrite
    | with_reducible apply keeps_modPtn
    | split

theorem keeps_lnkWrite {σ : State} (s : State) (p : Nat) (f : PtnSt → PtnSt) (h_s : Keeps σ s) : Keeps σ (State.lnkWrite s p f) := by
  unfold State.lnkWrite
  try dsimp only
  all_goals repeat' first
    | with_reducible assumption
    | with_reducible apply keeps_modPtn
    | split
    | intro _

theorem keeps_syncCtlWrite {σ : State} (s : State) (n : Nat) (w : CsrWr) (h_s : Keeps σ s) : Keeps σ (State.syncCtlWrite s n w) := by
  unfold State.syncCtlWrite
  try dsimp only
  all_goals repeat' first
    | with_reducible assumption
    | with_reducible apply keeps_syncArrive
    | split

theorem keeps_mbCmdWrite {σ : State} (s : State) (w : CsrWr) (h_s : Keeps σ s) : Keeps σ (State.mbCmdWrite s w) := by
  unfold State.mbCmdWrite
  try dsimp only
  all_goals repeat' first
    | with_reducible assumption
    | with_reducible apply keeps_modMgt
    | (intro _; rfl)
    | split
    | intro _

theorem keeps_mbArgWrite {σ : State} (s : State) (i : Nat) (w : CsrWr) (h_s : Keeps σ s) : Keeps σ (State.mbArgWrite s i w) := by
  unfold State.mbArgWrite
  try dsimp only
  all_goals repeat' first
    | with_reducible assumption
    | with_reducible apply keeps_modMgt
    | with_reducible apply keeps_foldl
    | with_reducible apply keeps_foldl_snd
    | with_reducible apply keeps_foldl_fst
    | (intro _; rfl)
    | split
    | intro _

theorem keeps_noticeCfgWrite {σ : State} (s : State) (r : Nat) (w : CsrWr) (h_s : Keeps σ s) : Keeps σ (State.noticeCfgWrite s r w) := by
  unfold State.noticeCfgWrite
  try dsimp only
  all_goals repeat' first
    | with_reducible assumption
    | with_reducible apply keeps_modNring
    | with_reducible apply keeps_drainRing
    | split
    | intro _

theorem keeps_faultCfgWrite {σ : State} (s : State) (p : Nat) (w : CsrWr) (h_s : Keeps σ s) : Keeps σ (State.faultCfgWrite s p w) := by
  unfold State.faultCfgWrite
  try dsimp only
  all_goals repeat' first
    | with_reducible assumption
    | with_reducible apply keeps_modPtn
    | with_reducible apply keeps_drainFaults
    | split
    | intro _

theorem keeps_inhWrite {σ : State} (s : State) (i : Nat) (w : CsrWr) (h_s : Keeps σ s) : Keeps σ (State.inhWrite s i w) := by
  unfold State.inhWrite
  try dsimp only
  all_goals repeat' first
    | with_reducible assumption
    | with_reducible apply keeps_modInh
    | with_reducible apply keeps_inhAckOp
    | split
    | intro _

theorem keeps_csrPlain {σ : State} (s : State) (r : Csr) (w : CsrWr) (h_s : Keeps σ s) : Keeps σ (State.csrPlain s r w) := by
  unfold State.csrPlain
  try dsimp only
  all_goals repeat' first
    | with_reducible assumption
    | with_reducible apply keeps_modClk
    | with_reducible apply keeps_modLog
    | with_reducible apply keeps_warpCtl
    | with_reducible apply keeps_modWarp
    | with_reducible apply keeps_lockClear
    | with_reducible apply keeps_snapWrite
    | with_reducible apply keeps_hubSyncSignalFx
    | with_reducible apply keeps_modSh
    | with_reducible apply keeps_syncCsrWriteFx
    | with_reducible apply keeps_syncCtlWrite
    | with_reducible apply keeps_modPtn
    | with_reducible apply keeps_faultCfgWrite
    | with_reducible apply keeps_faultCons
    | with_reducible apply keeps_ringBase
    | with_reducible apply keeps_ringCfg
    | with_reducible apply keeps_lcPin
    | with_reducible apply keeps_acctGo
    | with_reducible apply keeps_lnkWrite
    | with_reducible apply keeps_poolGo
    | with_reducible apply keeps_lnkSnapWrite
    | with_reducible apply keeps_modTime
    | with_reducible apply keeps_timeApply
    | with_reducible apply keeps_timeApplyWrite
    | with_reducible apply keeps_clearFaults
    | with_reducible apply keeps_inhWrite
    | with_reducible apply keeps_mbCmdWrite
    | with_reducible apply keeps_modMgt
    | with_reducible apply keeps_mbArgWrite
    | with_reducible apply keeps_modNring
    | with_reducible apply keeps_noticeCfgWrite
    | with_reducible apply keeps_noticeCons
    | with_reducible apply keeps_wmCfg
    | with_reducible apply keeps_wmClear
    | (intro _; rfl)
    | split
    | intro _

theorem keeps_csrReg {σ : State} (s : State) (r : Csr) (w : CsrWr) (h_s : Keeps σ s) : Keeps σ (State.csrReg s r w).2 := by
  unfold State.csrReg
  try dsimp only
  all_goals repeat' first
    | with_reducible assumption
    | with_reducible apply keeps_lkWrite
    | with_reducible apply keeps_modWarp
    | with_reducible apply keeps_lateWrite
    | with_reducible apply keeps_modPtn
    | with_reducible apply keeps_csrPlain
    | split
    | intro _
    | refine Keeps.of_snd (by assumption) ?_

theorem keeps_csrWrite {σ : State} (s : State) (w : CsrWr) (h_s : Keeps σ s) : Keeps σ (State.csrWrite s w).2 := by
  unfold State.csrWrite
  try dsimp only
  all_goals repeat' first
    | with_reducible assumption
    | with_reducible apply keeps_csrReg
    | split
    | refine Keeps.of_snd (by assumption) ?_

theorem keeps_mgmtSt {σ : State} (status : Nat) (s : State) (h_s : Keeps σ s) : Keeps σ (mgmtSt status s).st := by
  unfold mgmtSt
  try dsimp only
  all_goals repeat' first
    | with_reducible assumption

theorem keeps_mgmtBytes {σ : State} (bs : List Byte) (s : State) (h_s : Keeps σ s) : Keeps σ (mgmtBytes bs s).st := by
  unfold mgmtBytes
  try dsimp only
  all_goals repeat' first
    | with_reducible assumption

theorem keeps_mgmtInvalid {σ : State} (s : State) (h_s : Keeps σ s) : Keeps σ (mgmtInvalid s).st := by
  unfold mgmtInvalid
  try dsimp only
  all_goals repeat' first
    | with_reducible assumption
    | with_reducible apply keeps_mgmtSt

theorem keeps_mgmtSensors {σ : State} (s : State) (first : Nat) (count : Nat) (h_s : Keeps σ s) : Keeps σ (State.mgmtSensors s first count).st := by
  unfold State.mgmtSensors
  try dsimp only
  all_goals repeat' first
    | with_reducible assumption
    | with_reducible apply keeps_mgmtInvalid
    | with_reducible apply keeps_mgmtBytes
    | split
    | intro _

theorem keeps_mgmtLogRead {σ : State} (s : State) (arg : List Byte) (space : Nat) (h_s : Keeps σ s) : Keeps σ (State.mgmtLogRead s arg space).st := by
  unfold State.mgmtLogRead
  try dsimp only
  all_goals repeat' first
    | with_reducible assumption
    | with_reducible apply keeps_mgmtInvalid
    | with_reducible apply keeps_mgmtBytes
    | split
    | intro _

theorem keeps_mgmtDownload {σ : State} (s : State) (src : Src) (arg : List Byte) (h_s : Keeps σ s) : Keeps σ (State.mgmtDownload s src arg).st := by
  unfold State.mgmtDownload
  try dsimp only
  all_goals repeat' first
    | with_reducible assumption
    | with_reducible apply keeps_stagePiece
    | with_reducible apply keeps_mgmtSt
    | split

theorem keeps_mgmtCommit {σ : State} (s : State) (src : Src) (tag : Nat) (arg : List Byte) (h_s : Keeps σ s) : Keeps σ (State.mgmtCommit s src tag arg).st := by
  unfold State.mgmtCommit
  try dsimp only
  all_goals repeat' first
    | with_reducible assumption
    | with_reducible apply keeps_mgmtInvalid
    | with_reducible apply keeps_fwCommitOp
    | with_reducible apply KeepsI.map
    | split
    | intro _

theorem keeps_mgmtOverride {σ : State} (s : State) (src : Src) (arg : List Byte) (h_s : Keeps σ s) : Keeps σ (State.mgmtOverride s src arg).st := by
  unfold State.mgmtOverride
  try dsimp only
  all_goals repeat' first
    | with_reducible assumption
    | with_reducible apply keeps_mgmtInvalid
    | with_reducible apply keeps_modMgt
    | with_reducible apply keeps_mgmtSt
    | with_reducible apply keeps_log
    | with_reducible apply keeps_raiseLevel
    | with_reducible apply keeps_checkWarn
    | (intro _; rfl)
    | split
    | intro _

theorem leAt_one_le (bs : List Byte) (a : Nat) : leAt bs a 1 ≤ 255 := by
  unfold leAt
  match bs.drop a with
  | [] => exact Nat.zero_le _
  | b :: _ =>
    have h := b.isLt
    show b.toNat + 0 <<< 8 ≤ 255
    omega

theorem keeps_mgmtSecver {σ : State} (s : State) (src : Src) (arg : List Byte) (h_s : Keeps σ s) : Keeps σ (s.mgmtSecver src arg).st := by
  unfold State.mgmtSecver
  dsimp only
  split
  · exact h_s
  · rename_i h
    exact keeps_log _ _ _ _ ⟨h_s.inv, Nat.le_trans h_s.sec (by show s.mgt.secverMin ≤ leAt arg 0 1; omega), fun _ => leAt_one_le _ _⟩

theorem keeps_mgmtErase {σ : State} (s : State) (src : Src) (arg : List Byte) (h_s : Keeps σ s) : Keeps σ (State.mgmtErase s src arg).st := by
  unfold State.mgmtErase
  try dsimp only
  all_goals repeat' first
    | with_reducible assumption
    | with_reducible apply keeps_mgmtSt
    | with_reducible apply keeps_settleWrites
    | with_reducible apply keeps_each
    | with_reducible apply keeps_eraseNs
    | with_reducible apply keeps_mgmtInvalid
    | split
    | intro _

theorem keeps_mgmtResetOp {σ : State} (s : State) (src : Src) (arg : List Byte) (h_s : Keeps σ s) : Keeps σ (State.mgmtResetOp s src arg).st := by
  unfold State.mgmtResetOp
  try dsimp only
  all_goals repeat' first
    | with_reducible assumption
    | with_reducible apply keeps_mgmtInvalid
    | with_reducible apply keeps_log
    | with_reducible apply keeps_moduleReset
    | with_reducible apply keeps_powerCycle
    | split

theorem keeps_debugReopenOp {σ : State} (s : State) (src : Src) (arg : List Byte) (h_s : Keeps σ s) : Keeps σ (State.debugReopenOp s src arg).st := by
  unfold State.debugReopenOp
  try dsimp only
  all_goals repeat' first
    | with_reducible assumption
    | with_reducible apply keeps_mgmtInvalid
    | with_reducible apply keeps_settleWrites
    | with_reducible apply keeps_each
    | with_reducible apply keeps_releaseNs
    | with_reducible apply keeps_makeKey
    | with_reducible apply keeps_killKey
    | with_reducible apply keeps_modMgt
    | with_reducible apply keeps_log
    | with_reducible apply KeepsI.map
    | (intro _; rfl)
    | split
    | intro _

theorem keeps_mgmtInhAck {σ : State} (s : State) (src : Src) (arg : List Byte) (h_s : Keeps σ s) : Keeps σ (State.mgmtInhAck s src arg).st := by
  unfold State.mgmtInhAck
  try dsimp only
  all_goals repeat' first
    | with_reducible assumption
    | with_reducible apply keeps_mgmtInvalid
    | with_reducible apply keeps_inhAckOp
    | with_reducible apply keeps_mgmtSt
    | split

theorem keeps_mgmtPort {σ : State} (s : State) (arg : List Byte) (h_s : Keeps σ s) : Keeps σ (State.mgmtPort s arg).st := by
  unfold State.mgmtPort
  try dsimp only
  all_goals repeat' first
    | with_reducible assumption
    | with_reducible apply keeps_mgmtInvalid
    | with_reducible apply keeps_mgmtSt
    | with_reducible apply keeps_modEth
    | with_reducible apply KeepsI.map
    | split
    | intro _

theorem keeps_mgmtQbv {σ : State} (s : State) (arg : List Byte) (h_s : Keeps σ s) : Keeps σ (State.mgmtQbv s arg).st := by
  unfold State.mgmtQbv
  try dsimp only
  all_goals repeat' first
    | with_reducible assumption
    | with_reducible apply keeps_mgmtInvalid
    | with_reducible apply keeps_mgmtSt
    | with_reducible apply keeps_modEth
    | with_reducible apply KeepsI.map
    | split
    | intro _

theorem keeps_mgmtSetApply {σ : State} (s : State) (src : Src) (arg : List Byte) (h_s : Keeps σ s) : Keeps σ (State.mgmtSetApply s src arg).st := by
  unfold State.mgmtSetApply
  try dsimp only
  all_goals repeat' first
    | with_reducible assumption
    | with_reducible apply keeps_mgmtInvalid
    | with_reducible apply keeps_mgmtSt
    | with_reducible apply keeps_modTime
    | with_reducible apply keeps_timeApplyWrite
    | split
    | intro _

theorem keeps_mgmtTimeCfg {σ : State} (s : State) (arg : List Byte) (h_s : Keeps σ s) : Keeps σ (State.mgmtTimeCfg s arg).st := by
  unfold State.mgmtTimeCfg
  try dsimp only
  all_goals repeat' first
    | with_reducible assumption
    | with_reducible apply keeps_mgmtInvalid
    | with_reducible apply keeps_mgmtSt
    | with_reducible apply keeps_modTime
    | split
    | intro _

theorem keeps_mgmtCsrRead {σ : State} (s : State) (src : Src) (arg : List Byte) (h_s : Keeps σ s) : Keeps σ (State.mgmtCsrRead s src arg).st := by
  unfold State.mgmtCsrRead
  try dsimp only
  all_goals repeat' first
    | with_reducible assumption
    | with_reducible apply keeps_mgmtInvalid
    | with_reducible apply keeps_mgmtSt
    | with_reducible apply keeps_csrRead
    | with_reducible apply keeps_mgmtBytes
    | split

theorem keeps_mgmtCsrWrite {σ : State} (s : State) (src : Src) (arg : List Byte) (h_s : Keeps σ s) : Keeps σ (State.mgmtCsrWrite s src arg).st := by
  unfold State.mgmtCsrWrite
  try dsimp only
  all_goals repeat' first
    | with_reducible assumption
    | with_reducible apply keeps_mgmtInvalid
    | with_reducible apply keeps_mgmtSt
    | with_reducible apply keeps_csrWrite
    | split
    | refine Keeps.of_snd (by assumption) ?_

theorem keeps_mgmtStage {σ : State} (s : State) (src : Src) (tag : Nat) (arg : List Byte) (h_s : Keeps σ s) : Keeps σ (State.mgmtStage s src tag arg).st := by
  unfold State.mgmtStage
  try dsimp only
  all_goals repeat' first
    | with_reducible assumption
    | with_reducible apply keeps_mgmtSt
    | with_reducible apply keeps_warpCopy
    | split

theorem keeps_mgmtWarp {σ : State} (s : State) (src : Src) (go : State → Src → Nat × State) (h_s : Keeps σ s) (h_go : ∀ x0 x1, Keeps σ x0 → Keeps σ (go x0 x1).2) : Keeps σ (State.mgmtWarp s src go).st := by
  unfold State.mgmtWarp
  try dsimp only
  all_goals repeat' first
    | with_reducible assumption
    | with_reducible apply keeps_mgmtSt
    | with_reducible apply h_go
    | split
    | intro _
    | refine Keeps.of_snd (by assumption) ?_

theorem keeps_mgmtOp {σ : State} (s : State) (src : Src) (tag : Nat) (code : Nat) (arg : List Byte) (space : Nat) (h_s : Keeps σ s) : Keeps σ (State.mgmtOp s src tag code arg space).st := by
  unfold State.mgmtOp
  try dsimp only
  all_goals repeat' first
    | with_reducible assumption
    | with_reducible apply keeps_mgmtCsrRead
    | with_reducible apply keeps_mgmtCsrWrite
    | with_reducible apply keeps_mgmtStage
    | with_reducible apply keeps_mgmtWarp
    | with_reducible apply keeps_warpCommitBy
    | with_reducible apply keeps_warpResetBy
    | with_reducible apply keeps_warpDiscardBy
    | with_reducible apply keeps_mgmtBytes
    | with_reducible apply keeps_mgmtSensors
    | with_reducible apply keeps_mgmtLogRead
    | with_reducible apply keeps_mgmtDownload
    | with_reducible apply keeps_mgmtCommit
    | with_reducible apply keeps_mgmtOverride
    | with_reducible apply keeps_mgmtSecver
    | with_reducible apply keeps_mgmtErase
    | with_reducible apply keeps_mgmtResetOp
    | with_reducible apply keeps_mgmtInhAck
    | with_reducible apply keeps_mgmtSt
    | with_reducible apply keeps_clearFaults
    | with_reducible apply keeps_mgmtPort
    | with_reducible apply keeps_mgmtQbv
    | with_reducible apply keeps_mgmtSetApply
    | with_reducible apply keeps_mgmtTimeCfg
    | with_reducible apply keeps_debugReopenOp
    | split
    | refine Keeps.of_snd (by assumption) ?_

theorem keeps_mgmtRun {σ : State} (s : State) (src : Src) (tag : Nat) (code : Nat) (arg : List Byte) (space : Nat) (h_s : Keeps σ s) : Keeps σ (State.mgmtRun s src tag code arg space).st := by
  unfold State.mgmtRun
  try dsimp only
  all_goals repeat' first
    | with_reducible assumption
    | with_reducible apply keeps_mgmtInvalid
    | with_reducible apply keeps_mgmtSt
    | with_reducible apply keeps_mgmtOp
    | with_reducible apply KeepsI.map
    | split
    | intro _

theorem keeps_mgmtAfter {σ : State} (s : State) (n : MgmtThen) (src : Src) (h_s : Keeps σ s) : Keeps σ (State.mgmtAfter s n src) := by
  unfold State.mgmtAfter
  try dsimp only
  all_goals repeat' first
    | with_reducible assumption
    | with_reducible apply keeps_moduleReset
    | with_reducible apply keeps_powerCycle
    | split

theorem keeps_mailboxCmd {σ : State} (s : State) (code : Nat) (h_s : Keeps σ s) : Keeps σ (State.mailboxCmd s code) := by
  unfold State.mailboxCmd
  try dsimp only
  all_goals repeat' first
    | with_reducible assumption
    | with_reducible apply keeps_modMgt
    | with_reducible apply keeps_mgmtRun
    | with_reducible apply keeps_mbAnswer
    | with_reducible apply keeps_mgmtAfter
    | (intro _; rfl)
    | split
    | intro _

theorem keeps_weftMgmt {σ : State} (s : State) (j : Job) (code : Nat) (arg : List Byte) (space : Nat) (ps : List (Nat × Nat)) (h_s : Keeps σ s) : Keeps σ (State.weftMgmt s j code arg space ps) := by
  unfold State.weftMgmt
  try dsimp only
  all_goals repeat' first
    | with_reducible assumption
    | with_reducible apply keeps_mgmtRun
    | with_reducible apply keeps_modJob
    | with_reducible apply keeps_writePieces
    | with_reducible apply keeps_endJob
    | with_reducible apply keeps_mgmtAfter
    | split
    | intro _

theorem keeps_weftCmd {σ : State} (s : State) (id : Nat) (code : Nat) (h_s : Keeps σ s) : Keeps σ (State.weftCmd s id code) := by
  unfold State.weftCmd
  try dsimp only
  all_goals repeat' first
    | with_reducible assumption
    | with_reducible apply keeps_bufRead
    | with_reducible apply keeps_mgmtRun
    | with_reducible apply keeps_weftMgmt
    | with_reducible apply keeps_bufMapAs
    | with_reducible apply KeepsI.map
    | with_reducible apply KeepsI.getD
    | with_reducible apply KeepsI.some
    | with_reducible apply KeepsI.none
    | split
    | intro _
    | refine Keeps.of_snd (by assumption) ?_

theorem keeps_mgmtRow {σ : State} (s : State) (code : Nat) (r : Route) (h_s : Keeps σ s) : Keeps σ (State.mgmtRow s code r) := by
  unfold State.mgmtRow
  try dsimp only
  all_goals repeat' first
    | with_reducible assumption
    | with_reducible apply keeps_mailboxCmd
    | with_reducible apply keeps_weftCmd
    | split

theorem keeps_execMgmtStatus {σ : State} (r : Route) (s : State) (h_s : Keeps σ s) : KeepsO σ (execMgmtStatus r s) := by
  unfold execMgmtStatus
  try dsimp only
  all_goals repeat' first
    | with_reducible assumption
    | with_reducible apply keeps_mgmtRow
    | with_reducible apply KeepsO.next
    | intro _

theorem keeps_execSensorRead {σ : State} (r : Route) (s : State) (h_s : Keeps σ s) : KeepsO σ (execSensorRead r s) := by
  unfold execSensorRead
  try dsimp only
  all_goals repeat' first
    | with_reducible assumption
    | with_reducible apply keeps_mgmtRow
    | with_reducible apply KeepsO.next
    | intro _

theorem keeps_execLogRead {σ : State} (r : Route) (s : State) (h_s : Keeps σ s) : KeepsO σ (execLogRead r s) := by
  unfold execLogRead
  try dsimp only
  all_goals repeat' first
    | with_reducible assumption
    | with_reducible apply keeps_mgmtRow
    | with_reducible apply KeepsO.next
    | intro _

theorem keeps_execFwDownload {σ : State} (r : Route) (s : State) (h_s : Keeps σ s) : KeepsO σ (execFwDownload r s) := by
  unfold execFwDownload
  try dsimp only
  all_goals repeat' first
    | with_reducible assumption
    | with_reducible apply keeps_mgmtRow
    | with_reducible apply KeepsO.next
    | intro _

theorem keeps_execFwCommit {σ : State} (r : Route) (s : State) (h_s : Keeps σ s) : KeepsO σ (execFwCommit r s) := by
  unfold execFwCommit
  try dsimp only
  all_goals repeat' first
    | with_reducible assumption
    | with_reducible apply keeps_mgmtRow
    | with_reducible apply KeepsO.next
    | intro _

theorem keeps_execOverrideUntested {σ : State} (r : Route) (s : State) (h_s : Keeps σ s) : KeepsO σ (execOverrideUntested r s) := by
  unfold execOverrideUntested
  try dsimp only
  all_goals repeat' first
    | with_reducible assumption
    | with_reducible apply keeps_mgmtRow
    | with_reducible apply KeepsO.next
    | intro _

theorem keeps_execRaiseSecver {σ : State} (r : Route) (s : State) (h_s : Keeps σ s) : KeepsO σ (execRaiseSecver r s) := by
  unfold execRaiseSecver
  try dsimp only
  all_goals repeat' first
    | with_reducible assumption
    | with_reducible apply keeps_mgmtRow
    | with_reducible apply KeepsO.next
    | intro _

theorem keeps_execCryptoErase {σ : State} (r : Route) (s : State) (h_s : Keeps σ s) : KeepsO σ (execCryptoErase r s) := by
  unfold execCryptoErase
  try dsimp only
  all_goals repeat' first
    | with_reducible assumption
    | with_reducible apply keeps_mgmtRow
    | with_reducible apply KeepsO.next
    | intro _

theorem keeps_execMgmtReset {σ : State} (r : Route) (s : State) (h_s : Keeps σ s) : KeepsO σ (execMgmtReset r s) := by
  unfold execMgmtReset
  try dsimp only
  all_goals repeat' first
    | with_reducible assumption
    | with_reducible apply keeps_mgmtRow
    | with_reducible apply KeepsO.next
    | intro _

theorem keeps_execDebugReopen {σ : State} (r : Route) (s : State) (h_s : Keeps σ s) : KeepsO σ (execDebugReopen r s) := by
  unfold execDebugReopen
  try dsimp only
  all_goals repeat' first
    | with_reducible assumption
    | with_reducible apply keeps_mgmtRow
    | with_reducible apply KeepsO.next
    | intro _

theorem keeps_execFieldStatus {σ : State} (r : Route) (s : State) (h_s : Keeps σ s) : KeepsO σ (execFieldStatus r s) := by
  unfold execFieldStatus
  try dsimp only
  all_goals repeat' first
    | with_reducible assumption
    | with_reducible apply keeps_mgmtRow
    | with_reducible apply KeepsO.next
    | intro _

theorem keeps_execInhAck {σ : State} (r : Route) (s : State) (h_s : Keeps σ s) : KeepsO σ (execInhAck r s) := by
  unfold execInhAck
  try dsimp only
  all_goals repeat' first
    | with_reducible assumption
    | with_reducible apply keeps_mgmtRow
    | with_reducible apply KeepsO.next
    | intro _

theorem keeps_execDoClear {σ : State} (r : Route) (s : State) (h_s : Keeps σ s) : KeepsO σ (execDoClear r s) := by
  unfold execDoClear
  try dsimp only
  all_goals repeat' first
    | with_reducible assumption
    | with_reducible apply keeps_mgmtRow
    | with_reducible apply KeepsO.next
    | intro _

theorem keeps_execPortCfg {σ : State} (r : Route) (s : State) (h_s : Keeps σ s) : KeepsO σ (execPortCfg r s) := by
  unfold execPortCfg
  try dsimp only
  all_goals repeat' first
    | with_reducible assumption
    | with_reducible apply keeps_mgmtRow
    | with_reducible apply KeepsO.next
    | intro _

theorem keeps_execQbvSet {σ : State} (r : Route) (s : State) (h_s : Keeps σ s) : KeepsO σ (execQbvSet r s) := by
  unfold execQbvSet
  try dsimp only
  all_goals repeat' first
    | with_reducible assumption
    | with_reducible apply keeps_mgmtRow
    | with_reducible apply KeepsO.next
    | intro _

theorem keeps_execTimeSetapply {σ : State} (r : Route) (s : State) (h_s : Keeps σ s) : KeepsO σ (execTimeSetapply r s) := by
  unfold execTimeSetapply
  try dsimp only
  all_goals repeat' first
    | with_reducible assumption
    | with_reducible apply keeps_mgmtRow
    | with_reducible apply KeepsO.next
    | intro _

theorem keeps_execTimeCfg {σ : State} (r : Route) (s : State) (h_s : Keeps σ s) : KeepsO σ (execTimeCfg r s) := by
  unfold execTimeCfg
  try dsimp only
  all_goals repeat' first
    | with_reducible assumption
    | with_reducible apply keeps_mgmtRow
    | with_reducible apply KeepsO.next
    | intro _

theorem keeps_execChainStatus {σ : State} (r : Route) (s : State) (h_s : Keeps σ s) : KeepsO σ (execChainStatus r s) := by
  unfold execChainStatus
  try dsimp only
  all_goals repeat' first
    | with_reducible assumption
    | with_reducible apply keeps_mgmtRow
    | with_reducible apply KeepsO.next
    | intro _

theorem keeps_execRandomSourceHealthFailure {σ : State} (pass : Bool) (s : State) (h_s : Keeps σ s) : KeepsO σ (execRandomSourceHealthFailure pass s) := by
  unfold execRandomSourceHealthFailure
  try dsimp only
  all_goals repeat' first
    | with_reducible assumption
    | with_reducible apply keeps_modMgt
    | with_reducible apply keeps_fresh
    | with_reducible apply keeps_log
    | with_reducible apply KeepsO.next
    | (intro _; rfl)
    | split
    | intro _

theorem keeps_chainDrop {σ : State} (s : State) (h_s : Keeps σ s) : Keeps σ (State.chainDrop s) := by
  unfold State.chainDrop
  try dsimp only
  all_goals repeat' first
    | with_reducible assumption
    | with_reducible apply keeps_modChain
    | intro _

theorem keeps_chainForward {σ : State} (s : State) (down : Bool) (f : ChainFrame) (h_s : Keeps σ s) : Keeps σ (State.chainForward s down f) := by
  unfold State.chainForward
  try dsimp only
  all_goals repeat' first
    | with_reducible assumption
    | with_reducible apply keeps_modChain
    | with_reducible apply keeps_chainUp
    | split
    | intro _

theorem keeps_enumRecord {σ : State} (s : State) (a : Nat) (pos : Nat) (h_s : Keeps σ s) : Keeps σ (State.enumRecord s a pos) := by
  unfold State.enumRecord
  try dsimp only
  all_goals repeat' first
    | with_reducible assumption
    | with_reducible apply keeps_modChain
    | with_reducible apply keeps_log
    | split
    | intro _

theorem keeps_enumStep {σ : State} (s : State) (f : ChainFrame) (h_s : Keeps σ s) : Keeps σ (State.enumStep s f) := by
  unfold State.enumStep
  try dsimp only
  all_goals repeat' first
    | with_reducible assumption
    | with_reducible apply keeps_walk
    | with_reducible apply keeps_modChain
    | with_reducible apply keeps_enumRecord
    | with_reducible apply keeps_chainForward
    | split
    | intro _

theorem keeps_execEnumFrame {σ : State} (down : Bool) (f : ChainFrame) (s : State) (h_s : Keeps σ s) : KeepsO σ (execEnumFrame down f s) := by
  unfold execEnumFrame
  try dsimp only
  all_goals repeat' first
    | with_reducible assumption
    | with_reducible apply keeps_chainDrop
    | with_reducible apply keeps_enumStep
    | with_reducible apply keeps_chainForward
    | with_reducible apply KeepsO.next
    | split
    | intro _

theorem keeps_execWonFlagExpiry {σ : State} (s : State) (h_s : Keeps σ s) : KeepsO σ (execWonFlagExpiry s) := by
  unfold execWonFlagExpiry
  try dsimp only
  all_goals repeat' first
    | with_reducible assumption
    | with_reducible apply keeps_modChain
    | with_reducible apply KeepsO.next
    | intro _

theorem keeps_chainServe {σ : State} (s : State) (f : ChainFrame) (h_s : Keeps σ s) : Keeps σ (State.chainServe s f) := by
  unfold State.chainServe
  try dsimp only
  all_goals repeat' first
    | with_reducible assumption
    | with_reducible apply keeps_mgmtRun
    | with_reducible apply keeps_chainReply
    | with_reducible apply keeps_mgmtAfter
    | split

theorem keeps_execChainCmd {σ : State} (down : Bool) (f : ChainFrame) (s : State) (h_s : Keeps σ s) : KeepsO σ (execChainCmd down f s) := by
  unfold execChainCmd
  try dsimp only
  all_goals repeat' first
    | with_reducible assumption
    | with_reducible apply keeps_chainDrop
    | with_reducible apply keeps_chainForward
    | with_reducible apply keeps_chainServe
    | with_reducible apply KeepsO.next
    | split
    | intro _

theorem keeps_execChainFrameForward {σ : State} (down : Bool) (f : ChainFrame) (s : State) (h_s : Keeps σ s) : KeepsO σ (execChainFrameForward down f s) := by
  unfold execChainFrameForward
  try dsimp only
  all_goals repeat' first
    | with_reducible assumption
    | with_reducible apply keeps_chainDrop
    | with_reducible apply keeps_chainForward
    | with_reducible apply KeepsO.next
    | split
    | intro _

theorem keeps_execChainPortUp {σ : State} (down : Bool) (s : State) (h_s : Keeps σ s) : KeepsO σ (execChainPortUp down s) := by
  unfold execChainPortUp
  try dsimp only
  all_goals repeat' first
    | with_reducible assumption
    | with_reducible apply keeps_modChain
    | with_reducible apply keeps_chainUp
    | with_reducible apply keeps_log
    | with_reducible apply KeepsO.next
    | split
    | intro _

theorem keeps_execChainPortDown {σ : State} (down : Bool) (s : State) (h_s : Keeps σ s) : KeepsO σ (execChainPortDown down s) := by
  unfold execChainPortDown
  try dsimp only
  all_goals repeat' first
    | with_reducible assumption
    | with_reducible apply keeps_modChain
    | with_reducible apply keeps_chainUp
    | with_reducible apply keeps_log
    | with_reducible apply KeepsO.next
    | split
    | intro _

theorem keeps_askLast {σ : State} (s : State) (p : Nat) (e : List Byte) (last : BitVec 64) (h_s : Keeps σ s) : Keeps σ (State.askLast s p e last).2 := by
  unfold State.askLast
  try dsimp only
  all_goals repeat' first
    | with_reducible assumption
    | with_reducible apply keeps_sendLink
    | split

theorem keeps_mapPages {σ : State} (s : State) (p : Nat) (need : Need) (pages : List Nat) (h_s : Keeps σ s) : Keeps σ (State.mapPages s p need pages).2 := by
  unfold State.mapPages
  try dsimp only
  all_goals repeat' first
    | with_reducible assumption
    | with_reducible apply keeps_bufXlate
    | with_reducible apply KeepsI.map
    | intro _

theorem keeps_jobPassed {σ : State} (s : State) (p : Nat) (id : Nat) (h_s : Keeps σ s) : Keeps σ (State.jobPassed s p id) := by
  unfold State.jobPassed
  try dsimp only
  all_goals repeat' first
    | with_reducible assumption
    | with_reducible apply keeps_each
    | with_reducible apply keeps_unheld
    | intro _

theorem keeps_ckptFail {σ : State} (s : State) (j : Job) (status : Nat) (h_s : Keeps σ s) : Keeps σ (State.ckptFail s j status) := by
  unfold State.ckptFail
  try dsimp only
  all_goals repeat' first
    | with_reducible assumption
    | with_reducible apply keeps_ckptStopped
    | with_reducible apply keeps_endJob

theorem keeps_endCkpts {σ : State} (s : State) (key : BitVec 64) (id : Nat) (status : Nat) (h_s : Keeps σ s) : Keeps σ (State.endCkpts s key id status) := by
  unfold State.endCkpts
  try dsimp only
  all_goals repeat' first
    | with_reducible assumption
    | with_reducible apply keeps_each
    | with_reducible apply keeps_logCkptFail
    | with_reducible apply keeps_endJob
    | split
    | intro _

theorem keeps_commitSlot {σ : State} (s : State) (key : BitVec 64) (id : Nat) (h_s : Keeps σ s) : Keeps σ (State.commitSlot s key id) := by
  unfold State.commitSlot
  try dsimp only
  all_goals repeat' first
    | with_reducible assumption
    | with_reducible apply keeps_setSlotState
    | exact setSlot_secverMin _ _ _
    | split

theorem keeps_coordDecide {σ : State} (s : State) (key : BitVec 64) (h_s : Keeps σ s) : Keeps σ (State.coordDecide s key) := by
  unfold State.coordDecide
  try dsimp only
  all_goals repeat' first
    | with_reducible assumption
    | with_reducible apply keeps_commitSlot
    | with_reducible apply keeps_log
    | with_reducible apply keeps_each
    | with_reducible apply keeps_sendLink
    | with_reducible apply keeps_setCoord
    | with_reducible apply keeps_endCkpts
    | with_reducible apply KeepsI.map
    | split
    | intro _

theorem keeps_coordCheck {σ : State} (s : State) (key : BitVec 64) (h_s : Keeps σ s) : Keeps σ (State.coordCheck s key) := by
  unfold State.coordCheck
  try dsimp only
  all_goals repeat' first
    | with_reducible assumption
    | with_reducible apply keeps_coordAbort
    | with_reducible apply keeps_endCkpts
    | with_reducible apply keeps_coordDecide
    | split
    | intro _

theorem keeps_coordPrepared {σ : State} (s : State) (mod : Nat) (key : BitVec 64) (id : Nat) (h_s : Keeps σ s) : Keeps σ (State.coordPrepared s mod key id) := by
  unfold State.coordPrepared
  try dsimp only
  all_goals repeat' first
    | with_reducible assumption
    | with_reducible apply keeps_sendLink
    | with_reducible apply keeps_setCoord
    | with_reducible apply keeps_coordCheck
    | split
    | intro _

theorem keeps_execPrepared {σ : State} (mod : Fin 2048) (key : BitVec 64) (id : BitVec 64) (s : State) (h_s : Keeps σ s) : KeepsO σ (execPrepared mod key id s) := by
  unfold execPrepared
  try dsimp only
  all_goals repeat' first
    | with_reducible assumption
    | with_reducible apply keeps_coordPrepared
    | with_reducible apply KeepsO.next
    | intro _

theorem keeps_execCheckpointCommit {σ : State} (key : BitVec 64) (id : BitVec 64) (s : State) (h_s : Keeps σ s) : KeepsO σ (execCheckpointCommit key id s) := by
  unfold execCheckpointCommit
  try dsimp only
  all_goals repeat' first
    | with_reducible assumption
    | with_reducible apply keeps_commitSlot
    | with_reducible apply keeps_endCkpts
    | with_reducible apply KeepsO.next
    | intro _

theorem keeps_execCheckpointAbort {σ : State} (key : BitVec 64) (id : BitVec 64) (status : BitVec 8) (s : State) (h_s : Keeps σ s) : KeepsO σ (execCheckpointAbort key id status s) := by
  unfold execCheckpointAbort
  try dsimp only
  all_goals repeat' first
    | with_reducible assumption
    | with_reducible apply keeps_coordAbort
    | with_reducible apply keeps_endCkpts
    | with_reducible apply KeepsO.next
    | split
    | intro _

theorem keeps_execLastCommittedQuery {σ : State} (mod : Fin 2048) (key : BitVec 64) (s : State) (h_s : Keeps σ s) : KeepsO σ (execLastCommittedQuery mod key s) := by
  unfold execLastCommittedQuery
  try dsimp only
  all_goals repeat' first
    | with_reducible assumption
    | with_reducible apply keeps_sendLink
    | with_reducible apply KeepsO.next
    | intro _

theorem keeps_savePages {σ : State} (s : State) (p : Nat) (n : NsSt) (slot : Nat) (ps : List (Nat × Nat)) (h_s : Keeps σ s) : KeepsI σ (State.savePages s p n slot ps) := by
  unfold State.savePages
  refine KeepsI.foldl _ (fun s i => _) _ (KeepsI.some h_s) fun t i ht => ?_
  split
  · exact keeps_nsWriteFor _ _ _ _ _ ht
  · exact KeepsI.some ht

theorem keeps_ckptPages {σ : State} (s : State) (s0 : State) (j : Job) (n : NsSt) (slot : Nat) (list : List Byte) (h_s : Keeps σ s) (h_s0 : Keeps σ s0) : Keeps σ (State.ckptPages s s0 j n slot list) := by
  unfold State.ckptPages
  try dsimp only
  all_goals repeat' first
    | with_reducible assumption
    | with_reducible apply keeps_mapPages
    | with_reducible apply keeps_noteFault
    | with_reducible apply keeps_ckptFail
    | with_reducible apply keeps_holdRequest
    | with_reducible apply keeps_piecesUe
    | with_reducible apply keeps_jobPassed
    | with_reducible apply keeps_piecesFx
    | with_reducible apply keeps_savePages
    | with_reducible apply keeps_noteWait
    | with_reducible apply KeepsI.map
    | with_reducible apply KeepsI.getD
    | with_reducible apply KeepsI.some
    | with_reducible apply KeepsI.none
    | split
    | refine Keeps.of_snd (by assumption) ?_
    | refine Keeps.of_some (by assumption) ?_

theorem keeps_ckptStart {σ : State} (s : State) (j : Job) (last : BitVec 64) (h_s : Keeps σ s) : Keeps σ (State.ckptStart s j last) := by
  unfold State.ckptStart
  extract_lets e key
  refine keeps_ite (fun _ => keeps_endJob _ _ _ _ h_s) fun _ => ?_
  have h1 := keeps_bufRead s j 0 (leAt e 8 8) (16 * leAt e 0x10 4) h_s
  generalize s.bufRead j 0 (leAt e 8 8) (16 * leAt e 0x10 4) = r at h1 ⊢
  rcases r with ⟨_ | list, s1⟩
  · exact h1
  · replace h1 : Keeps σ s1 := h1
    dsimp only
    refine keeps_ite (fun _ => keeps_endJob _ _ _ _ h1) fun _ => keeps_ite (fun _ => keeps_ckptFail _ _ _ h1) fun _ => ?_
    have h2 := keeps_commitSlot _ key (s1.askLast j.ptn e last).1 (keeps_askLast _ j.ptn e last h1)
    generalize (s1.askLast j.ptn e last).2.commitSlot key (s1.askLast j.ptn e last).1 = s2 at h2 ⊢
    refine keeps_ite (fun _ => keeps_endJob _ _ _ _ h2) fun _ => ?_
    have h3 : Keeps σ (if s2.coordOf j.ptn e = s2.links.torus.number then
        s2.setCoord { s2.coord key with cur := ckptId e, modules := leAt e 0x14 2, aborted := (0, 0) } else s2) :=
      keeps_ite (fun _ => keeps_setCoord _ _ h2) fun _ => h2
    generalize (if s2.coordOf j.ptn e = s2.links.torus.number then
        s2.setCoord { s2.coord key with cur := ckptId e, modules := leAt e 0x14 2, aborted := (0, 0) } else s2) = s3 at h3 ⊢
    split
    · generalize BitVec.ofNat 256 (leNat (sha256 list)) = d
      refine keeps_ite (fun _ => keeps_ckptFail _ _ _ h3) fun _ => ?_
      refine keeps_ite (fun _ => ?_) fun _ => keeps_ckptPages _ _ _ _ _ _ ?_ h_s
      all_goals exact keeps_coordCheck _ _ (keeps_modJob _ _ _ (keeps_journal _ _ _ (keeps_modLinks _ _ h3)))
    · exact keeps_ckptFail _ _ _ h3

theorem keeps_execCheckpoint {σ : State} (job : BitVec 32) (last : BitVec 64) (s : State) (h_s : Keeps σ s) : KeepsO σ (execCheckpoint job last s) := by
  unfold execCheckpoint
  try dsimp only
  all_goals repeat' first
    | with_reducible assumption
    | with_reducible apply keeps_flashJob
    | with_reducible apply keeps_ckptStart
    | with_reducible apply KeepsO.next
    | split
    | intro _

theorem keeps_execCheckpointPagesWritten {σ : State} (job : BitVec 32) (s : State) (h_s : Keeps σ s) : KeepsO σ (execCheckpointPagesWritten job s) := by
  unfold execCheckpointPagesWritten
  try dsimp only
  all_goals repeat' first
    | with_reducible assumption
    | with_reducible apply keeps_setSlotState
    | with_reducible apply keeps_coordPrepared
    | with_reducible apply keeps_sendLink
    | with_reducible apply KeepsO.next
    | exact setSlot_secverMin _ _ _
    | split
    | intro _

theorem keeps_savedPage {σ : State} (s : State) (p : Nat) (n : NsSt) (slot : Nat) (i : Nat) (h_s : Keeps σ s) : Keeps σ (State.savedPage s p n slot i).2 := by
  unfold State.savedPage
  try dsimp only
  all_goals repeat' first
    | with_reducible assumption
    | with_reducible apply keeps_nsReadFor
    | with_reducible apply keeps_foldl
    | with_reducible apply keeps_foldl_snd
    | with_reducible apply keeps_foldl_fst
    | split
    | intro _
    | refine Keeps.of_snd (by assumption) ?_

theorem keeps_restorePage {σ : State} (s : State) (j : Job) (n : NsSt) (slot : Nat) (va : Nat) (i : Nat) (h_s : Keeps σ s) : Keeps σ (State.restorePage s j n slot va i).2 := by
  unfold State.restorePage
  try dsimp only
  all_goals repeat' first
    | with_reducible assumption
    | with_reducible apply keeps_engXlate
    | with_reducible apply keeps_endJob
    | with_reducible apply keeps_savedPage
    | with_reducible apply keeps_writePieces
    | with_reducible apply keeps_abortJob
    | with_reducible apply keeps_noteFault
    | split
    | refine Keeps.of_snd (by assumption) ?_

theorem keeps_restorePages {σ : State} (j : Job) (n : NsSt) (slot : Nat) (a0 : List Nat) (a1 : Nat) (a2 : (State → State)) (a3 : State) (h_a2 : ∀ x0, Keeps σ x0 → Keeps σ (a2 x0)) (h_a3 : Keeps σ a3) : Keeps σ (State.restorePages j n slot a0 a1 a2 a3) := by
  induction a0 generalizing j n slot a1 a2 a3 with
  | nil =>
    unfold State.restorePages
    try dsimp only
    all_goals repeat' first
      | with_reducible assumption
      | with_reducible apply ih
      | with_reducible apply keeps_restorePage
      | with_reducible apply h_a2
      | split
      | intro _
      | refine Keeps.of_snd (by assumption) ?_
  | cons x xs ih =>
    unfold State.restorePages
    try dsimp only
    all_goals repeat' first
      | with_reducible assumption
      | with_reducible apply ih
      | with_reducible apply keeps_restorePage
      | with_reducible apply h_a2
      | split
      | intro _
      | refine Keeps.of_snd (by assumption) ?_

theorem keeps_restoreStart {σ : State} (s : State) (j : Job) (last : BitVec 64) (h_s : Keeps σ s) : Keeps σ (State.restoreStart s j last) := by
  unfold State.restoreStart
  try dsimp only
  all_goals repeat' first
    | with_reducible assumption
    | with_reducible apply keeps_endJob
    | with_reducible apply keeps_bufRead
    | with_reducible apply keeps_askLast
    | with_reducible apply keeps_modLinks
    | with_reducible apply keeps_atPoint
    | with_reducible apply keeps_restorePages
    | split
    | intro _
    | refine Keeps.of_snd (by assumption) ?_

theorem keeps_execRestore {σ : State} (job : BitVec 32) (last : BitVec 64) (s : State) (h_s : Keeps σ s) : KeepsO σ (execRestore job last s) := by
  unfold execRestore
  try dsimp only
  all_goals repeat' first
    | with_reducible assumption
    | with_reducible apply keeps_flashJob
    | with_reducible apply keeps_restoreStart
    | with_reducible apply KeepsO.next
    | split
    | intro _

end Sys2Proof.Machine
end

