-- ==== Sys2Proof/Laws/Keeps6.lean ====
section
/-! SUPPORT. What the operations of these files of the model keep: Coll, Dir, Quern, Regs, Release, Tick. -/

namespace Sys2Proof.Machine
open Sys2Proof

theorem keeps_execCollEnable {σ : State} (p : Fin 32) (v : BitVec 32) (s : State) (h_s : Keeps σ s) : KeepsO σ (execCollEnable p v s) := by
  unfold execCollEnable
  try dsimp only
  all_goals repeat' first
    | with_reducible assumption
    | with_reducible apply keeps_ringCfg
    | with_reducible apply KeepsO.next
    | split
    | intro _

theorem keeps_takeColl {σ : State} (s : State) (p : Nat) (op : Nat) (others : List (Nat × List Byte)) (run : CollRec → List (Nat × List Byte) → State → State) (h_s : Keeps σ s) (h_run : ∀ x0 x1 x2, Keeps σ x2 → Keeps σ (run x0 x1 x2)) : Keeps σ (State.takeColl s p op others run) := by
  unfold State.takeColl
  try dsimp only
  all_goals repeat' first
    | with_reducible assumption
    | with_reducible apply keeps_recPoint
    | with_reducible apply keeps_ringSkip
    | with_reducible apply keeps_collPoint
    | with_reducible apply keeps_collTaken
    | with_reducible apply keeps_notify
    | with_reducible apply h_run
    | with_reducible apply KeepsI.map
    | split
    | intro _

theorem keeps_collMap {σ : State} (s : State) (p : Nat) (va : Nat) (n : Nat) (write : Bool) (go : List (Nat × Nat) → State → State) (h_s : Keeps σ s) (h_go : ∀ x0 x1, Keeps σ x1 → Keeps σ (go x0 x1)) : Keeps σ (State.collMap s p va n write go) := by
  unfold State.collMap
  try dsimp only
  all_goals repeat' first
    | with_reducible assumption
    | with_reducible apply keeps_bufXlate
    | with_reducible apply keeps_takeFault
    | with_reducible apply keeps_collEnd
    | with_reducible apply h_go
    | split
    | intro _
    | refine Keeps.of_snd (by assumption) ?_

theorem keeps_collRead {σ : State} (s : State) (p : Nat) (va : Nat) (n : Nat) (go : List Byte → State → State) (h_s : Keeps σ s) (h_go : ∀ x0 x1, Keeps σ x1 → Keeps σ (go x0 x1)) : Keeps σ (State.collRead s p va n go) := by
  unfold State.collRead
  try dsimp only
  all_goals repeat' first
    | with_reducible assumption
    | with_reducible apply keeps_collMap
    | with_reducible apply keeps_piecesFx
    | with_reducible apply keeps_piecesUe
    | with_reducible apply keeps_collEnd
    | with_reducible apply h_go
    | split
    | intro _

theorem keeps_collDone {σ : State} (s : State) (p : Nat) (r : CollRec) (h_s : Keeps σ s) : Keeps σ (State.collDone s p r) := by
  unfold State.collDone
  try dsimp only
  all_goals repeat' first
    | with_reducible assumption
    | with_reducible apply keeps_collTaken
    | with_reducible apply keeps_signalDone

theorem keeps_execAllreduce {σ : State} (p : Fin 32) (others : List (Nat × List (BitVec 8))) (s : State) (h_s : Keeps σ s) : KeepsO σ (execAllreduce p others s) := by
  unfold execAllreduce
  try dsimp only
  all_goals repeat' first
    | with_reducible assumption
    | with_reducible apply keeps_takeColl
    | with_reducible apply keeps_collRead
    | with_reducible apply keeps_collMap
    | with_reducible apply keeps_fresh
    | with_reducible apply keeps_writePieces
    | with_reducible apply keeps_charge
    | with_reducible apply keeps_collDone
    | with_reducible apply KeepsI.map
    | with_reducible apply KeepsO.next
    | intro _

theorem keeps_execBroadcast {σ : State} (p : Fin 32) (others : List (Nat × List (BitVec 8))) (s : State) (h_s : Keeps σ s) : KeepsO σ (execBroadcast p others s) := by
  unfold execBroadcast
  try dsimp only
  all_goals repeat' first
    | with_reducible assumption
    | with_reducible apply keeps_takeColl
    | with_reducible apply keeps_collMap
    | with_reducible apply keeps_fresh
    | with_reducible apply keeps_writePieces
    | with_reducible apply keeps_collDone
    | with_reducible apply keeps_collRead
    | with_reducible apply keeps_charge
    | with_reducible apply KeepsO.next
    | split
    | intro _
    | refine Keeps.of_snd (by assumption) ?_

theorem keeps_execBarrier {σ : State} (p : Fin 32) (others : List (Nat × List (BitVec 8))) (s : State) (h_s : Keeps σ s) : KeepsO σ (execBarrier p others s) := by
  unfold execBarrier
  try dsimp only
  all_goals repeat' first
    | with_reducible assumption
    | with_reducible apply keeps_takeColl
    | with_reducible apply keeps_collDone
    | with_reducible apply KeepsO.next
    | intro _

theorem keeps_take {σ : State} (s : State) (m : CohMsg) (h_s : Keeps σ s) : Keeps σ (State.take s m) := by
  unfold State.take
  try dsimp only
  all_goals repeat' first
    | with_reducible assumption
    | with_reducible apply keeps_modDir
    | intro _

theorem keeps_snoop {σ : State} (s : State) (line : Nat) (b : DirBusy) (targets : List Nat) (msg : Nat → CohMsg) (h_s : Keeps σ s) : Keeps σ (State.snoop s line b targets msg) := by
  unfold State.snoop
  try dsimp only
  all_goals repeat' first
    | with_reducible assumption
    | with_reducible apply keeps_foldl
    | with_reducible apply keeps_foldl_snd
    | with_reducible apply keeps_foldl_fst
    | with_reducible apply keeps_modDirEnt
    | with_reducible apply keeps_each
    | with_reducible apply keeps_send
    | with_reducible apply KeepsI.map
    | intro _

theorem keeps_grantTo {σ : State} (s : State) (line : Nat) (b : DirBusy) (msg : CohMsg) (next : DirSt) (h_s : Keeps σ s) : Keeps σ (State.grantTo s line b msg next) := by
  unfold State.grantTo
  try dsimp only
  all_goals repeat' first
    | with_reducible assumption
    | with_reducible apply keeps_modDir
    | with_reducible apply keeps_modDirEnt
    | with_reducible apply keeps_send
    | intro _

theorem keeps_answerUe {σ : State} (s : State) (line : Nat) (b : DirBusy) (h_s : Keeps σ s) : Keeps σ (State.answerUe s line b) := by
  have h := keeps_lineUe s line h_s
  unfold State.answerUe
  refine keeps_ite (fun _ => h_s) fun _ => ?_
  generalize b.req.kind = k
  cases k with
  | wrU => exact h_s
  | upgr => exact keeps_ite (fun _ => h_s) fun _ => h
  | rdS => exact h
  | rdX => exact h
  | rdU => exact h

theorem keeps_answerWith {σ : State} (s : State) (line : Nat) (b : DirBusy) (h_s : Keeps σ s) : Keeps σ (State.answerWith s line b) := by
  unfold State.answerWith
  try dsimp only
  all_goals repeat' first
    | with_reducible assumption
    | with_reducible apply keeps_modDirEnt
    | with_reducible apply keeps_grantTo
    | with_reducible apply keeps_grant
    | with_reducible apply keeps_chargeCore
    | with_reducible apply keeps_send
    | with_reducible apply keeps_putLine
    | with_reducible apply keeps_unpoison
    | split
    | intro _
    | refine Keeps.of_some (by assumption) ?_

theorem keeps_answerReq {σ : State} (s : State) (line : Nat) (b : DirBusy) (h_s : Keeps σ s) : Keeps σ (State.answerReq s line b) := by
  unfold State.answerReq
  try dsimp only
  all_goals repeat' first
    | with_reducible assumption
    | with_reducible apply keeps_answerUe
    | with_reducible apply keeps_answerWith

theorem keeps_startReq {σ : State} (s : State) (line : Nat) (r : DirReq) (h_s : Keeps σ s) : Keeps σ (State.startReq s line r) := by
  unfold State.startReq
  try dsimp only
  all_goals repeat' first
    | with_reducible assumption
    | with_reducible apply keeps_modDir
    | with_reducible apply keeps_modDirEnt
    | with_reducible apply keeps_snoop
    | with_reducible apply keeps_answerReq
    | split
    | intro _

theorem keeps_backInvalidate {σ : State} (s : State) (line : Nat) (h_s : Keeps σ s) : Keeps σ (State.backInvalidate s line) := by
  unfold State.backInvalidate
  try dsimp only
  all_goals repeat' first
    | with_reducible assumption
    | with_reducible apply keeps_modDir
    | with_reducible apply keeps_snoop
    | split
    | intro _

theorem keeps_dirRequest {σ : State} (s : State) (line : Nat) (r : DirReq) (h_s : Keeps σ s) : Keeps σ (State.dirRequest s line r) := by
  unfold State.dirRequest
  try dsimp only
  all_goals repeat' first
    | with_reducible assumption
    | with_reducible apply keeps_modDirEnt
    | with_reducible apply keeps_modDir
    | with_reducible apply keeps_backInvalidate
    | with_reducible apply keeps_startReq
    | split
    | intro _

theorem keeps_retrySources {σ : State} (s : State) (h_s : Keeps σ s) : Keeps σ (State.retrySources s) := by
  unfold State.retrySources
  try dsimp only
  all_goals repeat' first
    | with_reducible assumption
    | with_reducible apply keeps_modDir
    | with_reducible apply keeps_each
    | with_reducible apply keeps_dirRequest
    | intro _

theorem keeps_serveQueue {σ : State} (a0 : Nat) (a1 : State) (a2 : Nat) (h_a1 : Keeps σ a1) : Keeps σ (State.serveQueue a0 a1 a2) := by
  induction a0 generalizing a1 a2 with
  | zero =>
    unfold State.serveQueue
    try dsimp only
    all_goals repeat' first
      | with_reducible assumption
      | with_reducible apply ih
      | with_reducible apply keeps_modDirEnt
      | with_reducible apply keeps_startReq
      | split
      | intro _
  | succ n ih =>
    unfold State.serveQueue
    try dsimp only
    all_goals repeat' first
      | with_reducible assumption
      | with_reducible apply ih
      | with_reducible apply keeps_modDirEnt
      | with_reducible apply keeps_startReq
      | split
      | intro _

theorem keeps_lineFreed {σ : State} (s : State) (line : Nat) (h_s : Keeps σ s) : Keeps σ (State.lineFreed s line) := by
  unfold State.lineFreed
  try dsimp only
  all_goals repeat' first
    | with_reducible assumption
    | with_reducible apply keeps_serveQueue
    | with_reducible apply keeps_retrySources

theorem keeps_snoopDone {σ : State} (s : State) (c : Nat) (line : Nat) (keeps : Bool) (h_s : Keeps σ s) : Keeps σ (State.snoopDone s c line keeps) := by
  unfold State.snoopDone
  try dsimp only
  all_goals repeat' first
    | with_reducible assumption
    | with_reducible apply keeps_modDirEnt
    | with_reducible apply keeps_answerReq
    | with_reducible apply keeps_lineFreed
    | split
    | intro _

theorem keeps_reqArrives {σ : State} (kind : DirReqKind) (src : Nat) (line : Nat) (free : Bool) (s : State) (h_s : Keeps σ s) : Keeps σ (reqArrives kind src line free s) := by
  unfold reqArrives
  try dsimp only
  all_goals repeat' first
    | with_reducible assumption
    | with_reducible apply keeps_memPoint
    | with_reducible apply keeps_take
    | with_reducible apply keeps_dirRequest
    | split
    | intro _

theorem keeps_execRdS {σ : State} (c : Fin 64) (line : BitVec 44) (s : State) (h_s : Keeps σ s) : KeepsO σ (execRdS c line s) := by
  unfold execRdS
  try dsimp only
  all_goals repeat' first
    | with_reducible assumption
    | with_reducible apply keeps_reqArrives
    | with_reducible apply KeepsO.next
    | intro _

theorem keeps_execRdX {σ : State} (c : Fin 64) (line : BitVec 44) (s : State) (h_s : Keeps σ s) : KeepsO σ (execRdX c line s) := by
  unfold execRdX
  try dsimp only
  all_goals repeat' first
    | with_reducible assumption
    | with_reducible apply keeps_reqArrives
    | with_reducible apply KeepsO.next
    | intro _

theorem keeps_execUpgr {σ : State} (c : Fin 64) (line : BitVec 44) (s : State) (h_s : Keeps σ s) : KeepsO σ (execUpgr c line s) := by
  unfold execUpgr
  try dsimp only
  all_goals repeat' first
    | with_reducible assumption
    | with_reducible apply keeps_reqArrives
    | with_reducible apply KeepsO.next
    | intro _

theorem keeps_execRdU {σ : State} (agent : BitVec 16) (line : BitVec 44) (s : State) (h_s : Keeps σ s) : KeepsO σ (execRdU agent line s) := by
  unfold execRdU
  try dsimp only
  all_goals repeat' first
    | with_reducible assumption
    | with_reducible apply keeps_reqArrives
    | with_reducible apply KeepsO.next
    | intro _

theorem keeps_execWrU {σ : State} (agent : BitVec 16) (line : BitVec 44) (mask : BitVec 64) (data : BitVec 512) (s : State) (h_s : Keeps σ s) : KeepsO σ (execWrU agent line mask data s) := by
  unfold execWrU
  try dsimp only
  all_goals repeat' first
    | with_reducible assumption
    | with_reducible apply keeps_reqArrives
    | with_reducible apply KeepsO.next
    | intro _

theorem keeps_evictionTaken {σ : State} (c : Nat) (line : Nat) (dirty : Bool) (x : L1Line) (s : State) (h_s : Keeps σ s) : Keeps σ (evictionTaken c line dirty x s) := by
  unfold evictionTaken
  try dsimp only
  all_goals repeat' first
    | with_reducible assumption
    | with_reducible apply keeps_modDir
    | with_reducible apply keeps_putLine
    | with_reducible apply keeps_modXl
    | with_reducible apply keeps_setL1
    | with_reducible apply keeps_send
    | with_reducible apply keeps_snoopDone
    | with_reducible apply keeps_modDirEnt
    | split
    | intro _

theorem keeps_evictDirtyArrives {σ : State} (c : Nat) (line : Nat) (s : State) (h_s : Keeps σ s) : Keeps σ (evictDirtyArrives c line s) := by
  unfold evictDirtyArrives
  try dsimp only
  all_goals repeat' first
    | with_reducible assumption
    | with_reducible apply keeps_memPoint
    | with_reducible apply keeps_evictionTaken
    | with_reducible apply KeepsI.getD
    | with_reducible apply KeepsI.some
    | with_reducible apply KeepsI.none
    | split
    | intro _

theorem keeps_execEvictDirty {σ : State} (c : Fin 64) (line : BitVec 44) (s : State) (h_s : Keeps σ s) : KeepsO σ (execEvictDirty c line s) := by
  unfold execEvictDirty
  try dsimp only
  all_goals repeat' first
    | with_reducible assumption
    | with_reducible apply keeps_evictDirtyArrives
    | with_reducible apply KeepsO.next
    | intro _

theorem keeps_execEvictClean {σ : State} (c : Fin 64) (line : BitVec 44) (s : State) (h_s : Keeps σ s) : KeepsO σ (execEvictClean c line s) := by
  unfold execEvictClean
  try dsimp only
  all_goals repeat' first
    | with_reducible assumption
    | with_reducible apply keeps_evictionTaken
    | with_reducible apply KeepsO.next
    | split
    | intro _

theorem keeps_snoopCore {σ : State} (c : Nat) (line : Nat) (m : CohMsg) (keep : Bool) (s : State) (h_s : Keeps σ s) : Keeps σ (snoopCore c line m keep s) := by
  unfold snoopCore
  try dsimp only
  all_goals repeat' first
    | with_reducible assumption
    | with_reducible apply keeps_take
    | with_reducible apply keeps_send
    | with_reducible apply keeps_setL1
    | split

theorem keeps_execSnpInv {σ : State} (c : Fin 64) (line : BitVec 44) (s : State) (h_s : Keeps σ s) : KeepsO σ (execSnpInv c line s) := by
  unfold execSnpInv
  try dsimp only
  all_goals repeat' first
    | with_reducible assumption
    | with_reducible apply keeps_snoopCore
    | with_reducible apply KeepsO.next
    | intro _

theorem keeps_execSnpShare {σ : State} (c : Fin 64) (line : BitVec 44) (s : State) (h_s : Keeps σ s) : KeepsO σ (execSnpShare c line s) := by
  unfold execSnpShare
  try dsimp only
  all_goals repeat' first
    | with_reducible assumption
    | with_reducible apply keeps_snoopCore
    | with_reducible apply KeepsO.next
    | intro _

theorem keeps_execSnpOwn {σ : State} (c : Fin 64) (line : BitVec 44) (s : State) (h_s : Keeps σ s) : KeepsO σ (execSnpOwn c line s) := by
  unfold execSnpOwn
  try dsimp only
  all_goals repeat' first
    | with_reducible assumption
    | with_reducible apply keeps_snoopCore
    | with_reducible apply KeepsO.next
    | intro _

theorem keeps_execSnoopAck {σ : State} (c : Fin 64) (line : BitVec 44) (s : State) (h_s : Keeps σ s) : KeepsO σ (execSnoopAck c line s) := by
  unfold execSnoopAck
  try dsimp only
  all_goals repeat' first
    | with_reducible assumption
    | with_reducible apply keeps_take
    | with_reducible apply keeps_snoopDone
    | with_reducible apply KeepsO.next
    | split
    | intro _

theorem keeps_execSnoopAckData {σ : State} (c : Fin 64) (line : BitVec 44) (s : State) (h_s : Keeps σ s) : KeepsO σ (execSnoopAckData c line s) := by
  unfold execSnoopAckData
  try dsimp only
  all_goals repeat' first
    | with_reducible assumption
    | with_reducible apply keeps_take
    | with_reducible apply keeps_putLine
    | with_reducible apply keeps_chargeCore
    | with_reducible apply keeps_unpoison
    | with_reducible apply keeps_snoopDone
    | with_reducible apply KeepsO.next
    | split
    | intro _

theorem keeps_execGone {σ : State} (c : Fin 64) (line : BitVec 44) (s : State) (h_s : Keeps σ s) : KeepsO σ (execGone c line s) := by
  unfold execGone
  try dsimp only
  all_goals repeat' first
    | with_reducible assumption
    | with_reducible apply keeps_take
    | with_reducible apply keeps_snoopDone
    | with_reducible apply keeps_modDirEnt
    | with_reducible apply KeepsO.next
    | split
    | intro _

theorem keeps_makeRoom {σ : State} (s : State) (c : Nat) (h_s : Keeps σ s) : Keeps σ (State.makeRoom s c) := by
  unfold State.makeRoom
  try dsimp only
  all_goals repeat' first
    | with_reducible assumption
    | with_reducible apply keeps_fresh
    | with_reducible apply keeps_setL1
    | with_reducible apply keeps_send
    | split
    | intro _
    | refine Keeps.of_snd (by assumption) ?_

theorem keeps_fillCore {σ : State} (c : Nat) (line : Nat) (m : CohMsg) (st : L1State) (d : BitVec 512) (poison : Bool) (s : State) (h_s : Keeps σ s) : Keeps σ (fillCore c line m st d poison s) := by
  unfold fillCore
  try dsimp only
  all_goals repeat' first
    | with_reducible assumption
    | with_reducible apply keeps_take
    | with_reducible apply keeps_modCore
    | with_reducible apply keeps_send
    | with_reducible apply keeps_each
    | with_reducible apply keeps_threadUncorrectable
    | with_reducible apply keeps_makeRoom
    | with_reducible apply keeps_setL1
    | split
    | intro _

theorem keeps_fillArrives {σ : State} (c : Nat) (line : Nat) (st : L1State) (s : State) (h_s : Keeps σ s) : Keeps σ (fillArrives c line st s) := by
  unfold fillArrives
  try dsimp only
  all_goals repeat' first
    | with_reducible assumption
    | with_reducible apply keeps_fillCore
    | split

theorem keeps_execDataS {σ : State} (c : Fin 64) (line : BitVec 44) (s : State) (h_s : Keeps σ s) : KeepsO σ (execDataS c line s) := by
  unfold execDataS
  try dsimp only
  all_goals repeat' first
    | with_reducible assumption
    | with_reducible apply keeps_fillArrives
    | with_reducible apply KeepsO.next
    | intro _

theorem keeps_execDataE {σ : State} (c : Fin 64) (line : BitVec 44) (s : State) (h_s : Keeps σ s) : KeepsO σ (execDataE c line s) := by
  unfold execDataE
  try dsimp only
  all_goals repeat' first
    | with_reducible assumption
    | with_reducible apply keeps_fillArrives
    | with_reducible apply KeepsO.next
    | intro _

theorem keeps_execDataX {σ : State} (c : Fin 64) (line : BitVec 44) (s : State) (h_s : Keeps σ s) : KeepsO σ (execDataX c line s) := by
  unfold execDataX
  try dsimp only
  all_goals repeat' first
    | with_reducible assumption
    | with_reducible apply keeps_fillArrives
    | with_reducible apply KeepsO.next
    | intro _

theorem keeps_execGrant {σ : State} (c : Fin 64) (line : BitVec 44) (s : State) (h_s : Keeps σ s) : KeepsO σ (execGrant c line s) := by
  unfold execGrant
  try dsimp only
  all_goals repeat' first
    | with_reducible assumption
    | with_reducible apply keeps_grant
    | with_reducible apply keeps_take
    | with_reducible apply keeps_modCore
    | with_reducible apply keeps_send
    | with_reducible apply keeps_setL1
    | with_reducible apply KeepsO.next
    | split
    | intro _
    | refine Keeps.of_some (by assumption) ?_

theorem keeps_execEvictAck {σ : State} (c : Fin 64) (line : BitVec 44) (s : State) (h_s : Keeps σ s) : KeepsO σ (execEvictAck c line s) := by
  unfold execEvictAck
  try dsimp only
  all_goals repeat' first
    | with_reducible assumption
    | with_reducible apply keeps_take
    | with_reducible apply keeps_setL1
    | with_reducible apply keeps_l1Miss
    | with_reducible apply KeepsO.next
    | split
    | intro _

theorem keeps_execComp {σ : State} (c : Fin 64) (line : BitVec 44) (s : State) (h_s : Keeps σ s) : KeepsO σ (execComp c line s) := by
  unfold execComp
  try dsimp only
  all_goals repeat' first
    | with_reducible assumption
    | with_reducible apply keeps_take
    | with_reducible apply keeps_modDirEnt
    | with_reducible apply keeps_lineFreed
    | with_reducible apply KeepsO.next
    | split
    | intro _

theorem keeps_execDoneU {σ : State} (agent : BitVec 16) (line : BitVec 44) (s : State) (h_s : Keeps σ s) : KeepsO σ (execDoneU agent line s) := by
  unfold execDoneU
  try dsimp only
  all_goals repeat' first
    | with_reducible assumption
    | with_reducible apply keeps_take
    | with_reducible apply keeps_modCore
    | with_reducible apply keeps_modThr
    | with_reducible apply KeepsO.next
    | split
    | intro _

theorem keeps_execScanEnable {σ : State} (p : Fin 32) (v : BitVec 32) (s : State) (h_s : Keeps σ s) : KeepsO σ (execScanEnable p v s) := by
  unfold execScanEnable
  try dsimp only
  all_goals repeat' first
    | with_reducible assumption
    | with_reducible apply keeps_ringCfg
    | with_reducible apply KeepsO.next
    | split
    | intro _

theorem keeps_peekFx {σ : State} (s : State) (p : Nat) (va : Nat) (n : Nat) (h_s : Keeps σ s) : Keeps σ (State.peekFx s p va n) := by
  unfold State.peekFx
  try dsimp only
  all_goals repeat' first
    | with_reducible assumption
    | with_reducible apply keeps_bufXlate
    | with_reducible apply keeps_piecesFx
    | split
    | refine Keeps.of_snd (by assumption) ?_

theorem keeps_takeScan {σ : State} (s : State) (p : Nat) (op : Nat) (run : ScanRec → IndexSt → State → State) (h_s : Keeps σ s) (h_run : ∀ x0 x1 x2, Keeps σ x2 → Keeps σ (run x0 x1 x2)) : Keeps σ (State.takeScan s p op run) := by
  unfold State.takeScan
  try dsimp only
  all_goals repeat' first
    | with_reducible assumption
    | with_reducible apply keeps_takeRec
    | with_reducible apply keeps_ringSkip
    | with_reducible apply keeps_each
    | with_reducible apply keeps_peekFx
    | with_reducible apply h_run
    | with_reducible apply KeepsI.map
    | with_reducible apply KeepsI.getD
    | with_reducible apply KeepsI.some
    | with_reducible apply KeepsI.none
    | split
    | intro _

theorem keeps_addBatch {σ : State} (s : State) (h : Nat) (snap : Nat) (b : Batch) (h_s : Keeps σ s) : Keeps σ (State.addBatch s h snap b).2 := by
  unfold State.addBatch
  try dsimp only
  all_goals repeat' first
    | with_reducible assumption
    | with_reducible apply keeps_modSearch
    | with_reducible apply keeps_modIndex
    | with_reducible apply KeepsI.map
    | with_reducible apply KeepsI.getD
    | split
    | intro _

theorem keeps_execScan {σ : State} (p : Fin 32) (s : State) (h_s : Keeps σ s) : KeepsO σ (execScan p s) := by
  unfold execScan
  try dsimp only
  all_goals repeat' first
    | with_reducible assumption
    | with_reducible apply keeps_takeScan
    | with_reducible apply keeps_addBatch
    | with_reducible apply KeepsI.map
    | with_reducible apply KeepsI.getD
    | with_reducible apply KeepsO.next
    | split
    | intro _

theorem keeps_quernWrite {σ : State} (s : State) (b : Batch) (free : Bool) (ch : Nat) (va : Nat) (bs : List Byte) (h_s : Keeps σ s) : Keeps σ (State.quernWrite s b free ch va bs).2 := by
  unfold State.quernWrite
  try dsimp only
  all_goals repeat' first
    | with_reducible assumption
    | with_reducible apply keeps_bufXlate
    | with_reducible apply keeps_writePieces
    | with_reducible apply keeps_takeFault
    | with_reducible apply keeps_modBatch
    | split
    | intro _
    | refine Keeps.of_snd (by assumption) ?_

theorem keeps_quernWrites {σ : State} (s : State) (b : Batch) (ch : Nat) (ws : List (Nat × List Byte)) (h_s : Keeps σ s) : Keeps σ (State.quernWrites s b ch ws).2 := by
  unfold State.quernWrites
  try dsimp only
  all_goals repeat' first
    | with_reducible assumption
    | with_reducible apply keeps_foldl
    | with_reducible apply keeps_foldl_snd
    | with_reducible apply keeps_foldl_fst
    | with_reducible apply keeps_quernWrite
    | split
    | intro _

theorem keeps_scanChange {σ : State} (s : State) (p : Nat) (r : ScanRec) (ix : IndexSt) (len : Nat) (one : IndexSt → List Byte → IndexSt × Verdict) (h_s : Keeps σ s) : Keeps σ (State.scanChange s p r ix len one) := by
  unfold State.scanChange
  try dsimp only
  all_goals repeat' first
    | with_reducible assumption
    | with_reducible apply keeps_commitIndex
    | with_reducible apply keeps_poke
    | with_reducible apply keeps_signalDone
    | with_reducible apply KeepsI.getD

theorem keeps_execScanInsert {σ : State} (p : Fin 32) (s : State) (h_s : Keeps σ s) : KeepsO σ (execScanInsert p s) := by
  unfold execScanInsert
  try dsimp only
  all_goals repeat' first
    | with_reducible assumption
    | with_reducible apply keeps_takeScan
    | with_reducible apply keeps_scanChange
    | with_reducible apply KeepsO.next
    | intro _

theorem keeps_execScanDelete {σ : State} (p : Fin 32) (s : State) (h_s : Keeps σ s) : KeepsO σ (execScanDelete p s) := by
  unfold execScanDelete
  try dsimp only
  all_goals repeat' first
    | with_reducible assumption
    | with_reducible apply keeps_takeScan
    | with_reducible apply keeps_scanChange
    | with_reducible apply KeepsO.next
    | intro _

theorem keeps_placeOn {σ : State} (s : State) (b : Batch) (tombs : List Tomb) (ch : Nat) (ds : List ExtDesc) (h_s : Keeps σ s) : Keeps σ (State.placeOn s b tombs ch ds) := by
  unfold State.placeOn
  try dsimp only
  all_goals repeat' first
    | with_reducible assumption
    | with_reducible apply keeps_modEng
    | with_reducible apply keeps_each
    | with_reducible apply keeps_holdRun
    | with_reducible apply KeepsI.map
    | with_reducible apply KeepsI.getD
    | split
    | intro _

theorem keeps_execBatchPlace {σ : State} (lc : Bool) (s : State) (h_s : Keeps σ s) : KeepsO σ (execBatchPlace lc s) := by
  unfold execBatchPlace
  try dsimp only
  all_goals repeat' first
    | with_reducible assumption
    | with_reducible apply keeps_finishBatch
    | with_reducible apply keeps_each
    | with_reducible apply keeps_placeOn
    | with_reducible apply keeps_modBatch
    | with_reducible apply KeepsI.map
    | with_reducible apply KeepsO.next
    | split
    | intro _

theorem keeps_beginFetch {σ : State} (s : State) (b : Batch) (ix : IndexSt) (h_s : Keeps σ s) : Keeps σ (State.beginFetch s b ix) := by
  unfold State.beginFetch
  try dsimp only
  all_goals repeat' first
    | with_reducible assumption
    | with_reducible apply keeps_foldl
    | with_reducible apply keeps_foldl_snd
    | with_reducible apply keeps_foldl_fst
    | with_reducible apply keeps_each
    | with_reducible apply keeps_holdRun
    | with_reducible apply keeps_recFx
    | with_reducible apply keeps_modBatch
    | with_reducible apply KeepsI.map
    | split
    | intro _

theorem keeps_fetchOne {σ : State} (s : State) (b : Batch) (ix : IndexSt) (i : Nat) (ch : Nat) (loc : Nat) (h_s : Keeps σ s) : Keeps σ (State.fetchOne s b ix i ch loc) := by
  unfold State.fetchOne
  try dsimp only
  all_goals repeat' first
    | with_reducible assumption
    | with_reducible apply keeps_quernWrite
    | with_reducible apply keeps_poke
    | with_reducible apply keeps_modBatch
    | split
    | intro _

theorem keeps_fetchRun {σ : State} (s : State) (b : Batch) (h_s : Keeps σ s) : Keeps σ (State.fetchRun s b) := by
  unfold State.fetchRun
  try dsimp only
  all_goals repeat' first
    | with_reducible assumption
    | with_reducible apply keeps_dropBatch
    | with_reducible apply keeps_atPoint
    | with_reducible apply keeps_beginFetch
    | with_reducible apply keeps_each
    | with_reducible apply keeps_fetchOne
    | with_reducible apply keeps_signalDone
    | with_reducible apply KeepsI.getD
    | with_reducible apply KeepsI.some
    | with_reducible apply KeepsI.none
    | split
    | intro _

theorem keeps_execFetchRecords {σ : State} (p : Fin 32) (s : State) (h_s : Keeps σ s) : KeepsO σ (execFetchRecords p s) := by
  unfold execFetchRecords
  try dsimp only
  all_goals repeat' first
    | with_reducible assumption
    | with_reducible apply keeps_takeScan
    | with_reducible apply keeps_addBatch
    | with_reducible apply keeps_fetchRun
    | with_reducible apply KeepsI.map
    | with_reducible apply KeepsI.getD
    | with_reducible apply KeepsI.some
    | with_reducible apply KeepsI.none
    | with_reducible apply KeepsO.next
    | split
    | intro _
    | refine Keeps.of_snd (by assumption) ?_

theorem keeps_execExtentDescriptor {σ : State} (ch : Fin 64) (s : State) (h_s : Keeps σ s) : KeepsO σ (execExtentDescriptor ch s) := by
  unfold execExtentDescriptor
  try dsimp only
  all_goals repeat' first
    | with_reducible assumption
    | with_reducible apply keeps_modEng
    | with_reducible apply KeepsO.next
    | split
    | intro _

theorem keeps_scanLost {σ : State} (s : State) (b : Batch) (ch : Nat) (d : ExtDesc) (unit : Nat) (code : Nat) (h_s : Keeps σ s) : Keeps σ (State.scanLost s b ch d unit code) := by
  unfold State.scanLost
  try dsimp only
  all_goals repeat' first
    | with_reducible assumption
    | with_reducible apply keeps_modBatch
    | with_reducible apply keeps_foldl
    | with_reducible apply keeps_foldl_snd
    | with_reducible apply keeps_foldl_fst
    | with_reducible apply keeps_modEng
    | with_reducible apply keeps_modPtn
    | with_reducible apply keeps_log
    | intro _

theorem keeps_scanEntries {σ : State} (s : State) (b : Batch) (ix : IndexSt) (ch : Nat) (d : ExtDesc) (es : List Entry) (h_s : Keeps σ s) : Keeps σ (State.scanEntries s b ix ch d es) := by
  unfold State.scanEntries
  try dsimp only
  all_goals repeat' first
    | with_reducible assumption
    | with_reducible apply keeps_foldl
    | with_reducible apply keeps_foldl_snd
    | with_reducible apply keeps_foldl_fst
    | with_reducible apply keeps_modBatch
    | with_reducible apply keeps_modEng
    | with_reducible apply keeps_charge
    | with_reducible apply KeepsI.map
    | with_reducible apply KeepsI.getD
    | split
    | intro _

theorem keeps_scanTo {σ : State} (s : State) (ch : Nat) (d : ExtDesc) (next : ExtDesc) (h_s : Keeps σ s) : Keeps σ (State.scanTo s ch d next) := by
  unfold State.scanTo
  try dsimp only
  all_goals repeat' first
    | with_reducible assumption
    | with_reducible apply keeps_modEng
    | with_reducible apply keeps_dropDesc
    | split
    | intro _

theorem keeps_scanPage {σ : State} (s : State) (b : Batch) (ix : IndexSt) (ch : Nat) (d : ExtDesc) (h_s : Keeps σ s) : Keeps σ (State.scanPage s b ix ch d) := by
  unfold State.scanPage
  try dsimp only
  all_goals repeat' first
    | with_reducible assumption
    | with_reducible apply keeps_scanLost
    | with_reducible apply keeps_scanTo
    | with_reducible apply keeps_setFree
    | with_reducible apply keeps_scanEntries
    | with_reducible apply keeps_take
    | with_reducible apply KeepsI.map
    | split

theorem keeps_tableUe {σ : State} (s : State) (ch : Nat) (tag : Nat) (h_s : Keeps σ s) : Keeps σ (State.tableUe s ch tag) := by
  unfold State.tableUe
  try dsimp only
  all_goals repeat' first
    | with_reducible assumption
    | with_reducible apply keeps_each
    | with_reducible apply keeps_dropDescs
    | with_reducible apply keeps_modBatch
    | with_reducible apply keeps_log
    | split
    | intro _

theorem keeps_pageGo {σ : State} (s : State) (ch : Nat) (h_s : Keeps σ s) : Keeps σ (State.pageGo s ch) := by
  unfold State.pageGo
  try dsimp only
  all_goals repeat' first
    | with_reducible assumption
    | with_reducible apply keeps_each
    | with_reducible apply keeps_holdRequest
    | with_reducible apply keeps_modEng
    | with_reducible apply KeepsI.bind
    | with_reducible apply keeps_scanTo
    | with_reducible apply keeps_scanPage
    | with_reducible apply keeps_unheld
    | with_reducible apply keeps_modBlk
    | with_reducible apply keeps_charge
    | with_reducible apply KeepsI.map
    | split
    | intro _

theorem keeps_execEntryPageRead {σ : State} (ch : Fin 64) (ue : Option (BitVec 32)) (s : State) (h_s : Keeps σ s) : KeepsO σ (execEntryPageRead ch ue s) := by
  unfold execEntryPageRead
  try dsimp only
  all_goals repeat' first
    | with_reducible assumption
    | with_reducible apply keeps_pageGo
    | with_reducible apply keeps_tableUe
    | with_reducible apply KeepsO.next
    | split
    | intro _

theorem keeps_reportQueries {σ : State} (s : State) (b : Batch) (ix : IndexSt) (ch : Nat) (h_s : Keeps σ s) : Keeps σ (State.reportQueries s b ix ch) := by
  unfold State.reportQueries
  try dsimp only
  all_goals repeat' first
    | with_reducible assumption
    | with_reducible apply keeps_each
    | with_reducible apply keeps_quernWrites
    | with_reducible apply keeps_modBatch
    | split
    | intro _

theorem keeps_prefetch {σ : State} (s : State) (b : Batch) (ix : IndexSt) (ch : Nat) (h_s : Keeps σ s) : Keeps σ (State.prefetch s b ix ch) := by
  unfold State.prefetch
  try dsimp only
  all_goals repeat' first
    | with_reducible assumption
    | with_reducible apply keeps_take
    | with_reducible apply keeps_recFx
    | with_reducible apply keeps_setFree
    | with_reducible apply keeps_modBatch
    | with_reducible apply keeps_foldl
    | with_reducible apply keeps_foldl_snd
    | with_reducible apply keeps_foldl_fst
    | with_reducible apply KeepsI.map
    | split
    | intro _

theorem keeps_reportDone {σ : State} (s : State) (ch : Nat) (b : Batch) (h_s : Keeps σ s) : Keeps σ (State.reportDone s ch b) := by
  unfold State.reportDone
  try dsimp only
  all_goals repeat' first
    | with_reducible assumption
    | with_reducible apply keeps_leaveEngine
    | with_reducible apply keeps_finishBatch
    | split
    | intro _

theorem keeps_execEngineReport {σ : State} (ch : Fin 64) (s : State) (h_s : Keeps σ s) : KeepsO σ (execEngineReport ch s) := by
  unfold execEngineReport
  try dsimp only
  all_goals repeat' first
    | with_reducible assumption
    | with_reducible apply keeps_finishBatch
    | with_reducible apply keeps_dropBatch
    | with_reducible apply keeps_reportDone
    | with_reducible apply keeps_atPoint
    | with_reducible apply keeps_prefetch
    | with_reducible apply keeps_reportQueries
    | with_reducible apply KeepsI.getD
    | with_reducible apply KeepsI.some
    | with_reducible apply KeepsI.none
    | with_reducible apply KeepsO.next
    | split
    | intro _

theorem keeps_weftRead {σ : State} (s : State) (job : Nat) (h_s : Keeps σ s) : Keeps σ (State.weftRead s job) := by
  unfold State.weftRead
  try dsimp only
  all_goals repeat' first
    | with_reducible assumption
    | with_reducible apply keeps_csrRead
    | with_reducible apply keeps_endJob
    | with_reducible apply keeps_bufMap
    | with_reducible apply keeps_writePieces
    | split
    | refine Keeps.of_snd (by assumption) ?_

theorem keeps_weftWrite {σ : State} (s : State) (job : Nat) (h_s : Keeps σ s) : Keeps σ (State.weftWrite s job) := by
  unfold State.weftWrite
  try dsimp only
  all_goals repeat' first
    | with_reducible assumption
    | with_reducible apply keeps_csrWrite
    | with_reducible apply keeps_endJob
    | split
    | refine Keeps.of_snd (by assumption) ?_

theorem keeps_execCsrRead {σ : State} (r : Route) (s : State) (h_s : Keeps σ s) : KeepsO σ (execCsrRead r s) := by
  unfold execCsrRead
  try dsimp only
  all_goals repeat' first
    | with_reducible assumption
    | with_reducible apply keeps_weftRead
    | with_reducible apply keeps_mailboxCmd
    | with_reducible apply KeepsO.next
    | split
    | intro _

theorem keeps_execCsrWrite {σ : State} (r : Route) (s : State) (h_s : Keeps σ s) : KeepsO σ (execCsrWrite r s) := by
  unfold execCsrWrite
  try dsimp only
  all_goals repeat' first
    | with_reducible assumption
    | with_reducible apply keeps_weftWrite
    | with_reducible apply keeps_mailboxCmd
    | with_reducible apply KeepsO.next
    | split
    | intro _

theorem keeps_weftStage {σ : State} (s : State) (job : Nat) (h_s : Keeps σ s) : Keeps σ (State.weftStage s job) := by
  unfold State.weftStage
  try dsimp only
  all_goals repeat' first
    | with_reducible assumption
    | with_reducible apply keeps_modJob
    | with_reducible apply keeps_endJob
    | with_reducible apply keeps_warpCopy
    | with_reducible apply keeps_bufMap
    | with_reducible apply keeps_piecesFx
    | split
    | intro _
    | refine Keeps.of_snd (by assumption) ?_

theorem keeps_warpWeft {σ : State} (s : State) (id : Nat) (code : Nat) (go : State → Src → Nat × State) (h_s : Keeps σ s) (h_go : ∀ x0 x1, Keeps σ x0 → Keeps σ (go x0 x1).2) : Keeps σ (State.warpWeft s id code go) := by
  unfold State.warpWeft
  try dsimp only
  all_goals repeat' first
    | with_reducible assumption
    | with_reducible apply keeps_endJob
    | with_reducible apply h_go
    | split
    | intro _
    | refine Keeps.of_snd (by assumption) ?_

theorem keeps_execWarpStage {σ : State} (r : Route) (s : State) (h_s : Keeps σ s) : KeepsO σ (execWarpStage r s) := by
  unfold execWarpStage
  try dsimp only
  all_goals repeat' first
    | with_reducible assumption
    | with_reducible apply keeps_weftStage
    | with_reducible apply keeps_mailboxCmd
    | with_reducible apply KeepsO.next
    | split
    | intro _

theorem keeps_warpRow {σ : State} (s : State) (r : Route) (code : Nat) (go : State → Src → Nat × State) (h_s : Keeps σ s) (h_go : ∀ x0 x1, Keeps σ x0 → Keeps σ (go x0 x1).2) : Keeps σ (State.warpRow s r code go) := by
  unfold State.warpRow
  try dsimp only
  all_goals repeat' first
    | with_reducible assumption
    | with_reducible apply keeps_warpWeft
    | with_reducible apply keeps_mailboxCmd
    | with_reducible apply h_go
    | split
    | intro _
    | refine Keeps.of_snd (by assumption) ?_

theorem keeps_execWarpCommit {σ : State} (r : Route) (s : State) (h_s : Keeps σ s) : KeepsO σ (execWarpCommit r s) := by
  unfold execWarpCommit
  try dsimp only
  all_goals repeat' first
    | with_reducible assumption
    | with_reducible apply keeps_warpRow
    | with_reducible apply keeps_warpCommitBy
    | with_reducible apply KeepsO.next
    | intro _

theorem keeps_execWarpStructReset {σ : State} (r : Route) (s : State) (h_s : Keeps σ s) : KeepsO σ (execWarpStructReset r s) := by
  unfold execWarpStructReset
  try dsimp only
  all_goals repeat' first
    | with_reducible assumption
    | with_reducible apply keeps_warpRow
    | with_reducible apply keeps_warpResetBy
    | with_reducible apply KeepsO.next
    | intro _

theorem keeps_execWarpDiscard {σ : State} (r : Route) (s : State) (h_s : Keeps σ s) : KeepsO σ (execWarpDiscard r s) := by
  unfold execWarpDiscard
  try dsimp only
  all_goals repeat' first
    | with_reducible assumption
    | with_reducible apply keeps_warpRow
    | with_reducible apply keeps_warpDiscardBy
    | with_reducible apply KeepsO.next
    | intro _

theorem keeps_helloReg {σ : State} (s : State) (p : Nat) (w : CsrWr) (h_s : Keeps σ s) : Keeps σ (State.helloReg s p w) := by
  unfold State.helloReg
  try dsimp only
  all_goals repeat' first
    | with_reducible assumption
    | with_reducible apply keeps_helloWrite
    | with_reducible apply keeps_modPage
    | split
    | intro _

theorem keeps_pageWrite {σ : State} (s : State) (p : Nat) (w : CsrWr) (h_s : Keeps σ s) : Keeps σ (State.pageWrite s p w) := by
  unfold State.pageWrite
  try dsimp only
  all_goals repeat' first
    | with_reducible assumption
    | with_reducible apply keeps_sqTailWrite
    | with_reducible apply keeps_cqHeadWrite
    | with_reducible apply keeps_ringConfig
    | with_reducible apply keeps_helloReg
    | with_reducible apply keeps_modPage
    | split
    | intro _

theorem keeps_nvDoorbell {σ : State} (s : State) (o : Nat) (v : Nat) (h_s : Keeps σ s) : Keeps σ (State.nvDoorbell s o v) := by
  unfold State.nvDoorbell
  try dsimp only
  all_goals repeat' first
    | with_reducible assumption
    | with_reducible apply keeps_modNvme
    | split
    | intro _

theorem keeps_nvReg {σ : State} (s : State) (o : Nat) (v : Nat) (h_s : Keeps σ s) : Keeps σ (State.nvReg s o v) := by
  unfold State.nvReg
  try dsimp only
  all_goals repeat' first
    | with_reducible assumption
    | with_reducible apply keeps_modNvme
    | with_reducible apply keeps_shnWrite
    | with_reducible apply keeps_ccWrite
    | with_reducible apply keeps_nvDoorbell
    | with_reducible apply keeps_modHost
    | with_reducible refine keeps_ite ?_ ?_
    | intro _

theorem keeps_execRegisterWrite {σ : State} (a : RegAccess) (s : State) (h_s : Keeps σ s) : KeepsO σ (execRegisterWrite a s) := by
  unfold execRegisterWrite
  try dsimp only
  all_goals repeat' first
    | with_reducible assumption
    | with_reducible apply keeps_nvReg
    | with_reducible apply keeps_pageWrite
    | with_reducible apply keeps_csrWrite
    | with_reducible apply keeps_modHost
    | with_reducible apply KeepsO.next
    | split
    | intro _
    | refine Keeps.of_snd (by assumption) ?_

theorem keeps_execPcieLinkTraining {σ : State} (res : Option PcieRes) (s : State) (h_s : Keeps σ s) : KeepsO σ (execPcieLinkTraining res s) := by
  unfold execPcieLinkTraining
  try dsimp only
  all_goals repeat' first
    | with_reducible assumption
    | with_reducible apply keeps_linkUp
    | with_reducible apply keeps_modHost
    | with_reducible apply keeps_log
    | with_reducible apply KeepsO.next
    | split
    | intro _

theorem keeps_serveHeld {σ : State} (s : State) (e : HeldReq) (h_s : Keeps σ s) : Keeps σ (State.serveHeld s e) := by
  unfold State.serveHeld
  try dsimp only
  all_goals repeat' first
    | with_reducible assumption
    | with_reducible apply keeps_serveRow
    | with_reducible apply keeps_reqArrives
    | with_reducible apply keeps_evictDirtyArrives
    | with_reducible apply keeps_bobbinGo
    | with_reducible apply keeps_pageGo
    | with_reducible apply keeps_nvGo
    | with_reducible apply keeps_flushStore
    | with_reducible apply keeps_pumpFabric
    | with_reducible apply keeps_walk
    | split
    | refine Keeps.of_snd (by assumption) ?_

theorem keeps_execRegulatorRelease {σ : State} (p : Fin 32) (r : Fin 6) (s : State) (h_s : Keeps σ s) : KeepsO σ (execRegulatorRelease p r s) := by
  unfold execRegulatorRelease
  try dsimp only
  all_goals repeat' first
    | with_reducible assumption
    | with_reducible apply keeps_unheld
    | with_reducible apply keeps_serveHeld
    | with_reducible apply keeps_drainLinks
    | with_reducible apply KeepsO.next
    | split
    | intro _

theorem keeps_chargeTime {σ : State} (s : State) (c : Nat) (k : CoreSt) (h_s : Keeps σ s) : Keeps σ (State.chargeTime s c k) := by
  unfold State.chargeTime
  try dsimp only
  all_goals repeat' first
    | with_reducible assumption
    | with_reducible apply keeps_modPtn
    | with_reducible apply keeps_foldl
    | with_reducible apply keeps_foldl_snd
    | with_reducible apply keeps_foldl_fst
    | split
    | intro _

theorem keeps_tick {σ : State} (s : State) (h_s : Keeps σ s) : Keeps σ (State.tick s) := by
  unfold State.tick
  try dsimp only
  all_goals repeat' first
    | with_reducible assumption
    | with_reducible apply keeps_setTime
    | with_reducible apply keeps_setCores
    | with_reducible apply keeps_setPtns
    | with_reducible apply keeps_each
    | with_reducible apply keeps_chargeTime
    | with_reducible apply keeps_modFab
    | with_reducible apply keeps_modFlash
    | with_reducible apply keeps_drainLinks
    | with_reducible apply keeps_modLinks
    | with_reducible apply keeps_modPwr
    | with_reducible apply keeps_modField
    | with_reducible apply KeepsI.map
    | exact frame_ok _ _ (by assumption)
    | split
    | intro _

end Sys2Proof.Machine
end

