-- ==== Sys2Proof/Laws/State.lean ====
section
/-! SUPPORT. One lemma per field of State per update: what an update leaves and what it writes. -/

namespace Sys2Proof.Machine

@[simp] theorem State.setPending_pending (s : State) (v : List Instr) : (s.setPending v).pending = v := rfl
@[simp] theorem State.setPending_free (s : State) (v : List Instr) : (s.setPending v).free = s.free := rfl
@[simp] theorem State.setPending_fac (s : State) (v : List Instr) : (s.setPending v).fac = s.fac := rfl
@[simp] theorem State.setPending_clk (s : State) (v : List Instr) : (s.setPending v).clk = s.clk := rfl
@[simp] theorem State.setPending_pwr (s : State) (v : List Instr) : (s.setPending v).pwr = s.pwr := rfl
@[simp] theorem State.setPending_fab (s : State) (v : List Instr) : (s.setPending v).fab = s.fab := rfl
@[simp] theorem State.setPending_warp (s : State) (v : List Instr) : (s.setPending v).warp = s.warp := rfl
@[simp] theorem State.setPending_ptns (s : State) (v : List Instr) : (s.setPending v).ptns = s.ptns := rfl
@[simp] theorem State.setPending_cores (s : State) (v : List Instr) : (s.setPending v).cores = s.cores := rfl
@[simp] theorem State.setPending_sync (s : State) (v : List Instr) : (s.setPending v).sync = s.sync := rfl
@[simp] theorem State.setPending_notice (s : State) (v : List Instr) : (s.setPending v).notice = s.notice := rfl
@[simp] theorem State.setPending_mem (s : State) (v : List Instr) : (s.setPending v).mem = s.mem := rfl
@[simp] theorem State.setPending_dir (s : State) (v : List Instr) : (s.setPending v).dir = s.dir := rfl
@[simp] theorem State.setPending_xl (s : State) (v : List Instr) : (s.setPending v).xl = s.xl := rfl
@[simp] theorem State.setPending_sh (s : State) (v : List Instr) : (s.setPending v).sh = s.sh := rfl
@[simp] theorem State.setPending_model (s : State) (v : List Instr) : (s.setPending v).model = s.model := rfl
@[simp] theorem State.setPending_mctok (s : State) (v : List Instr) : (s.setPending v).mctok = s.mctok := rfl
@[simp] theorem State.setPending_host (s : State) (v : List Instr) : (s.setPending v).host = s.host := rfl
@[simp] theorem State.setPending_nvme (s : State) (v : List Instr) : (s.setPending v).nvme = s.nvme := rfl
@[simp] theorem State.setPending_flash (s : State) (v : List Instr) : (s.setPending v).flash = s.flash := rfl
@[simp] theorem State.setPending_search (s : State) (v : List Instr) : (s.setPending v).search = s.search := rfl
@[simp] theorem State.setPending_ingest (s : State) (v : List Instr) : (s.setPending v).ingest = s.ingest := rfl
@[simp] theorem State.setPending_links (s : State) (v : List Instr) : (s.setPending v).links = s.links := rfl
@[simp] theorem State.setPending_mgt (s : State) (v : List Instr) : (s.setPending v).mgt = s.mgt := rfl
@[simp] theorem State.setPending_field (s : State) (v : List Instr) : (s.setPending v).field = s.field := rfl
@[simp] theorem State.setPending_time (s : State) (v : List Instr) : (s.setPending v).time = s.time := rfl
@[simp] theorem State.setPending_chain (s : State) (v : List Instr) : (s.setPending v).chain = s.chain := rfl
@[simp] theorem State.setPending_tap (s : State) (v : List Instr) : (s.setPending v).tap = s.tap := rfl
@[simp] theorem State.setFree_pending (s : State) (v : Nat) : (s.setFree v).pending = s.pending := rfl
@[simp] theorem State.setFree_free (s : State) (v : Nat) : (s.setFree v).free = v := rfl
@[simp] theorem State.setFree_fac (s : State) (v : Nat) : (s.setFree v).fac = s.fac := rfl
@[simp] theorem State.setFree_clk (s : State) (v : Nat) : (s.setFree v).clk = s.clk := rfl
@[simp] theorem State.setFree_pwr (s : State) (v : Nat) : (s.setFree v).pwr = s.pwr := rfl
@[simp] theorem State.setFree_fab (s : State) (v : Nat) : (s.setFree v).fab = s.fab := rfl
@[simp] theorem State.setFree_warp (s : State) (v : Nat) : (s.setFree v).warp = s.warp := rfl
@[simp] theorem State.setFree_ptns (s : State) (v : Nat) : (s.setFree v).ptns = s.ptns := rfl
@[simp] theorem State.setFree_cores (s : State) (v : Nat) : (s.setFree v).cores = s.cores := rfl
@[simp] theorem State.setFree_sync (s : State) (v : Nat) : (s.setFree v).sync = s.sync := rfl
@[simp] theorem State.setFree_notice (s : State) (v : Nat) : (s.setFree v).notice = s.notice := rfl
@[simp] theorem State.setFree_mem (s : State) (v : Nat) : (s.setFree v).mem = s.mem := rfl
@[simp] theorem State.setFree_dir (s : State) (v : Nat) : (s.setFree v).dir = s.dir := rfl
@[simp] theorem State.setFree_xl (s : State) (v : Nat) : (s.setFree v).xl = s.xl := rfl
@[simp] theorem State.setFree_sh (s : State) (v : Nat) : (s.setFree v).sh = s.sh := rfl
@[simp] theorem State.setFree_model (s : State) (v : Nat) : (s.setFree v).model = s.model := rfl
@[simp] theorem State.setFree_mctok (s : State) (v : Nat) : (s.setFree v).mctok = s.mctok := rfl
@[simp] theorem State.setFree_host (s : State) (v : Nat) : (s.setFree v).host = s.host := rfl
@[simp] theorem State.setFree_nvme (s : State) (v : Nat) : (s.setFree v).nvme = s.nvme := rfl
@[simp] theorem State.setFree_flash (s : State) (v : Nat) : (s.setFree v).flash = s.flash := rfl
@[simp] theorem State.setFree_search (s : State) (v : Nat) : (s.setFree v).search = s.search := rfl
@[simp] theorem State.setFree_ingest (s : State) (v : Nat) : (s.setFree v).ingest = s.ingest := rfl
@[simp] theorem State.setFree_links (s : State) (v : Nat) : (s.setFree v).links = s.links := rfl
@[simp] theorem State.setFree_mgt (s : State) (v : Nat) : (s.setFree v).mgt = s.mgt := rfl
@[simp] theorem State.setFree_field (s : State) (v : Nat) : (s.setFree v).field = s.field := rfl
@[simp] theorem State.setFree_time (s : State) (v : Nat) : (s.setFree v).time = s.time := rfl
@[simp] theorem State.setFree_chain (s : State) (v : Nat) : (s.setFree v).chain = s.chain := rfl
@[simp] theorem State.setFree_tap (s : State) (v : Nat) : (s.setFree v).tap = s.tap := rfl
@[simp] theorem State.setFac_pending (s : State) (v : Factory) : (s.setFac v).pending = s.pending := rfl
@[simp] theorem State.setFac_free (s : State) (v : Factory) : (s.setFac v).free = s.free := rfl
@[simp] theorem State.setFac_fac (s : State) (v : Factory) : (s.setFac v).fac = v := rfl
@[simp] theorem State.setFac_clk (s : State) (v : Factory) : (s.setFac v).clk = s.clk := rfl
@[simp] theorem State.setFac_pwr (s : State) (v : Factory) : (s.setFac v).pwr = s.pwr := rfl
@[simp] theorem State.setFac_fab (s : State) (v : Factory) : (s.setFac v).fab = s.fab := rfl
@[simp] theorem State.setFac_warp (s : State) (v : Factory) : (s.setFac v).warp = s.warp := rfl
@[simp] theorem State.setFac_ptns (s : State) (v : Factory) : (s.setFac v).ptns = s.ptns := rfl
@[simp] theorem State.setFac_cores (s : State) (v : Factory) : (s.setFac v).cores = s.cores := rfl
@[simp] theorem State.setFac_sync (s : State) (v : Factory) : (s.setFac v).sync = s.sync := rfl
@[simp] theorem State.setFac_notice (s : State) (v : Factory) : (s.setFac v).notice = s.notice := rfl
@[simp] theorem State.setFac_mem (s : State) (v : Factory) : (s.setFac v).mem = s.mem := rfl
@[simp] theorem State.setFac_dir (s : State) (v : Factory) : (s.setFac v).dir = s.dir := rfl
@[simp] theorem State.setFac_xl (s : State) (v : Factory) : (s.setFac v).xl = s.xl := rfl
@[simp] theorem State.setFac_sh (s : State) (v : Factory) : (s.setFac v).sh = s.sh := rfl
@[simp] theorem State.setFac_model (s : State) (v : Factory) : (s.setFac v).model = s.model := rfl
@[simp] theorem State.setFac_mctok (s : State) (v : Factory) : (s.setFac v).mctok = s.mctok := rfl
@[simp] theorem State.setFac_host (s : State) (v : Factory) : (s.setFac v).host = s.host := rfl
@[simp] theorem State.setFac_nvme (s : State) (v : Factory) : (s.setFac v).nvme = s.nvme := rfl
@[simp] theorem State.setFac_flash (s : State) (v : Factory) : (s.setFac v).flash = s.flash := rfl
@[simp] theorem State.setFac_search (s : State) (v : Factory) : (s.setFac v).search = s.search := rfl
@[simp] theorem State.setFac_ingest (s : State) (v : Factory) : (s.setFac v).ingest = s.ingest := rfl
@[simp] theorem State.setFac_links (s : State) (v : Factory) : (s.setFac v).links = s.links := rfl
@[simp] theorem State.setFac_mgt (s : State) (v : Factory) : (s.setFac v).mgt = s.mgt := rfl
@[simp] theorem State.setFac_field (s : State) (v : Factory) : (s.setFac v).field = s.field := rfl
@[simp] theorem State.setFac_time (s : State) (v : Factory) : (s.setFac v).time = s.time := rfl
@[simp] theorem State.setFac_chain (s : State) (v : Factory) : (s.setFac v).chain = s.chain := rfl
@[simp] theorem State.setFac_tap (s : State) (v : Factory) : (s.setFac v).tap = s.tap := rfl
@[simp] theorem State.setClk_pending (s : State) (v : ClkSt) : (s.setClk v).pending = s.pending := rfl
@[simp] theorem State.setClk_free (s : State) (v : ClkSt) : (s.setClk v).free = s.free := rfl
@[simp] theorem State.setClk_fac (s : State) (v : ClkSt) : (s.setClk v).fac = s.fac := rfl
@[simp] theorem State.setClk_clk (s : State) (v : ClkSt) : (s.setClk v).clk = v := rfl
@[simp] theorem State.setClk_pwr (s : State) (v : ClkSt) : (s.setClk v).pwr = s.pwr := rfl
@[simp] theorem State.setClk_fab (s : State) (v : ClkSt) : (s.setClk v).fab = s.fab := rfl
@[simp] theorem State.setClk_warp (s : State) (v : ClkSt) : (s.setClk v).warp = s.warp := rfl
@[simp] theorem State.setClk_ptns (s : State) (v : ClkSt) : (s.setClk v).ptns = s.ptns := rfl
@[simp] theorem State.setClk_cores (s : State) (v : ClkSt) : (s.setClk v).cores = s.cores := rfl
@[simp] theorem State.setClk_sync (s : State) (v : ClkSt) : (s.setClk v).sync = s.sync := rfl
@[simp] theorem State.setClk_notice (s : State) (v : ClkSt) : (s.setClk v).notice = s.notice := rfl
@[simp] theorem State.setClk_mem (s : State) (v : ClkSt) : (s.setClk v).mem = s.mem := rfl
@[simp] theorem State.setClk_dir (s : State) (v : ClkSt) : (s.setClk v).dir = s.dir := rfl
@[simp] theorem State.setClk_xl (s : State) (v : ClkSt) : (s.setClk v).xl = s.xl := rfl
@[simp] theorem State.setClk_sh (s : State) (v : ClkSt) : (s.setClk v).sh = s.sh := rfl
@[simp] theorem State.setClk_model (s : State) (v : ClkSt) : (s.setClk v).model = s.model := rfl
@[simp] theorem State.setClk_mctok (s : State) (v : ClkSt) : (s.setClk v).mctok = s.mctok := rfl
@[simp] theorem State.setClk_host (s : State) (v : ClkSt) : (s.setClk v).host = s.host := rfl
@[simp] theorem State.setClk_nvme (s : State) (v : ClkSt) : (s.setClk v).nvme = s.nvme := rfl
@[simp] theorem State.setClk_flash (s : State) (v : ClkSt) : (s.setClk v).flash = s.flash := rfl
@[simp] theorem State.setClk_search (s : State) (v : ClkSt) : (s.setClk v).search = s.search := rfl
@[simp] theorem State.setClk_ingest (s : State) (v : ClkSt) : (s.setClk v).ingest = s.ingest := rfl
@[simp] theorem State.setClk_links (s : State) (v : ClkSt) : (s.setClk v).links = s.links := rfl
@[simp] theorem State.setClk_mgt (s : State) (v : ClkSt) : (s.setClk v).mgt = s.mgt := rfl
@[simp] theorem State.setClk_field (s : State) (v : ClkSt) : (s.setClk v).field = s.field := rfl
@[simp] theorem State.setClk_time (s : State) (v : ClkSt) : (s.setClk v).time = s.time := rfl
@[simp] theorem State.setClk_chain (s : State) (v : ClkSt) : (s.setClk v).chain = s.chain := rfl
@[simp] theorem State.setClk_tap (s : State) (v : ClkSt) : (s.setClk v).tap = s.tap := rfl
@[simp] theorem State.setPwr_pending (s : State) (v : PwrSt) : (s.setPwr v).pending = s.pending := rfl
@[simp] theorem State.setPwr_free (s : State) (v : PwrSt) : (s.setPwr v).free = s.free := rfl
@[simp] theorem State.setPwr_fac (s : State) (v : PwrSt) : (s.setPwr v).fac = s.fac := rfl
@[simp] theorem State.setPwr_clk (s : State) (v : PwrSt) : (s.setPwr v).clk = s.clk := rfl
@[simp] theorem State.setPwr_pwr (s : State) (v : PwrSt) : (s.setPwr v).pwr = v := rfl
@[simp] theorem State.setPwr_fab (s : State) (v : PwrSt) : (s.setPwr v).fab = s.fab := rfl
@[simp] theorem State.setPwr_warp (s : State) (v : PwrSt) : (s.setPwr v).warp = s.warp := rfl
@[simp] theorem State.setPwr_ptns (s : State) (v : PwrSt) : (s.setPwr v).ptns = s.ptns := rfl
@[simp] theorem State.setPwr_cores (s : State) (v : PwrSt) : (s.setPwr v).cores = s.cores := rfl
@[simp] theorem State.setPwr_sync (s : State) (v : PwrSt) : (s.setPwr v).sync = s.sync := rfl
@[simp] theorem State.setPwr_notice (s : State) (v : PwrSt) : (s.setPwr v).notice = s.notice := rfl
@[simp] theorem State.setPwr_mem (s : State) (v : PwrSt) : (s.setPwr v).mem = s.mem := rfl
@[simp] theorem State.setPwr_dir (s : State) (v : PwrSt) : (s.setPwr v).dir = s.dir := rfl
@[simp] theorem State.setPwr_xl (s : State) (v : PwrSt) : (s.setPwr v).xl = s.xl := rfl
@[simp] theorem State.setPwr_sh (s : State) (v : PwrSt) : (s.setPwr v).sh = s.sh := rfl
@[simp] theorem State.setPwr_model (s : State) (v : PwrSt) : (s.setPwr v).model = s.model := rfl
@[simp] theorem State.setPwr_mctok (s : State) (v : PwrSt) : (s.setPwr v).mctok = s.mctok := rfl
@[simp] theorem State.setPwr_host (s : State) (v : PwrSt) : (s.setPwr v).host = s.host := rfl
@[simp] theorem State.setPwr_nvme (s : State) (v : PwrSt) : (s.setPwr v).nvme = s.nvme := rfl
@[simp] theorem State.setPwr_flash (s : State) (v : PwrSt) : (s.setPwr v).flash = s.flash := rfl
@[simp] theorem State.setPwr_search (s : State) (v : PwrSt) : (s.setPwr v).search = s.search := rfl
@[simp] theorem State.setPwr_ingest (s : State) (v : PwrSt) : (s.setPwr v).ingest = s.ingest := rfl
@[simp] theorem State.setPwr_links (s : State) (v : PwrSt) : (s.setPwr v).links = s.links := rfl
@[simp] theorem State.setPwr_mgt (s : State) (v : PwrSt) : (s.setPwr v).mgt = s.mgt := rfl
@[simp] theorem State.setPwr_field (s : State) (v : PwrSt) : (s.setPwr v).field = s.field := rfl
@[simp] theorem State.setPwr_time (s : State) (v : PwrSt) : (s.setPwr v).time = s.time := rfl
@[simp] theorem State.setPwr_chain (s : State) (v : PwrSt) : (s.setPwr v).chain = s.chain := rfl
@[simp] theorem State.setPwr_tap (s : State) (v : PwrSt) : (s.setPwr v).tap = s.tap := rfl
@[simp] theorem State.setFab_pending (s : State) (v : FabricSt) : (s.setFab v).pending = s.pending := rfl
@[simp] theorem State.setFab_free (s : State) (v : FabricSt) : (s.setFab v).free = s.free := rfl
@[simp] theorem State.setFab_fac (s : State) (v : FabricSt) : (s.setFab v).fac = s.fac := rfl
@[simp] theorem State.setFab_clk (s : State) (v : FabricSt) : (s.setFab v).clk = s.clk := rfl
@[simp] theorem State.setFab_pwr (s : State) (v : FabricSt) : (s.setFab v).pwr = s.pwr := rfl
@[simp] theorem State.setFab_fab (s : State) (v : FabricSt) : (s.setFab v).fab = v := rfl
@[simp] theorem State.setFab_warp (s : State) (v : FabricSt) : (s.setFab v).warp = s.warp := rfl
@[simp] theorem State.setFab_ptns (s : State) (v : FabricSt) : (s.setFab v).ptns = s.ptns := rfl
@[simp] theorem State.setFab_cores (s : State) (v : FabricSt) : (s.setFab v).cores = s.cores := rfl
@[simp] theorem State.setFab_sync (s : State) (v : FabricSt) : (s.setFab v).sync = s.sync := rfl
@[simp] theorem State.setFab_notice (s : State) (v : FabricSt) : (s.setFab v).notice = s.notice := rfl
@[simp] theorem State.setFab_mem (s : State) (v : FabricSt) : (s.setFab v).mem = s.mem := rfl
@[simp] theorem State.setFab_dir (s : State) (v : FabricSt) : (s.setFab v).dir = s.dir := rfl
@[simp] theorem State.setFab_xl (s : State) (v : FabricSt) : (s.setFab v).xl = s.xl := rfl
@[simp] theorem State.setFab_sh (s : State) (v : FabricSt) : (s.setFab v).sh = s.sh := rfl
@[simp] theorem State.setFab_model (s : State) (v : FabricSt) : (s.setFab v).model = s.model := rfl
@[simp] theorem State.setFab_mctok (s : State) (v : FabricSt) : (s.setFab v).mctok = s.mctok := rfl
@[simp] theorem State.setFab_host (s : State) (v : FabricSt) : (s.setFab v).host = s.host := rfl
@[simp] theorem State.setFab_nvme (s : State) (v : FabricSt) : (s.setFab v).nvme = s.nvme := rfl
@[simp] theorem State.setFab_flash (s : State) (v : FabricSt) : (s.setFab v).flash = s.flash := rfl
@[simp] theorem State.setFab_search (s : State) (v : FabricSt) : (s.setFab v).search = s.search := rfl
@[simp] theorem State.setFab_ingest (s : State) (v : FabricSt) : (s.setFab v).ingest = s.ingest := rfl
@[simp] theorem State.setFab_links (s : State) (v : FabricSt) : (s.setFab v).links = s.links := rfl
@[simp] theorem State.setFab_mgt (s : State) (v : FabricSt) : (s.setFab v).mgt = s.mgt := rfl
@[simp] theorem State.setFab_field (s : State) (v : FabricSt) : (s.setFab v).field = s.field := rfl
@[simp] theorem State.setFab_time (s : State) (v : FabricSt) : (s.setFab v).time = s.time := rfl
@[simp] theorem State.setFab_chain (s : State) (v : FabricSt) : (s.setFab v).chain = s.chain := rfl
@[simp] theorem State.setFab_tap (s : State) (v : FabricSt) : (s.setFab v).tap = s.tap := rfl
@[simp] theorem State.setWarp_pending (s : State) (v : WarpSt) : (s.setWarp v).pending = s.pending := rfl
@[simp] theorem State.setWarp_free (s : State) (v : WarpSt) : (s.setWarp v).free = s.free := rfl
@[simp] theorem State.setWarp_fac (s : State) (v : WarpSt) : (s.setWarp v).fac = s.fac := rfl
@[simp] theorem State.setWarp_clk (s : State) (v : WarpSt) : (s.setWarp v).clk = s.clk := rfl
@[simp] theorem State.setWarp_pwr (s : State) (v : WarpSt) : (s.setWarp v).pwr = s.pwr := rfl
@[simp] theorem State.setWarp_fab (s : State) (v : WarpSt) : (s.setWarp v).fab = s.fab := rfl
@[simp] theorem State.setWarp_warp (s : State) (v : WarpSt) : (s.setWarp v).warp = v := rfl
@[simp] theorem State.setWarp_ptns (s : State) (v : WarpSt) : (s.setWarp v).ptns = s.ptns := rfl
@[simp] theorem State.setWarp_cores (s : State) (v : WarpSt) : (s.setWarp v).cores = s.cores := rfl
@[simp] theorem State.setWarp_sync (s : State) (v : WarpSt) : (s.setWarp v).sync = s.sync := rfl
@[simp] theorem State.setWarp_notice (s : State) (v : WarpSt) : (s.setWarp v).notice = s.notice := rfl
@[simp] theorem State.setWarp_mem (s : State) (v : WarpSt) : (s.setWarp v).mem = s.mem := rfl
@[simp] theorem State.setWarp_dir (s : State) (v : WarpSt) : (s.setWarp v).dir = s.dir := rfl
@[simp] theorem State.setWarp_xl (s : State) (v : WarpSt) : (s.setWarp v).xl = s.xl := rfl
@[simp] theorem State.setWarp_sh (s : State) (v : WarpSt) : (s.setWarp v).sh = s.sh := rfl
@[simp] theorem State.setWarp_model (s : State) (v : WarpSt) : (s.setWarp v).model = s.model := rfl
@[simp] theorem State.setWarp_mctok (s : State) (v : WarpSt) : (s.setWarp v).mctok = s.mctok := rfl
@[simp] theorem State.setWarp_host (s : State) (v : WarpSt) : (s.setWarp v).host = s.host := rfl
@[simp] theorem State.setWarp_nvme (s : State) (v : WarpSt) : (s.setWarp v).nvme = s.nvme := rfl
@[simp] theorem State.setWarp_flash (s : State) (v : WarpSt) : (s.setWarp v).flash = s.flash := rfl
@[simp] theorem State.setWarp_search (s : State) (v : WarpSt) : (s.setWarp v).search = s.search := rfl
@[simp] theorem State.setWarp_ingest (s : State) (v : WarpSt) : (s.setWarp v).ingest = s.ingest := rfl
@[simp] theorem State.setWarp_links (s : State) (v : WarpSt) : (s.setWarp v).links = s.links := rfl
@[simp] theorem State.setWarp_mgt (s : State) (v : WarpSt) : (s.setWarp v).mgt = s.mgt := rfl
@[simp] theorem State.setWarp_field (s : State) (v : WarpSt) : (s.setWarp v).field = s.field := rfl
@[simp] theorem State.setWarp_time (s : State) (v : WarpSt) : (s.setWarp v).time = s.time := rfl
@[simp] theorem State.setWarp_chain (s : State) (v : WarpSt) : (s.setWarp v).chain = s.chain := rfl
@[simp] theorem State.setWarp_tap (s : State) (v : WarpSt) : (s.setWarp v).tap = s.tap := rfl
@[simp] theorem State.setPtns_pending (s : State) (v : Tab PtnSt) : (s.setPtns v).pending = s.pending := rfl
@[simp] theorem State.setPtns_free (s : State) (v : Tab PtnSt) : (s.setPtns v).free = s.free := rfl
@[simp] theorem State.setPtns_fac (s : State) (v : Tab PtnSt) : (s.setPtns v).fac = s.fac := rfl
@[simp] theorem State.setPtns_clk (s : State) (v : Tab PtnSt) : (s.setPtns v).clk = s.clk := rfl
@[simp] theorem State.setPtns_pwr (s : State) (v : Tab PtnSt) : (s.setPtns v).pwr = s.pwr := rfl
@[simp] theorem State.setPtns_fab (s : State) (v : Tab PtnSt) : (s.setPtns v).fab = s.fab := rfl
@[simp] theorem State.setPtns_warp (s : State) (v : Tab PtnSt) : (s.setPtns v).warp = s.warp := rfl
@[simp] theorem State.setPtns_ptns (s : State) (v : Tab PtnSt) : (s.setPtns v).ptns = v := rfl
@[simp] theorem State.setPtns_cores (s : State) (v : Tab PtnSt) : (s.setPtns v).cores = s.cores := rfl
@[simp] theorem State.setPtns_sync (s : State) (v : Tab PtnSt) : (s.setPtns v).sync = s.sync := rfl
@[simp] theorem State.setPtns_notice (s : State) (v : Tab PtnSt) : (s.setPtns v).notice = s.notice := rfl
@[simp] theorem State.setPtns_mem (s : State) (v : Tab PtnSt) : (s.setPtns v).mem = s.mem := rfl
@[simp] theorem State.setPtns_dir (s : State) (v : Tab PtnSt) : (s.setPtns v).dir = s.dir := rfl
@[simp] theorem State.setPtns_xl (s : State) (v : Tab PtnSt) : (s.setPtns v).xl = s.xl := rfl
@[simp] theorem State.setPtns_sh (s : State) (v : Tab PtnSt) : (s.setPtns v).sh = s.sh := rfl
@[simp] theorem State.setPtns_model (s : State) (v : Tab PtnSt) : (s.setPtns v).model = s.model := rfl
@[simp] theorem State.setPtns_mctok (s : State) (v : Tab PtnSt) : (s.setPtns v).mctok = s.mctok := rfl
@[simp] theorem State.setPtns_host (s : State) (v : Tab PtnSt) : (s.setPtns v).host = s.host := rfl
@[simp] theorem State.setPtns_nvme (s : State) (v : Tab PtnSt) : (s.setPtns v).nvme = s.nvme := rfl
@[simp] theorem State.setPtns_flash (s : State) (v : Tab PtnSt) : (s.setPtns v).flash = s.flash := rfl
@[simp] theorem State.setPtns_search (s : State) (v : Tab PtnSt) : (s.setPtns v).search = s.search := rfl
@[simp] theorem State.setPtns_ingest (s : State) (v : Tab PtnSt) : (s.setPtns v).ingest = s.ingest := rfl
@[simp] theorem State.setPtns_links (s : State) (v : Tab PtnSt) : (s.setPtns v).links = s.links := rfl
@[simp] theorem State.setPtns_mgt (s : State) (v : Tab PtnSt) : (s.setPtns v).mgt = s.mgt := rfl
@[simp] theorem State.setPtns_field (s : State) (v : Tab PtnSt) : (s.setPtns v).field = s.field := rfl
@[simp] theorem State.setPtns_time (s : State) (v : Tab PtnSt) : (s.setPtns v).time = s.time := rfl
@[simp] theorem State.setPtns_chain (s : State) (v : Tab PtnSt) : (s.setPtns v).chain = s.chain := rfl
@[simp] theorem State.setPtns_tap (s : State) (v : Tab PtnSt) : (s.setPtns v).tap = s.tap := rfl
@[simp] theorem State.setCores_pending (s : State) (v : Tab CoreSt) : (s.setCores v).pending = s.pending := rfl
@[simp] theorem State.setCores_free (s : State) (v : Tab CoreSt) : (s.setCores v).free = s.free := rfl
@[simp] theorem State.setCores_fac (s : State) (v : Tab CoreSt) : (s.setCores v).fac = s.fac := rfl
@[simp] theorem State.setCores_clk (s : State) (v : Tab CoreSt) : (s.setCores v).clk = s.clk := rfl
@[simp] theorem State.setCores_pwr (s : State) (v : Tab CoreSt) : (s.setCores v).pwr = s.pwr := rfl
@[simp] theorem State.setCores_fab (s : State) (v : Tab CoreSt) : (s.setCores v).fab = s.fab := rfl
@[simp] theorem State.setCores_warp (s : State) (v : Tab CoreSt) : (s.setCores v).warp = s.warp := rfl
@[simp] theorem State.setCores_ptns (s : State) (v : Tab CoreSt) : (s.setCores v).ptns = s.ptns := rfl
@[simp] theorem State.setCores_cores (s : State) (v : Tab CoreSt) : (s.setCores v).cores = v := rfl
@[simp] theorem State.setCores_sync (s : State) (v : Tab CoreSt) : (s.setCores v).sync = s.sync := rfl
@[simp] theorem State.setCores_notice (s : State) (v : Tab CoreSt) : (s.setCores v).notice = s.notice := rfl
@[simp] theorem State.setCores_mem (s : State) (v : Tab CoreSt) : (s.setCores v).mem = s.mem := rfl
@[simp] theorem State.setCores_dir (s : State) (v : Tab CoreSt) : (s.setCores v).dir = s.dir := rfl
@[simp] theorem State.setCores_xl (s : State) (v : Tab CoreSt) : (s.setCores v).xl = s.xl := rfl
@[simp] theorem State.setCores_sh (s : State) (v : Tab CoreSt) : (s.setCores v).sh = s.sh := rfl
@[simp] theorem State.setCores_model (s : State) (v : Tab CoreSt) : (s.setCores v).model = s.model := rfl
@[simp] theorem State.setCores_mctok (s : State) (v : Tab CoreSt) : (s.setCores v).mctok = s.mctok := rfl
@[simp] theorem State.setCores_host (s : State) (v : Tab CoreSt) : (s.setCores v).host = s.host := rfl
@[simp] theorem State.setCores_nvme (s : State) (v : Tab CoreSt) : (s.setCores v).nvme = s.nvme := rfl
@[simp] theorem State.setCores_flash (s : State) (v : Tab CoreSt) : (s.setCores v).flash = s.flash := rfl
@[simp] theorem State.setCores_search (s : State) (v : Tab CoreSt) : (s.setCores v).search = s.search := rfl
@[simp] theorem State.setCores_ingest (s : State) (v : Tab CoreSt) : (s.setCores v).ingest = s.ingest := rfl
@[simp] theorem State.setCores_links (s : State) (v : Tab CoreSt) : (s.setCores v).links = s.links := rfl
@[simp] theorem State.setCores_mgt (s : State) (v : Tab CoreSt) : (s.setCores v).mgt = s.mgt := rfl
@[simp] theorem State.setCores_field (s : State) (v : Tab CoreSt) : (s.setCores v).field = s.field := rfl
@[simp] theorem State.setCores_time (s : State) (v : Tab CoreSt) : (s.setCores v).time = s.time := rfl
@[simp] theorem State.setCores_chain (s : State) (v : Tab CoreSt) : (s.setCores v).chain = s.chain := rfl
@[simp] theorem State.setCores_tap (s : State) (v : Tab CoreSt) : (s.setCores v).tap = s.tap := rfl
@[simp] theorem State.setSync_pending (s : State) (v : SyncSt) : (s.setSync v).pending = s.pending := rfl
@[simp] theorem State.setSync_free (s : State) (v : SyncSt) : (s.setSync v).free = s.free := rfl
@[simp] theorem State.setSync_fac (s : State) (v : SyncSt) : (s.setSync v).fac = s.fac := rfl
@[simp] theorem State.setSync_clk (s : State) (v : SyncSt) : (s.setSync v).clk = s.clk := rfl
@[simp] theorem State.setSync_pwr (s : State) (v : SyncSt) : (s.setSync v).pwr = s.pwr := rfl
@[simp] theorem State.setSync_fab (s : State) (v : SyncSt) : (s.setSync v).fab = s.fab := rfl
@[simp] theorem State.setSync_warp (s : State) (v : SyncSt) : (s.setSync v).warp = s.warp := rfl
@[simp] theorem State.setSync_ptns (s : State) (v : SyncSt) : (s.setSync v).ptns = s.ptns := rfl
@[simp] theorem State.setSync_cores (s : State) (v : SyncSt) : (s.setSync v).cores = s.cores := rfl
@[simp] theorem State.setSync_sync (s : State) (v : SyncSt) : (s.setSync v).sync = v := rfl
@[simp] theorem State.setSync_notice (s : State) (v : SyncSt) : (s.setSync v).notice = s.notice := rfl
@[simp] theorem State.setSync_mem (s : State) (v : SyncSt) : (s.setSync v).mem = s.mem := rfl
@[simp] theorem State.setSync_dir (s : State) (v : SyncSt) : (s.setSync v).dir = s.dir := rfl
@[simp] theorem State.setSync_xl (s : State) (v : SyncSt) : (s.setSync v).xl = s.xl := rfl
@[simp] theorem State.setSync_sh (s : State) (v : SyncSt) : (s.setSync v).sh = s.sh := rfl
@[simp] theorem State.setSync_model (s : State) (v : SyncSt) : (s.setSync v).model = s.model := rfl
@[simp] theorem State.setSync_mctok (s : State) (v : SyncSt) : (s.setSync v).mctok = s.mctok := rfl
@[simp] theorem State.setSync_host (s : State) (v : SyncSt) : (s.setSync v).host = s.host := rfl
@[simp] theorem State.setSync_nvme (s : State) (v : SyncSt) : (s.setSync v).nvme = s.nvme := rfl
@[simp] theorem State.setSync_flash (s : State) (v : SyncSt) : (s.setSync v).flash = s.flash := rfl
@[simp] theorem State.setSync_search (s : State) (v : SyncSt) : (s.setSync v).search = s.search := rfl
@[simp] theorem State.setSync_ingest (s : State) (v : SyncSt) : (s.setSync v).ingest = s.ingest := rfl
@[simp] theorem State.setSync_links (s : State) (v : SyncSt) : (s.setSync v).links = s.links := rfl
@[simp] theorem State.setSync_mgt (s : State) (v : SyncSt) : (s.setSync v).mgt = s.mgt := rfl
@[simp] theorem State.setSync_field (s : State) (v : SyncSt) : (s.setSync v).field = s.field := rfl
@[simp] theorem State.setSync_time (s : State) (v : SyncSt) : (s.setSync v).time = s.time := rfl
@[simp] theorem State.setSync_chain (s : State) (v : SyncSt) : (s.setSync v).chain = s.chain := rfl
@[simp] theorem State.setSync_tap (s : State) (v : SyncSt) : (s.setSync v).tap = s.tap := rfl
@[simp] theorem State.setNotice_pending (s : State) (v : NoticeSt) : (s.setNotice v).pending = s.pending := rfl
@[simp] theorem State.setNotice_free (s : State) (v : NoticeSt) : (s.setNotice v).free = s.free := rfl
@[simp] theorem State.setNotice_fac (s : State) (v : NoticeSt) : (s.setNotice v).fac = s.fac := rfl
@[simp] theorem State.setNotice_clk (s : State) (v : NoticeSt) : (s.setNotice v).clk = s.clk := rfl
@[simp] theorem State.setNotice_pwr (s : State) (v : NoticeSt) : (s.setNotice v).pwr = s.pwr := rfl
@[simp] theorem State.setNotice_fab (s : State) (v : NoticeSt) : (s.setNotice v).fab = s.fab := rfl
@[simp] theorem State.setNotice_warp (s : State) (v : NoticeSt) : (s.setNotice v).warp = s.warp := rfl
@[simp] theorem State.setNotice_ptns (s : State) (v : NoticeSt) : (s.setNotice v).ptns = s.ptns := rfl
@[simp] theorem State.setNotice_cores (s : State) (v : NoticeSt) : (s.setNotice v).cores = s.cores := rfl
@[simp] theorem State.setNotice_sync (s : State) (v : NoticeSt) : (s.setNotice v).sync = s.sync := rfl
@[simp] theorem State.setNotice_notice (s : State) (v : NoticeSt) : (s.setNotice v).notice = v := rfl
@[simp] theorem State.setNotice_mem (s : State) (v : NoticeSt) : (s.setNotice v).mem = s.mem := rfl
@[simp] theorem State.setNotice_dir (s : State) (v : NoticeSt) : (s.setNotice v).dir = s.dir := rfl
@[simp] theorem State.setNotice_xl (s : State) (v : NoticeSt) : (s.setNotice v).xl = s.xl := rfl
@[simp] theorem State.setNotice_sh (s : State) (v : NoticeSt) : (s.setNotice v).sh = s.sh := rfl
@[simp] theorem State.setNotice_model (s : State) (v : NoticeSt) : (s.setNotice v).model = s.model := rfl
@[simp] theorem State.setNotice_mctok (s : State) (v : NoticeSt) : (s.setNotice v).mctok = s.mctok := rfl
@[simp] theorem State.setNotice_host (s : State) (v : NoticeSt) : (s.setNotice v).host = s.host := rfl
@[simp] theorem State.setNotice_nvme (s : State) (v : NoticeSt) : (s.setNotice v).nvme = s.nvme := rfl
@[simp] theorem State.setNotice_flash (s : State) (v : NoticeSt) : (s.setNotice v).flash = s.flash := rfl
@[simp] theorem State.setNotice_search (s : State) (v : NoticeSt) : (s.setNotice v).search = s.search := rfl
@[simp] theorem State.setNotice_ingest (s : State) (v : NoticeSt) : (s.setNotice v).ingest = s.ingest := rfl
@[simp] theorem State.setNotice_links (s : State) (v : NoticeSt) : (s.setNotice v).links = s.links := rfl
@[simp] theorem State.setNotice_mgt (s : State) (v : NoticeSt) : (s.setNotice v).mgt = s.mgt := rfl
@[simp] theorem State.setNotice_field (s : State) (v : NoticeSt) : (s.setNotice v).field = s.field := rfl
@[simp] theorem State.setNotice_time (s : State) (v : NoticeSt) : (s.setNotice v).time = s.time := rfl
@[simp] theorem State.setNotice_chain (s : State) (v : NoticeSt) : (s.setNotice v).chain = s.chain := rfl
@[simp] theorem State.setNotice_tap (s : State) (v : NoticeSt) : (s.setNotice v).tap = s.tap := rfl
@[simp] theorem State.setMem_pending (s : State) (v : Memory) : (s.setMem v).pending = s.pending := rfl
@[simp] theorem State.setMem_free (s : State) (v : Memory) : (s.setMem v).free = s.free := rfl
@[simp] theorem State.setMem_fac (s : State) (v : Memory) : (s.setMem v).fac = s.fac := rfl
@[simp] theorem State.setMem_clk (s : State) (v : Memory) : (s.setMem v).clk = s.clk := rfl
@[simp] theorem State.setMem_pwr (s : State) (v : Memory) : (s.setMem v).pwr = s.pwr := rfl
@[simp] theorem State.setMem_fab (s : State) (v : Memory) : (s.setMem v).fab = s.fab := rfl
@[simp] theorem State.setMem_warp (s : State) (v : Memory) : (s.setMem v).warp = s.warp := rfl
@[simp] theorem State.setMem_ptns (s : State) (v : Memory) : (s.setMem v).ptns = s.ptns := rfl
@[simp] theorem State.setMem_cores (s : State) (v : Memory) : (s.setMem v).cores = s.cores := rfl
@[simp] theorem State.setMem_sync (s : State) (v : Memory) : (s.setMem v).sync = s.sync := rfl
@[simp] theorem State.setMem_notice (s : State) (v : Memory) : (s.setMem v).notice = s.notice := rfl
@[simp] theorem State.setMem_mem (s : State) (v : Memory) : (s.setMem v).mem = v := rfl
@[simp] theorem State.setMem_dir (s : State) (v : Memory) : (s.setMem v).dir = s.dir := rfl
@[simp] theorem State.setMem_xl (s : State) (v : Memory) : (s.setMem v).xl = s.xl := rfl
@[simp] theorem State.setMem_sh (s : State) (v : Memory) : (s.setMem v).sh = s.sh := rfl
@[simp] theorem State.setMem_model (s : State) (v : Memory) : (s.setMem v).model = s.model := rfl
@[simp] theorem State.setMem_mctok (s : State) (v : Memory) : (s.setMem v).mctok = s.mctok := rfl
@[simp] theorem State.setMem_host (s : State) (v : Memory) : (s.setMem v).host = s.host := rfl
@[simp] theorem State.setMem_nvme (s : State) (v : Memory) : (s.setMem v).nvme = s.nvme := rfl
@[simp] theorem State.setMem_flash (s : State) (v : Memory) : (s.setMem v).flash = s.flash := rfl
@[simp] theorem State.setMem_search (s : State) (v : Memory) : (s.setMem v).search = s.search := rfl
@[simp] theorem State.setMem_ingest (s : State) (v : Memory) : (s.setMem v).ingest = s.ingest := rfl
@[simp] theorem State.setMem_links (s : State) (v : Memory) : (s.setMem v).links = s.links := rfl
@[simp] theorem State.setMem_mgt (s : State) (v : Memory) : (s.setMem v).mgt = s.mgt := rfl
@[simp] theorem State.setMem_field (s : State) (v : Memory) : (s.setMem v).field = s.field := rfl
@[simp] theorem State.setMem_time (s : State) (v : Memory) : (s.setMem v).time = s.time := rfl
@[simp] theorem State.setMem_chain (s : State) (v : Memory) : (s.setMem v).chain = s.chain := rfl
@[simp] theorem State.setMem_tap (s : State) (v : Memory) : (s.setMem v).tap = s.tap := rfl
@[simp] theorem State.setDir_pending (s : State) (v : Directory) : (s.setDir v).pending = s.pending := rfl
@[simp] theorem State.setDir_free (s : State) (v : Directory) : (s.setDir v).free = s.free := rfl
@[simp] theorem State.setDir_fac (s : State) (v : Directory) : (s.setDir v).fac = s.fac := rfl
@[simp] theorem State.setDir_clk (s : State) (v : Directory) : (s.setDir v).clk = s.clk := rfl
@[simp] theorem State.setDir_pwr (s : State) (v : Directory) : (s.setDir v).pwr = s.pwr := rfl
@[simp] theorem State.setDir_fab (s : State) (v : Directory) : (s.setDir v).fab = s.fab := rfl
@[simp] theorem State.setDir_warp (s : State) (v : Directory) : (s.setDir v).warp = s.warp := rfl
@[simp] theorem State.setDir_ptns (s : State) (v : Directory) : (s.setDir v).ptns = s.ptns := rfl
@[simp] theorem State.setDir_cores (s : State) (v : Directory) : (s.setDir v).cores = s.cores := rfl
@[simp] theorem State.setDir_sync (s : State) (v : Directory) : (s.setDir v).sync = s.sync := rfl
@[simp] theorem State.setDir_notice (s : State) (v : Directory) : (s.setDir v).notice = s.notice := rfl
@[simp] theorem State.setDir_mem (s : State) (v : Directory) : (s.setDir v).mem = s.mem := rfl
@[simp] theorem State.setDir_dir (s : State) (v : Directory) : (s.setDir v).dir = v := rfl
@[simp] theorem State.setDir_xl (s : State) (v : Directory) : (s.setDir v).xl = s.xl := rfl
@[simp] theorem State.setDir_sh (s : State) (v : Directory) : (s.setDir v).sh = s.sh := rfl
@[simp] theorem State.setDir_model (s : State) (v : Directory) : (s.setDir v).model = s.model := rfl
@[simp] theorem State.setDir_mctok (s : State) (v : Directory) : (s.setDir v).mctok = s.mctok := rfl
@[simp] theorem State.setDir_host (s : State) (v : Directory) : (s.setDir v).host = s.host := rfl
@[simp] theorem State.setDir_nvme (s : State) (v : Directory) : (s.setDir v).nvme = s.nvme := rfl
@[simp] theorem State.setDir_flash (s : State) (v : Directory) : (s.setDir v).flash = s.flash := rfl
@[simp] theorem State.setDir_search (s : State) (v : Directory) : (s.setDir v).search = s.search := rfl
@[simp] theorem State.setDir_ingest (s : State) (v : Directory) : (s.setDir v).ingest = s.ingest := rfl
@[simp] theorem State.setDir_links (s : State) (v : Directory) : (s.setDir v).links = s.links := rfl
@[simp] theorem State.setDir_mgt (s : State) (v : Directory) : (s.setDir v).mgt = s.mgt := rfl
@[simp] theorem State.setDir_field (s : State) (v : Directory) : (s.setDir v).field = s.field := rfl
@[simp] theorem State.setDir_time (s : State) (v : Directory) : (s.setDir v).time = s.time := rfl
@[simp] theorem State.setDir_chain (s : State) (v : Directory) : (s.setDir v).chain = s.chain := rfl
@[simp] theorem State.setDir_tap (s : State) (v : Directory) : (s.setDir v).tap = s.tap := rfl
@[simp] theorem State.setXl_pending (s : State) (v : XlatSt) : (s.setXl v).pending = s.pending := rfl
@[simp] theorem State.setXl_free (s : State) (v : XlatSt) : (s.setXl v).free = s.free := rfl
@[simp] theorem State.setXl_fac (s : State) (v : XlatSt) : (s.setXl v).fac = s.fac := rfl
@[simp] theorem State.setXl_clk (s : State) (v : XlatSt) : (s.setXl v).clk = s.clk := rfl
@[simp] theorem State.setXl_pwr (s : State) (v : XlatSt) : (s.setXl v).pwr = s.pwr := rfl
@[simp] theorem State.setXl_fab (s : State) (v : XlatSt) : (s.setXl v).fab = s.fab := rfl
@[simp] theorem State.setXl_warp (s : State) (v : XlatSt) : (s.setXl v).warp = s.warp := rfl
@[simp] theorem State.setXl_ptns (s : State) (v : XlatSt) : (s.setXl v).ptns = s.ptns := rfl
@[simp] theorem State.setXl_cores (s : State) (v : XlatSt) : (s.setXl v).cores = s.cores := rfl
@[simp] theorem State.setXl_sync (s : State) (v : XlatSt) : (s.setXl v).sync = s.sync := rfl
@[simp] theorem State.setXl_notice (s : State) (v : XlatSt) : (s.setXl v).notice = s.notice := rfl
@[simp] theorem State.setXl_mem (s : State) (v : XlatSt) : (s.setXl v).mem = s.mem := rfl
@[simp] theorem State.setXl_dir (s : State) (v : XlatSt) : (s.setXl v).dir = s.dir := rfl
@[simp] theorem State.setXl_xl (s : State) (v : XlatSt) : (s.setXl v).xl = v := rfl
@[simp] theorem State.setXl_sh (s : State) (v : XlatSt) : (s.setXl v).sh = s.sh := rfl
@[simp] theorem State.setXl_model (s : State) (v : XlatSt) : (s.setXl v).model = s.model := rfl
@[simp] theorem State.setXl_mctok (s : State) (v : XlatSt) : (s.setXl v).mctok = s.mctok := rfl
@[simp] theorem State.setXl_host (s : State) (v : XlatSt) : (s.setXl v).host = s.host := rfl
@[simp] theorem State.setXl_nvme (s : State) (v : XlatSt) : (s.setXl v).nvme = s.nvme := rfl
@[simp] theorem State.setXl_flash (s : State) (v : XlatSt) : (s.setXl v).flash = s.flash := rfl
@[simp] theorem State.setXl_search (s : State) (v : XlatSt) : (s.setXl v).search = s.search := rfl
@[simp] theorem State.setXl_ingest (s : State) (v : XlatSt) : (s.setXl v).ingest = s.ingest := rfl
@[simp] theorem State.setXl_links (s : State) (v : XlatSt) : (s.setXl v).links = s.links := rfl
@[simp] theorem State.setXl_mgt (s : State) (v : XlatSt) : (s.setXl v).mgt = s.mgt := rfl
@[simp] theorem State.setXl_field (s : State) (v : XlatSt) : (s.setXl v).field = s.field := rfl
@[simp] theorem State.setXl_time (s : State) (v : XlatSt) : (s.setXl v).time = s.time := rfl
@[simp] theorem State.setXl_chain (s : State) (v : XlatSt) : (s.setXl v).chain = s.chain := rfl
@[simp] theorem State.setXl_tap (s : State) (v : XlatSt) : (s.setXl v).tap = s.tap := rfl
@[simp] theorem State.setSh_pending (s : State) (v : ShuttleSt) : (s.setSh v).pending = s.pending := rfl
@[simp] theorem State.setSh_free (s : State) (v : ShuttleSt) : (s.setSh v).free = s.free := rfl
@[simp] theorem State.setSh_fac (s : State) (v : ShuttleSt) : (s.setSh v).fac = s.fac := rfl
@[simp] theorem State.setSh_clk (s : State) (v : ShuttleSt) : (s.setSh v).clk = s.clk := rfl
@[simp] theorem State.setSh_pwr (s : State) (v : ShuttleSt) : (s.setSh v).pwr = s.pwr := rfl
@[simp] theorem State.setSh_fab (s : State) (v : ShuttleSt) : (s.setSh v).fab = s.fab := rfl
@[simp] theorem State.setSh_warp (s : State) (v : ShuttleSt) : (s.setSh v).warp = s.warp := rfl
@[simp] theorem State.setSh_ptns (s : State) (v : ShuttleSt) : (s.setSh v).ptns = s.ptns := rfl
@[simp] theorem State.setSh_cores (s : State) (v : ShuttleSt) : (s.setSh v).cores = s.cores := rfl
@[simp] theorem State.setSh_sync (s : State) (v : ShuttleSt) : (s.setSh v).sync = s.sync := rfl
@[simp] theorem State.setSh_notice (s : State) (v : ShuttleSt) : (s.setSh v).notice = s.notice := rfl
@[simp] theorem State.setSh_mem (s : State) (v : ShuttleSt) : (s.setSh v).mem = s.mem := rfl
@[simp] theorem State.setSh_dir (s : State) (v : ShuttleSt) : (s.setSh v).dir = s.dir := rfl
@[simp] theorem State.setSh_xl (s : State) (v : ShuttleSt) : (s.setSh v).xl = s.xl := rfl
@[simp] theorem State.setSh_sh (s : State) (v : ShuttleSt) : (s.setSh v).sh = v := rfl
@[simp] theorem State.setSh_model (s : State) (v : ShuttleSt) : (s.setSh v).model = s.model := rfl
@[simp] theorem State.setSh_mctok (s : State) (v : ShuttleSt) : (s.setSh v).mctok = s.mctok := rfl
@[simp] theorem State.setSh_host (s : State) (v : ShuttleSt) : (s.setSh v).host = s.host := rfl
@[simp] theorem State.setSh_nvme (s : State) (v : ShuttleSt) : (s.setSh v).nvme = s.nvme := rfl
@[simp] theorem State.setSh_flash (s : State) (v : ShuttleSt) : (s.setSh v).flash = s.flash := rfl
@[simp] theorem State.setSh_search (s : State) (v : ShuttleSt) : (s.setSh v).search = s.search := rfl
@[simp] theorem State.setSh_ingest (s : State) (v : ShuttleSt) : (s.setSh v).ingest = s.ingest := rfl
@[simp] theorem State.setSh_links (s : State) (v : ShuttleSt) : (s.setSh v).links = s.links := rfl
@[simp] theorem State.setSh_mgt (s : State) (v : ShuttleSt) : (s.setSh v).mgt = s.mgt := rfl
@[simp] theorem State.setSh_field (s : State) (v : ShuttleSt) : (s.setSh v).field = s.field := rfl
@[simp] theorem State.setSh_time (s : State) (v : ShuttleSt) : (s.setSh v).time = s.time := rfl
@[simp] theorem State.setSh_chain (s : State) (v : ShuttleSt) : (s.setSh v).chain = s.chain := rfl
@[simp] theorem State.setSh_tap (s : State) (v : ShuttleSt) : (s.setSh v).tap = s.tap := rfl
@[simp] theorem State.setModel_pending (s : State) (v : ModelSt) : (s.setModel v).pending = s.pending := rfl
@[simp] theorem State.setModel_free (s : State) (v : ModelSt) : (s.setModel v).free = s.free := rfl
@[simp] theorem State.setModel_fac (s : State) (v : ModelSt) : (s.setModel v).fac = s.fac := rfl
@[simp] theorem State.setModel_clk (s : State) (v : ModelSt) : (s.setModel v).clk = s.clk := rfl
@[simp] theorem State.setModel_pwr (s : State) (v : ModelSt) : (s.setModel v).pwr = s.pwr := rfl
@[simp] theorem State.setModel_fab (s : State) (v : ModelSt) : (s.setModel v).fab = s.fab := rfl
@[simp] theorem State.setModel_warp (s : State) (v : ModelSt) : (s.setModel v).warp = s.warp := rfl
@[simp] theorem State.setModel_ptns (s : State) (v : ModelSt) : (s.setModel v).ptns = s.ptns := rfl
@[simp] theorem State.setModel_cores (s : State) (v : ModelSt) : (s.setModel v).cores = s.cores := rfl
@[simp] theorem State.setModel_sync (s : State) (v : ModelSt) : (s.setModel v).sync = s.sync := rfl
@[simp] theorem State.setModel_notice (s : State) (v : ModelSt) : (s.setModel v).notice = s.notice := rfl
@[simp] theorem State.setModel_mem (s : State) (v : ModelSt) : (s.setModel v).mem = s.mem := rfl
@[simp] theorem State.setModel_dir (s : State) (v : ModelSt) : (s.setModel v).dir = s.dir := rfl
@[simp] theorem State.setModel_xl (s : State) (v : ModelSt) : (s.setModel v).xl = s.xl := rfl
@[simp] theorem State.setModel_sh (s : State) (v : ModelSt) : (s.setModel v).sh = s.sh := rfl
@[simp] theorem State.setModel_model (s : State) (v : ModelSt) : (s.setModel v).model = v := rfl
@[simp] theorem State.setModel_mctok (s : State) (v : ModelSt) : (s.setModel v).mctok = s.mctok := rfl
@[simp] theorem State.setModel_host (s : State) (v : ModelSt) : (s.setModel v).host = s.host := rfl
@[simp] theorem State.setModel_nvme (s : State) (v : ModelSt) : (s.setModel v).nvme = s.nvme := rfl
@[simp] theorem State.setModel_flash (s : State) (v : ModelSt) : (s.setModel v).flash = s.flash := rfl
@[simp] theorem State.setModel_search (s : State) (v : ModelSt) : (s.setModel v).search = s.search := rfl
@[simp] theorem State.setModel_ingest (s : State) (v : ModelSt) : (s.setModel v).ingest = s.ingest := rfl
@[simp] theorem State.setModel_links (s : State) (v : ModelSt) : (s.setModel v).links = s.links := rfl
@[simp] theorem State.setModel_mgt (s : State) (v : ModelSt) : (s.setModel v).mgt = s.mgt := rfl
@[simp] theorem State.setModel_field (s : State) (v : ModelSt) : (s.setModel v).field = s.field := rfl
@[simp] theorem State.setModel_time (s : State) (v : ModelSt) : (s.setModel v).time = s.time := rfl
@[simp] theorem State.setModel_chain (s : State) (v : ModelSt) : (s.setModel v).chain = s.chain := rfl
@[simp] theorem State.setModel_tap (s : State) (v : ModelSt) : (s.setModel v).tap = s.tap := rfl
@[simp] theorem State.setMctok_pending (s : State) (v : Tab McastTok) : (s.setMctok v).pending = s.pending := rfl
@[simp] theorem State.setMctok_free (s : State) (v : Tab McastTok) : (s.setMctok v).free = s.free := rfl
@[simp] theorem State.setMctok_fac (s : State) (v : Tab McastTok) : (s.setMctok v).fac = s.fac := rfl
@[simp] theorem State.setMctok_clk (s : State) (v : Tab McastTok) : (s.setMctok v).clk = s.clk := rfl
@[simp] theorem State.setMctok_pwr (s : State) (v : Tab McastTok) : (s.setMctok v).pwr = s.pwr := rfl
@[simp] theorem State.setMctok_fab (s : State) (v : Tab McastTok) : (s.setMctok v).fab = s.fab := rfl
@[simp] theorem State.setMctok_warp (s : State) (v : Tab McastTok) : (s.setMctok v).warp = s.warp := rfl
@[simp] theorem State.setMctok_ptns (s : State) (v : Tab McastTok) : (s.setMctok v).ptns = s.ptns := rfl
@[simp] theorem State.setMctok_cores (s : State) (v : Tab McastTok) : (s.setMctok v).cores = s.cores := rfl
@[simp] theorem State.setMctok_sync (s : State) (v : Tab McastTok) : (s.setMctok v).sync = s.sync := rfl
@[simp] theorem State.setMctok_notice (s : State) (v : Tab McastTok) : (s.setMctok v).notice = s.notice := rfl
@[simp] theorem State.setMctok_mem (s : State) (v : Tab McastTok) : (s.setMctok v).mem = s.mem := rfl
@[simp] theorem State.setMctok_dir (s : State) (v : Tab McastTok) : (s.setMctok v).dir = s.dir := rfl
@[simp] theorem State.setMctok_xl (s : State) (v : Tab McastTok) : (s.setMctok v).xl = s.xl := rfl
@[simp] theorem State.setMctok_sh (s : State) (v : Tab McastTok) : (s.setMctok v).sh = s.sh := rfl
@[simp] theorem State.setMctok_model (s : State) (v : Tab McastTok) : (s.setMctok v).model = s.model := rfl
@[simp] theorem State.setMctok_mctok (s : State) (v : Tab McastTok) : (s.setMctok v).mctok = v := rfl
@[simp] theorem State.setMctok_host (s : State) (v : Tab McastTok) : (s.setMctok v).host = s.host := rfl
@[simp] theorem State.setMctok_nvme (s : State) (v : Tab McastTok) : (s.setMctok v).nvme = s.nvme := rfl
@[simp] theorem State.setMctok_flash (s : State) (v : Tab McastTok) : (s.setMctok v).flash = s.flash := rfl
@[simp] theorem State.setMctok_search (s : State) (v : Tab McastTok) : (s.setMctok v).search = s.search := rfl
@[simp] theorem State.setMctok_ingest (s : State) (v : Tab McastTok) : (s.setMctok v).ingest = s.ingest := rfl
@[simp] theorem State.setMctok_links (s : State) (v : Tab McastTok) : (s.setMctok v).links = s.links := rfl
@[simp] theorem State.setMctok_mgt (s : State) (v : Tab McastTok) : (s.setMctok v).mgt = s.mgt := rfl
@[simp] theorem State.setMctok_field (s : State) (v : Tab McastTok) : (s.setMctok v).field = s.field := rfl
@[simp] theorem State.setMctok_time (s : State) (v : Tab McastTok) : (s.setMctok v).time = s.time := rfl
@[simp] theorem State.setMctok_chain (s : State) (v : Tab McastTok) : (s.setMctok v).chain = s.chain := rfl
@[simp] theorem State.setMctok_tap (s : State) (v : Tab McastTok) : (s.setMctok v).tap = s.tap := rfl
@[simp] theorem State.setHost_pending (s : State) (v : HostSt) : (s.setHost v).pending = s.pending := rfl
@[simp] theorem State.setHost_free (s : State) (v : HostSt) : (s.setHost v).free = s.free := rfl
@[simp] theorem State.setHost_fac (s : State) (v : HostSt) : (s.setHost v).fac = s.fac := rfl
@[simp] theorem State.setHost_clk (s : State) (v : HostSt) : (s.setHost v).clk = s.clk := rfl
@[simp] theorem State.setHost_pwr (s : State) (v : HostSt) : (s.setHost v).pwr = s.pwr := rfl
@[simp] theorem State.setHost_fab (s : State) (v : HostSt) : (s.setHost v).fab = s.fab := rfl
@[simp] theorem State.setHost_warp (s : State) (v : HostSt) : (s.setHost v).warp = s.warp := rfl
@[simp] theorem State.setHost_ptns (s : State) (v : HostSt) : (s.setHost v).ptns = s.ptns := rfl
@[simp] theorem State.setHost_cores (s : State) (v : HostSt) : (s.setHost v).cores = s.cores := rfl
@[simp] theorem State.setHost_sync (s : State) (v : HostSt) : (s.setHost v).sync = s.sync := rfl
@[simp] theorem State.setHost_notice (s : State) (v : HostSt) : (s.setHost v).notice = s.notice := rfl
@[simp] theorem State.setHost_mem (s : State) (v : HostSt) : (s.setHost v).mem = s.mem := rfl
@[simp] theorem State.setHost_dir (s : State) (v : HostSt) : (s.setHost v).dir = s.dir := rfl
@[simp] theorem State.setHost_xl (s : State) (v : HostSt) : (s.setHost v).xl = s.xl := rfl
@[simp] theorem State.setHost_sh (s : State) (v : HostSt) : (s.setHost v).sh = s.sh := rfl
@[simp] theorem State.setHost_model (s : State) (v : HostSt) : (s.setHost v).model = s.model := rfl
@[simp] theorem State.setHost_mctok (s : State) (v : HostSt) : (s.setHost v).mctok = s.mctok := rfl
@[simp] theorem State.setHost_host (s : State) (v : HostSt) : (s.setHost v).host = v := rfl
@[simp] theorem State.setHost_nvme (s : State) (v : HostSt) : (s.setHost v).nvme = s.nvme := rfl
@[simp] theorem State.setHost_flash (s : State) (v : HostSt) : (s.setHost v).flash = s.flash := rfl
@[simp] theorem State.setHost_search (s : State) (v : HostSt) : (s.setHost v).search = s.search := rfl
@[simp] theorem State.setHost_ingest (s : State) (v : HostSt) : (s.setHost v).ingest = s.ingest := rfl
@[simp] theorem State.setHost_links (s : State) (v : HostSt) : (s.setHost v).links = s.links := rfl
@[simp] theorem State.setHost_mgt (s : State) (v : HostSt) : (s.setHost v).mgt = s.mgt := rfl
@[simp] theorem State.setHost_field (s : State) (v : HostSt) : (s.setHost v).field = s.field := rfl
@[simp] theorem State.setHost_time (s : State) (v : HostSt) : (s.setHost v).time = s.time := rfl
@[simp] theorem State.setHost_chain (s : State) (v : HostSt) : (s.setHost v).chain = s.chain := rfl
@[simp] theorem State.setHost_tap (s : State) (v : HostSt) : (s.setHost v).tap = s.tap := rfl
@[simp] theorem State.setNvme_pending (s : State) (v : NvmeSt) : (s.setNvme v).pending = s.pending := rfl
@[simp] theorem State.setNvme_free (s : State) (v : NvmeSt) : (s.setNvme v).free = s.free := rfl
@[simp] theorem State.setNvme_fac (s : State) (v : NvmeSt) : (s.setNvme v).fac = s.fac := rfl
@[simp] theorem State.setNvme_clk (s : State) (v : NvmeSt) : (s.setNvme v).clk = s.clk := rfl
@[simp] theorem State.setNvme_pwr (s : State) (v : NvmeSt) : (s.setNvme v).pwr = s.pwr := rfl
@[simp] theorem State.setNvme_fab (s : State) (v : NvmeSt) : (s.setNvme v).fab = s.fab := rfl
@[simp] theorem State.setNvme_warp (s : State) (v : NvmeSt) : (s.setNvme v).warp = s.warp := rfl
@[simp] theorem State.setNvme_ptns (s : State) (v : NvmeSt) : (s.setNvme v).ptns = s.ptns := rfl
@[simp] theorem State.setNvme_cores (s : State) (v : NvmeSt) : (s.setNvme v).cores = s.cores := rfl
@[simp] theorem State.setNvme_sync (s : State) (v : NvmeSt) : (s.setNvme v).sync = s.sync := rfl
@[simp] theorem State.setNvme_notice (s : State) (v : NvmeSt) : (s.setNvme v).notice = s.notice := rfl
@[simp] theorem State.setNvme_mem (s : State) (v : NvmeSt) : (s.setNvme v).mem = s.mem := rfl
@[simp] theorem State.setNvme_dir (s : State) (v : NvmeSt) : (s.setNvme v).dir = s.dir := rfl
@[simp] theorem State.setNvme_xl (s : State) (v : NvmeSt) : (s.setNvme v).xl = s.xl := rfl
@[simp] theorem State.setNvme_sh (s : State) (v : NvmeSt) : (s.setNvme v).sh = s.sh := rfl
@[simp] theorem State.setNvme_model (s : State) (v : NvmeSt) : (s.setNvme v).model = s.model := rfl
@[simp] theorem State.setNvme_mctok (s : State) (v : NvmeSt) : (s.setNvme v).mctok = s.mctok := rfl
@[simp] theorem State.setNvme_host (s : State) (v : NvmeSt) : (s.setNvme v).host = s.host := rfl
@[simp] theorem State.setNvme_nvme (s : State) (v : NvmeSt) : (s.setNvme v).nvme = v := rfl
@[simp] theorem State.setNvme_flash (s : State) (v : NvmeSt) : (s.setNvme v).flash = s.flash := rfl
@[simp] theorem State.setNvme_search (s : State) (v : NvmeSt) : (s.setNvme v).search = s.search := rfl
@[simp] theorem State.setNvme_ingest (s : State) (v : NvmeSt) : (s.setNvme v).ingest = s.ingest := rfl
@[simp] theorem State.setNvme_links (s : State) (v : NvmeSt) : (s.setNvme v).links = s.links := rfl
@[simp] theorem State.setNvme_mgt (s : State) (v : NvmeSt) : (s.setNvme v).mgt = s.mgt := rfl
@[simp] theorem State.setNvme_field (s : State) (v : NvmeSt) : (s.setNvme v).field = s.field := rfl
@[simp] theorem State.setNvme_time (s : State) (v : NvmeSt) : (s.setNvme v).time = s.time := rfl
@[simp] theorem State.setNvme_chain (s : State) (v : NvmeSt) : (s.setNvme v).chain = s.chain := rfl
@[simp] theorem State.setNvme_tap (s : State) (v : NvmeSt) : (s.setNvme v).tap = s.tap := rfl
@[simp] theorem State.setFlash_pending (s : State) (v : FlashSt) : (s.setFlash v).pending = s.pending := rfl
@[simp] theorem State.setFlash_free (s : State) (v : FlashSt) : (s.setFlash v).free = s.free := rfl
@[simp] theorem State.setFlash_fac (s : State) (v : FlashSt) : (s.setFlash v).fac = s.fac := rfl
@[simp] theorem State.setFlash_clk (s : State) (v : FlashSt) : (s.setFlash v).clk = s.clk := rfl
@[simp] theorem State.setFlash_pwr (s : State) (v : FlashSt) : (s.setFlash v).pwr = s.pwr := rfl
@[simp] theorem State.setFlash_fab (s : State) (v : FlashSt) : (s.setFlash v).fab = s.fab := rfl
@[simp] theorem State.setFlash_warp (s : State) (v : FlashSt) : (s.setFlash v).warp = s.warp := rfl
@[simp] theorem State.setFlash_ptns (s : State) (v : FlashSt) : (s.setFlash v).ptns = s.ptns := rfl
@[simp] theorem State.setFlash_cores (s : State) (v : FlashSt) : (s.setFlash v).cores = s.cores := rfl
@[simp] theorem State.setFlash_sync (s : State) (v : FlashSt) : (s.setFlash v).sync = s.sync := rfl
@[simp] theorem State.setFlash_notice (s : State) (v : FlashSt) : (s.setFlash v).notice = s.notice := rfl
@[simp] theorem State.setFlash_mem (s : State) (v : FlashSt) : (s.setFlash v).mem = s.mem := rfl
@[simp] theorem State.setFlash_dir (s : State) (v : FlashSt) : (s.setFlash v).dir = s.dir := rfl
@[simp] theorem State.setFlash_xl (s : State) (v : FlashSt) : (s.setFlash v).xl = s.xl := rfl
@[simp] theorem State.setFlash_sh (s : State) (v : FlashSt) : (s.setFlash v).sh = s.sh := rfl
@[simp] theorem State.setFlash_model (s : State) (v : FlashSt) : (s.setFlash v).model = s.model := rfl
@[simp] theorem State.setFlash_mctok (s : State) (v : FlashSt) : (s.setFlash v).mctok = s.mctok := rfl
@[simp] theorem State.setFlash_host (s : State) (v : FlashSt) : (s.setFlash v).host = s.host := rfl
@[simp] theorem State.setFlash_nvme (s : State) (v : FlashSt) : (s.setFlash v).nvme = s.nvme := rfl
@[simp] theorem State.setFlash_flash (s : State) (v : FlashSt) : (s.setFlash v).flash = v := rfl
@[simp] theorem State.setFlash_search (s : State) (v : FlashSt) : (s.setFlash v).search = s.search := rfl
@[simp] theorem State.setFlash_ingest (s : State) (v : FlashSt) : (s.setFlash v).ingest = s.ingest := rfl
@[simp] theorem State.setFlash_links (s : State) (v : FlashSt) : (s.setFlash v).links = s.links := rfl
@[simp] theorem State.setFlash_mgt (s : State) (v : FlashSt) : (s.setFlash v).mgt = s.mgt := rfl
@[simp] theorem State.setFlash_field (s : State) (v : FlashSt) : (s.setFlash v).field = s.field := rfl
@[simp] theorem State.setFlash_time (s : State) (v : FlashSt) : (s.setFlash v).time = s.time := rfl
@[simp] theorem State.setFlash_chain (s : State) (v : FlashSt) : (s.setFlash v).chain = s.chain := rfl
@[simp] theorem State.setFlash_tap (s : State) (v : FlashSt) : (s.setFlash v).tap = s.tap := rfl
@[simp] theorem State.setSearch_pending (s : State) (v : SearchSt) : (s.setSearch v).pending = s.pending := rfl
@[simp] theorem State.setSearch_free (s : State) (v : SearchSt) : (s.setSearch v).free = s.free := rfl
@[simp] theorem State.setSearch_fac (s : State) (v : SearchSt) : (s.setSearch v).fac = s.fac := rfl
@[simp] theorem State.setSearch_clk (s : State) (v : SearchSt) : (s.setSearch v).clk = s.clk := rfl
@[simp] theorem State.setSearch_pwr (s : State) (v : SearchSt) : (s.setSearch v).pwr = s.pwr := rfl
@[simp] theorem State.setSearch_fab (s : State) (v : SearchSt) : (s.setSearch v).fab = s.fab := rfl
@[simp] theorem State.setSearch_warp (s : State) (v : SearchSt) : (s.setSearch v).warp = s.warp := rfl
@[simp] theorem State.setSearch_ptns (s : State) (v : SearchSt) : (s.setSearch v).ptns = s.ptns := rfl
@[simp] theorem State.setSearch_cores (s : State) (v : SearchSt) : (s.setSearch v).cores = s.cores := rfl
@[simp] theorem State.setSearch_sync (s : State) (v : SearchSt) : (s.setSearch v).sync = s.sync := rfl
@[simp] theorem State.setSearch_notice (s : State) (v : SearchSt) : (s.setSearch v).notice = s.notice := rfl
@[simp] theorem State.setSearch_mem (s : State) (v : SearchSt) : (s.setSearch v).mem = s.mem := rfl
@[simp] theorem State.setSearch_dir (s : State) (v : SearchSt) : (s.setSearch v).dir = s.dir := rfl
@[simp] theorem State.setSearch_xl (s : State) (v : SearchSt) : (s.setSearch v).xl = s.xl := rfl
@[simp] theorem State.setSearch_sh (s : State) (v : SearchSt) : (s.setSearch v).sh = s.sh := rfl
@[simp] theorem State.setSearch_model (s : State) (v : SearchSt) : (s.setSearch v).model = s.model := rfl
@[simp] theorem State.setSearch_mctok (s : State) (v : SearchSt) : (s.setSearch v).mctok = s.mctok := rfl
@[simp] theorem State.setSearch_host (s : State) (v : SearchSt) : (s.setSearch v).host = s.host := rfl
@[simp] theorem State.setSearch_nvme (s : State) (v : SearchSt) : (s.setSearch v).nvme = s.nvme := rfl
@[simp] theorem State.setSearch_flash (s : State) (v : SearchSt) : (s.setSearch v).flash = s.flash := rfl
@[simp] theorem State.setSearch_search (s : State) (v : SearchSt) : (s.setSearch v).search = v := rfl
@[simp] theorem State.setSearch_ingest (s : State) (v : SearchSt) : (s.setSearch v).ingest = s.ingest := rfl
@[simp] theorem State.setSearch_links (s : State) (v : SearchSt) : (s.setSearch v).links = s.links := rfl
@[simp] theorem State.setSearch_mgt (s : State) (v : SearchSt) : (s.setSearch v).mgt = s.mgt := rfl
@[simp] theorem State.setSearch_field (s : State) (v : SearchSt) : (s.setSearch v).field = s.field := rfl
@[simp] theorem State.setSearch_time (s : State) (v : SearchSt) : (s.setSearch v).time = s.time := rfl
@[simp] theorem State.setSearch_chain (s : State) (v : SearchSt) : (s.setSearch v).chain = s.chain := rfl
@[simp] theorem State.setSearch_tap (s : State) (v : SearchSt) : (s.setSearch v).tap = s.tap := rfl
@[simp] theorem State.setIngest_pending (s : State) (v : IngestSt) : (s.setIngest v).pending = s.pending := rfl
@[simp] theorem State.setIngest_free (s : State) (v : IngestSt) : (s.setIngest v).free = s.free := rfl
@[simp] theorem State.setIngest_fac (s : State) (v : IngestSt) : (s.setIngest v).fac = s.fac := rfl
@[simp] theorem State.setIngest_clk (s : State) (v : IngestSt) : (s.setIngest v).clk = s.clk := rfl
@[simp] theorem State.setIngest_pwr (s : State) (v : IngestSt) : (s.setIngest v).pwr = s.pwr := rfl
@[simp] theorem State.setIngest_fab (s : State) (v : IngestSt) : (s.setIngest v).fab = s.fab := rfl
@[simp] theorem State.setIngest_warp (s : State) (v : IngestSt) : (s.setIngest v).warp = s.warp := rfl
@[simp] theorem State.setIngest_ptns (s : State) (v : IngestSt) : (s.setIngest v).ptns = s.ptns := rfl
@[simp] theorem State.setIngest_cores (s : State) (v : IngestSt) : (s.setIngest v).cores = s.cores := rfl
@[simp] theorem State.setIngest_sync (s : State) (v : IngestSt) : (s.setIngest v).sync = s.sync := rfl
@[simp] theorem State.setIngest_notice (s : State) (v : IngestSt) : (s.setIngest v).notice = s.notice := rfl
@[simp] theorem State.setIngest_mem (s : State) (v : IngestSt) : (s.setIngest v).mem = s.mem := rfl
@[simp] theorem State.setIngest_dir (s : State) (v : IngestSt) : (s.setIngest v).dir = s.dir := rfl
@[simp] theorem State.setIngest_xl (s : State) (v : IngestSt) : (s.setIngest v).xl = s.xl := rfl
@[simp] theorem State.setIngest_sh (s : State) (v : IngestSt) : (s.setIngest v).sh = s.sh := rfl
@[simp] theorem State.setIngest_model (s : State) (v : IngestSt) : (s.setIngest v).model = s.model := rfl
@[simp] theorem State.setIngest_mctok (s : State) (v : IngestSt) : (s.setIngest v).mctok = s.mctok := rfl
@[simp] theorem State.setIngest_host (s : State) (v : IngestSt) : (s.setIngest v).host = s.host := rfl
@[simp] theorem State.setIngest_nvme (s : State) (v : IngestSt) : (s.setIngest v).nvme = s.nvme := rfl
@[simp] theorem State.setIngest_flash (s : State) (v : IngestSt) : (s.setIngest v).flash = s.flash := rfl
@[simp] theorem State.setIngest_search (s : State) (v : IngestSt) : (s.setIngest v).search = s.search := rfl
@[simp] theorem State.setIngest_ingest (s : State) (v : IngestSt) : (s.setIngest v).ingest = v := rfl
@[simp] theorem State.setIngest_links (s : State) (v : IngestSt) : (s.setIngest v).links = s.links := rfl
@[simp] theorem State.setIngest_mgt (s : State) (v : IngestSt) : (s.setIngest v).mgt = s.mgt := rfl
@[simp] theorem State.setIngest_field (s : State) (v : IngestSt) : (s.setIngest v).field = s.field := rfl
@[simp] theorem State.setIngest_time (s : State) (v : IngestSt) : (s.setIngest v).time = s.time := rfl
@[simp] theorem State.setIngest_chain (s : State) (v : IngestSt) : (s.setIngest v).chain = s.chain := rfl
@[simp] theorem State.setIngest_tap (s : State) (v : IngestSt) : (s.setIngest v).tap = s.tap := rfl
@[simp] theorem State.setLinks_pending (s : State) (v : LinksSt) : (s.setLinks v).pending = s.pending := rfl
@[simp] theorem State.setLinks_free (s : State) (v : LinksSt) : (s.setLinks v).free = s.free := rfl
@[simp] theorem State.setLinks_fac (s : State) (v : LinksSt) : (s.setLinks v).fac = s.fac := rfl
@[simp] theorem State.setLinks_clk (s : State) (v : LinksSt) : (s.setLinks v).clk = s.clk := rfl
@[simp] theorem State.setLinks_pwr (s : State) (v : LinksSt) : (s.setLinks v).pwr = s.pwr := rfl
@[simp] theorem State.setLinks_fab (s : State) (v : LinksSt) : (s.setLinks v).fab = s.fab := rfl
@[simp] theorem State.setLinks_warp (s : State) (v : LinksSt) : (s.setLinks v).warp = s.warp := rfl
@[simp] theorem State.setLinks_ptns (s : State) (v : LinksSt) : (s.setLinks v).ptns = s.ptns := rfl
@[simp] theorem State.setLinks_cores (s : State) (v : LinksSt) : (s.setLinks v).cores = s.cores := rfl
@[simp] theorem State.setLinks_sync (s : State) (v : LinksSt) : (s.setLinks v).sync = s.sync := rfl
@[simp] theorem State.setLinks_notice (s : State) (v : LinksSt) : (s.setLinks v).notice = s.notice := rfl
@[simp] theorem State.setLinks_mem (s : State) (v : LinksSt) : (s.setLinks v).mem = s.mem := rfl
@[simp] theorem State.setLinks_dir (s : State) (v : LinksSt) : (s.setLinks v).dir = s.dir := rfl
@[simp] theorem State.setLinks_xl (s : State) (v : LinksSt) : (s.setLinks v).xl = s.xl := rfl
@[simp] theorem State.setLinks_sh (s : State) (v : LinksSt) : (s.setLinks v).sh = s.sh := rfl
@[simp] theorem State.setLinks_model (s : State) (v : LinksSt) : (s.setLinks v).model = s.model := rfl
@[simp] theorem State.setLinks_mctok (s : State) (v : LinksSt) : (s.setLinks v).mctok = s.mctok := rfl
@[simp] theorem State.setLinks_host (s : State) (v : LinksSt) : (s.setLinks v).host = s.host := rfl
@[simp] theorem State.setLinks_nvme (s : State) (v : LinksSt) : (s.setLinks v).nvme = s.nvme := rfl
@[simp] theorem State.setLinks_flash (s : State) (v : LinksSt) : (s.setLinks v).flash = s.flash := rfl
@[simp] theorem State.setLinks_search (s : State) (v : LinksSt) : (s.setLinks v).search = s.search := rfl
@[simp] theorem State.setLinks_ingest (s : State) (v : LinksSt) : (s.setLinks v).ingest = s.ingest := rfl
@[simp] theorem State.setLinks_links (s : State) (v : LinksSt) : (s.setLinks v).links = v := rfl
@[simp] theorem State.setLinks_mgt (s : State) (v : LinksSt) : (s.setLinks v).mgt = s.mgt := rfl
@[simp] theorem State.setLinks_field (s : State) (v : LinksSt) : (s.setLinks v).field = s.field := rfl
@[simp] theorem State.setLinks_time (s : State) (v : LinksSt) : (s.setLinks v).time = s.time := rfl
@[simp] theorem State.setLinks_chain (s : State) (v : LinksSt) : (s.setLinks v).chain = s.chain := rfl
@[simp] theorem State.setLinks_tap (s : State) (v : LinksSt) : (s.setLinks v).tap = s.tap := rfl
@[simp] theorem State.setMgt_pending (s : State) (v : MgtSt) : (s.setMgt v).pending = s.pending := rfl
@[simp] theorem State.setMgt_free (s : State) (v : MgtSt) : (s.setMgt v).free = s.free := rfl
@[simp] theorem State.setMgt_fac (s : State) (v : MgtSt) : (s.setMgt v).fac = s.fac := rfl
@[simp] theorem State.setMgt_clk (s : State) (v : MgtSt) : (s.setMgt v).clk = s.clk := rfl
@[simp] theorem State.setMgt_pwr (s : State) (v : MgtSt) : (s.setMgt v).pwr = s.pwr := rfl
@[simp] theorem State.setMgt_fab (s : State) (v : MgtSt) : (s.setMgt v).fab = s.fab := rfl
@[simp] theorem State.setMgt_warp (s : State) (v : MgtSt) : (s.setMgt v).warp = s.warp := rfl
@[simp] theorem State.setMgt_ptns (s : State) (v : MgtSt) : (s.setMgt v).ptns = s.ptns := rfl
@[simp] theorem State.setMgt_cores (s : State) (v : MgtSt) : (s.setMgt v).cores = s.cores := rfl
@[simp] theorem State.setMgt_sync (s : State) (v : MgtSt) : (s.setMgt v).sync = s.sync := rfl
@[simp] theorem State.setMgt_notice (s : State) (v : MgtSt) : (s.setMgt v).notice = s.notice := rfl
@[simp] theorem State.setMgt_mem (s : State) (v : MgtSt) : (s.setMgt v).mem = s.mem := rfl
@[simp] theorem State.setMgt_dir (s : State) (v : MgtSt) : (s.setMgt v).dir = s.dir := rfl
@[simp] theorem State.setMgt_xl (s : State) (v : MgtSt) : (s.setMgt v).xl = s.xl := rfl
@[simp] theorem State.setMgt_sh (s : State) (v : MgtSt) : (s.setMgt v).sh = s.sh := rfl
@[simp] theorem State.setMgt_model (s : State) (v : MgtSt) : (s.setMgt v).model = s.model := rfl
@[simp] theorem State.setMgt_mctok (s : State) (v : MgtSt) : (s.setMgt v).mctok = s.mctok := rfl
@[simp] theorem State.setMgt_host (s : State) (v : MgtSt) : (s.setMgt v).host = s.host := rfl
@[simp] theorem State.setMgt_nvme (s : State) (v : MgtSt) : (s.setMgt v).nvme = s.nvme := rfl
@[simp] theorem State.setMgt_flash (s : State) (v : MgtSt) : (s.setMgt v).flash = s.flash := rfl
@[simp] theorem State.setMgt_search (s : State) (v : MgtSt) : (s.setMgt v).search = s.search := rfl
@[simp] theorem State.setMgt_ingest (s : State) (v : MgtSt) : (s.setMgt v).ingest = s.ingest := rfl
@[simp] theorem State.setMgt_links (s : State) (v : MgtSt) : (s.setMgt v).links = s.links := rfl
@[simp] theorem State.setMgt_mgt (s : State) (v : MgtSt) : (s.setMgt v).mgt = v := rfl
@[simp] theorem State.setMgt_field (s : State) (v : MgtSt) : (s.setMgt v).field = s.field := rfl
@[simp] theorem State.setMgt_time (s : State) (v : MgtSt) : (s.setMgt v).time = s.time := rfl
@[simp] theorem State.setMgt_chain (s : State) (v : MgtSt) : (s.setMgt v).chain = s.chain := rfl
@[simp] theorem State.setMgt_tap (s : State) (v : MgtSt) : (s.setMgt v).tap = s.tap := rfl
@[simp] theorem State.setField_pending (s : State) (v : FieldSt) : (s.setField v).pending = s.pending := rfl
@[simp] theorem State.setField_free (s : State) (v : FieldSt) : (s.setField v).free = s.free := rfl
@[simp] theorem State.setField_fac (s : State) (v : FieldSt) : (s.setField v).fac = s.fac := rfl
@[simp] theorem State.setField_clk (s : State) (v : FieldSt) : (s.setField v).clk = s.clk := rfl
@[simp] theorem State.setField_pwr (s : State) (v : FieldSt) : (s.setField v).pwr = s.pwr := rfl
@[simp] theorem State.setField_fab (s : State) (v : FieldSt) : (s.setField v).fab = s.fab := rfl
@[simp] theorem State.setField_warp (s : State) (v : FieldSt) : (s.setField v).warp = s.warp := rfl
@[simp] theorem State.setField_ptns (s : State) (v : FieldSt) : (s.setField v).ptns = s.ptns := rfl
@[simp] theorem State.setField_cores (s : State) (v : FieldSt) : (s.setField v).cores = s.cores := rfl
@[simp] theorem State.setField_sync (s : State) (v : FieldSt) : (s.setField v).sync = s.sync := rfl
@[simp] theorem State.setField_notice (s : State) (v : FieldSt) : (s.setField v).notice = s.notice := rfl
@[simp] theorem State.setField_mem (s : State) (v : FieldSt) : (s.setField v).mem = s.mem := rfl
@[simp] theorem State.setField_dir (s : State) (v : FieldSt) : (s.setField v).dir = s.dir := rfl
@[simp] theorem State.setField_xl (s : State) (v : FieldSt) : (s.setField v).xl = s.xl := rfl
@[simp] theorem State.setField_sh (s : State) (v : FieldSt) : (s.setField v).sh = s.sh := rfl
@[simp] theorem State.setField_model (s : State) (v : FieldSt) : (s.setField v).model = s.model := rfl
@[simp] theorem State.setField_mctok (s : State) (v : FieldSt) : (s.setField v).mctok = s.mctok := rfl
@[simp] theorem State.setField_host (s : State) (v : FieldSt) : (s.setField v).host = s.host := rfl
@[simp] theorem State.setField_nvme (s : State) (v : FieldSt) : (s.setField v).nvme = s.nvme := rfl
@[simp] theorem State.setField_flash (s : State) (v : FieldSt) : (s.setField v).flash = s.flash := rfl
@[simp] theorem State.setField_search (s : State) (v : FieldSt) : (s.setField v).search = s.search := rfl
@[simp] theorem State.setField_ingest (s : State) (v : FieldSt) : (s.setField v).ingest = s.ingest := rfl
@[simp] theorem State.setField_links (s : State) (v : FieldSt) : (s.setField v).links = s.links := rfl
@[simp] theorem State.setField_mgt (s : State) (v : FieldSt) : (s.setField v).mgt = s.mgt := rfl
@[simp] theorem State.setField_field (s : State) (v : FieldSt) : (s.setField v).field = v := rfl
@[simp] theorem State.setField_time (s : State) (v : FieldSt) : (s.setField v).time = s.time := rfl
@[simp] theorem State.setField_chain (s : State) (v : FieldSt) : (s.setField v).chain = s.chain := rfl
@[simp] theorem State.setField_tap (s : State) (v : FieldSt) : (s.setField v).tap = s.tap := rfl
@[simp] theorem State.setTime_pending (s : State) (v : TimeSt) : (s.setTime v).pending = s.pending := rfl
@[simp] theorem State.setTime_free (s : State) (v : TimeSt) : (s.setTime v).free = s.free := rfl
@[simp] theorem State.setTime_fac (s : State) (v : TimeSt) : (s.setTime v).fac = s.fac := rfl
@[simp] theorem State.setTime_clk (s : State) (v : TimeSt) : (s.setTime v).clk = s.clk := rfl
@[simp] theorem State.setTime_pwr (s : State) (v : TimeSt) : (s.setTime v).pwr = s.pwr := rfl
@[simp] theorem State.setTime_fab (s : State) (v : TimeSt) : (s.setTime v).fab = s.fab := rfl
@[simp] theorem State.setTime_warp (s : State) (v : TimeSt) : (s.setTime v).warp = s.warp := rfl
@[simp] theorem State.setTime_ptns (s : State) (v : TimeSt) : (s.setTime v).ptns = s.ptns := rfl
@[simp] theorem State.setTime_cores (s : State) (v : TimeSt) : (s.setTime v).cores = s.cores := rfl
@[simp] theorem State.setTime_sync (s : State) (v : TimeSt) : (s.setTime v).sync = s.sync := rfl
@[simp] theorem State.setTime_notice (s : State) (v : TimeSt) : (s.setTime v).notice = s.notice := rfl
@[simp] theorem State.setTime_mem (s : State) (v : TimeSt) : (s.setTime v).mem = s.mem := rfl
@[simp] theorem State.setTime_dir (s : State) (v : TimeSt) : (s.setTime v).dir = s.dir := rfl
@[simp] theorem State.setTime_xl (s : State) (v : TimeSt) : (s.setTime v).xl = s.xl := rfl
@[simp] theorem State.setTime_sh (s : State) (v : TimeSt) : (s.setTime v).sh = s.sh := rfl
@[simp] theorem State.setTime_model (s : State) (v : TimeSt) : (s.setTime v).model = s.model := rfl
@[simp] theorem State.setTime_mctok (s : State) (v : TimeSt) : (s.setTime v).mctok = s.mctok := rfl
@[simp] theorem State.setTime_host (s : State) (v : TimeSt) : (s.setTime v).host = s.host := rfl
@[simp] theorem State.setTime_nvme (s : State) (v : TimeSt) : (s.setTime v).nvme = s.nvme := rfl
@[simp] theorem State.setTime_flash (s : State) (v : TimeSt) : (s.setTime v).flash = s.flash := rfl
@[simp] theorem State.setTime_search (s : State) (v : TimeSt) : (s.setTime v).search = s.search := rfl
@[simp] theorem State.setTime_ingest (s : State) (v : TimeSt) : (s.setTime v).ingest = s.ingest := rfl
@[simp] theorem State.setTime_links (s : State) (v : TimeSt) : (s.setTime v).links = s.links := rfl
@[simp] theorem State.setTime_mgt (s : State) (v : TimeSt) : (s.setTime v).mgt = s.mgt := rfl
@[simp] theorem State.setTime_field (s : State) (v : TimeSt) : (s.setTime v).field = s.field := rfl
@[simp] theorem State.setTime_time (s : State) (v : TimeSt) : (s.setTime v).time = v := rfl
@[simp] theorem State.setTime_chain (s : State) (v : TimeSt) : (s.setTime v).chain = s.chain := rfl
@[simp] theorem State.setTime_tap (s : State) (v : TimeSt) : (s.setTime v).tap = s.tap := rfl
@[simp] theorem State.setChain_pending (s : State) (v : ChainSt) : (s.setChain v).pending = s.pending := rfl
@[simp] theorem State.setChain_free (s : State) (v : ChainSt) : (s.setChain v).free = s.free := rfl
@[simp] theorem State.setChain_fac (s : State) (v : ChainSt) : (s.setChain v).fac = s.fac := rfl
@[simp] theorem State.setChain_clk (s : State) (v : ChainSt) : (s.setChain v).clk = s.clk := rfl
@[simp] theorem State.setChain_pwr (s : State) (v : ChainSt) : (s.setChain v).pwr = s.pwr := rfl
@[simp] theorem State.setChain_fab (s : State) (v : ChainSt) : (s.setChain v).fab = s.fab := rfl
@[simp] theorem State.setChain_warp (s : State) (v : ChainSt) : (s.setChain v).warp = s.warp := rfl
@[simp] theorem State.setChain_ptns (s : State) (v : ChainSt) : (s.setChain v).ptns = s.ptns := rfl
@[simp] theorem State.setChain_cores (s : State) (v : ChainSt) : (s.setChain v).cores = s.cores := rfl
@[simp] theorem State.setChain_sync (s : State) (v : ChainSt) : (s.setChain v).sync = s.sync := rfl
@[simp] theorem State.setChain_notice (s : State) (v : ChainSt) : (s.setChain v).notice = s.notice := rfl
@[simp] theorem State.setChain_mem (s : State) (v : ChainSt) : (s.setChain v).mem = s.mem := rfl
@[simp] theorem State.setChain_dir (s : State) (v : ChainSt) : (s.setChain v).dir = s.dir := rfl
@[simp] theorem State.setChain_xl (s : State) (v : ChainSt) : (s.setChain v).xl = s.xl := rfl
@[simp] theorem State.setChain_sh (s : State) (v : ChainSt) : (s.setChain v).sh = s.sh := rfl
@[simp] theorem State.setChain_model (s : State) (v : ChainSt) : (s.setChain v).model = s.model := rfl
@[simp] theorem State.setChain_mctok (s : State) (v : ChainSt) : (s.setChain v).mctok = s.mctok := rfl
@[simp] theorem State.setChain_host (s : State) (v : ChainSt) : (s.setChain v).host = s.host := rfl
@[simp] theorem State.setChain_nvme (s : State) (v : ChainSt) : (s.setChain v).nvme = s.nvme := rfl
@[simp] theorem State.setChain_flash (s : State) (v : ChainSt) : (s.setChain v).flash = s.flash := rfl
@[simp] theorem State.setChain_search (s : State) (v : ChainSt) : (s.setChain v).search = s.search := rfl
@[simp] theorem State.setChain_ingest (s : State) (v : ChainSt) : (s.setChain v).ingest = s.ingest := rfl
@[simp] theorem State.setChain_links (s : State) (v : ChainSt) : (s.setChain v).links = s.links := rfl
@[simp] theorem State.setChain_mgt (s : State) (v : ChainSt) : (s.setChain v).mgt = s.mgt := rfl
@[simp] theorem State.setChain_field (s : State) (v : ChainSt) : (s.setChain v).field = s.field := rfl
@[simp] theorem State.setChain_time (s : State) (v : ChainSt) : (s.setChain v).time = s.time := rfl
@[simp] theorem State.setChain_chain (s : State) (v : ChainSt) : (s.setChain v).chain = v := rfl
@[simp] theorem State.setChain_tap (s : State) (v : ChainSt) : (s.setChain v).tap = s.tap := rfl
@[simp] theorem State.setTap_pending (s : State) (v : TapSt) : (s.setTap v).pending = s.pending := rfl
@[simp] theorem State.setTap_free (s : State) (v : TapSt) : (s.setTap v).free = s.free := rfl
@[simp] theorem State.setTap_fac (s : State) (v : TapSt) : (s.setTap v).fac = s.fac := rfl
@[simp] theorem State.setTap_clk (s : State) (v : TapSt) : (s.setTap v).clk = s.clk := rfl
@[simp] theorem State.setTap_pwr (s : State) (v : TapSt) : (s.setTap v).pwr = s.pwr := rfl
@[simp] theorem State.setTap_fab (s : State) (v : TapSt) : (s.setTap v).fab = s.fab := rfl
@[simp] theorem State.setTap_warp (s : State) (v : TapSt) : (s.setTap v).warp = s.warp := rfl
@[simp] theorem State.setTap_ptns (s : State) (v : TapSt) : (s.setTap v).ptns = s.ptns := rfl
@[simp] theorem State.setTap_cores (s : State) (v : TapSt) : (s.setTap v).cores = s.cores := rfl
@[simp] theorem State.setTap_sync (s : State) (v : TapSt) : (s.setTap v).sync = s.sync := rfl
@[simp] theorem State.setTap_notice (s : State) (v : TapSt) : (s.setTap v).notice = s.notice := rfl
@[simp] theorem State.setTap_mem (s : State) (v : TapSt) : (s.setTap v).mem = s.mem := rfl
@[simp] theorem State.setTap_dir (s : State) (v : TapSt) : (s.setTap v).dir = s.dir := rfl
@[simp] theorem State.setTap_xl (s : State) (v : TapSt) : (s.setTap v).xl = s.xl := rfl
@[simp] theorem State.setTap_sh (s : State) (v : TapSt) : (s.setTap v).sh = s.sh := rfl
@[simp] theorem State.setTap_model (s : State) (v : TapSt) : (s.setTap v).model = s.model := rfl
@[simp] theorem State.setTap_mctok (s : State) (v : TapSt) : (s.setTap v).mctok = s.mctok := rfl
@[simp] theorem State.setTap_host (s : State) (v : TapSt) : (s.setTap v).host = s.host := rfl
@[simp] theorem State.setTap_nvme (s : State) (v : TapSt) : (s.setTap v).nvme = s.nvme := rfl
@[simp] theorem State.setTap_flash (s : State) (v : TapSt) : (s.setTap v).flash = s.flash := rfl
@[simp] theorem State.setTap_search (s : State) (v : TapSt) : (s.setTap v).search = s.search := rfl
@[simp] theorem State.setTap_ingest (s : State) (v : TapSt) : (s.setTap v).ingest = s.ingest := rfl
@[simp] theorem State.setTap_links (s : State) (v : TapSt) : (s.setTap v).links = s.links := rfl
@[simp] theorem State.setTap_mgt (s : State) (v : TapSt) : (s.setTap v).mgt = s.mgt := rfl
@[simp] theorem State.setTap_field (s : State) (v : TapSt) : (s.setTap v).field = s.field := rfl
@[simp] theorem State.setTap_time (s : State) (v : TapSt) : (s.setTap v).time = s.time := rfl
@[simp] theorem State.setTap_chain (s : State) (v : TapSt) : (s.setTap v).chain = s.chain := rfl
@[simp] theorem State.setTap_tap (s : State) (v : TapSt) : (s.setTap v).tap = v := rfl

end Sys2Proof.Machine
end

