-- ==== Sys2Proof/Laws/Tab.lean ====
section
/-! SUPPORT. Tables: what is read after a write, and that writing keeps the keys rising. -/

namespace Sys2Proof.Machine

@[simp] theorem tfind_tset_self {α : Type} (t : Tab α) (i : Nat) (v : α) : tfind (tset t i v) i = some v := by
  induction t with
  | nil => simp [tset, tfind]
  | cons e t ih =>
    obtain ⟨k, w⟩ := e
    simp only [tset]
    split
    · simp [tfind]
    · split
      · simp [tfind]
      · rename_i h1 h2
        simp [tfind, ih, Ne.symm h2]

theorem tfind_tset_ne {α : Type} (t : Tab α) {i j : Nat} (v : α) (h : j ≠ i) : tfind (tset t i v) j = tfind t j := by
  induction t with
  | nil => simp [tset, tfind, Ne.symm h]
  | cons e t ih =>
    obtain ⟨k, w⟩ := e
    simp only [tset]
    split
    · simp [tfind, Ne.symm h]
    · split
      · rename_i h1 h2
        subst h2
        simp [tfind, Ne.symm h]
      · simp [tfind, ih]

@[simp] theorem tget_tset_self {α : Type} (t : Tab α) (i : Nat) (v d : α) : tget (tset t i v) i d = v := by
  simp [tget]

theorem tget_tset_ne {α : Type} (t : Tab α) {i j : Nat} (v d : α) (h : j ≠ i) : tget (tset t i v) j d = tget t j d := by
  simp [tget, tfind_tset_ne t v h]

theorem tget_tset {α : Type} (t : Tab α) (i j : Nat) (v d : α) : tget (tset t i v) j d = if j = i then v else tget t j d := by
  split
  · subst_vars; simp
  · exact tget_tset_ne t v d ‹_›

@[simp] theorem tfind_tdel_self {α : Type} (t : Tab α) (i : Nat) : tfind (tdel t i) i = none := by
  induction t with
  | nil => rfl
  | cons e t ih =>
    obtain ⟨k, w⟩ := e
    unfold tdel at ih ⊢
    by_cases h : k = i
    · subst h; simpa using ih
    · simp [tfind, h, ih]

theorem tfind_tdel_ne {α : Type} (t : Tab α) {i j : Nat} (h : j ≠ i) : tfind (tdel t i) j = tfind t j := by
  induction t with
  | nil => rfl
  | cons e t ih =>
    obtain ⟨k, w⟩ := e
    unfold tdel at ih ⊢
    by_cases hk : k = i
    · subst hk; simp [tfind, ih, Ne.symm h]
    · simp [tfind, hk, ih]

/-- A table whose values are changed in place, seen through one key. -/
theorem tfind_mapVal {α : Type} (t : Tab α) (f : Nat × α → α) (j : Nat) :
    tfind (t.map fun e => (e.1, f e)) j = (tfind t j).map fun v => f (j, v) := by
  induction t with
  | nil => rfl
  | cons e t ih =>
    obtain ⟨k, w⟩ := e
    simp only [List.map_cons, tfind]
    split
    · subst_vars; rfl
    · exact ih

end Sys2Proof.Machine
end

