-- ==== Sys2Proof/Laws/Ops.lean ====
section
/-! SUPPORT. Cores, threads and partitions: what is read after a change. -/

namespace Sys2Proof.Machine

@[simp] theorem State.core_modCore_self (s : State) (c : Nat) (f : CoreSt → CoreSt) : (s.modCore c f).core c = f (s.core c) := by
  simp [State.core, State.modCore]

theorem State.core_modCore_ne (s : State) {c d : Nat} (f : CoreSt → CoreSt) (h : d ≠ c) : (s.modCore c f).core d = s.core d := by
  simp [State.core, State.modCore, tget_tset_ne _ _ _ h]

@[simp] theorem CoreSt.thr_modThr_self (k : CoreSt) (t : Nat) (f : Thread → Thread) : (k.modThr t f).thr t = f (k.thr t) := by
  simp [CoreSt.thr, CoreSt.modThr]

theorem CoreSt.thr_modThr_ne (k : CoreSt) {t u : Nat} (f : Thread → Thread) (h : u ≠ t) : (k.modThr t f).thr u = k.thr u := by
  simp [CoreSt.thr, CoreSt.modThr, tget_tset_ne _ _ _ h]

@[simp] theorem State.thr_modThr_self (s : State) (c t : Nat) (f : Thread → Thread) : (s.modThr c t f).thr c t = f (s.thr c t) := by
  simp [State.thr, State.modThr]

@[simp] theorem State.ptn_modPtn_self (s : State) (p : Nat) (f : PtnSt → PtnSt) : (s.modPtn p f).ptn p = f (s.ptn p) := by
  simp [State.ptn, State.modPtn]

theorem State.ptn_modPtn_ne (s : State) {p q : Nat} (f : PtnSt → PtnSt) (h : q ≠ p) : (s.modPtn p f).ptn q = s.ptn q := by
  simp [State.ptn, State.modPtn, tget_tset_ne _ _ _ h]

end Sys2Proof.Machine
end

