-- ==== Sys2Proof/WellFormed.lean ====
section
/-! DEFINITION. The commands whose operands can occur: what the operand types leave to be said. -/

namespace Sys2Proof

/-- A fabric packet carries at most 8 data flits (R41). -/
def Packet.wf (p : Packet) : Bool := decide (p.data.length ≤ 8)

/-- A register access has a size, and no data beyond it (R9). -/
def RegAccess.wf (a : RegAccess) : Bool := decide (1 ≤ a.size.toNat) && (decide (8 ≤ a.size.toNat) || decide (a.data.toNat < 2 ^ (8 * a.size.toNat)))

/-- A chain frame carries at most 4,112 payload bytes (R452). -/
def ChainFrame.wf (f : ChainFrame) : Bool := decide (f.payload.length ≤ 4112)

/-- The operands of a command can occur. -/
def Instr.wf : Instr → Bool
  | .fabricPacket p => p.wf
  | .registerWrite a => a.wf
  | .chainCmd _ f => f.wf
  | .enumFrame _ f => f.wf
  | .chainFrameForward _ f => f.wf
  | _ => true

end Sys2Proof
end

