-- ==== Sys2Proof/Laws/PerInstr.lean ====
section
/-! SUPPORT. One lemma per command: its operands can occur exactly where the bounds of the spec hold (R9, R41, R452). -/

namespace Sys2Proof.Laws.OperandBounds

/-- The bounds the spec gives on operands: a packet's data flits (R41), the size of a register access and data of that size (R9), the
payload of a chain frame (R452). -/
def Bounds : Instr → Prop
  | .fabricPacket p => p.data.length ≤ 8
  | .registerWrite a => 1 ≤ a.size.toNat ∧ (8 ≤ a.size.toNat ∨ a.data.toNat < 2 ^ (8 * a.size.toNat))
  | .chainCmd _ f => f.payload.length ≤ 4112
  | .enumFrame _ f => f.payload.length ≤ 4112
  | .chainFrameForward _ f => f.payload.length ≤ 4112
  | _ => True

/-- The check of well-formedness is the bounds. -/
def Statement (i : Instr) : Prop := i.wf = true ↔ Bounds i

/-- A command without a bound on its operands. -/
theorem free (i : Instr) (h : i.wf = true) (hb : Bounds i) : Statement i := ⟨fun _ => hb, fun _ => h⟩

theorem powerOnReset (e : BootEnv) : Statement (.powerOnReset e) := free _ rfl trivial
theorem pllLockRetry (locks : Bool) : Statement (.pllLockRetry locks) := free _ rfl trivial
theorem clockFailure (clks : BitVec 6) (lockLost : Bool) : Statement (.clockFailure clks lockLost) := free _ rfl trivial
theorem pllLockReturn : Statement .pllLockReturn := free _ rfl trivial
theorem xclkLoss : Statement .xclkLoss := free _ rfl trivial
theorem trialTimeout (e : BootEnv) : Statement (.trialTimeout e) := free _ rfl trivial
theorem domainRestart (e : StartEnv) : Statement (.domainRestart e) := free _ rfl trivial
theorem input54vFail (high : Bool) : Statement (.input54vFail high) := free _ rfl trivial
theorem input54vReturn : Statement .input54vReturn := free _ rfl trivial
theorem standbyFail : Statement .standbyFail := free _ rfl trivial
theorem holdupReady : Statement .holdupReady := free _ rfl trivial
theorem holdupFault : Statement .holdupFault := free _ rfl trivial
theorem powerCapStep (avg : BitVec 16) : Statement (.powerCapStep avg) := free _ rfl trivial
theorem temperatureLimit (sensor : Fin 162) (limit : Fin 3) : Statement (.temperatureLimit sensor limit) := free _ rfl trivial
theorem temperatureRelease (sensor : Fin 162) (limit : Fin 3) : Statement (.temperatureRelease sensor limit) := free _ rfl trivial
theorem railOutOfRange (rail : Fin 34) (high : Bool) : Statement (.railOutOfRange rail high) := free _ rfl trivial
theorem lowFlow : Statement .lowFlow := free _ rfl trivial
theorem healthPollMiss (u : DieUnit) : Statement (.healthPollMiss u) := free _ rfl trivial
theorem mgtWatchdogExpiry : Statement .mgtWatchdogExpiry := free _ rfl trivial
theorem sensorSample (vals : List (Option (BitVec 32))) : Statement (.sensorSample vals) := free _ rfl trivial
theorem energyEstimate (acts : List (Fin 32 × List Nat)) : Statement (.energyEstimate acts) := free _ rfl trivial
theorem energyReconcile (meas : Option Nat) : Statement (.energyReconcile meas) := free _ rfl trivial
theorem fabricPacket (p : Packet) : Statement (.fabricPacket p) := by
  simp [Statement, Bounds, Instr.wf, Packet.wf]
theorem creditReturn (port : Fin 31) (lane : Fin 48) (dir : Bool) (vc : Fin 6) : Statement (.creditReturn port lane dir vc) := free _ rfl trivial
theorem flitCrcFail (port : Fin 31) (lane : Fin 48) (dir : Bool) (again : Bool) (retrain : Option Bool) : Statement (.flitCrcFail port lane dir again retrain) := free _ rfl trivial
theorem creditSnapGo (w : BitVec 32) : Statement (.creditSnapGo w) := free _ rfl trivial
theorem lnkCreditSnapGo (l : Fin 48) (w : BitVec 32) : Statement (.lnkCreditSnapGo l w) := free _ rfl trivial
theorem stage : Statement .stage := free _ rfl trivial
theorem stageComplete (h : Option HostErr) : Statement (.stageComplete h) := free _ rfl trivial
theorem commit : Statement .commit := free _ rfl trivial
theorem structReset : Statement .structReset := free _ rfl trivial
theorem discard : Statement .discard := free _ rfl trivial
theorem drainWindowExpiry : Statement .drainWindowExpiry := free _ rfl trivial
theorem configStoreWrite (ok : Bool) : Statement (.configStoreWrite ok) := free _ rfl trivial
theorem registerWrite (a : RegAccess) : Statement (.registerWrite a) := by
  simp [Statement, Bounds, Instr.wf, RegAccess.wf]
theorem lockerrClear : Statement .lockerrClear := free _ rfl trivial
theorem alu (c : Fin 64) (t : Fin 32) : Statement (.alu c t) := free _ rfl trivial
theorem lui (c : Fin 64) (t : Fin 32) : Statement (.lui c t) := free _ rfl trivial
theorem ld (c : Fin 64) (t : Fin 32) : Statement (.ld c t) := free _ rfl trivial
theorem st (c : Fin 64) (t : Fin 32) : Statement (.st c t) := free _ rfl trivial
theorem amo (c : Fin 64) (t : Fin 32) : Statement (.amo c t) := free _ rfl trivial
theorem loadDataReturn (c : Fin 64) (t : Fin 32) (hits : List MemHit) : Statement (.loadDataReturn c t hits) := free _ rfl trivial
theorem br (c : Fin 64) (t : Fin 32) : Statement (.br c t) := free _ rfl trivial
theorem jal (c : Fin 64) (t : Fin 32) : Statement (.jal c t) := free _ rfl trivial
theorem jalr (c : Fin 64) (t : Fin 32) : Statement (.jalr c t) := free _ rfl trivial
theorem exitTask (c : Fin 64) (t : Fin 32) : Statement (.exitTask c t) := free _ rfl trivial
theorem yieldTurn (c : Fin 64) (t : Fin 32) : Statement (.yieldTurn c t) := free _ rfl trivial
theorem trap (c : Fin 64) (t : Fin 32) : Statement (.trap c t) := free _ rfl trivial
theorem spr (c : Fin 64) (t : Fin 32) : Statement (.spr c t) := free _ rfl trivial
theorem issue (c : Fin 64) (t : Fin 32) : Statement (.issue c t) := free _ rfl trivial
theorem signal (c : Fin 64) (t : Fin 32) : Statement (.signal c t) := free _ rfl trivial
theorem waitObj (c : Fin 64) (t : Fin 32) : Statement (.waitObj c t) := free _ rfl trivial
theorem setc (c : Fin 64) (t : Fin 32) : Statement (.setc c t) := free _ rfl trivial
theorem sett (c : Fin 64) (t : Fin 32) : Statement (.sett c t) := free _ rfl trivial
theorem sread (c : Fin 64) (t : Fin 32) : Statement (.sread c t) := free _ rfl trivial
theorem taskPost (c : Fin 64) (t : Fin 32) : Statement (.taskPost c t) := free _ rfl trivial
theorem fence (c : Fin 64) (t : Fin 32) : Statement (.fence c t) := free _ rfl trivial
theorem fenceEngines (c : Fin 64) (t : Fin 32) : Statement (.fenceEngines c t) := free _ rfl trivial
theorem waitTimeout (c : Fin 64) (t : Fin 32) : Statement (.waitTimeout c t) := free _ rfl trivial
theorem syncUpdate (bank : Fin 32) : Statement (.syncUpdate bank) := free _ rfl trivial
theorem wakeDelivery (c : Fin 64) (t : Fin 32) : Statement (.wakeDelivery c t) := free _ rfl trivial
theorem syncCsrWrite (obj : BitVec 13) (off : Fin 2) (wide : Bool) (v : BitVec 64) : Statement (.syncCsrWrite obj off wide v) := free _ rfl trivial
theorem hubSyncSignalWrite (v : BitVec 64) : Statement (.hubSyncSignalWrite v) := free _ rfl trivial
theorem taskDispatch (lc : Bool) : Statement (.taskDispatch lc) := free _ rfl trivial
theorem noticeRingConsWrite (ring : Fin 33) (v : BitVec 32) : Statement (.noticeRingConsWrite ring v) := free _ rfl trivial
theorem wmHitClear (w : Fin 256) : Statement (.wmHitClear w) := free _ rfl trivial
theorem wmCfgWrite (w : Fin 256) (v : BitVec 64) : Statement (.wmCfgWrite w v) := free _ rfl trivial
theorem xreqEnable (p : Fin 32) (v : BitVec 32) : Statement (.xreqEnable p v) := free _ rfl trivial
theorem shootRange (p : Fin 32) : Statement (.shootRange p) := free _ rfl trivial
theorem shootAll (p : Fin 32) : Statement (.shootAll p) := free _ rfl trivial
theorem shootdownAck (p : Fin 32) (agent : Fin 65) : Statement (.shootdownAck p agent) := free _ rfl trivial
theorem resume (p : Fin 32) : Statement (.resume p) := free _ rfl trivial
theorem resumePage (p : Fin 32) : Statement (.resumePage p) := free _ rfl trivial
theorem abortAgent (p : Fin 32) : Statement (.abortAgent p) := free _ rfl trivial
theorem movePage (p : Fin 32) : Statement (.movePage p) := free _ rfl trivial
theorem moveCopyDone (p : Fin 32) : Statement (.moveCopyDone p) := free _ rfl trivial
theorem resumeWindowExpiry (agent : BitVec 16) : Statement (.resumeWindowExpiry agent) := free _ rfl trivial
theorem faultQueueConsWrite (p : Fin 32) (v : BitVec 32) : Statement (.faultQueueConsWrite p v) := free _ rfl trivial
theorem rdS (c : Fin 64) (line : BitVec 44) : Statement (.rdS c line) := free _ rfl trivial
theorem rdX (c : Fin 64) (line : BitVec 44) : Statement (.rdX c line) := free _ rfl trivial
theorem upgr (c : Fin 64) (line : BitVec 44) : Statement (.upgr c line) := free _ rfl trivial
theorem evictDirty (c : Fin 64) (line : BitVec 44) : Statement (.evictDirty c line) := free _ rfl trivial
theorem evictClean (c : Fin 64) (line : BitVec 44) : Statement (.evictClean c line) := free _ rfl trivial
theorem rdU (agent : BitVec 16) (line : BitVec 44) : Statement (.rdU agent line) := free _ rfl trivial
theorem wrU (agent : BitVec 16) (line : BitVec 44) (mask : BitVec 64) (data : BitVec 512) : Statement (.wrU agent line mask data) := free _ rfl trivial
theorem snpInv (c : Fin 64) (line : BitVec 44) : Statement (.snpInv c line) := free _ rfl trivial
theorem snpShare (c : Fin 64) (line : BitVec 44) : Statement (.snpShare c line) := free _ rfl trivial
theorem snpOwn (c : Fin 64) (line : BitVec 44) : Statement (.snpOwn c line) := free _ rfl trivial
theorem snoopAck (c : Fin 64) (line : BitVec 44) : Statement (.snoopAck c line) := free _ rfl trivial
theorem snoopAckData (c : Fin 64) (line : BitVec 44) : Statement (.snoopAckData c line) := free _ rfl trivial
theorem gone (c : Fin 64) (line : BitVec 44) : Statement (.gone c line) := free _ rfl trivial
theorem dataS (c : Fin 64) (line : BitVec 44) : Statement (.dataS c line) := free _ rfl trivial
theorem dataE (c : Fin 64) (line : BitVec 44) : Statement (.dataE c line) := free _ rfl trivial
theorem dataX (c : Fin 64) (line : BitVec 44) : Statement (.dataX c line) := free _ rfl trivial
theorem grant (c : Fin 64) (line : BitVec 44) : Statement (.grant c line) := free _ rfl trivial
theorem evictAck (c : Fin 64) (line : BitVec 44) : Statement (.evictAck c line) := free _ rfl trivial
theorem comp (c : Fin 64) (line : BitVec 44) : Statement (.comp c line) := free _ rfl trivial
theorem doneU (agent : BitVec 16) (line : BitVec 44) : Statement (.doneU agent line) := free _ rfl trivial
theorem mma (c : Fin 64) (hits : List CoreHit) : Statement (.mma c hits) := free _ rfl trivial
theorem accLoad (c : Fin 64) : Statement (.accLoad c) := free _ rfl trivial
theorem accStore (c : Fin 64) (hits : List CoreHit) : Statement (.accStore c hits) := free _ rfl trivial
theorem accClear (c : Fin 64) : Statement (.accClear c) := free _ rfl trivial
theorem remainderPass (c : Fin 64) : Statement (.remainderPass c) := free _ rfl trivial
theorem matrixComplete (c : Fin 64) : Statement (.matrixComplete c) := free _ rfl trivial
theorem compareAndCount (c : Fin 64) (hits : List CoreHit) : Statement (.compareAndCount c hits) := free _ rfl trivial
theorem vAdd (c : Fin 64) : Statement (.vAdd c) := free _ rfl trivial
theorem vSub (c : Fin 64) : Statement (.vSub c) := free _ rfl trivial
theorem vMul (c : Fin 64) : Statement (.vMul c) := free _ rfl trivial
theorem vFma (c : Fin 64) : Statement (.vFma c) := free _ rfl trivial
theorem vMin (c : Fin 64) : Statement (.vMin c) := free _ rfl trivial
theorem vMax (c : Fin 64) : Statement (.vMax c) := free _ rfl trivial
theorem vAbs (c : Fin 64) : Statement (.vAbs c) := free _ rfl trivial
theorem vNeg (c : Fin 64) : Statement (.vNeg c) := free _ rfl trivial
theorem vClt (c : Fin 64) : Statement (.vClt c) := free _ rfl trivial
theorem vCeq (c : Fin 64) : Statement (.vCeq c) := free _ rfl trivial
theorem vCopy (c : Fin 64) : Statement (.vCopy c) := free _ rfl trivial
theorem vFill (c : Fin 64) : Statement (.vFill c) := free _ rfl trivial
theorem rsum (c : Fin 64) : Statement (.rsum c) := free _ rfl trivial
theorem rmax (c : Fin 64) : Statement (.rmax c) := free _ rfl trivial
theorem stats (c : Fin 64) : Statement (.stats c) := free _ rfl trivial
theorem lnorm (c : Fin 64) : Statement (.lnorm c) := free _ rfl trivial
theorem rnorm (c : Fin 64) : Statement (.rnorm c) := free _ rfl trivial
theorem smaxSum (c : Fin 64) : Statement (.smaxSum c) := free _ rfl trivial
theorem smaxNorm (c : Fin 64) : Statement (.smaxNorm c) := free _ rfl trivial
theorem vectorComplete (c : Fin 64) (hits : List CoreHit) : Statement (.vectorComplete c hits) := free _ rfl trivial
theorem sfuOp (c : Fin 64) (hits : List CoreHit) : Statement (.sfuOp c hits) := free _ rfl trivial
theorem sfuComplete (c : Fin 64) : Statement (.sfuComplete c) := free _ rfl trivial
theorem sfuSlotReload (c : Fin 64) : Statement (.sfuSlotReload c) := free _ rfl trivial
theorem streamLoad (c : Fin 64) (e : Fin 2) : Statement (.streamLoad c e) := free _ rfl trivial
theorem streamStore (c : Fin 64) (e : Fin 2) : Statement (.streamStore c e) := free _ rfl trivial
theorem streamGather (c : Fin 64) (e : Fin 2) : Statement (.streamGather c e) := free _ rfl trivial
theorem mcLead (c : Fin 64) (e : Fin 2) : Statement (.mcLead c e) := free _ rfl trivial
theorem mcJoin (c : Fin 64) (e : Fin 2) : Statement (.mcJoin c e) := free _ rfl trivial
theorem streamRowLanded (c : Fin 64) (e : Fin 2) (hits : List MemHit) : Statement (.streamRowLanded c e hits) := free _ rfl trivial
theorem fetchToken (g : Fin 32) (c : Fin 64) : Statement (.fetchToken g c) := free _ rfl trivial
theorem bobbin (c : Fin 64) : Statement (.bobbin c) := free _ rfl trivial
theorem bobbinComplete (c : Fin 64) : Statement (.bobbinComplete c) := free _ rfl trivial
theorem inPlaceResume (c : Fin 64) (eng : Fin 7) : Statement (.inPlaceResume c eng) := free _ rfl trivial
theorem timeSlice : Statement .timeSlice := free _ rfl trivial
theorem fullSaveComplete (c : Fin 64) : Statement (.fullSaveComplete c) := free _ rfl trivial
theorem fullRestore (c : Fin 64) : Statement (.fullRestore c) := free _ rfl trivial
theorem regulatorRelease (p : Fin 32) (r : Fin 6) : Statement (.regulatorRelease p r) := free _ rfl trivial
theorem lcPinWrite (p : Fin 32) (n : Fin 4) (v : BitVec 64) : Statement (.lcPinWrite p n v) := free _ rfl trivial
theorem acctSnapshotGo (p : Fin 32) : Statement (.acctSnapshotGo p) := free _ rfl trivial
theorem dbSqTailWrite (p : Fin 32) (r : Fin 4) (v : BitVec 32) : Statement (.dbSqTailWrite p r v) := free _ rfl trivial
theorem dbCqHeadWrite (p : Fin 32) (r : Fin 4) (v : BitVec 32) : Statement (.dbCqHeadWrite p r v) := free _ rfl trivial
theorem hello (p : Fin 32) (v : BitVec 64) : Statement (.hello p v) := free _ rfl trivial
theorem entryFetch (p : Fin 32) (r : Fin 4) : Statement (.entryFetch p r) := free _ rfl trivial
theorem cqIrqTimer (p : Fin 32) (r : Fin 4) : Statement (.cqIrqTimer p r) := free _ rfl trivial
theorem runTask (job : BitVec 32) : Statement (.runTask job) := free _ rfl trivial
theorem searchJob (job : BitVec 32) : Statement (.searchJob job) := free _ rfl trivial
theorem insertJob (job : BitVec 32) : Statement (.insertJob job) := free _ rfl trivial
theorem deleteJob (job : BitVec 32) : Statement (.deleteJob job) := free _ rfl trivial
theorem createIx (job : BitVec 32) : Statement (.createIx job) := free _ rfl trivial
theorem openIx (job : BitVec 32) : Statement (.openIx job) := free _ rfl trivial
theorem mergeIx (job : BitVec 32) : Statement (.mergeIx job) := free _ rfl trivial
theorem mergePublish (job : BitVec 32) (bad : List (BitVec 21)) : Statement (.mergePublish job bad) := free _ rfl trivial
theorem dropIx (job : BitVec 32) : Statement (.dropIx job) := free _ rfl trivial
theorem statIx (job : BitVec 32) : Statement (.statIx job) := free _ rfl trivial
theorem ingestBind (job : BitVec 32) : Statement (.ingestBind job) := free _ rfl trivial
theorem unbind (job : BitVec 32) : Statement (.unbind job) := free _ rfl trivial
theorem weftFence (job : BitVec 32) : Statement (.weftFence job) := free _ rfl trivial
theorem checkpoint (job : BitVec 32) (last : BitVec 64) : Statement (.checkpoint job last) := free _ rfl trivial
theorem checkpointPagesWritten (job : BitVec 32) : Statement (.checkpointPagesWritten job) := free _ rfl trivial
theorem restore (job : BitVec 32) (last : BitVec 64) : Statement (.restore job last) := free _ rfl trivial
theorem queryAccounts (job : BitVec 32) : Statement (.queryAccounts job) := free _ rfl trivial
theorem loadImage (job : BitVec 32) : Statement (.loadImage job) := free _ rfl trivial
theorem imageUnload (job : BitVec 32) : Statement (.imageUnload job) := free _ rfl trivial
theorem loadDrainEnd (h : Option HostErr) : Statement (.loadDrainEnd h) := free _ rfl trivial
theorem loadCopyDone (h : Option HostErr) : Statement (.loadCopyDone h) := free _ rfl trivial
theorem csrRead (r : Route) : Statement (.csrRead r) := free _ rfl trivial
theorem csrWrite (r : Route) : Statement (.csrWrite r) := free _ rfl trivial
theorem warpStage (r : Route) : Statement (.warpStage r) := free _ rfl trivial
theorem warpCommit (r : Route) : Statement (.warpCommit r) := free _ rfl trivial
theorem warpStructReset (r : Route) : Statement (.warpStructReset r) := free _ rfl trivial
theorem warpDiscard (r : Route) : Statement (.warpDiscard r) := free _ rfl trivial
theorem cancelJob (job : BitVec 32) : Statement (.cancelJob job) := free _ rfl trivial
theorem scanEnable (p : Fin 32) (v : BitVec 32) : Statement (.scanEnable p v) := free _ rfl trivial
theorem scan (p : Fin 32) : Statement (.scan p) := free _ rfl trivial
theorem fetchRecords (p : Fin 32) : Statement (.fetchRecords p) := free _ rfl trivial
theorem scanInsert (p : Fin 32) : Statement (.scanInsert p) := free _ rfl trivial
theorem scanDelete (p : Fin 32) : Statement (.scanDelete p) := free _ rfl trivial
theorem batchPlace (lc : Bool) : Statement (.batchPlace lc) := free _ rfl trivial
theorem extentDescriptor (ch : Fin 64) : Statement (.extentDescriptor ch) := free _ rfl trivial
theorem entryPageRead (ch : Fin 64) (ue : Option (BitVec 32)) : Statement (.entryPageRead ch ue) := free _ rfl trivial
theorem engineReport (ch : Fin 64) : Statement (.engineReport ch) := free _ rfl trivial
theorem nvmeWrite (q : BitVec 16) (cmd : NvmeCmd) : Statement (.nvmeWrite q cmd) := free _ rfl trivial
theorem nvmeRead (q : BitVec 16) (cmd : NvmeCmd) : Statement (.nvmeRead q cmd) := free _ rfl trivial
theorem nvmeFlush (q : BitVec 16) (cmd : NvmeCmd) : Statement (.nvmeFlush q cmd) := free _ rfl trivial
theorem writeZeroes (q : BitVec 16) (cmd : NvmeCmd) : Statement (.writeZeroes q cmd) := free _ rfl trivial
theorem datasetManagement (q : BitVec 16) (cmd : NvmeCmd) : Statement (.datasetManagement q cmd) := free _ rfl trivial
theorem orderedWrite (q : BitVec 16) (cmd : NvmeCmd) : Statement (.orderedWrite q cmd) := free _ rfl trivial
theorem orderedRead (q : BitVec 16) (cmd : NvmeCmd) : Statement (.orderedRead q cmd) := free _ rfl trivial
theorem createIoSq (cmd : NvmeCmd) : Statement (.createIoSq cmd) := free _ rfl trivial
theorem createIoCq (cmd : NvmeCmd) : Statement (.createIoCq cmd) := free _ rfl trivial
theorem deleteIoSq (cmd : NvmeCmd) : Statement (.deleteIoSq cmd) := free _ rfl trivial
theorem deleteIoCq (cmd : NvmeCmd) : Statement (.deleteIoCq cmd) := free _ rfl trivial
theorem getLogPage (cmd : NvmeCmd) : Statement (.getLogPage cmd) := free _ rfl trivial
theorem identify (cmd : NvmeCmd) : Statement (.identify cmd) := free _ rfl trivial
theorem nvmeAbort (cmd : NvmeCmd) : Statement (.nvmeAbort cmd) := free _ rfl trivial
theorem setFeatures (cmd : NvmeCmd) : Statement (.setFeatures cmd) := free _ rfl trivial
theorem getFeatures (cmd : NvmeCmd) : Statement (.getFeatures cmd) := free _ rfl trivial
theorem asyncEventRequest (cmd : NvmeCmd) : Statement (.asyncEventRequest cmd) := free _ rfl trivial
theorem firmwareImageDownload (cmd : NvmeCmd) : Statement (.firmwareImageDownload cmd) := free _ rfl trivial
theorem firmwareCommit (cmd : NvmeCmd) : Statement (.firmwareCommit cmd) := free _ rfl trivial
theorem formatNvm (cmd : NvmeCmd) : Statement (.formatNvm cmd) := free _ rfl trivial
theorem controllerEnable (cc : BitVec 32) : Statement (.controllerEnable cc) := free _ rfl trivial
theorem shutdown (cc : BitVec 32) : Statement (.shutdown cc) := free _ rfl trivial
theorem powerStateTransitionDone : Statement .powerStateTransitionDone := free _ rfl trivial
theorem flrPf0 : Statement .flrPf0 := free _ rfl trivial
theorem flrPf1 : Statement .flrPf1 := free _ rfl trivial
theorem hotReset : Statement .hotReset := free _ rfl trivial
theorem wordlineGatherExpiry (ch : Fin 64) : Statement (.wordlineGatherExpiry ch) := free _ rfl trivial
theorem nandProgramComplete (ch : Fin 64) (ok : Bool) : Statement (.nandProgramComplete ch ok) := free _ rfl trivial
theorem eraseComplete (block : BitVec 21) (ok : Bool) : Statement (.eraseComplete block ok) := free _ rfl trivial
theorem nandPageRead (unit : BitVec 36) (res : ReadLadder) : Statement (.nandPageRead unit res) := free _ rfl trivial
theorem fold (die : Fin 8) (bad : List (BitVec 21)) : Statement (.fold die bad) := free _ rfl trivial
theorem garbageCollection (die : Fin 8) (bad : List (BitVec 21)) : Statement (.garbageCollection die bad) := free _ rfl trivial
theorem refresh (block : BitVec 21) (bad : List (BitVec 21)) : Statement (.refresh block bad) := free _ rfl trivial
theorem journalFlush (die : Fin 8) : Statement (.journalFlush die) := free _ rfl trivial
theorem poolSnapshotGo : Statement .poolSnapshotGo := free _ rfl trivial
theorem linkTraining (l : Fin 48) (ok : Bool) : Statement (.linkTraining l ok) := free _ rfl trivial
theorem linkTrainingRetry (l : Fin 48) (ok : Bool) : Statement (.linkTrainingRetry l ok) := free _ rfl trivial
theorem identityExchange (l : Fin 48) (id : LinkIdent) : Statement (.identityExchange l id) := free _ rfl trivial
theorem linkReplay (l : Fin 48) (fec : BitVec 16) (fail : Option Bool) : Statement (.linkReplay l fec fail) := free _ rfl trivial
theorem laneLockLoss (l : Fin 48) : Statement (.laneLockLoss l) := free _ rfl trivial
theorem linkDownRetrain (l : Fin 48) (ok : Bool) : Statement (.linkDownRetrain l ok) := free _ rfl trivial
theorem reachabilityMessage (m : ReachMsg) : Statement (.reachabilityMessage m) := free _ rfl trivial
theorem remoteRequest (r : RemReq) : Statement (.remoteRequest r) := free _ rfl trivial
theorem remoteRefusal (agent : BitVec 16) : Statement (.remoteRefusal agent) := free _ rfl trivial
theorem jobAbortMessage (l : Fin 48) (key : BitVec 64) : Statement (.jobAbortMessage l key) := free _ rfl trivial
theorem collEnable (p : Fin 32) (v : BitVec 32) : Statement (.collEnable p v) := free _ rfl trivial
theorem allreduce (p : Fin 32) (others : List (Nat × List (BitVec 8))) : Statement (.allreduce p others) := free _ rfl trivial
theorem broadcast (p : Fin 32) (others : List (Nat × List (BitVec 8))) : Statement (.broadcast p others) := free _ rfl trivial
theorem barrier (p : Fin 32) (others : List (Nat × List (BitVec 8))) : Statement (.barrier p others) := free _ rfl trivial
theorem prepared (mod : Fin 2048) (key : BitVec 64) (id : BitVec 64) : Statement (.prepared mod key id) := free _ rfl trivial
theorem checkpointCommit (key : BitVec 64) (id : BitVec 64) : Statement (.checkpointCommit key id) := free _ rfl trivial
theorem checkpointAbort (key : BitVec 64) (id : BitVec 64) (status : BitVec 8) : Statement (.checkpointAbort key id status) := free _ rfl trivial
theorem mgmtStatus (r : Route) : Statement (.mgmtStatus r) := free _ rfl trivial
theorem sensorRead (r : Route) : Statement (.sensorRead r) := free _ rfl trivial
theorem logRead (r : Route) : Statement (.logRead r) := free _ rfl trivial
theorem fwDownload (r : Route) : Statement (.fwDownload r) := free _ rfl trivial
theorem fwCommit (r : Route) : Statement (.fwCommit r) := free _ rfl trivial
theorem overrideUntested (r : Route) : Statement (.overrideUntested r) := free _ rfl trivial
theorem raiseSecver (r : Route) : Statement (.raiseSecver r) := free _ rfl trivial
theorem cryptoErase (r : Route) : Statement (.cryptoErase r) := free _ rfl trivial
theorem mgmtReset (r : Route) : Statement (.mgmtReset r) := free _ rfl trivial
theorem debugReopen (r : Route) : Statement (.debugReopen r) := free _ rfl trivial
theorem norOpComplete (bank : Fin 3) (ok : Bool) : Statement (.norOpComplete bank ok) := free _ rfl trivial
theorem norDailyScan (finds : List NorFind) : Statement (.norDailyScan finds) := free _ rfl trivial
theorem logEntryProgram : Statement .logEntryProgram := free _ rfl trivial
theorem logArchivePage (ok : Bool) : Statement (.logArchivePage ok) := free _ rfl trivial
theorem fieldRingEnable (p : Fin 32) (v : BitVec 32) : Statement (.fieldRingEnable p v) := free _ rfl trivial
theorem slotWrite (p : Fin 32) : Statement (.slotWrite p) := free _ rfl trivial
theorem doWrite (p : Fin 32) : Statement (.doWrite p) := free _ rfl trivial
theorem wdog (p : Fin 32) : Statement (.wdog p) := free _ rfl trivial
theorem fieldWatchdogExpiry (p : Fin 32) : Statement (.fieldWatchdogExpiry p) := free _ rfl trivial
theorem fieldSupplyLoss : Statement .fieldSupplyLoss := free _ rfl trivial
theorem fieldSupplyRestore : Statement .fieldSupplyRestore := free _ rfl trivial
theorem doOverload (n : Fin 8) : Statement (.doOverload n) := free _ rfl trivial
theorem doFaultClear (mask : BitVec 8) : Statement (.doFaultClear mask) := free _ rfl trivial
theorem doClear (r : Route) : Statement (.doClear r) := free _ rfl trivial
theorem diChange (n : Fin 8) (level : Bool) : Statement (.diChange n level) := free _ rfl trivial
theorem inhChannelChange (n : Fin 2) (chB : Bool) (released : Bool) : Statement (.inhChannelChange n chB released) := free _ rfl trivial
theorem inhDisagreeExpiry (n : Fin 2) : Statement (.inhDisagreeExpiry n) := free _ rfl trivial
theorem inhAgreeExpiry (n : Fin 2) : Statement (.inhAgreeExpiry n) := free _ rfl trivial
theorem inhAck (r : Route) : Statement (.inhAck r) := free _ rfl trivial
theorem fieldInhAck (n : Fin 2) : Statement (.fieldInhAck n) := free _ rfl trivial
theorem buttonRelease (holdMs : BitVec 30) : Statement (.buttonRelease holdMs) := free _ rfl trivial
theorem buttonStuck : Statement .buttonStuck := free _ rfl trivial
theorem buttonUnstick : Statement .buttonUnstick := free _ rfl trivial
theorem fieldFrameRx (port : Fin 2) (f : List (BitVec 8)) (fcsOk : Bool) : Statement (.fieldFrameRx port f fcsOk) := free _ rfl trivial
theorem cyclicRequest (port : Fin 2) : Statement (.cyclicRequest port) := free _ rfl trivial
theorem cyclicReplyTransmit (port : Fin 2) (late : Bool) : Statement (.cyclicReplyTransmit port late) := free _ rfl trivial
theorem qbvListActivate (port : Fin 2) : Statement (.qbvListActivate port) := free _ rfl trivial
theorem ptpMessage (m : PtpMeas) : Statement (.ptpMessage m) := free _ rfl trivial
theorem ptpHoldover : Statement .ptpHoldover := free _ rfl trivial
theorem ppsInEdge : Statement .ppsInEdge := free _ rfl trivial
theorem timeApplyNow : Statement .timeApplyNow := free _ rfl trivial
theorem timeApplyAtSecond : Statement .timeApplyAtSecond := free _ rfl trivial
theorem secondBoundaryApply : Statement .secondBoundaryApply := free _ rfl trivial
theorem timeNowLowRead (iface : Fin 36) : Statement (.timeNowLowRead iface) := free _ rfl trivial
theorem fieldStatus (r : Route) : Statement (.fieldStatus r) := free _ rfl trivial
theorem portCfg (r : Route) : Statement (.portCfg r) := free _ rfl trivial
theorem qbvSet (r : Route) : Statement (.qbvSet r) := free _ rfl trivial
theorem timeSetapply (r : Route) : Statement (.timeSetapply r) := free _ rfl trivial
theorem timeCfg (r : Route) : Statement (.timeCfg r) := free _ rfl trivial
theorem chainStatus (r : Route) : Statement (.chainStatus r) := free _ rfl trivial
theorem enumFrame (down : Bool) (f : ChainFrame) : Statement (.enumFrame down f) := by
  simp [Statement, Bounds, Instr.wf, ChainFrame.wf]
theorem chainCmd (down : Bool) (f : ChainFrame) : Statement (.chainCmd down f) := by
  simp [Statement, Bounds, Instr.wf, ChainFrame.wf]
theorem chainPortUp (down : Bool) : Statement (.chainPortUp down) := free _ rfl trivial
theorem chainPortDown (down : Bool) : Statement (.chainPortDown down) := free _ rfl trivial
theorem wonFlagExpiry : Statement .wonFlagExpiry := free _ rfl trivial
theorem buttonPress : Statement .buttonPress := free _ rfl trivial
theorem xclkReturn : Statement .xclkReturn := free _ rfl trivial
theorem pcieLinkTraining (res : Option PcieRes) : Statement (.pcieLinkTraining res) := free _ rfl trivial
theorem fieldPortLink (port : Fin 2) (up : Bool) : Statement (.fieldPortLink port up) := free _ rfl trivial
theorem chainFrameForward (down : Bool) (f : ChainFrame) : Statement (.chainFrameForward down f) := by
  simp [Statement, Bounds, Instr.wf, ChainFrame.wf]
theorem lastCommittedQuery (mod : Fin 2048) (key : BitVec 64) : Statement (.lastCommittedQuery mod key) := free _ rfl trivial
theorem randomSourceHealthFailure (pass : Bool) : Statement (.randomSourceHealthFailure pass) := free _ rfl trivial

end Sys2Proof.Laws.OperandBounds
end

