-- ==== Sys2Proof/Laws/Thread.lean ====
section
/-! SUPPORT. Thread instructions: what starting one leaves, and what completing one does. -/

namespace Sys2Proof.Machine

/-- The thread whose turn it is may be picked, and no latency-critical thread may be when it is a best-effort one (R72). -/
theorem CoreSt.turn_spec {k : CoreSt} {t : Nat} (h : k.turn = some t) :
    k.mayPick t = true ∧ ((k.thr t).lc = false → ∀ u, u < 32 → k.mayPick u = true → (k.thr u).lc = false) := by
  have next : ∀ {lc : Bool} {v : Nat}, k.nextOf lc = some v → (k.thr v).lc = lc ∧ k.mayPick v = true := by
    intro lc v hv
    have := List.find?_some hv
    simpa only [Bool.and_eq_true, beq_iff_eq] using this
  unfold CoreSt.turn at h
  cases hl : k.nextOf true with
  | some v =>
    rw [hl] at h; cases h
    exact ⟨(next hl).2, fun hf => by rw [(next hl).1] at hf; cases hf⟩
  | none =>
    rw [hl] at h
    refine ⟨(next h).2, fun _ u hu hm => ?_⟩
    unfold CoreSt.nextOf at hl
    rw [List.find?_eq_none] at hl
    have hmem : u ∈ (List.range 32).map fun n => ((if true = true then k.rrLc else k.rrBe) + 1 + n) % 32 := by
      rw [List.mem_map]
      refine ⟨(u + 32 - (k.rrLc + 1) % 32) % 32, List.mem_range.2 (Nat.mod_lt _ (by omega)), ?_⟩
      simp only [if_true]
      omega
    have := hl u hmem
    rw [hm] at this
    simpa using this

/-- A started instruction of the command's row runs on the state in which the issue stage picked its thread. -/
theorem issueInstr_of_starts {s : State} {c t : Nat} {i : TInstr} (h : Starts s c t i) (mine : TInstr → Bool)
    (run : TInstr → State → State) (hm : mine i = true) :
    s.issueInstr c t mine run = run i (s.modCore c fun k => k.picked t) := by
  obtain ⟨⟨h1, h2, w, hw, hi⟩, h5, h6⟩ := h
  have hne : ¬ ((s.coreOwner c).isNone = true ∨ (s.core c).turn ≠ some t) := by
    rintro (h | h)
    · rw [Option.isNone_iff_eq_none] at h; rw [h] at h1; cases h1
    · exact h h2
  unfold State.issueInstr
  simp only [if_neg hne, hw, hi, hm, h5, h6, Bool.not_true, Bool.and_false, Bool.false_eq_true, if_false]

/-- The picked thread is as it was but for its yield mask, and so is every other thread. -/
theorem picked_thr (k : CoreSt) (t v : Nat) :
    (k.picked t).thr v = { k.thr v with yieldMask := ((k.picked t).thr v).yieldMask } := by
  have key : ∀ (l : Tab Thread) (g : Thread → BitVec 32),
      tget (l.map fun (e : Nat × Thread) => (e.1, { e.2 with yieldMask := g e.2 })) v {} =
        { tget l v {} with yieldMask := (tget (l.map fun (e : Nat × Thread) => (e.1, { e.2 with yieldMask := g e.2 })) v {}).yieldMask } := by
    intro l g
    unfold tget
    rw [tfind_mapVal l (fun (e : Nat × Thread) => { e.2 with yieldMask := g e.2 })]
    cases tfind l v <;> rfl
  unfold CoreSt.picked CoreSt.thr
  simp only
  split
  · exact key k.threads fun th => th.yieldMask &&& ~~~(BitVec.ofNat 32 (2 ^ t))
  · exact key k.threads fun th => th.yieldMask &&& ~~~(BitVec.ofNat 32 (2 ^ t))

theorem picked_core (k : CoreSt) (t : Nat) :
    k.picked t = { k with threads := (k.picked t).threads, rrLc := (k.picked t).rrLc, rrBe := (k.picked t).rrBe } := by
  unfold CoreSt.picked
  simp only
  split <;> rfl

/-- A change of the picked thread alone. -/
theorem onlyThread_of (s : State) (c t : Nat) (f : Thread → Thread) :
    OnlyThread s ((s.modCore c fun k => k.picked t).modThr c t f) c t := by
  refine ⟨fun a => rfl, rfl, ?_, ?_, ?_⟩
  · intro d hd
    simp only [State.modThr]
    rw [State.core_modCore_ne _ _ hd, State.core_modCore_ne _ _ hd]
  · simp only [State.modThr, State.core_modCore_self, CoreSt.modThr]
    rw [picked_core]
  · intro v hv
    simp only [State.thr, State.modThr, State.core_modCore_self]
    rw [CoreSt.thr_modThr_ne _ _ hv]
    exact picked_thr _ _ _

theorem thr_picked (s : State) (c t v : Nat) :
    (s.modCore c fun k => k.picked t).thr c v =
      { s.thr c v with yieldMask := ((s.modCore c fun k => k.picked t).thr c v).yieldMask } := by
  simp only [State.thr, State.core_modCore_self]
  exact picked_thr _ _ _

/-- Reading a register after writing one (R71). -/
theorem Thread.g_setG (th : Thread) (r q : Nat) (v : BitVec 64) :
    (th.setG r v).g q = if q = r ∧ q ≠ 0 then v else th.g q := by
  unfold Thread.setG Thread.g
  by_cases hq : q = 0
  · subst hq; simp
  · by_cases hr : r = 0
    · subst hr; simp [hq]
    · simp only [hr, hq, if_false, tget_tset, ne_eq, not_false_eq_true, and_true]

/-- An instruction that writes `v` to `rd` and sets PC. -/
theorem advances_of (s : State) (c t rd : Nat) (v : BitVec 64) (pc : BitVec 48) (f : Thread → Thread)
    (hf : ∀ m, f { s.thr c t with yieldMask := m } =
      { ({ s.thr c t with yieldMask := m } : Thread).setG rd v with st := tReady, pc := pc, pend := .none }) :
    Advances s ((s.modCore c fun k => k.picked t).modThr c t f) c t rd v pc := by
  refine ⟨?_, ?_, onlyThread_of s c t f⟩
  · intro r
    rw [State.thr_modThr_self, thr_picked, hf]
    exact Thread.g_setG _ rd r v
  · rw [State.thr_modThr_self, thr_picked, hf]
    simp only [Thread.setG]
    split <;> rfl

end Sys2Proof.Machine
end

