-- ==== Sys2Proof/Tests/Slice0.lean ====
section
/-! SUPPORT. Tests: ill-formed commands are refused, and every statement's hypotheses are met by a concrete state. -/

namespace Sys2Proof.Tests
open Sys2Proof Sys2Proof.Machine

-- One theorem after another: each kernel evaluation has the memory to itself.
set_option Elab.async false

/-! Well-formedness. -/

/-- R41: nine data flits are too many. -/
theorem test_wf_packet : (Instr.fabricPacket { data := List.replicate 9 0 }).wf = false := by decide
/-- R41: eight data flits can occur. -/
theorem test_wf_packet_eight : (Instr.fabricPacket { data := List.replicate 8 0 }).wf = true := by decide
/-- R9: a 64-bit access lies on 8 bytes. -/
theorem test_wf_data : (Instr.registerWrite { off := 4, size := 4, data := 0x100000000 }).wf = false := by decide
theorem test_wf_size : (Instr.registerWrite { off := 4, size := 0 }).wf = false := by decide
/-- R9: a 32-bit access carries 32 bits. -/
theorem test_wf_narrow : (Instr.registerWrite { off := 4, data := 0x100000000 }).wf = false := by decide
/-- R452: 4,113 payload bytes are too many. -/
theorem test_wf_frame (d : Bool) : (Instr.chainCmd d { payload := List.replicate 4113 0 }).wf = false := by
  show decide ((List.replicate 4113 (0 : BitVec 8)).length ≤ 4112) = false
  rw [List.length_replicate]; rfl
theorem test_wf_enum (d : Bool) : (Instr.enumFrame d { payload := List.replicate 4113 0 }).wf = false := by
  show decide ((List.replicate 4113 (0 : BitVec 8)).length ≤ 4112) = false
  rw [List.length_replicate]; rfl
theorem test_wf_forward (d : Bool) : (Instr.chainFrameForward d { payload := List.replicate 4113 0 }).wf = false := by
  show decide ((List.replicate 4113 (0 : BitVec 8)).length ≤ 4112) = false
  rw [List.length_replicate]; rfl

/-! Helpers. -/

/-- The machine after reset with the 54 V domain up. -/
def on : State := State.reset.modPwr fun p => { p with domainUp := true, standby := true }

/-- A task instruction word (R75). -/
def word (op rd ra rb fn imm : Nat) : Nat :=
  op * 2 ^ 56 + rd * 2 ^ 51 + ra * 2 ^ 46 + rb * 2 ^ 41 + fn * 2 ^ 32 + imm

/-- The word of an instruction in its fields. -/
def enc (i : TInstr) : Nat := word i.op i.rd i.ra i.rb i.fn i.imm

/-- Partition 0 with core 0, eight sync objects, and a window on the stacks, which agents 0, 32 and 64 reach at VA = PA. -/
def rig : State :=
  ((on.modPtn 0 fun q => { q with
    live := true, ptEn := true, cores := 1, syncCount := 8, lcLimit := 1, lcPermit := true, bePermit := true, modelUser := true, ringCount := 1, depthLog2 := 4
    windows := [{ pa := 0, len := 2 ^ 36, tier := 0, r := true, w := true }] }).modXl fun x => { x with
    leaves := ([0, 64, 0x1000, 0x11F0, 0x11F1, 0x11F2, 0x11F3] : List Nat).map fun a => { agent := a, r := true, w := true, x := true } }).modPwr
    fun p => { p with stackOk := 0xFF#8, mhOk := 3, hubOk := true, hioOk := true, fcOk := 0xFF#8, lkOk := 7, ctOk := 0xFFFF#16, isolated := false, in54 := true }

/-- The bytes `bs` from address 0. -/
def put (s : State) (bs : List Byte) : State := s.setMem (memWrite [] 0 bs)

/-- As rig, with one READY thread of core 0 at PC 0 whose next word is `w`, and registers `regs`. -/
def run (w : Nat) (regs : Tab (BitVec 64)) : State :=
  rig.modCore 0 fun k => { k with threads := [(0, { st := tReady, regs := regs })], icache := [(0, BitVec.ofNat 512 w)] }

/-- A READY thread picked, as one decision. -/
def picksOk (s : State) (i : TInstr) : Bool :=
  (s.coreOwner 0).isSome && (s.core 0).turn == some 0 && (s.fetchWord 0 0).map tdecode == some i
theorem picks {s : State} {i : TInstr} (h : picksOk s i = true) : Picks s 0 0 i := by
  simp only [picksOk, Bool.and_eq_true, beq_iff_eq] at h
  obtain ⟨⟨h1, h2⟩, h3⟩ := h
  cases hw : s.fetchWord 0 0 with
  | none => rw [hw] at h3; cases h3
  | some w => rw [hw] at h3; exact ⟨h1, h2, w, hw, Option.some.inj h3⟩
theorem starts {s : State} {i : TInstr} (h : (picksOk s i && !opIllegal i && !opRsv i) = true) : Starts s 0 0 i := by
  simp only [Bool.and_eq_true, Bool.not_eq_true'] at h
  exact ⟨picks h.1.1, h.1.2, h.2⟩
theorem pair {α β : Type} {x : α × β} {a : α} (h : x.1 = a) : x = (a, x.2) := by cases x; cases h; rfl

/-! Witnesses. -/

theorem test_AluWritesFunction : ∀ i, i ∈ ([{ op := 1, rd := 1, ra := 2, rb := 3, fn := 15, imm := 7 },
    { op := 1, rd := 0, ra := 2, rb := 3, fn := 16, imm := 7 }] : List TInstr) → Picks (run (enc i) []) 0 0 i :=
  fun i hi => picks ((by decide +kernel : ∀ i, i ∈ ([{ op := 1, rd := 1, ra := 2, rb := 3, fn := 15, imm := 7 },
    { op := 1, rd := 0, ra := 2, rb := 3, fn := 16, imm := 7 }] : List TInstr) → picksOk (run (enc i) []) i = true) i hi)

/-- The forms of R76 that start: LUI, SPR, JAL, JALR, BR, YIELD, FENCE, FENCE ENGINES, LD, ST, AMO, ISSUE, SIGNAL, WAIT, SETC, SETT,
SREAD, TASK_POST, EXIT, TRAP. -/
def forms : List TInstr :=
  [{ op := 0x02, rd := 1, imm := 1 }, { op := 0x18, rd := 1, imm := 8 }, { op := 0x11, rd := 1, imm := 0xFFFFFFF8 },
   { op := 0x12, rd := 1, imm := 8 }, { op := 0x10, fn := 6, imm := 1 }, { op := 0x14 }, { op := 0x3C, fn := 1 }, { op := 0x3C, fn := 4 },
   { op := 0x08, rd := 1, fn := 7 }, { op := 0x09, rb := 1, fn := 3 }, { op := 0x0A, rd := 1, rb := 1, fn := 2 }, { op := 0x20, fn := 6, rd := 1 },
   { op := 0x30, imm := 7 }, { op := 0x31, rd := 1, fn := 1 }, { op := 0x32 }, { op := 0x33, fn := 10 }, { op := 0x34, rd := 1, fn := 1 },
   { op := 0x30, imm := 8 }, { op := 0x38, rd := 1 }, { op := 0x13, imm := 0xFFFF }, { op := 0x15, imm := 1 }]
theorem forms_start : ∀ i, i ∈ forms → Starts (run (enc i) []) 0 0 i :=
  fun i hi => starts ((by decide +kernel : ∀ i, i ∈ forms → (picksOk (run (enc i) []) i && !opIllegal i && !opRsv i) = true) i hi)

theorem test_JumpsConstantsAndFences : (∀ i, i ∈ forms → Starts (run (enc i) []) 0 0 i) ∧
    ∀ w, (run w []).coreOwner 0 = some 0 ∧ ((run w []).thr 0 0).remoteW = 0 ∧ ((run w []).thr 0 0).remoteBad = false ∧
      ((run w []).thr 0 0).remoteGone = false ∧ ((run w []).thr 0 0).outst = 0 :=
  ⟨forms_start, fun _ => ⟨(by decide +kernel : rig.coreOwner 0 = some 0), rfl, rfl, rfl, rfl⟩⟩

/-- As run, with the line of address 0 in the L1 of core 0, in state M. -/
def hit (i : TInstr) : State := (run (enc i) []).modCore 0 fun k => { k with l1 := [(0, { st := .M })] }

theorem test_LoadsAndStores :
    (∀ i, i ∈ ([{ op := 0x08, rd := 1, fn := 7 }, { op := 0x09, rb := 1, fn := 3 }, { op := 0x0A, rd := 1, rb := 1, fn := 2 },
        { op := 0x0A, rd := 1, rb := 1, fn := 1 }, { op := 0x0A, rd := 1, rb := 1, fn := 0 }] : List TInstr) →
      picksOk (hit i) i = true ∧ opIllegal i = false ∧ opRsv i = false ∧
      (((hit i).modCore 0 fun k => k.picked 0).translate ((hit i).partOf 0) 0 0 { accNeed i with lc := ((hit i).thr 0 0).lc } false).1 = .ok 0 0 ∧
      (((hit i).modCore 0 fun k => k.picked 0).translate ((hit i).partOf 0) 0 0 { accNeed i with lc := ((hit i).thr 0 0).lc } false).2.l1Line 0 0 = some { st := .M }) ∧
    paCoherent 0 = true ∧
    (let s := ((hit { op := 0x08 }).modThr 0 0 fun th => { th with pend := .access 0, insn := { op := 0x08 } }).memHits []
     (s.thr 0 0).pend = .access 0 ∧ (s.thr 0 0).insn.op = 0x08 ∧ s.l1Line 0 0 = some { st := .M }) ∧
    (let s := ((run 0 []).modThr 0 0 fun th => { th with pend := .fetch 0 (some (0, false)) }).memHits [{ ue := true }]
     (s.thr 0 0).pend = .fetch 0 (some (0, false))) := by decide +kernel

theorem test_IssueQueuesDescriptor :
    let s := run (enc { op := 0x20, fn := 6, rd := 1 }) [(1, BitVec.ofNat 64 (2 ^ 16 + 7))]
    (picksOk s { op := 0x20, fn := 6, rd := 1 } && !opIllegal { op := 0x20, fn := 6, rd := 1 } && !opRsv { op := 0x20, fn := 6, rd := 1 }) = true ∧
    ((s.thr 0 0).g 1).toNat % 2 ^ 13 < (s.ptn (s.partOf 0)).syncCount ∧ (s.thr 0 0).remoteW = 0 := by decide +kernel

theorem test_DirectoryServesRequests :
    let at_ := fun (m : CohMsg) (st : DirSt) => rig.setDir { entries := [(0, { st := st })], msgs := [m] }
    (∀ m st, (at_ m st).busyLines < 512 ∧ ((at_ m st).dirEnt 0).st = st ∧ ((at_ m st).dirEnt 0).busy = none) ∧
    (∀ st, st ∈ ([.inv, .shared 1, .shared 2, .excl 1] : List DirSt) → (at_ (.req .rdS 0 0) st).setFull 0 = false) ∧
    (at_ (.req .rdS 0 0) .inv).inFly (.req .rdS 0 0) = true ∧ (at_ (.req .rdX 0 0) (.shared 2)).inFly (.req .rdX 0 0) = true ∧
    (at_ (.req .upgr 0 0) (.shared 1)).inFly (.req .upgr 0 0) = true ∧ threadAgent 32 = false ∧ threadAgent 0x1000 = false ∧
    (∀ k, k ∈ ([.rdS, .rdX, .upgr, .rdU, .wrU 1 0] : List DirReqKind) → let s := at_ (.req k 0 0) (.shared 1)
      s.heldAt (s.reqPtn { kind := k, src := 0 }) 0 (s.reqLc { kind := k, src := 0 } 0) = none) ∧
    (let s := (rig.setDir { msgs := [.req .rdU 0 0] }).modXl fun x => { x with poison := [(0, ())] }; s.inFly (.req .rdU 0 0) = true ∧ s.poisoned 0 = true ∧ s.newer 0 = none ∧ paRange 0 = .stack) :=
  ⟨fun _ _ => ⟨(by decide +kernel : (rig.setDir {}).busyLines < 512), rfl, rfl⟩, by decide +kernel, by decide +kernel, by decide +kernel, by decide +kernel, by decide, by decide, by decide +kernel, by decide +kernel⟩

theorem test_CoreAnswersSnoop : ∀ m, m ∈ ([.snpInv 0 0, .snpOwn 0 0, .snpShare 0 0] : List CohMsg) →
    (rig.setDir { msgs := [m] }).inFly m = true := by decide +kernel

theorem test_DirectoryTakesAnswers :
    let busy := fun (b : DirBusy) (m : CohMsg) => rig.setDir { entries := [(0, { busy := some b })], msgs := [m] }
    (∀ b m, ((busy b m).dirEnt 0).busy = some b) ∧
    (busy { waiting := 3 } (.ack 0 0)).inFly (.ack 0 0) = true ∧
    (busy { waiting := 1, req := { kind := .rdX } } (.ackData 0 0 5)).ackDataOf 0 0 = some 5 ∧
    (busy { waiting := 3, evictSeen := 1 } (.gone 0 0)).inFly (.gone 0 0) = true ∧
    (busy { granted := true } (.comp 0 0)).inFly (.comp 0 0) = true ∧
    (∀ st, st ∈ ([.M, .E] : List L1State) →
      let s := (rig.modCore 0 fun k => { k with l1 := [(0, { st := st })] }).setDir { entries := [(0, { st := .excl 0 })] }
      s.l1Line 0 0 = some { st := st } ∧ s.inFly (.evictAck 0 0) = false ∧ (s.dirEnt 0).busy = none ∧ (s.dirEnt 0).st = .excl 0 ∧
        s.heldAt ((s.coreOwner 0).getD 32) 0 (s.core 0).holdsLc = none) :=
  ⟨fun _ _ => rfl, by decide +kernel, by decide +kernel, by decide +kernel, by decide +kernel, by decide +kernel⟩

theorem test_FillsReachTheirAgent :
    (rig.setDir { msgs := [.dataS 0 0 5 false] }).fillOf 0 0 .S = some (.dataS 0 0 5 false, 5, false) ∧
    (rig.setDir { msgs := [.dataE 0 0 5 false] }).fillOf 0 0 .E = some (.dataE 0 0 5 false, 5, false) ∧
    (rig.setDir { msgs := [.dataX 0 0 5 false] }).fillOf 0 0 .M = some (.dataX 0 0 5 false, 5, false) ∧
    (let s := (rig.modCore 0 fun k => { k with l1 := [(0, { st := .S })] }).setDir { msgs := [.grant 0 0, .evictAck 0 0, .doneU 0 0 5 false] }
     s.inFly (.grant 0 0) = true ∧ s.l1Line 0 0 = some { st := .S } ∧ s.inFly (.evictAck 0 0) = true ∧ (s.core 0).waitingOn 0 = [] ∧
       s.doneOf 0 0 = some (.doneU 0 0 5 false, 5, false)) := by decide +kernel

theorem test_SyncRequestsArrive : (∀ i, i ∈ forms → Starts (run (enc i) []) 0 0 i) ∧ on.pwr.domainUp = true ∧
    (∀ i, i ∈ forms → i.op = 0x30 → i.imm = 7 ∨ i.imm = 8) ∧ ((run 0 []).ptn ((run 0 []).partOf 0)).syncCount = 8 :=
  ⟨forms_start, rfl, by decide, by decide +kernel⟩

theorem test_SyncUpdateSumsAndReleases : ∀ mode, mode < 3 →
    let s := rig.setSync { objs := [(0, { mode := mode, thresh := 1, fifo := [.thread 0 0] })], arrivals := [{ op := .add 0xFFFFFFFF }, { input := 1, op := .add 1 }] }
    bankObject 0 s.sync.arrivals = some 0 ∧ (s.obj 0).mode = mode ∧ (updateSet 0 s.sync.arrivals).map (·.op) = [.add 0xFFFFFFFF, .add 1] := by decide +kernel

/-- A task of partition 0 that starts at 64, and its record at 0 (R94). -/
def record (entry cls : Nat) : List Byte := bytesLE 8 entry ++ bytesLE 2 0xFFFF ++ bytesLE 1 0xFF ++ bytesLE 1 cls ++ zeros 52

theorem test_WakesAndDispatch :
    (let s := (run 0 []).setSync { wakes := [(0, 0, 5)] }
     s.sync.wakes.find? (fun w => w.1 == 0 && w.2.1 == 0) = some (0, 0, 5)) ∧
    (((run 0 []).modThr 0 0 fun th => { th with pend := .sync 0 true }).thr 0 0).pend = .sync 0 true ∧
    (∀ lc : Bool,
      let k : Task := { handle := 1, job := 1, lc := lc, st := 1 }
      let s := rig.setSh { tasks := [k], readyLc := if lc then [1] else [], readyBe := if lc then [] else [1], jobs := [{ id := 1, lc := lc }] }
      s.sh.tasks.find? (fun t => t.handle == 1) = some k ∧ s.taskMayStart k = true ∧ (if lc then s.lcCore k else s.beCore k) = some 0) := by decide +kernel

theorem test_TaskPostAnswers :
    let i : TInstr := { op := 0x38, rd := 1 }
    ∀ bs, bs ∈ [record 64 0, record 64 1, record 65 0, record 64 2] →
      let s := put (run (enc i) []) bs
      let x := (s.modCore 0 fun k => k.picked 0).translate (s.partOf 0) 0 ((s.thr 0 0).va i) { r := true } false
      (picksOk s i && !opIllegal i && !opRsv i) = true ∧ (s.thr 0 0).va i % 64 = 0 ∧ x.1 = .ok 0 0 ∧ x.2.paRead 0 64 = .ok bs false := by decide +kernel

theorem test_NoticeRingsAndConsumers :
    (let q : NoticeRing := { base := 0x1000000000000, enable := true }
     q.enable = true ∧ q.held = [] ∧ (q.prod - q.cons).toNat < 2 ^ max q.size 6 ∧ 0x1000000000000 ≤ q.base.toNat ∧
       ((on.setNotice { rings := [(0, q)] }).nring 0) = q) ∧
    (on.nring 0).enable = false ∧ on.pwr.domainUp = true ∧
    (let q : NoticeRing := { prod := 2, cons := 0xFFFFFFFF }
     let s := on.setNotice { rings := [(32, q)] }
     s.nring 32 = q ∧ (q.prod - 2).toNat ≤ 2 ^ max q.size 6 ∧ (2 - q.cons).toNat ≤ (q.prod - q.cons).toNat ∧ (q.prod - q.cons).toNat < (3 - q.cons).toNat) ∧
    (let q : FaultRing := { prod := 2 }
     let s := on.modPtn 31 fun p => { p with fault := q }
     (s.ptn 31).fault = q ∧ (q.prod - 2).toNat ≤ 2 ^ max q.size 4 ∧ (2 - q.cons).toNat ≤ (q.prod - q.cons).toNat ∧ (q.prod - q.cons).toNat < (3 - q.cons).toNat ∧ s.xl.halted = []) := by
  decide +kernel

/-- A monitor of the COUNT of object 0, which is 5. -/
def watch (dir hit : Bool) (mark : Nat) : State :=
  (on.setSync { objs := [(0, { count := 5 })] }).setNotice { wms := [(255, { enable := true, dir := dir, kind := 1, mark := mark, hit := hit })] }
theorem test_WatermarkLatches :
    (∀ d h, (tget (watch d h 5).notice.wms 255 ({} : WmSt)).enable = true ∧ (tget (watch d h 5).notice.wms 255 ({} : WmSt)).hit = h ∧
      (watch d h 5).pwr.domainUp = true ∧ (watch d h 5).levelOf 1 0 = 5) ∧
    (∀ v, v ∈ ([0x8100000000000005#64, 0xC100000000000006#64] : List (BitVec 64)) →
      v.toNat / 2 ^ 63 % 2 = 1 ∧ v.toNat / 2 ^ 56 % 8 = 1 ∧ v.toNat / 2 ^ 32 % 2 ^ 13 = 0) ∧
    (∀ d : Bool, (if d then 5 ≤ 5 else 5 ≤ 5)) ∧ ¬ (if true then 6 ≤ 5 else 5 ≤ 6) ∧ ¬ (if false then 4 ≤ 5 else 5 ≤ 4) :=
  ⟨by decide +kernel, by simp, by decide +kernel⟩

theorem test_RingEnableRule :
    ∀ e, e ∈ ([(0, Instr.xreqEnable 0 0x80070006), (1, .scanEnable 0 0x80070006), (2, .collEnable 0 0x80070006), (3, .fieldRingEnable 0 0x80070006)] : List (Nat × Instr)) →
      (rig.ptn 0).recRing e.1 = {} ∧ (0x80070006#32).toNat / 2 ^ 31 % 2 = 1 ∧ (0x80070006#32).toNat / 2 ^ 16 % 2 ^ 13 < (rig.ptn 0).syncCount ∧
      ((rig.modPtn 0 fun q => q.modRec e.1 fun r => { r with enable := true }).ptn 0).recRing e.1 = { enable := true } ∧ rig.pwr.domainUp = true := by
  decide +kernel

/-- As rig, with one record of 32 bytes at 0 that HUB may take from the request ring. -/
def request (bs : List Byte) : State := put (rig.modPtn 0 fun q => { q with xreq := { enable := true, avail := 1 }, ptEn := true }) bs
/-- A request record (R115). -/
def xreq (op va count dest : Nat) : List Byte :=
  bytesLE 1 op ++ bytesLE 1 0 ++ bytesLE 2 7 ++ bytesLE 2 1 ++ zeros 2 ++ bytesLE 8 va ++ bytesLE 4 count ++ zeros 4 ++ bytesLE 8 dest
def requestOk (bs : List Byte) : Bool := (request bs).ringFront 0 0 32 == some (0, bs) && !((request bs).ptn 0).xreqBad (xreqOf bs) &&
  ((request bs).heldAt 0 ((request bs).recAt 0 0 32) false).isNone

theorem test_ShootdownsWaitAndRemove :
    (∀ r, r ∈ ([(1, 0, 1), (1, 2 ^ 48 - 65536, 1), (2, 0, 0)] : List (Nat × Nat × Nat)) →
      requestOk (xreq r.1 r.2.1 r.2.2 0) = true ∧ (xreqOf (xreq r.1 r.2.1 r.2.2 0)).op = r.1) ∧
    (let q : Shoot := { waiting := [64], doneObj := 7, doneAdd := 1 }
     (rig.setXl { shoots := [q] }).xl.shoots = [q] ∧ q.ptn = 0 ∧ q.waiting = [64] ∧ q.why ≠ 1) := by decide +kernel

/-- As request, with one halted agent. -/
def stalled (h : HaltRec) (bs : List Byte) : State := (request bs).modXl fun x => { x with halted := [h] }
theorem test_HaltedAgentsResumeOrAbort :
    (∀ r, r ∈ ([(3, 9), (5, 9), (3, 10), (5, 10), (4, 0), (4, 65536)] : List (Nat × Nat)) →
      requestOk (xreq r.1 r.2 0 0) = true ∧ (xreqOf (xreq r.1 r.2 0 0)).op = r.1 ∧ (xreqOf (xreq r.1 r.2 0 0)).va = r.2) ∧
    (∀ a, a ∈ ([31, 0x1000] : List Nat) →
      let h : HaltRec := { agent := a, token := 9, kind := 1, batch := 1 }
      let s := stalled h (xreq 3 9 0 0)
      s.xl.halted.find? (fun h => h.ptn == 0 && h.token.toNat == 9 && 9 != 0 && !h.note) = some h ∧ s.haltOf a = some h ∧
        s.xl.halted.find? (fun h => h.ptn == 0 && h.token.toNat == 10 && 10 != 0 && !h.note) = none ∧ h.note = false ∧ h.va.toNat / 65536 = 0 / 65536 ∧
        h.va.toNat / 65536 ≠ 65536 / 65536) ∧
    (31 < 0x1000 ∧ 31 % 64 < 32 ∧ 0x1000 ≤ 0x1000 ∧ 0x1000 ≠ collAgent) := by decide +kernel

theorem readsOk {s : State} {pa n : Nat} (h : (s.paUsable pa n && paCoherent pa && !(linesOf pa n).any s.lineBad) = true) :
    ∃ bs, s.paRead pa n = .ok bs false := by
  simp only [Bool.and_eq_true, Bool.not_eq_true'] at h
  exact ⟨_, by rw [State.paRead, if_pos h.1.1, if_pos h.1.2, h.2]⟩
theorem test_MoveSteps :
    (let bs := xreq 6 0 0 0x10000
     let s := (request (bs ++ zeros 32 ++ bytesLE 8 7)).modXl fun x => { x with walks :=
       [{ ptn := 0, agent := 64, va := 0, level := 0, table := 0x1000 }, { ptn := 0, agent := 64, va := 0, level := 1, table := 64 }] }
     s.ringFront 0 0 32 = some (0, bs) ∧ s.heldAt 0 (s.recAt 0 0 32) false = none ∧ (s.ptn 0).xreqBad (xreqOf bs) = false ∧ (xreqOf bs).op = 6 ∧
       (xreqOf bs).va / 2 ^ 42 % 64 ≠ 63 ∧ (((s.recPoint 0 0 32 id).ringTaken 0 0).walk 0 64 (xreqOf bs).va { free := true }).1 = .leaf { agent := 64, r := true } 64 7 ∧
       (((s.recPoint 0 0 32 id).ringTaken 0 0).walk 0 64 (xreqOf bs).va { free := true }).2.leafCheck { agent := 64, r := true } 0 {} true = .ok 0 0) ∧
    (let m : MoveSt := { dst := 0x10000 }
     let q : Shoot := { why := 1 }
     let s := rig.setXl { moves := [m], shoots := [q] }
     s.xl.moves.find? (fun m => m.ptn == 0) = some m ∧ s.xl.shoots.find? (fun q => q.ptn == 0 && q.why == 1) = some q ∧
       (s.paUsable m.src 65536 && paCoherent m.src && !(linesOf m.src 65536).any s.lineBad) = true ∧ s.paUsable m.dst 65536 = true) := by
  decide +kernel

/-- As rig, with one entry in a queue of core 0. -/
def engine (eng : Nat) (e : QEntry) : State := rig.modCore 0 fun k => { k with queues := [(eng, [e])] }
def takes (eng : Nat) (e : QEntry) : Bool := ((engine eng e).core 0).engHead eng == some e && (tfind ((engine eng e).core 0).running eng).isNone
theorem takes_takes {eng : Nat} {e : QEntry} (h : takes eng e = true) : EngineTakes (engine eng e) 0 eng e := by
  simp only [takes, Bool.and_eq_true, beq_iff_eq, Option.isNone_iff_eq_none] at h
  exact h

/-- As rig, with an operation of core 0 at a pre-emption point. -/
def midway (eng : Nat) (o : EngOp) : State := rig.modCore 0 fun k => { k with running := [(eng, o)] }
def mid (eng : Nat) (o : EngOp) : Bool :=
  let s := midway eng o
  tfind (s.core 0).running eng == some o && !o.done && decide (o.pos < laneLen eng o.q.desc) && o.pos % lanePoint eng o.q.desc == 0 &&
    ((s.core 0).runsBad (laneInputs eng o.q.desc o.pos (laneLen eng o.q.desc - o.pos))).isNone &&
    (s.thr 0 o.q.thr).pend == .none && (s.job o.q.job).isNone
theorem mid_mid {eng : Nat} {o : EngOp} (h : mid eng o = true) : Halfway (midway eng o) 0 eng o ∧ GoesOn (midway eng o) 0 o.q := by
  simp only [mid, Bool.and_eq_true, beq_iff_eq, Option.isNone_iff_eq_none, Bool.not_eq_true', decide_eq_true_eq] at h
  obtain ⟨⟨⟨⟨⟨⟨h1, h2⟩, h3⟩, h4⟩, h5⟩, h6⟩, h7⟩ := h
  exact ⟨⟨h1, h2, h3, h4, h5⟩, fun x hx => by simp [h6] at hx, fun j hj => by simp [h7] at hj⟩

/-- A vector descriptor of R190 over FP32 runs of 128 elements: A in row 0, B in row 1, result in row 2, row C or record in row 3. -/
def vdesc (op : Nat) (a b o c first : Bool) : QEntry :=
  { desc := BitVec.ofNat 128 (op * 2 ^ 58 + (if b then 2 ^ 20 else 0) + (if o then 2 * 2 ^ 30 else 0) + (if c then 3 * 2 ^ 116 else 0) +
      (if first then 2 ^ 9 else 0) + 128 * 2 ^ 96 + (if a then 0 else 0)) }
def vops : List (Nat × QEntry) :=
  [(0, vdesc 0 true true true false false), (1, vdesc 1 true true true false false), (2, vdesc 2 true true true false false),
   (3, vdesc 3 true true true true false), (4, vdesc 4 true true true false false), (5, vdesc 5 true true true false false),
   (6, vdesc 6 true false true false false), (7, vdesc 7 true false true false false), (8, vdesc 8 true true true false false),
   (9, vdesc 9 true true true false false), (10, vdesc 10 true false true false false), (11, vdesc 11 false false true false false),
   (12, vdesc 12 true false true false false), (13, vdesc 13 true false true false false)]
theorem test_VectorElementwise : ∀ v, v ∈ vops → takes 1 v.2 = true ∧
    (let d := vuDecode v.2.desc.toNat
     d.op = v.1 ∧ d.bad = false ∧ mid 1 { q := v.2 } = true ∧ ((engine 1 v.2).core 0).runsBad (d.inputs ++ if d.op = 3 ∧ d.oAcc then [d.outRun] else []) = none) := by
  decide +kernel

def vrows : List (Nat × QEntry) :=
  [(14, vdesc 14 true false false true true), (17, vdesc 17 true false false true true), (15, vdesc 15 true true true true false),
   (16, vdesc 16 true true true true false), (18, vdesc 18 true false true true false)]
theorem test_RowOperations : ∀ v, v ∈ vrows → takes 1 v.2 = true ∧
    (let d := vuDecode v.2.desc.toNat
     let k := (engine 1 v.2).core 0
     d.op = v.1 ∧ d.bad = false ∧ k.runsBad [d.recRun] = none ∧ k.runsBad d.inputs = none ∧ leAt (k.spadBytes d.recOff 32) 0 4 + d.len ≤ 2 ^ 24 ∧
       leAt (k.spadBytes d.recOff 32) 4 4 = 0 ∧ leAt (k.spadBytes d.recOff 32) 12 2 % 2 ≠ 1 ∧
       mid 1 { q := v.2 } = true ∧ mid 1 { q := v.2, record := zeros 32 } = true ∧ leAt (zeros 32) 0 4 + d.len < 2 ^ 32) := by decide +kernel

/-- A matrix descriptor of R172: two vectors from row 100, tile in row 0, accumulator row 254, all four groups. -/
def mdesc (kind wfmt afmt fresh : Nat) : QEntry :=
  { desc := BitVec.ofNat 128 (kind + wfmt * 2 ^ 4 + afmt * 2 ^ 8 + (if kind < 2 then 100 * 2 ^ 22 else 0) + 2 ^ 42 + 254 * 2 ^ 50 +
      fresh * 2 ^ 58 + 15 * 2 ^ 60) }
def mops : List (Nat × QEntry) := [(3, mdesc 3 0 0 0), (1, mdesc 1 0 0 0), (2, mdesc 2 0 0 0), (0, mdesc 0 1 1 1)]
theorem test_AccumulatorOperations : ∀ v, v ∈ mops → takes 0 v.2 = true ∧
    (let d := mxDecode v.2.desc.toNat
     let k := (engine 0 v.2).core 0
     d.kind = v.1 ∧ d.bad = false ∧ k.rmd = [] ∧ k.spadBad (d.aRow * 512) (d.m * runBytes d.afmt 128) = none ∧
       k.accBadIn d.accRow d.m d.columns = none ∧ v.2.lc = false ∧
       (d.kind = 0 → outliers d.wfmt (k.tileBytes d) = [] ∧ k.tileBad d 0 = none ∧ k.actBad d = none ∧ (outliers d.wfmt (k.tileBytes d)).length ≤ 4 ∧ restColumns k.width d [] = [])) := by
  decide +kernel

theorem test_RemainderCompareAndSfu :
    (let k := (rig.modCore 0 fun k => { k with rmd := [{ q := mdesc 0 1 1 1 }] }).core 0
     k.rmdDue = true ∧ ∀ p, p ∈ k.rmd → p.done = false ∧ k.actBad (mxDecode p.q.desc.toNat) = none ∧
       k.accBadIn (mxDecode p.q.desc.toNat).accRow (mxDecode p.q.desc.toNat).m (mxDecode p.q.desc.toNat).columns = none) ∧
    (∀ op, op < 6 → ∀ t, t < 3 →
      let e : QEntry := { desc := BitVec.ofNat 128 (op + t * 2 ^ 4 + 8 * 2 ^ 18 + 2 ^ 49 + 5 * 2 ^ 64), add := 1 }
      let d := ccDecode e.desc.toNat
      takes 5 e = true ∧ d.op = op ∧ d.bad e.add = false ∧ d.etype ≤ 3 ∧ mid 5 { q := e } = true ∧ ((engine 5 e).core 0).spadBad (d.srcRow * 512) (d.elems * etypeBytes d.etype) = none) ∧
    (let e : QEntry := { desc := BitVec.ofNat 128 (2 ^ 30 + 128 * 2 ^ 96) }
     let d := sfuDecode e.desc.toNat
     let s := engine 2 e
     takes 2 e = true ∧ (s.slotTable d.slot).isSome = true ∧ d.bad (s.slotTable d.slot) = false ∧ (s.core 0).sfuReloading.contains d.slot = false ∧
       thas (s.core 0).sfuBad d.slot = false ∧ (s.core 0).runsBad [d.inRun] = none ∧ mid 2 { q := e } = true) ∧
    ((rig.modCore 0 fun k => { k with sfuReloading := [3] }).core 0).sfuReloading = 3 :: [] :=
  ⟨by decide +kernel, by decide +kernel, by decide +kernel, by decide +kernel⟩

theorem test_EngineCompletions : ∀ e, e ∈ ([0, 1, 2, 5] : List Nat) →
    let o : EngOp := { q := { desc := (vdesc 14 true false false true true).desc, add := 1 }, done := true, flags := 1, record := zeros 32 }
    let s := (rig.modCore 0 fun k => { k with running := [(e, o)] }).modThr 0 0 fun th => { th with pend := .engines, outst := 1 }
    tfind (s.core 0).running e = some o ∧ (s.thr 0 0).pend = .engines ∧ (s.thr 0 0).outst = 1 ∧ s.job o.q.job = none := by decide +kernel

theorem test_EngineCompletions_midway : ∀ e, e ∈ ([1, 2, 5] : List Nat) → mid e { q := { desc := (vdesc 0 true true true false false).desc, add := 1 } } = true := by
  decide +kernel

theorem test_RemainderCompareAndSfu_hit : (ccDecode (7 * 2 ^ 4)).etype = 7 ∧ (ccDecode (7 * 2 ^ 4)).key < 2 ^ 64 ∧
    2 ^ 64 - 1 < 2 ^ (8 * etypeBytes (ccDecode (7 * 2 ^ 4)).etype) := by decide +kernel

/-- A stream descriptor of R227: tiles and rows less one, address 0, slots from row 0. -/
def sdesc (mode rows tiles avail done : Nat) : QEntry :=
  { desc := BitVec.ofNat 128 (mode * 2 ^ 113 + done * 2 ^ 95 + avail * 2 ^ 82 + rows * 2 ^ 64 + tiles * 2 ^ 48 + (if mode = 2 then 100 * 2 ^ 116 else 0)) }
/-- As engine 3, with multicast group 0 of partition 0 and member core 0. -/
def streamRig (q : QEntry) : State := (engine 3 q).setFab { mcOwner := [(0, 0)], members := [(0, 1)] }
theorem test_StreamsStart : ∀ m, m < 5 → ∀ avail, avail ∈ ([0x1FFF, 7] : List Nat) →
    let q := sdesc m 0 1 avail 0x1FFF
    let s := streamRig q
    let d := stDecode q.desc.toNat
    (s.strm 0 0).busy = false ∧ (s.core 0).engHead 3 = some q ∧ d.mode = m ∧ d.bad = false ∧ d.badGroup s 0 = false ∧
      d.badObj (s.ptn (s.partOf 0)) = false ∧ (s.mct d.group).active = false ∧ s.mcReady d.group = false ∧ (s.mct d.group).joined = [] := by
  decide +kernel

theorem test_StreamRowsLand :
    (∀ landed, landed < 2 →
      let r : StreamRow := { tile := 0, row := landed, parts := [(some 0, 512)] }
      let st : StreamSt := { busy := true, q := sdesc 0 1 1 0x1FFF 7, nextTile := 2, landedRows := landed, fly := [r] }
      let s := rig.modCore 0 fun k => { k with streams := [(1, st)] }
      s.strm 0 1 = st ∧ st.d.mode = 0 ∧ st.row = 0 ∧ st.nextTile = st.d.tiles ∧ thas (s.core 0).strmPre 1 = false ∧ s.rowHeld 0 1 = none ∧ s.memHits [] = s ∧
        (rowBytes s r.parts).map (fun x => (x.1.length, x.2)) = some (512, false) ∧ st.d.rows = 2 ∧ st.d.tiles = 2) ∧
    (let s := rig.setMctok [(31, { flying := [(63, 1)] })]
     tget (s.mct 31).flying 63 0 ≠ 0 ∧ (s.mct 31).active = false) := by decide +kernel

theorem test_BobbinTransfers :
    (let q : QEntry := { desc := BitVec.ofNat 128 (0x1000 * 2 ^ 48 + 63 * 2 ^ 96) }
     let s := engine 6 q
     let d := bbDecode q.desc.toNat
     let x := State.engXlate (s.partOf 0) 0 { r := true } d.src d.len (s.takeEntry 0 6 q)
     (s.core 0).bobs = [] ∧ (s.core 0).engHead 6 = some q ∧ d.bad = false ∧ x.1 = .ok 0 0 ∧
       (State.engXlate (s.partOf 0) 0 { w := true } d.dst d.len x.2).1 = .ok 0x1000 0 ∧
       (State.engXlate (s.partOf 0) 0 { w := true } d.dst d.len x.2).2.heldAt (s.partOf 0) 0 q.lc = none ∧
       (State.engXlate (s.partOf 0) 0 { w := true } d.dst d.len x.2).2.heldAt (s.partOf 0) 0x1000 q.lc = none ∧ badSpadRange 0 d.len = false ∧ badSpadRange 0x1000 d.len = false ∧
       (let s2 := (State.engXlate (s.partOf 0) 0 { w := true } d.dst d.len x.2).2
        (s2.paUsable 0 d.len && paCoherent 0 && !(linesOf 0 d.len).any s2.poisoned) = true)) ∧
    (∀ job, job < 2 →
      let b : BobSt := { q := { job := job } }
      let s := rig.modCore 0 fun k => { k with bobs := [b] }
      (s.core 0).bobs.find? (fun b => !b.halted) = some b ∧ (s.thr 0 0).pend = .none ∧ s.job job = none) := by decide +kernel

theorem test_PreemptionSavesAndRestores :
    (let o : EngOp := { q := { job := 1 } }
     let k := (rig.modCore 0 fun k => { k with preempted := [(0, o), (1, o)] }).core 0
     tfind k.preempted 0 = some o ∧ tfind k.preempted 1 = some o ∧ k.rmdPre = [] ∧ k.lcIdle 0 = true ∧ k.lcIdle 1 = true) ∧
    (let k := (rig.modCore 0 fun k => { k with rmdPre := [{ q := mdesc 0 1 1 1 }] }).core 0
     k.rmdPre ≠ [] ∧ k.lcIdle 0 = true) ∧
    (let j : Job := { id := 2 }
     let s := ((rig.modCore 0 fun k => { k with holder := 1, heldSince := 0 }).setTime { mono := 1000000 }).setSh
       { jobs := [j], tasks := [{ handle := 5, job := 2, st := 1 }], readyBe := [5] }
     (s.updateWaits.sh.jobs.filter fun j => j.waitSince != 0).length = 1 ∧
       (s.updateWaits.sh.jobs.map fun j => s.updateWaits.sliceCore j) = [some 0] ∧
       (s.updateWaits.sh.jobs.map fun j => s.updateWaits.spareCore j) = [none] ∧ s.updateWaits.saveSet 0 = [0] ∧ 1 ≤ s.updateWaits.freeFrames) ∧
    (let s := rig.modCore 0 fun k => { k with saving := true, threads := [(0, { st := tReady }), (1, { st := tReady, lc := true })] }
     (s.core 0).saving = true ∧ s.saveReady 0 = true ∧ (s.stopLanes 0).saveReady 0 = true ∧ s.job (s.core 0).saveFor = none ∧
       (tget (s.ptn (s.partOf 0)).regs 1 ({} : Regul)).holds 1 false = false ∧ (s.thr 0 0).held = true ∧ (s.thr 0 1).lc = true) ∧
    (let s := rig.modCore 0 fun k => { k with saving := true, running := [(1, { q := vdesc 7 true false true false false })] }
     (s.core 0).saving = true ∧ s.saveReady 0 = true) ∧
    (let f : Frame := { job := 2, threads := [(0, { st := tReady, pc := 64 })] }
     let s := rig.setSh { jobs := [{ id := 2 }], frames := [f] }
     (s.core 0).holder = 0 ∧ (s.core 0).saving = false ∧ s.sh.frames.find? (fun f => s.frameFits f 0) = some f ∧ f.poisoned = false ∧ s.frameStruck f.idx = false ∧
       (tget (s.ptn (s.partOf 0)).regs 1 ({} : Regul)).holds 1 false = false ∧
       f.streams = [] ∧ tsorted f.threads = true) := ⟨by decide +kernel, by decide +kernel, by decide +kernel, by decide +kernel, by decide +kernel, by decide +kernel⟩

/-- A regulator of 100 MB/s whose bucket is empty. -/
def dry : Regul := { rate := 100, burst := 1, waiting := [(false, 64, .record 2)] }
theorem test_RegulatorsAndPins :
    (let at_ := fun (g : Regul) => (rig.modPtn 0 fun q => { q with regs := [(0, g)] }).setDir { msgs := [.req .rdS 0 0] }
     let req : DirReq := { kind := .rdS, src := 0 }
     (∀ g, g ∈ [dry, { dry with level := 1 }] → (at_ g).inFly (.req .rdS 0 0) = true ∧ (at_ g).reqPtn req = 0 ∧ (at_ g).reqLc req 0 = false) ∧
     (at_ dry).heldAt 0 0 false = some 0 ∧ (∀ w, w ∈ dry.waiting → w.2.2 ≠ .line .rdS 0 0) ∧
     (at_ { dry with level := 1 }).heldAt 0 0 false = none ∧ paRange 0 = .stack) ∧
    (∀ r, r < 5 → ∀ w, w ∈ ([.walk 0, .buf 0, .entry 0, .record 0, .batch 0 0, .job 1, .save 0] : List HeldReq) →
      let g : Regul := { dry with level := 1, waiting := [(true, 64, w)] }
      g.waiting.find? (fun w => !g.holds r w.1) = some (true, 64, w)) ∧
    rig.pwr.domainUp = true := ⟨by decide +kernel, by decide +kernel, by decide +kernel⟩

theorem test_ExitAndTrap : (∀ i, i ∈ forms → Starts (run (enc i) []) 0 0 i) ∧
    (let s := (run 0 []).setSh { jobs := [{ id := 1, root := 1 }, { id := 2, root := 4 }], tasks := [{ handle := 1, job := 1, st := 2 }, { handle := 3, job := 1, st := 1 }] }
     (∀ t o, ((s.modThr 0 0 fun th => { th with job := 1, task := t, outst := o }).thr 0 0).outst = o) ∧
     s.job 1 = some { id := 1, root := 1 } ∧ s.job 2 = some { id := 2, root := 4 } ∧
     ∃ k, k ∈ s.sh.tasks ∧ k.job = 1 ∧ k.handle ≠ 1 ∧ k.st ≠ 0) :=
  ⟨forms_start, fun _ _ => rfl, by decide +kernel, by decide +kernel, { handle := 3, job := 1, st := 1 }, by decide +kernel, by decide, by decide, by decide⟩

/-- As rig, with the session page of partition 0. -/
def session (active : Bool) (q : WeftRing) : State := rig.setHost { pages := [(0, { active := active, rings := [(0, q)] })] }
theorem test_DoorbellsAndHello :
    (let s := session true { sqTail := 15, cqTail := 2, cqHead := 15 }
     let q := s.wring 0 0
     s.pwr.domainUp = true ∧ (s.page 0).busy = false ∧ 0 < s.ringCount 0 ∧ (s.page 0).active = true ∧ s.ringSlots 0 = 16 ∧ s.ringOcc 0 0 = 15 ∧
       (q.cqTail + 16 - q.cqHead) % 16 = 3) ∧
    ((session true { sqTail := 1 }).ringOcc 0 0 = 1 ∧ (15 + 16 - 1) % 16 ≤ 16 - 1 - 1) ∧
    ((2 + 16 - 15) % 16 ≤ 3 ∧ 3 < (3 + 16 - 15) % 16 ∧ 16 - 1 - 15 < (0 + 16 - 15) % 16 ∧ 16 ≤ 16) ∧
    ((session false {}).page 0).active = false ∧
    (let s := session false { sqBase := 0x10000000000, cqBase := 0x1000000000000 }
     s.helloStatus 0 0x0100 0x0100 = stOk ∧ s.helloStatus 0 0x0101 0x0102 ≠ stOk ∧ (0x01000100#64).toNat % 2 ^ 16 = 0x0100 ∧
       (0x01000100#64).toNat / 2 ^ 16 % 2 ^ 16 = 0x0100) := by decide +kernel

def entry (op flags : Nat) : List Byte := bytesLE 1 op ++ bytesLE 1 flags ++ zeros 62
theorem test_EntriesAndCompletions :
    (∀ op, op ∈ ([7, 0] : List Nat) →
      let s := (((put (session true { sqTail := 1 }) (entry op 1)).modWarp fun w => { w with active := 1 }).modSh fun h => { h with lcDoorbells := [(0, 0)] }).modPwr
        fun p => { p with level := 3 }
      s.nextFetch = some (0, 0) ∧ s.paRead ((s.wring 0 0).sqBase.toNat + 64 * (s.wring 0 0).sqHead) 64 = .ok (entry op 1) false ∧
        s.heldAt 0 ((s.wring 0 0).sqBase.toNat + 64 * (s.wring 0 0).sqHead) false = none ∧
        s.admission 0 0 (entry op 1) = if op = 7 then none else some stInvalidField) ∧
    (let s := session true { cqBase := 0x1FFFFFFFFFFF0 }
     (s.page 0).active = true ∧ 0x1000000000000 ≤ (s.wring 0 0).cqBase.toNat + 16 * (s.wring 0 0).cqTail ∧
       (s.wring 0 0).cqBase.toNat + 16 * (s.wring 0 0).cqTail + 16 ≤ 0x2000000000000) ∧
    (let s := session true { unsig := 1, time := 1 }
     (s.wring 0 0).unsig ≠ 0 ∧ (s.wring 0 0).time ≠ 0) := by decide +kernel

/-- A job of partition 0 with an entry; `job` is rig with it admitted, an earlier one, and a later one of another partition. -/
def theJob (e : List Byte) : Job := { id := 1, order := 1, entry := padTo 64 e }
def job (e : List Byte) : State := rig.setSh { jobs := [{ id := 2, order := 0, ring := 1 }, theJob e, { id := 3, order := 2, ptn := 1 }] }
theorem test_ShuttleOpcodes :
    (∀ t, t < 2 →
      let e := bytesLE 4 0x01 ++ bytesLE 6 (64 + t) ++ bytesLE 2 0xFFFF ++ bytesLE 1 0xFF
      (job e).admitted 1 0x01 = some (theJob e) ∧ (theJob e).entry.length = 64 ∧
        (job e).taskRefusal 0 ⟨64 + t, 0xFFFF, 0xFF, 0, 0, []⟩ = if t = 0 then none else some stInvalidField) ∧
    (∀ scope, scope < 2 →
      let e := bytesLE 4 0x07 ++ bytesLE 1 scope
      (job e).admitted 1 0x07 = some (theJob e) ∧ leAt (theJob e).entry 4 1 = scope) ∧
    (let e := bytesLE 8 0x0A ++ bytesLE 8 0xFF00
     (job e).admitted 1 0x0A = some (theJob e) ∧ ((job e).bufMap (theJob e) 0 (leAt (theJob e).entry 8 8) 120 true).1 = some [(0xFF00, 120)]) ∧
    (∀ id, id ∈ ([2, 3, 4] : List Nat) →
      let e := bytesLE 8 0x0D ++ bytesLE 4 id
      (job e).admitted 1 0x0D = some (theJob e) ∧ leAt (theJob e).entry 8 4 = id ∧
        ((job e).job id).map (·.ptn) = if id = 2 then some 0 else if id = 3 then some 1 else none) ∧
    rig.pwr.domainUp = true ∧ (rig.ptn 0).acctBusy = false := by decide +kernel

/-- A warp image of R50 to R59 with one section of each required type; its digest was computed outside the model. -/
def warpImage : List Byte := bytesLE 296
  0xffffffffffffffffffffffffffffffffffffffffffffffffffffffffffffffffffffffffffffffffffffffffffffffffffffffffffffffffffffffffffffffffffffffffffffffff000000000002000200ff000000ff000000ff000000ff000000ff000000ff000000ff000000ff00000000000000000000000000800000000700000032000400000000000000000000000000180000000600000000000000010000000000ff000100000000000000010000000000000000000000280000000300000000200000000000000000000000000000010000000a00000000000000000000002800000001bfaf32ae8bd968d879e419cdb05b30e86c162e7d82bcad3f203f55db67724d76000000000000000000000000000000010000000400000128010001005057584c
def validates (s : State) (b : List Byte) (n : Nat) : Bool := match validate s.warpCtx b n with
  | .ok _ => true
  | .error _ => false
/-- As rig, with the warp loader as `f` makes it. -/
def loader (f : WarpSt → WarpSt) : State := rig.modWarp f
theorem test_image_validates : validates (loader fun w => { w with shadow := 1 }) warpImage 296 = true := by decide +kernel
theorem test_LoaderRequests :
    rig.pwr.domainUp = true ∧ rig.warpBusy = false ∧ rig.warp.active = 0 ∧ rig.warp.stagedImg = none ∧
    (loader fun w => { w with shadow := 1 }).warpBusy = true ∧ (loader fun w => { w with active := 3 }).warpBusy = true ∧
    (let s := loader fun w => { w with srcAddr := 0x10000000000, srcLen := 64 }
     warpSourceOk s.warp.srcAddr.toNat = true ∧ s.warp.srcLen.toNat ≤ 1048576 ∧ (s.readPieces (pagePieces s.warp.srcAddr.toNat s.warp.srcLen.toNat)).isSome = true) ∧
    (∀ a, a < 2 →
      let s := loader fun w => { w with stagedImg := some {}, shadow := 2, active := a, activeImg := some {}, storePending := true }
      s.warp.stagedImg = some {} ∧ s.warp.active = a ∧ s.warpBusy = false ∧ s.warp.activeImg = some {} ∧ s.warp.storePending = true) ∧
    (let s := loader fun w => { w with shadow := 1, copy := warpImage, stageLen := 296 }
     s.warp.shadow = 1 ∧ s.warp.copyBad = none ∧ s.warp.stageSrc = .bar2) ∧
    validates (loader fun w => { w with shadow := 1 }) warpImage 288 = false ∧
    firstUnread none (hostBad [(0x1000000000000, 64)] (some { off := 8 })) = some (8, 1) ∧
    (loader fun w => { w with shadow := 1, copyBad := some (0, 1) }).warp.copyBad = some (0, 1) := by decide +kernel

/-- As rig, with a command and its argument in the mailbox. -/
def mailed (code : Nat) (arg : List Byte) (f : WarpSt → WarpSt) : State :=
  (rig.modMgt fun m => { m with running := true, recovery := false, mbGo := true, mbCode := BitVec.ofNat 16 code, mbArgLen := arg.length
                                mbArg := (List.range arg.length).map fun i => (i, arg.getD i 0) }).modWarp f
theorem test_WarpJobsAndDrain :
    (∀ code, code ∈ ([0x10, 0x11, 0x12, 0x13] : List Nat) → ∀ a, a < 2 → ∀ b, b ∈ ([none, some {}] : List (Option WarpImg)) →
      let e := bytesLE 4 0x0C ++ bytesLE 4 code ++ bytesLE 8 0xFF00 ++ bytesLE 4 64
      let s := (job e).modWarp fun w => { w with active := a, stagedImg := b }
      s.mgmtJob 1 code = some (theJob e) ∧ s.warpBusy = false ∧ leAt (theJob e).entry 0x10 4 ≤ 1048576 ∧ leAt (theJob e).entry 8 8 ≠ 0 ∧
        (s.bufMap (theJob e) 1 0xFF00 64 false).1 = some [(0xFF00, 64)] ∧ ((s.bufMap (theJob e) 1 0xFF00 64 false).2.readPieces [(0xFF00, 64)]).isSome = true) ∧
    (let s := (job []).modWarp fun w => { w with active := 3, drainWith := some {} }
     s.warp.active = 3 ∧ s.warp.drainWith = some {} ∧ (s.sh.jobs.map (·.id)).Nodup ∧ s.warpBusy = true) ∧
    (∀ code, code ∈ ([0x10, 0x11, 0x12, 0x13] : List Nat) →
      let s := mailed code (zeros 12) fun w => { w with active := if code = 0x12 then 1 else 0, stagedImg := some {} }
      s.pwr.domainUp = true ∧ s.pwr.isolated = false ∧ s.mgt.running = true ∧ s.mgt.recovery = false ∧ s.mgt.mbGo = true ∧
        s.warpBusy = false ∧ s.mgt.mbCode.toNat = code ∧ 12 ≤ s.mgt.mbArgs.length ∧ s.warp.stagedImg = some {} ∧
        (code ≠ 0x12 → s.warp.active = 0) ∧ (code = 0x12 → s.warp.active ≠ 0)) := by decide +kernel

/-- A model image of R220 to R222: a network, a program of one word, no weights; its digests were computed outside the model. -/
def modelNumber : Nat :=
  0x100000000000000000000000000000000000000000000000000000000000000000000000000000000000000000000000000000000000000000000000000000000000000000000000000000000000000000000000000000000000000000000000000000000000000000000000000000000000000000000000000000000000000000000000000000000000000000000000000000000000000000000000000000000000000000000000000000000000000000000000000000000000000000000000000000000000000000000000000000000000000000000000000000000000000000000000000000000000000000000000000000000000000000000000000000000000000000000000055b852781b9995a44c939b64e441ae2724b96f99c8f4fb9a141cfc9842c4b0e30000000000000000000000000000000000000000000000000000000000000003fc3de8e08d32b2e54d1df9ba421ef50d0f660ac74baf8cf77a0b81a1f57055af00000000000000000000000000000008000000000000040000000000000000029c6d5fb8ef0085c94f1bb119d500456a28cdd1c26310c114c9af5cd2093329490000000000000000000000000000002000000000000002000000000000000001f1d7c870a03752b63ab7be8cefb5fa1c70c0e767cccb3296c16fe4698aa92f3500000000000000030000000000000007000000000000060001000100444d584c
def modelImage : List Byte := bytesLE 1536 modelNumber
/-- As job, with the image in lines that core 0 holds from address 0, a model region in stack 1, and a load in progress. -/
def load (e : List Byte) (m : ModelSt) : State :=
  (((job e).modCore 0 fun k => { k with l1 := (List.range 24).map fun l => (l, { st := .M, data := BitVec.ofNat 512 (modelNumber >>> (512 * l)) }) }).setModel m).modWarp
    fun w => { w with activeImg := some { modelBase := 0x1000000000, modelLen := 0x20000000 } }
def loadEntry (kind len : Nat) : List Byte := bytesLE 4 0x0B ++ bytesLE 4 kind ++ bytesLE 8 0 ++ bytesLE 8 len
theorem test_load_source : ((load (loadEntry 0 1536) {}).loadSource (theJob (loadEntry 0 1536)) none).1 = some (modelImage, []) := by decide +kernel
theorem test_model_check : ((load (loadEntry 0 1536) {}).loadSource (theJob (loadEntry 0 1536)) none).2.modelCheck modelImage = none ∧
    badIn [] (step2Ranges modelImage) = none := by decide +kernel
theorem test_model_refused : (load (loadEntry 0 64) {}).modelCheck (zeros 64) = some stInvalidField := by decide +kernel
theorem test_copy_digests : ((msects modelImage).filter (·.known)).find? (fun m => sha256 (m.body modelImage) != m.digest) = none := by decide +kernel

/-- The image with one byte of the last digest changed. -/
def wrongImage : List Byte := modelImage.take 255 ++ zeros 1 ++ modelImage.drop 256
theorem test_copy_wrong : (((msects wrongImage).filter (·.known)).find? (fun m => sha256 (m.body wrongImage) != m.digest)).isSome = true := by decide +kernel
theorem test_ModelLoads :
    (∀ kind, kind ∈ ([0, 2] : List Nat) →
      let s := load (loadEntry kind 1536) {}
      s.admitted 1 0x0B = some (theJob (loadEntry kind 1536)) ∧ leAt (theJob (loadEntry kind 1536)).entry 4 1 = kind ∧
        (s.ptn 0).modelUser = true ∧ s.model.loadJob = 0 ∧ ((s.modPtn 0 fun q => { q with modelUser := false }).ptn 0).modelUser = false ∧
        (load (loadEntry kind 1536) { loadJob := 9 }).model.loadJob ≠ 0) ∧
    (∀ st, st ∈ ([2, 3] : List Nat) → ∀ un,
      let s := load (loadEntry 0 1536) { st := st, loadJob := 1, loadUnload := un, loadImg := modelImage.take 256 }
      s.job s.model.loadJob = some (theJob (loadEntry 0 1536)) ∧ s.model.st = st ∧ s.model.loadUnload = un ∧
        ∀ k, k ∈ s.sh.jobs → k.op = 0x01 → k.stage ≠ .running) := by decide +kernel

theorem test_ModelLoads_unread :
    ((load (loadEntry 1 1536) {}).loadSource (theJob (loadEntry 1 1536)) none).1 = some (zeros 1536, [(0, 1536)]) ∧
    badIn [(0, 1536)] (step2Ranges (zeros 1536)) = some 0 ∧
    badIn [(0, 1536)] (((msects (modelImage.take 256 ++ (zeros 1536).drop 256)).filter (·.known)).map fun m => (m.off, m.len)) = some 0 ∧
    badIn [] (((msects modelImage).filter (·.known)).map fun m => (m.off, m.len)) = none := by decide +kernel

/-- A packet from port 0 to port 1 on VC 0 with two data flits. -/
def pkt (mcast : Bool) : Packet := { hdr := BitVec.ofNat 512 (1 + (if mcast then 2 ^ 18 else 0) + 2 * 2 ^ 24), data := [1, 2] }
theorem test_PacketsAndCredits :
    (∀ m : Bool,
      let p := pkt m
      let s := rig.setFab { ports := [(0, { up := true }), (1, { up := true })] }
      pktOk p = true ∧ pktMcast p = m ∧ s.pwr.isolated = false ∧ (s.port (pktSrc p)).up = true ∧ s.fab.srcWait = [] ∧ s.fab.laneQ = [] ∧ s.fab.hubWait = [] ∧
        (s.port (pktSrc p)).failed = false ∧ (tget (s.ptn (pktPtn p)).regs 4 {}).regulates 4 = false ∧ p.data.length + 1 = 3 ∧ 3 ≤ (s.book (pktSrc p) (s.pktLane 0 p) 0 (pktVc p)).sender ∧ (s.port (pktDest p)).failed = false ∧
        3 ≤ (s.book (pktDest p) (s.pktLane 1 p) 1 (pktVc p)).sender ∧ tget s.fab.members (pktGroup p) 0 = 0 ∧
        ((s.modFab fun f => { f with books := [(bookKey 0 (s.pktLane 0 p) 0 0, {})] }).book 0 (s.pktLane 0 p) 0 0).sender = 0) ∧
    (let p : Packet := { hdr := 30 }
     pktOk p = true ∧ pktDest p = 30 ∧ pktMcast p = false ∧ (rig.modPwr fun p => { p with isolated := true }).pwr.isolated = true) ∧
    (∀ k, k < 2 →
      let s := rig.setFab { ports := [(25, { up := true })], books := [(bookKey 25 47 k 5, { returns := 1 - k, occ := k })] }
      (s.port 25).laneUp 25 47 = true ∧ (s.book 25 47 k 5).returns = 1 - k ∧ (s.book 25 47 k 5).occ = k) ∧
    (rig.pwr.domainUp = true ∧ rig.fab.snapBusy = false ∧ (0x0085192F#32).toNat / 2 ^ 23 % 2 = 1 ∧ (rig.link 47).snapBusy = false ∧ (rig.port 25).hasLane 25 47 = true) := by
  decide +kernel

theorem test_LanesAndUnitsAreLost :
    (∀ f, f ∈ ([6, 7] : List Nat) →
      let q : PortSt := { up := true, laneMap := List.replicate 48 0, replayFails := [(1, f)] }
      let s := rig.setFab { ports := [(0, q)] }
      (s.port 0).laneUp 0 0 = true ∧ tget (s.port 0).replayFails (2 * 0 + 1) 0 = f ∧ (s.port 0).laneMap.length = 48 ∧ 5 < portLanes 0 ∧
        5 ∉ (s.port 0).retired) ∧
    rig.pwr.domainUp = true ∧ rig.pwr.lossRunning = false ∧ rig.pwr.standby = true ∧
    (∀ u, u ∈ ([.ct 15, .fc 7, .hub] : List DieUnit) → rig.pwr.unitOk u = true) ∧ rig.lossResets .hub = true ∧
    (rig.modPwr fun p => { p with ctOk := 0 }).pwr.unitOk (.ct 15) = false ∧
    (rig.modPwr fun p => { p with lossRunning := true }).pwr.lossRunning = true := by decide +kernel

theorem test_ModuleResets :
    (let s := rig.modClk fun c => { c with lock := true }
     s.pwr.standby = true ∧ s.pwr.domainUp = true ∧ s.clk.lock = true ∧ (0x20#6 ≠ 0)) ∧
    rig.clk.lock = false ∧ (∀ run : Bool,
      let s := (rig.modField fun f => { f with xclkOut := true }).modMgt fun m => { m with running := run }
      s.field.xclkOut = true ∧ s.mgt.running = run) := by decide +kernel

theorem test_StartUps :
    (∀ f, f ∈ ([0, 1, 2] : List Nat) →
      let s := rig.modMgt fun m => { m with trial := true, trialFails := f, norTrial := true, norNext := 2, bootSlot := 2, slotA := [{ comps := 7 }], slotB := [{ comps := 7 }] }
      s.mgt.trial = true ∧ s.mgt.running = false ∧ s.pwr.standby = true ∧ s.mgt.trialFails = f ∧ s.mgt.norTrial = true ∧ s.mgt.norNext = 2 ∧
        s.slotPasses 2 = true ∧ s.slotPasses s.mgt.otherSlot = true) ∧
    (∀ e, e ∈ ([{}, { failed := [.hub] }] : List StartEnv) →
      let s := ((rig.modPwr fun p => { p with domainUp := false, startDue := true, level := 1, fails := [1, 2], holdup := 1 }).modClk
        fun c => { c with lock := true, onXclk := false }).modMgt fun m => { m with running := true }
      s.mayStart = true ∧ s.pwr.level = 1 ∧ s.pwr.holdup = 1 ∧
        (((s.modClk fun c => { c with ok := 0x3F#6 }).startUnits e).each (List.range 64) fun s c => s.selfTest e c).meetsSl2 = e.failed.isEmpty ∧
        2 ≤ (s.pwr.fails.filter fun t => decide (s.now < t + 600000000000)).length) := by decide +kernel

theorem test_PowerEvents :
    (rig.pwr.standby = true ∧ rig.pwr.in54 = true ∧ rig.pwr.domainUp = true ∧ rig.pwr.lossRunning = false ∧ rig.pwr.holdup = 0 ∧ rig.pwr.acting = []) ∧
    (∀ run : Bool,
      let s := rig.modPwr fun p => { p with in54 := false, lossRunning := run, level := 1 }
      s.pwr.in54 = false ∧ s.pwr.lossRunning = run ∧ s.pwr.level = 1) ∧
    hasLimit 0 0 = true ∧ hasLimit 55 1 = true := by decide +kernel

theorem test_SensorsAndEnergy :
    (let s := rig.modMgt fun m => { m with running := true }
     s.mgt.running = true ∧ isSensor 0 = true ∧ inRange 0 150000 = true ∧ inRange 0 150001 = false ∧ inRange 0 (BitVec.ofInt 32 (-40000)) = true ∧
       ([some 150000] : List (Option (BitVec 32)))[0]? = some (some 150000) ∧ ([none] : List (Option (BitVec 32)))[0]? = some none) ∧
    rig.pwr.domainUp = true ∧ (rig.ptn 0).live = true := by decide +kernel

/-- An open index of the search namespace 1 of partition 0. -/
def anIndex : IndexSt := { handle := 16, opened := some 0, csn := 5 }
/-- As job, with the namespace and an index in it. -/
def seek (e : List Byte) (ix : IndexSt) : State :=
  ((job e).modFlash fun f => { f with nss := [{ nsid := 1, purpose := 2, owner := 0, size := 1000000, attached := true }] }).setSearch { indexes := [ix] }
/-- As seek, with a record of the scan ring at 0. -/
def scans (r : List Byte) (ix : IndexSt) : State :=
  put ((seek [] ix).modPtn 0 fun q => { q with scan := { enable := true, avail := 1 } }) r
/-- A scan-ring record (R276). -/
def scanRec (op index nq count a d : Nat) : List Byte :=
  bytesLE 2 op ++ bytesLE 2 index ++ bytesLE 2 7 ++ bytesLE 2 1 ++ zeros 8 ++ bytesLE 4 nq ++ bytesLE 4 count ++ bytesLE 8 a ++ zeros 16 ++ bytesLE 8 d ++ zeros 8
/-- A change of an index by Weft: its entry. -/
def change (op : Nat) : List Byte := bytesLE 4 op ++ bytesLE 4 16 ++ bytesLE 8 1 ++ bytesLE 8 0x1000 ++ bytesLE 8 0x2000
theorem test_ChangesTakeCsns :
    (let x := anIndex.insertOne false (zeros 320)
     x.2.status = stOk ∧ tfind anIndex.known 0 = none ∧ anIndex.insertBad false (bytesLE 8 (2 ^ 56) ++ zeros 312) = true ∧
       ({ anIndex with sideMax := 0 } : IndexSt).insertBad false (zeros 320) = false ∧
       (({ anIndex with sideMax := 0 } : IndexSt).insertOne false (zeros 320)).2.status ≠ stOk ∧
       (({ anIndex with live := [(0, 9)], known := [(0, 9)] } : IndexSt).insertOne false (zeros 320)).2.status = stOk) ∧
    (let ix : IndexSt := { anIndex with live := [(7, 9)] }
     tfind ix.live 8 = none ∧ tfind ix.live 7 = some 9 ∧ ix.tombs.length < 2048 ∧ 2048 ≤ (List.replicate 2048 ({} : Tomb)).length) ∧
    (∀ op, op ∈ ([3, 4] : List Nat) → ∀ opened, opened ∈ ([none, some 0] : List (Option Nat)) →
      let ix : IndexSt := { anIndex with opened := opened }
      let s := seek (change op) ix
      let n := if op = 3 then ix.insLen else 8
      s.nvme.ps ≠ 2 ∧ s.admitted 1 op = some (theJob (change op)) ∧ s.flashWake.openIndex 0 16 = (if opened.isSome then some ix else none) ∧
        (s.flashWake.bufMap (theJob (change op)) 0 0x2000 (16 * 1) true).1 = some [(0x2000, 16)] ∧
        ((s.flashWake.bufMap (theJob (change op)) 0 0x2000 (16 * 1) true).2.bufReadAs (theJob (change op)) true 0 0x1000 (n * 1)).1.isSome = true) ∧
    (∀ op, op ∈ ([3, 4] : List Nat) →
      let r := scanRec op 16 0 1 0x1000 0x2000
      let s := scans r anIndex
      s.scanPending 0 < 64 ∧ s.ringFront 0 1 64 = some (0, r) ∧ s.scanWaits 0 (scanRecOf r) = false ∧ s.scanCause 0 (scanRecOf r) = none ∧ (scanRecOf r).op = op ∧
        s.heldAt 0 (s.recAt 0 1 64) false = none ∧
        ((s.recPoint 0 1 64 id).ringTaken 0 1).openIndex 0 (scanRecOf r).index = some anIndex) := by
  exact ⟨by decide +kernel, by decide +kernel, by decide +kernel, by decide +kernel⟩

/-- An entry of INDEX_OP (R361). -/
def indexOp (sub : Nat) : List Byte :=
  bytesLE 4 5 ++ bytesLE 2 16 ++ bytesLE 2 sub ++ (if sub = 0 then bytesLE 2 64 ++ bytesLE 2 0 ++ bytesLE 2 1 ++ bytesLE 2 1 ++ bytesLE 4 0 ++ bytesLE 4 1024 else zeros 16) ++
    bytesLE 8 0x1000 ++ bytesLE 8 0x2000
/-- An entry of INGEST_BIND (R362). -/
def bind (un : Nat) : List Byte := bytesLE 4 6 ++ bytesLE 2 63 ++ bytesLE 2 un ++ bytesLE 2 0x22F0 ++ bytesLE 6 0xFFFF ++ bytesLE 8 0x10000 ++ bytesLE 8 0x10000
/-- As job, with VA 0x10000 in board memory for HUB, and one binding. -/
def binding (un : Nat) : State :=
  (((job (bind un)).modXl fun x => { x with leaves := [{ agent := 64, va := 0x10000, pa := 0x10000000000, r := true, w := true }] }).modPtn 0
    fun q => { q with windows := q.windows ++ [{ pa := 0x10000000000, len := 2 ^ 30, tier := 1, r := true, w := true }] }).setIngest
    { binds := if un = 0 then [(62, { port := 1 })] else [(63, {})] }
theorem test_IndexLife :
    (let e := bytesLE 4 5 ++ bytesLE 2 16 ++ bytesLE 2 0 ++ bytesLE 2 64 ++ bytesLE 1 0 ++ bytesLE 1 0 ++ bytesLE 1 1 ++ bytesLE 1 1 ++ bytesLE 2 0 ++
       bytesLE 4 1 ++ bytesLE 4 1024 ++ bytesLE 8 0x1000 ++ bytesLE 8 0x2000
     let s := (seek e anIndex).setSearch {}
     let w := s.flashWake
     s.nvme.ps ≠ 2 ∧ s.admitted 1 5 = some (theJob e) ∧ leAt (theJob e).entry 6 1 = 0 ∧ w.handleOk 0 16 = true ∧ createBad (theJob e).entry = false ∧
       w.index 16 = none ∧ w.nsUnits (handleNs 16) + (4 * 64 * (1 + 16) + 16383) / 16384 ≤ w.nsRoom (handleNs 16) ∧
       (w.bufRead (theJob e) 0 0x1000 (4 * 64 * 1)).1.isSome = true ∧
       ((w.bufRead (theJob e) 0 0x1000 (4 * 64 * 1)).2.bufReadAs (theJob e) true 0 0x2000 (4 * 64 * 16)).1.isSome = true ∧
       ((seek e anIndex).flashWake.index 16).isSome = true) ∧
    (∀ sub, sub ∈ ([2, 3, 4] : List Nat) → ∀ m, m < 2 →
      let ix : IndexSt := { anIndex with merging := 2 * m, snaps := if m = 0 then [] else [(2, 5)] }
      let s := seek (indexOp sub) ix
      s.nvme.ps ≠ 2 ∧ s.admitted 1 5 = some (theJob (indexOp sub)) ∧ leAt (theJob (indexOp sub)).entry 6 1 = sub ∧
        s.flashWake.indexFor 0 16 = some ix ∧ ix.mergeWait = [] ∧ (s.search.indexes.map (·.handle)).Nodup ∧ ix.merging = 2 * m ∧
        (s.flashWake.bufMap (theJob (indexOp sub)) 0 0x1000 (s.flashWake.statBlock ix).length true).1.isSome = true) ∧
    (∀ n, n < 2 →
      let ix : IndexSt := { anIndex with merging := 1, mergeNew := if n = 0 then [] else [(0, [{}])] }
      let s := seek [] ix
      let w := s.flashWake
      s.nvme.ps ≠ 2 ∧ (s.job 1).isSome = true ∧ w.search.indexes.find? (fun i => i.merging == 1) = some ix ∧ w.index ix.handle = some ix ∧
        (∀ e, e ∈ ix.mergeNew → e.2.length ≤ 16777215) ∧
        w.nsUnits (handleNs ix.handle) + (ix.mergeNew.map fun e => ix.versionPages e.2).foldl (· + ·) 0 ≤ w.nsRoom (handleNs ix.handle) ∧
        (n = 1 → ix.mergeNew ≠ [] ∧ (tget (w.ptn (w.nsOwner (handleNs ix.handle))).regs 3 ({} : Regul)).holds 3 false = false ∧
          ((w.unheld (w.nsOwner (handleNs ix.handle)) 3 (.job 1)).placeAll ix 6 []).1.isSome = true)) ∧
    ((binding 0).admitted 1 6 = some (theJob (bind 0)) ∧ leAt (theJob (bind 0)).entry 6 1 % 2 = 0 ∧ leAt (theJob (bind 0)).entry 4 1 = 63 ∧
      tfind (binding 0).ingest.binds 63 = none ∧ (binding 0).ingest.binds.map (·.2.port) = [1] ∧ leAt (theJob (bind 0)).entry 5 1 = 0 ∧
      (binding 0).storeOk 0 (leAt (theJob (bind 0)).entry 7 1) = true ∧
      ((binding 0).bufMap (theJob (bind 0)) 0 (leAt (theJob (bind 0)).entry 0x10 8) (leAt (theJob (bind 0)).entry 0x18 8) true).1 = some [(0x10000000000, 0x10000)]) ∧
    ((binding 1).admitted 1 6 = some (theJob (bind 1)) ∧ leAt (theJob (bind 1)).entry 6 1 % 2 = 1 ∧ tfind (binding 1).ingest.binds 63 = some {} ∧
      tfind rig.ingest.binds 63 = none) ∧
    paRange 0x10000000000 = .board := by
  exact ⟨by decide +kernel, by decide +kernel, by decide +kernel, by decide +kernel, by decide +kernel, rfl⟩

/-- A leaf of 512 MiB for HUB, at stack address 0. -/
def wideLeaf (i : Nat) : Leaf := { agent := 64, va := i * 2 ^ 29, big := true, r := true, w := true, x := true }
/-- INDEX_OP OPEN at VA 0 with just the pages the context needs (R296). -/
def openEntry : List Byte := bytesLE 4 5 ++ bytesLE 2 16 ++ bytesLE 2 1 ++ zeros 32 ++ bytesLE 4 anIndex.ctxLen
/-- As seek, with every virtual address below the model aperture mapped for HUB. -/
def wide : State := (seek openEntry anIndex).modXl fun x => { x with leaves := (List.range (63 * 2 ^ 13)).map wideLeaf }

theorem find_only {α : Type} {l : List α} {p : α → Bool} {x : α} (hx : x ∈ l) (hp : p x = true) (h : ∀ y, y ∈ l → p y = true → y = x) :
    l.find? p = some x := by
  cases hf : l.find? p with
  | none => rw [List.find?_eq_none] at hf; exact absurd hp (by simpa using hf x hx)
  | some y => rw [h y (List.mem_of_find?_eq_some hf) (List.find?_some hf)]

theorem wide_leaf (va : Nat) (h : va < 63 * 2 ^ 42) :
    ((List.range (63 * 2 ^ 13)).map wideLeaf).find? (fun l => l.cache == 3 && l.covers 0 64 va) = some (wideLeaf (va / 2 ^ 29)) := by
  refine find_only (List.mem_map.2 ⟨_, List.mem_range.2 ?_, rfl⟩) ?_ ?_
  · omega
  · simp only [Leaf.covers, wideLeaf, Bool.and_eq_true, decide_eq_true_eq, beq_self_eq_true, ↓reduceIte]
    exact ⟨trivial, ⟨⟨trivial, trivial⟩, decide_eq_true (by omega)⟩, by omega⟩
  · intro y hy hc
    obtain ⟨i, _, rfl⟩ := List.mem_map.1 hy
    simp only [Leaf.covers, wideLeaf, Bool.and_eq_true, decide_eq_true_eq, ↓reduceIte] at hc
    have h1 := of_decide_eq_true hc.2.1.2
    have h2 := hc.2.2
    rw [show va / 2 ^ 29 = i by omega]

theorem wide_check (va : Nat) (need : Need) (l : Leaf) (hl : l = wideLeaf (va / 2 ^ 29)) : wide.leafCheck l va need true = .ok (va % 2 ^ 29) 0 := by
  subst hl
  have hpa : (wideLeaf (va / 2 ^ 29)).pa + (va - (wideLeaf (va / 2 ^ 29)).va) = va % 2 ^ 29 := by simp only [wideLeaf]; omega
  have hlt : va % 2 ^ 29 < 2 ^ 29 := Nat.mod_lt _ (by omega)
  generalize va % 2 ^ 29 = pa at *
  have hr : paRange pa = .stack := by rw [paRange, if_pos (by omega)]
  have hw : (wide.ptn 0).windowOf pa = some { pa := 0, len := 2 ^ 36, tier := 0, r := true, w := true } := by
    show List.find? _ [({ pa := 0, len := 2 ^ 36, tier := 0, r := true, w := true } : Window)] = _
    rw [List.find?_cons_of_pos (by simp; omega)]
  have hn : ∀ a b, wide.retireListed a b = false := fun _ _ => rfl
  have hz : fld pa 36 3 = 0 := by simp only [fld]; simp [Nat.shiftRight_eq_div_pow]; omega
  have hd : wide.paRetired pa = false := by
    rw [State.paRetired, hr]
    simp only [hn, hz, Bool.false_or]
    rfl
  rw [State.leafCheck, hpa, hr]
  show (match (wide.ptn 0).windowOf pa with
    | none => Xl.fault kWindow 3
    | some w => _) = _
  rw [hw]
  simp only [hd]
  simp [wideLeaf]

theorem wide_leaves : wide.xl.leaves = (List.range (63 * 2 ^ 13)).map wideLeaf := by simp only [wide, State.modXl, State.setXl]
theorem wide_translate (va : Nat) (need : Need) (h : va < 63 * 2 ^ 42) : wide.translate 0 64 va need true = (.ok (va % 2 ^ 29) 0, wide) := by
  have he : (wide.ptn 0).ptEn = true := rfl
  rw [State.translate, if_neg (by simp only [fld]; simp [Nat.shiftRight_eq_div_pow]; omega), he, if_neg (by simp)]
  simp only [State.lookup, State.cachedLeaf, wide_leaves, wide_leaf va h, show ¬ (64 < 64) by omega, if_false, wide_check va need _ rfl]

theorem leNat_bytesLE (n v : Nat) (h : v < 2 ^ (8 * n)) : leNat (bytesLE n v) = v := by
  induction n generalizing v with
  | zero => simp at h; subst h; rfl
  | succ n ih =>
    have : v >>> 8 < 2 ^ (8 * n) := by
      rw [Nat.shiftRight_eq_div_pow]
      exact Nat.div_lt_of_lt_mul (by rw [← Nat.pow_add]; rwa [Nat.add_comm])
    rw [bytesLE, leNat, ih _ this]
    simp only [BitVec.toNat_ofNat, Nat.shiftLeft_eq, Nat.shiftRight_eq_div_pow]
    omega

theorem wide_xlate (va n : Nat) (need : Need) (h : va < 63 * 2 ^ 42) : State.engXlate 0 64 need va n wide = (.ok (va % 2 ^ 29) 0, wide) := by
  have hr : paRange (va % 2 ^ 29) = .stack := by rw [paRange, if_pos (by omega)]
  simp only [State.engXlate, wide_translate va need h, hr]

theorem wide_pieces (need : Need) (ps acc : List (Nat × Nat)) (h : ∀ x, x ∈ ps → x.1 < 63 * 2 ^ 42) :
    ∃ qs, State.mapPieces (State.engXlate 0 64 need) ps acc wide = (.ok qs, wide) := by
  induction ps generalizing acc with
  | nil => exact ⟨acc, rfl⟩
  | cons x ps ih =>
    obtain ⟨va, n⟩ := x
    obtain ⟨qs, hq⟩ := ih (acc ++ [(va % 2 ^ 29, n)]) (fun y hy => h y (List.mem_cons_of_mem _ hy))
    exact ⟨qs, by simp only [State.mapPieces, wide_xlate va n need (h (va, n) List.mem_cons_self)]; simpa using hq⟩

theorem piece_lt (n : Nat) (x : Nat × Nat) (hn : n ≤ 63 * 2 ^ 42) (h : x ∈ pagePieces 0 n) : x.1 < 63 * 2 ^ 42 := by
  simp only [pagePieces] at h
  split at h
  · cases h
  · obtain ⟨i, hi, rfl⟩ := List.mem_map.1 h
    rw [List.mem_range] at hi
    simp only
    omega

theorem wide_right (n : Nat) (need : Need) (hn : n ≤ 63 * 2 ^ 42) : wide.mapWrong 0 0 n need = false := by
  rw [State.mapWrong, List.any_eq_false]
  intro x hx
  simp [wide_translate x.1 need (piece_lt n x hn hx)]

theorem wide_open (pa : Nat) (need : Need) : wide.needHeld 0 pa need = none := by
  have hd : ∀ r lc, (tget (wide.ptn 0).regs r {}).holds r lc = false := fun _ _ => rfl
  rw [State.needHeld]
  split
  · rfl
  · rw [State.heldAt]
    split
    · rw [hd]; simp
    · rfl

theorem none_found {α β : Type} (ps : List α) : ps.findSome? (fun _ => (none : Option β)) = none := by
  induction ps with
  | nil => rfl
  | cons x ps ih => exact ih

theorem wide_passes (need : Need) (ps : List (Nat × Nat)) : wide.piecesPoint 0 need ps =
    (.ok ps, wide.each ps fun s x => (s.unheld 0 0 (.buf x.1)).unheld 0 1 (.buf x.1)) := by
  rw [State.piecesPoint]
  simp only [wide_open, Option.map_none, none_found]

theorem test_IndexOpens : wide.nvme.ps ≠ 2 ∧ wide.admitted 1 5 = some (theJob openEntry) ∧ leAt (theJob openEntry).entry 6 1 = 1 ∧
    wide.flashWake.indexFor 0 (leAt (theJob openEntry).entry 4 2) = some anIndex ∧ leAt (theJob openEntry).entry 0x18 8 % 65536 = 0 ∧
    anIndex.ctxLen ≤ leAt (theJob openEntry).entry 0x28 4 ∧
    wide.flashWake.mapWrong 0 (leAt (theJob openEntry).entry 0x18 8) (leAt (theJob openEntry).entry 0x28 4 * 65536) { r := true, w := true } = false ∧
    wide.flashWake.mapWrong 0 (leAt (theJob openEntry).entry 0x18 8) anIndex.codeLen { x := true } = false ∧
    ∃ ps s1, wide.flashWake.bufMap (theJob openEntry) 0 (leAt (theJob openEntry).entry 0x18 8)
      (wide.flashWake.openBytes 48 (anIndex.ctxLen * 65536)).length true = (some ps, s1) := by
  have hc : anIndex.ctxLen < 63 * 2 ^ 26 := Nat.mod_lt _ (by omega)
  have hd : anIndex.codeLen < 2 ^ 32 := Nat.mod_lt _ (by omega)
  have hf : wide.flashWake = wide := by rfl
  have hl : leAt (theJob openEntry).entry 0x28 4 = anIndex.ctxLen := by
    show leNat (bytesLE 4 anIndex.ctxLen) = _
    exact leNat_bytesLE 4 _ (by omega)
  have hv : leAt (theJob openEntry).entry 0x18 8 = 0 := by decide +kernel
  have hb : (wide.openBytes 48 (anIndex.ctxLen * 65536)).length = anIndex.ctxLen * 65536 := by simp [State.openBytes]
  rw [hf, hl, hv, hb]
  refine ⟨by decide, rfl, by decide +kernel, rfl, rfl, Nat.le_refl _, wide_right _ _ (by omega), wide_right _ _ (by omega), ?_⟩
  obtain ⟨qs, hq⟩ := wide_pieces { r := false, w := true } (pagePieces 0 (anIndex.ctxLen * 65536)) [] (fun x hx => piece_lt _ x (by omega) hx)
  have hh : wide.jobHalted (theJob openEntry).id = false := rfl
  rw [State.bufMap, State.bufMapAs, hh]
  have hp : (theJob openEntry).ptn = 0 := rfl
  have hlc : (theJob openEntry).lc = false := rfl
  simp only [Bool.false_eq_true, if_false, State.bufXlate, hp, hlc, Bool.not_true]
  rw [hq]
  simp only [wide_passes]
  exact ⟨_, _, rfl⟩

/-- A SEARCH of one query (R358). -/
def searchEntry : List Byte :=
  bytesLE 4 2 ++ bytesLE 2 16 ++ bytesLE 2 1 ++ bytesLE 8 1 ++ bytesLE 8 0x1000 ++ bytesLE 8 0 ++ bytesLE 8 0x2000 ++ bytesLE 8 0xF000
theorem test_SearchesRun :
    (∀ opened, opened ∈ ([none, some 0] : List (Option Nat)) →
      let ix : IndexSt := { anIndex with opened := opened, snaps := [(1, 5)] }
      let s := seek searchEntry ix
      let w := s.flashWake
      s.nvme.ps ≠ 2 ∧ s.admitted 1 2 = some (theJob searchEntry) ∧ w.openIndex 0 (leAt (theJob searchEntry).entry 4 2) = (if opened.isSome then some ix else none) ∧
        ix.pinOf 1 = some 5 ∧ leAt (theJob searchEntry).entry 6 2 ≤ ix.lists ∧ w.mapWrong 0 0x2000 (scratchLen 1 1 1 0 ix.recSize) { r := true, w := true } = false ∧
        w.scanPending 0 < 64 ∧ leAt (theJob searchEntry).entry 0x18 8 = 0 ∧ (w.bufRead (theJob searchEntry) 0 0x1000 (1 * ix.recSize)).1.isSome = true ∧
        ((w.bufRead (theJob searchEntry) 0 0x1000 (1 * ix.recSize)).2.bufMapAs (theJob searchEntry) true 0 0x2000
          (scratchLen 1 1 1 0 ix.recSize) true).1.isSome = true) ∧
    (∀ headed : Bool,
      let b : Batch := { tag := 1, job := 1, index := 16, placed := true, invalid := 1, headed := headed }
      let j : Job := { theJob searchEntry with stage := .running }
      let s := ((seek searchEntry anIndex).modSh fun h => { h with jobs := [j] }).modSearch fun q => { q with batches := [b] }
      let w := s.flashWake
      let w1 := if b.headed then w else w.writeHeader b
      s.admitted 1 2 = none ∧ s.job 1 = some j ∧
        w.search.batches.find? (fun b => b.job == 1 && b.job != 0 && b.allReported) = some b ∧
        w.index b.index = some anIndex ∧ b.status = 0 ∧ (b.headed = true ∨ w.movesAt b.ptn b.dVa 0x2040 { w := true } = false) ∧
        (tget (w1.ptn j.ptn).regs 2 ({} : Regul)).holds 2 b.lc = false ∧
        (((w1.unheld j.ptn 2 (.job j.id)).fetchRest b anIndex).bufMap j 0 0xF000
          (((List.range b.nq).map fun q => w1.resultBlock j b anIndex q).flatMap (·.1)).length true).1.isSome = true) := by
  exact ⟨by decide +kernel, by decide +kernel⟩

/-- An index whose list 0 has one entry on channel 0: its entry page at block 0, its record page at block 4. -/
def fullIndex : IndexSt := { anIndex with vers := [(0, [{ ents := [{}], runs := [(0, 0, 4)] }])] }
theorem rec_at : fullIndex.recAt 5 0 (locMask 16) = some (4, 0) := by
  have h : locMask 16 < 2 ^ 30 := Nat.mod_lt _ (by omega)
  rw [IndexSt.recAt, if_pos h]
  show ((fullIndex.chanRecs 5 0)[locMask 16 ^^^ locMask 16]?).map _ = _
  rw [Nat.xor_self]
  decide +kernel
/-- As seek, with the index's two pages mapped, and a batch. -/
def batched (b : Batch) : State :=
  ((seek [] fullIndex).modFlash fun f => { f with map := [(mapKey 1 0, { valid := true, unit := 0 }), (mapKey 1 4, { valid := true, unit := 4 })] }).modSearch
    fun q => { q with batches := [b] }
def fetches : Batch := { tag := 1, index := 16, snap := 5, fetch := true, locs := [(0, locMask 16)] }
/-- The FETCH begun: its record page is unit 4, and no run is held for it. -/
def begun : State :=
  (((batched fetches).each [4] fun s u => s.modBlk (unitBlock u) fun b => { b with reads := b.reads + 1 }).charge 0 9 (some 2) (16384 * 1)).modBatch 1
    fun b => { b with placed := true, pages := [(0, 4)], heldRuns := [] }
theorem begins : ((batched fetches).unheld 0 2 (.batch 1 64)).beginFetch fetches fullIndex = begun := by
  have h : (batched fetches).unheld 0 2 (.batch 1 64) = batched fetches := rfl
  rw [h, State.beginFetch]
  simp only [State.recFx, fetches, List.length_cons, List.length_nil, show List.range (0 + 1) = [0] from rfl, List.zip_cons_cons, List.zip_nil_right,
    List.filterMap_cons, List.filterMap_nil, rec_at, Option.map_some]
  rfl
def piecesOf : BufXl → Option (List (Nat × Nat))
  | .ok ps => some ps
  | _ => none
theorem test_fetch : (batched fetches).ringFront 0 1 64 = none ∧ (batched fetches).nvme.ps ≠ 2 ∧ (batched fetches).fetchFront 0 = some fetches ∧
    (batched fetches).batch 1 = some fetches ∧ (batched fetches).index 16 = some fullIndex ∧ fetches.placed = false ∧ fetches.written = [] ∧
    (tget ((batched fetches).ptn 0).regs 2 ({} : Regul)).holds 2 false = false ∧
    begun.batch 1 = some { fetches with placed := true, pages := [(0, 4)] } ∧
    begun.fetchRecord { fetches with placed := true, pages := [(0, 4)] } fullIndex 0 0 (locMask 16) = (((begun.pageBytes 4).drop 0).take fullIndex.recSize, 0) ∧
    ((((begun.pageBytes 4).drop 0).take fullIndex.recSize).length = 256 ∧
      piecesOf (State.bufXlate 0 { w := true, lc := false } (pagePieces 0 256) [] begun).1 = some [(0, 256)]) := by
  refine ⟨by decide +kernel, by decide +kernel, rfl, rfl, rfl, rfl, rfl, by decide +kernel, rfl, ?_, by decide +kernel⟩
  rw [State.fetchRecord, show ({ fetches with placed := true, pages := [(0, 4)] } : Batch).snap = 5 from rfl, rec_at]
  rfl

def anExtent : ExtDesc := { tag := 1, qmask := 1, pages := 2, entries := 1 }
theorem test_QuernScans :
    (∀ op, op < 2 →
      let r := scanRec op 16 1 0 0x1000 0
      let s := scans r anIndex
      s.scanPending 0 < 64 ∧ s.ringFront 0 1 64 = some (0, r) ∧ s.scanWaits 0 (scanRecOf r) = false ∧ s.heldAt 0 (s.recAt 0 1 64) false = none ∧
        (scanRecOf r).op = op ∧ s.scanCause 0 (scanRecOf r) = (if op = 1 then none else some 1) ∧ s.openIndex 0 (scanRecOf r).index = some anIndex) ∧
    (let b : Batch := { tag := 1, index := 16, snap := 5, lists := [(0, 1)] }
     let s := batched b
     s.nvme.ps ≠ 2 ∧ (s.readyBatch false).map (fun x => (x.1, x.2.1, extentChans x.2.2)) = some (b, fullIndex, [0]) ∧ s.batch 1 = some b ∧
       (s.search.batches.find? fun b => b.endWaits && b.chans.isEmpty && b.lc == false) = none ∧ s.lcPending = false) ∧
    (let s := rig.setSearch { engs := [(63, { pend := [anExtent] })] }
     (s.eng 63).pend = anExtent :: [] ∧ (s.eng 63).queue.length < 64) ∧
    (∀ lost : Bool, ∀ v, v < 2 →
      let d : ExtDesc := { anExtent with vstart := v }
      let b : Batch := { tag := 1, index := 16, snap := 5, placed := true, chans := [0] }
      let s := ((batched b).modSearch fun q => { q with engs := [(0, { queue := [d] })] }).modFlash fun f => { f with lostUnits := if lost then [(3, ())] else [] }
      s.nvme.ps ≠ 2 ∧ (∀ d, d ∈ (s.eng 0).queue → s.descHeld d = false) ∧ (s.grantScan 0).1 = some d ∧ s.batch 1 = some b ∧ s.index 16 = some fullIndex ∧
        d.at_ = 0 ∧ d.done < d.pages ∧ s.pageLost (d.entryUnit + 4 * d.done) = lost ∧ d.trailerOk (s.pageBytes (d.entryUnit + 4 * d.done)) = (v == 0) ∧ b.tops = []) := by
  exact ⟨by decide +kernel, by decide +kernel, by decide +kernel, by decide +kernel⟩
theorem test_QuernScans_report : ∀ aborted : Bool,
    let b : Batch := { tag := 1, index := 16, snap := 5, placed := true, chans := [0, 1], job := 1, status := if aborted then stAbortFault else 0 }
    let s := batched b
    let s1 := (s.unheld 0 2 (.batch 1 0)).prefetch b fullIndex 0
    s.reportDue 0 = some b ∧ s.batch 1 = some b ∧ s.index 16 = some fullIndex ∧ 1 ∈ b.chans ∧ 1 ∉ b.reported ∧ s.batchAborted 1 = aborted ∧
      (tget (s.ptn 0).regs 2 ({} : Regul)).holds 2 false = false ∧ (s1.batch 1).isSome = true ∧
      (aborted = false → (((s1.batch 1).bind fun b1 => (s1.reportQueries b1 fullIndex 0).batch 1).map fun b2 => thas b2.written 0) = some true) := by
  decide +kernel

/-- As rig, with the hold-up bank READY and the flash side as `f` makes it. -/
def flash (f : FlashSt → FlashSt) : State := (rig.modPwr fun p => { p with holdup := 1 }).modFlash f
theorem test_FlashWorks :
    (rig.dieWaits 0 = true ∧
      (let s := flash fun f => { f with gather := [(0, [{}])], rows := [{ id := 1, oneBit := true, members := [9, 7] }], blocks := [(7, { oneBit := true })] }
       tget s.flash.gather 0 [] ≠ [] ∧ thas s.flash.progs 0 = false ∧ s.dieWaits (fcOf 0) = false ∧ s.pwr.lossRunning = false ∧ s.chanOk 0 = true ∧
         (State.needMember 0 true 4 s).1 = some 7)) ∧
    ((rig.blk 0x1FFFFF).pool = .free ∧ rig.pwr.domainUp = true ∧
      (flash fun f => { f with map := [(mapKey 1 5, { valid := true, unit := 9 })] }).unitOwner 9 = some (1, 5) ∧ rig.unitRun 9 = none ∧ rig.stripeDone 9 = false ∧
      (flash fun f => { f with rows := [{ id := 1, parityDone := [(2, 0)] }], blocks := [(0, { row := 1 })] }).stripeDone 9 = true ∧
      ∀ r, r ∈ rig.flash.rows → r.id ≠ (rig.blk 0x1FFFFF).row) ∧
    (let b : BlockSt := { oneBit := true, pool := .full, valid := 1, opened := 1 }
     let s := flash fun f => { f with blocks := [(3, b)], capUser := 40960, openSeq := 1, map := [(mapKey 1 5, { valid := true, millpond := true })] }
     s.dieWaits 0 = false ∧ s.flash.capUser ≤ s.millUsed * 10 ∧ s.nvme.ps ≠ 2 ∧ s.dieBlocks 0 = [(3, b)] ∧ b.opened ≤ s.flash.openSeq ∧
       (flash fun f => { f with capUser := 40970, map := s.flash.map }).millUsed * 10 < 40970 ∧ (s.blk 3).pool = .full) ∧
    (let b : BlockSt := { pool := .full, row := 1 }
     let s := flash fun f => { f with blocks := [(3, b)], dies := [(0, { free := 4095 }), (1, { free := 8192 })] }
     s.dieWaits 0 = false ∧ (s.fcd 0).free < 4096 ∧ 8192 ≤ (s.fcd 1).free ∧ s.dieWaits 1 = false ∧ s.nvme.ps ≠ 2 ∧ s.dieBlocks 0 = [(3, b)] ∧ s.flash.runs = [] ∧
       s.flash.poolBusy = false) := by
  exact ⟨by decide +kernel, by decide +kernel, by decide +kernel, by decide +kernel⟩

/-- As rig, with the log and the operations of one NOR bank. -/
def nor (l : LogSt) (bank : Nat) (ops : List NorOp) (long : Option LongFw) : State :=
  (rig.modMgt fun m => { m with log := l, running := true, long := long }).setNor bank ops
theorem test_NorWorks :
    (let l : LogSt := { queue := [{ code := 5 }], sectors := [[], List.replicate 63 {}] }
     l.queue = { code := 5 } :: [] ∧ l.progOn = false ∧ l.newest.length < 64 ∧ rig.pwr.standby = true) ∧
    (let l : LogSt := { queue := [{ code := 5 }], sectors := [[], List.replicate 64 {}] }
     64 ≤ l.newest.length ∧ l.erased = true ∧ 2 ≤ l.good) ∧
    (∀ b, b < 3 → ∀ erase again : Bool,
      let s := nor {} b [{ erase := erase, again := again }] (some { src := .mailbox, action := 0 })
      s.norBank b = [{ erase := erase, again := again }] ∧ s.norBank ((b + 1) % 3) = [] ∧ s.mgt.running = true ∧
        s.mgt.long = some { src := .mailbox, action := 0 }) ∧
    (∀ k, k ∈ ([575, 1600, 2047] : List (Fin 2048)) →
      let s := nor {} 1 [] none
      s.mgt.running = true ∧ s.norBank 2 = [] ∧ s.mgt.norRefresh = [] ∧ (k.val < 576 ∨ 1600 ≤ k.val) ∧ 0 < s.mgt.norSpare) ∧
    (let s := (nor {} 1 [] none).modMgt fun m => { m with keys := [{}, {}], slotB := [{ comps := 7 }] }
     s.mgt.running = true ∧ (s.mgt.keys.modify 1 fun k => { k with bad := true })[1]? = some { bad := true } ∧ s.slotPasses 2 = true ∧
       (s.mgt.log.sectors.getD 0 [])[0]? = some { code := 0x7000 }) ∧
    (let l : LogSt := { sectors := List.replicate 16 (List.replicate 64 { code := 5 }) }
     1024 ≤ ((((l.sectors.drop l.archived).filter fun x => decide (64 ≤ x.length)).flatMap fun x => x.filter LogEnt.real).drop l.archPart).length ∧ 2 ≤ (rig.modPwr fun p => { p with level := 3 }).pwr.level) := by
  exact ⟨by decide +kernel, by decide +kernel, by decide +kernel, by decide +kernel, by decide +kernel, by decide +kernel⟩

/-- As rig at SL3, with a command and its argument in the mailbox. -/
def mail (code : Nat) (arg : List Byte) : State :=
  (rig.modPwr fun p => { p with level := 3 }).modMgt fun m => { m with
    mbGo := true, mbCode := BitVec.ofNat 16 code, running := true, bootSlot := 1, mbArgLen := arg.length
    mbArg := (List.range arg.length).zip arg }
def mailOk (code : Nat) (arg : List Byte) : Bool :=
  let s := mail code arg
  s.mgt.mbGo && s.mgt.mbCode.toNat == code && s.mgt.running && !s.mgt.recovery && s.pwr.domainUp && s.mgt.long == none && s.mgt.mbArgs == arg
theorem mail_ready {code : Nat} {arg : List Byte} (h : mailOk code arg = true) : MailboxReady (mail code arg) code ∧ (mail code arg).mgt.mbArgs = arg := by
  simp only [mailOk, Bool.and_eq_true, beq_iff_eq, Bool.not_eq_true'] at h
  obtain ⟨⟨⟨⟨⟨⟨h1, h2⟩, h3⟩, h4⟩, h5⟩, h6⟩, h7⟩ := h
  exact ⟨⟨h1, h2, h3, h4, h5, h6⟩, h7⟩

/-- A firmware image of R409 with one component; the digest was computed outside the model. -/
def fwImage : List Byte := bytesLE 192
  0x807060504030201000000000000000000000000000000000000000000000000000000000000000000000000000000006ab61b74bc0b119b00000008000000580000000000000000000000000000010500000001000000c0030101005746584c
/-- Each command with an argument at the edge of what its statement allows. -/
def mails : List (Nat × List Byte) :=
  [(0x100, []), (0x110, bytesLE 2 161 ++ bytesLE 2 1), (0x120, bytesLE 4 1 ++ bytesLE 4 64), (0x500, []), (0x530, []), (0x200, bytesLE 4 0),
   (0x200, bytesLE 4 8388608), (0x201, bytesLE 1 2 ++ bytesLE 1 1), (0x201, bytesLE 1 2 ++ bytesLE 1 2), (0x210, bytesLE 8 (2 ^ 48)), (0x210, zeros 8),
   (0x300, bytesLE 4 1), (0x400, [0]), (0x400, [1]), (0x700, bytesLE 4 0xDEB60FF0), (0x501, [1]), (0x502, [0xFF]),
   (0x510, [1, 2, 7, 0, 0, 0, 0, 0]), (0x511, [1, 1, 0, 0] ++ bytesLE 4 10000 ++ zeros 16), (0x520, bytesLE 8 5 ++ [1]), (0x520, bytesLE 8 5 ++ [2]),
   (0x520, bytesLE 8 (2 ^ 30 - 1) ++ [1]), (0x521, [3, 1, 127, 0])]
theorem mails_ready : ∀ m, m ∈ mails → MailboxReady (mail m.1 m.2) m.1 ∧ (mail m.1 m.2).mgt.mbArgs = m.2 :=
  fun m hm => mail_ready ((by decide +kernel : ∀ m, m ∈ mails → mailOk m.1 m.2 = true) m hm)
theorem test_fwImage : fwBad fwImage = false := by decide +kernel

theorem test_ManagementCommands : (∀ m, m ∈ mails → MailboxReady (mail m.1 m.2) m.1 ∧ (mail m.1 m.2).mgt.mbArgs = m.2) ∧
    (let s := (mail 0x201 [2, 1]).modMgt fun m => { m with stag := fwImage, stagDone := true, slotB := [{ comps := 7 }] }
     s.mgt.stagDone = true ∧ s.mgt.stag.take (leAt s.mgt.stag 8 4) = fwImage ∧ s.mgt.secverMin ≤ leAt fwImage 7 1 ∧
       ((s.mgt.newSet (fwOf fwImage)).map fun i => i.bytes.length).foldl (· + ·) 0 ≤ 8388608 ∧ s.slotPasses 2 = true) ∧
    ((mail 0x200 (bytesLE 4 8388608)).modMgt fun m => { m with stagSrc := some .mailbox }).mgt.stagSrc = some .mailbox ∧
    ((mail 0x210 []).mgt.combination = BitVec.ofNat 64 (2 ^ 48) ∧ (mail 0x520 []).pwr.standby = true ∧ timeNs 5#64 < 1000000000 ∧
      1000000000 ≤ timeNs (BitVec.ofNat 64 (2 ^ 30 - 1))) ∧
    (let s := (mail 0x300 (bytesLE 4 1)).modFlash fun f => { f with nss := [{ nsid := 1, attached := true }] }
     (s.nsOf 1).isSome = true ∧ 2 ≤ s.pwr.level) ∧
    ((mail 0x300 (bytesLE 4 1)).modMgt fun m => { m with long := some {} }).mgt.long.isSome = true ∧
    (let e := bytesLE 4 0x0C ++ bytesLE 4 0x100 ++ bytesLE 8 0x1000
     (job e).admitted 1 0x0C = some (theJob e) ∧ leAt (theJob e).entry 4 2 = 0x100 ∧ leAt (theJob e).entry 8 8 ≠ 0 ∧ leAt (theJob e).entry 0x18 8 = 0 ∧
       ((job e).bufRead (theJob e) 0 0x1000 0).1 = some []) ∧
    ((mail 0 []).mgt.running = true ∧ (mail 0 []).mgt.rngOk = true) := by
  exact ⟨mails_ready, by decide +kernel, rfl, by decide +kernel, by decide +kernel, rfl, by decide +kernel, by decide +kernel⟩

/-- As rig, with the controller ready, an I/O queue and namespace 1 of 100 blocks with its key. -/
def nvme (f : NvmeSt → NvmeSt) : State :=
  ((rig.modNvme fun n => f { n with rdy := true, sqs := [(0, { size := 16 }), (1, { size := 16 })], cqs := [(0, { size := 16 }), (1, { size := 16 })] }).modFlash fun x =>
    { x with nss := [{ nsid := 1, size := 100, attached := true }] }).modMgt fun m => { m with keyRegs := [(1, 0)] }
def ioCmds : List NvmeCmd :=
  [{ opcode := 0x01 }, { opcode := 0x02 }, { opcode := 0x00 }, { opcode := 0x08 }, { opcode := 0x09, cdw11 := 4 }, { opcode := 0x81 }, { opcode := 0x82 }]
theorem test_IoCommands :
    (∀ c, c ∈ ioCmds → (nvme id).nvme.rdy = true ∧ ((nvme id).sq 1).isSome = true ∧ (nvme id).nvIoBad c = some nvInvalidNs ∧
      (let d : NvmeCmd := { c with nsid := 1, cdw10 := if c.opcode = 0x09 then 0 else 99 }
       (nvme id).nvIoBad d = none ∧ (nvme id).nvme.outs = [] ∧ (nvme id).nvme.ps ≠ 2 ∧ ((nvme id).nvFetch 1).2.prps d (4096 * nvNlb d) = some [(0, 4096)])) ∧
    (let s := nvme id
     s.nvProtectedNow 1 = false ∧ (s.modMgt fun m => { m with held := true }).nvProtectedNow 1 = true ∧ s.millUsed < s.flash.capUser ∧
       (tget s.flash.gather s.writeChan []).length + 1 < 64 ∧ nvDealloc { cdw11 := 4 } = true ∧ nvDealloc {} = false ∧ tsorted s.flash.map = true ∧ (s.nsOwner 1 < 32 → (tget (s.ptn (s.nsOwner 1)).regs 2 ({} : Regul)).holds 2 false = false ∧
         (tget (s.ptn (s.nsOwner 1)).regs 3 ({} : Regul)).holds 3 false = false) ∧
       (((s.modFlash fun f => { f with map := [(mapKey 1 99, { unreadable := true })] }).nsRead 1 99 1).1.contains .lost) = true) ∧
    (let s := ((nvme id).setMem (memWrite [] 0x1000000000000 (bytesLE 4 0 ++ bytesLE 4 1 ++ bytesLE 8 99)))
     s.nvPull [(0, 16)] = bytesLE 4 0 ++ bytesLE 4 1 ++ bytesLE 8 99 ∧ 99 + 1 ≤ ((s.nsOf 1).map fun x => x.size).getD 0) ∧
    ((nvme id).nsRead 1 99 1).1 = [0#32768].map LbRead.data ∧
    (let e : NvmeOut := { sq := 1, cmd := { opcode := 0x01, nsid := 1 }, started := true }
     e.started = true ∧ e.writeClass = true ∧ e.order < (nvme fun n => { n with outs := [e], orderNext := 1 }).nvme.orderNext) ∧
    (let s := (nvme fun n => { n with outs := [{ sq := 1, started := true, left := 1 }] }).modFlash fun f => { f with progs := [(0, { units := [{}] })] }
     tfind s.flash.progs 0 = some { units := [{}] } ∧ tfind s.flash.progs 1 = none ∧ tget s.flash.pieces ({} : GUnit).journal (1, []) = (1, []) ∧
       (tget s.flash.gather 0 []).length < 64 ∧ s.flash.waitMill = [] ∧ s.flash.rows = [] ∧ 0 ≠ noBlock) := by
  exact ⟨by decide +kernel, by decide +kernel, by decide +kernel, by decide +kernel, by decide +kernel, by decide +kernel⟩

theorem test_AdminCommands :
    ((nvme id).nvme.rdy = true ∧ ((nvme id).sq 0).isSome = true ∧ (nvme id).nvme.outs = [] ∧ (1#2 ≠ 0)) ∧
    (let f := ((nvme id).nvFetch 0).2
     (f.cq 128) = none ∧ f.sq 128 = none ∧ (f.cq 1).isSome = true ∧ (f.sq 1).isSome = true ∧ (f.nvme.sqs.any fun q => q.2.cq == 1) = false ∧
       (f.nvme.sqs.any fun q => q.2.cq == 0) = true ∧
       fld (0x0FFF0080 : Nat) 0 16 = 128 ∧ fld (0x0FFF0080 : Nat) 16 16 = 4095 ∧ bitN (0x00800001 : Nat) 0 = true ∧ fld (0x00800001 : Nat) 16 16 = 128 ∧
       f.prps {} 4096 = some [(0, 4096)] ∧ f.hostNs.map (·.nsid) = [1] ∧ (f.logPage 5).isSome = true ∧
       (f.logPage 5).map (fun bs => (padTo 4 (bs.drop 0)).length) = some 4 ∧ f.prps {} 4 = some [(0, 4)] ∧ bitN (0x8000 : Nat) 15 = true) ∧
    (let o : NvmeOut := { sq := 1, cmd := { cid := 7 } }
     o.started = false ∧ o.sq = 1 ∧ o.cmd.cid.toNat = 7 ∧ (nvme fun n => { n with outs := [o] }).nvme.outs = [o]) ∧
    (∀ fid, fid ∈ ([1, 2, 7, 8, 0x0A, 0x0B] : List Nat) → fid ∈ nvFeatures) ∧ 3 ∉ nvFeatures ∧
    (let s := nvme fun n => { n with sqs := [(0, { size := 16 })], cqs := [(0, { size := 16 })] }
     (s.sq 0).isSome = true ∧ (∀ q, q ∈ (s.nvFetch 0).2.nvme.sqs → q.1 = 0) ∧ ∀ q, q ∈ (s.nvFetch 0).2.nvme.cqs → q.1 = 0) ∧
    ((nvme fun n => { n with aers := [1, 2, 3, 4] }).nvme.aers.length = 4 ∧ (nvme fun n => { n with events := [(2, 0, 0)] }).nvme.events = [(2, 0, 0)] ∧
      2 ∉ (nvme id).nvme.eventMasked) ∧
    (fld (0x7F0002 : Nat) 0 8 = 2 ∧ 3#32 ≠ 0 ∧ 3#32 ≠ 0xFFFFFFFF#32 ∧ 4 * ((1023#32).toNat + 1) % 4096 = 0 ∧ fld (0x200 : Nat) 9 3 = 1 ∧ fld (0x200 : Nat) 0 9 = 0 ∧ fld (0x200 : Nat) 12 2 = 0 ∧
      ((nvme id).hostNs.filter fun n => n.nsid == 1).length = 1 ∧ 2 ≤ ((nvme id).modPwr fun p => { p with level := 2 }).pwr.level) := by
  exact ⟨by decide +kernel, by decide +kernel, by decide +kernel, by decide +kernel, by decide, by decide +kernel, by decide +kernel, by decide +kernel⟩

/-- As rig at SL3, with link 0 as given on its direction. -/
def linked (k : LinkSt) : State := (rig.modPwr fun p => { p with level := 3 }).modLinks fun l => { l with links := [(0, { k with dir := 1 })] }
/-- A partner's identity on a torus of one module. -/
def partner : LinkIdent := { dir := 2 }
theorem test_LinksWork :
    (∀ st, st ∈ ([0, 1, 2, 3] : List Nat) → ∀ f, f ∈ ([14, 15] : List Nat) →
      let k : LinkSt := { st := st, replayFails := f }
      (linked k).linksMay = true ∧ ((linked k).link 0).st = st ∧ ((linked k).link 0).dir = 1 ∧ ((linked k).link 0).aligned = false ∧
        ((linked k).link 0).replayFails = f) ∧
    (∀ n, n ∈ ([1, 2] : List Nat) → ((linked { st := 1, trainFails := n }).link 0).trainFails = n ∧ ((linked { st := 1, trainFails := n }).link 0).booksOk = true) ∧
    (∀ a : Bool, ((linked { st := 1, aligned := a }).link 0).st = 1 ∧ ((linked { st := 1, aligned := a }).link 0).aligned = a) ∧
    (commonVersion partner.verMin partner.verMax 0x0100 0x0100 = some 0x0100 ∧ commonVersion 0x0101 0x0102 0x0100 0x0100 = none ∧
      (linked {}).links.torus.partnerOk ((linked {}).link 0).dir partner = true ∧
      (linked {}).links.torus.partnerOk ((linked {}).link 0).dir { partner with posX := 1 } = false) ∧
    ((0, true, 0) ∉ (linked {}).links.dead ∧ 0 < (linked {}).links.torus.dim 0 ∧ ((linked {}).modLinks fun l => { l with dead := [(0, true, 0)] }).links.dead = [(0, true, 0)] ∧
      (5#64 ∉ (linked {}).links.abortSeen) ∧ ((linked {}).modLinks fun l => { l with abortSeen := [5#64] }).links.abortSeen = [5#64]) := by
  exact ⟨by decide +kernel, by decide +kernel, by decide +kernel, by decide +kernel, by decide +kernel⟩

/-- Two links on a ring of three in X; a packet for module 1 that arrives on the second. -/
def between : State := (linked { st := 2 }).modLinks fun l => { l with
  links := [(0, { st := 2, dir := 1 }), (1, { st := 2, dir := 2 })], torus := { dimX := 3 } }
/-- Its transit, by VC. -/
def across (vc : BitVec 3) : Transit := { dest := 1, vc := vc, plus := 1 }
theorem test_LinksTransit :
    ((between.link 1).st = 2 ∧ between.links.torus.number = 0 ∧ between.links.torus.dimLeft (across 4).dest = some 0 ∧
      bitN (across 4).plus.toNat 0 = true ∧ between.dirLinks (dirCode 0 true) = [0] ∧ between.links.dead.contains (0, true, between.links.torus.pos 0) = false) ∧
    ((between.modLinks fun l => { l with dead := [(0, true, 0)] }).links.dead.contains (0, true, between.links.torus.pos 0) = true) ∧
    (between.dirLinks (dirCode 0 false) = [1] ∧ bitN ({ across 4 with plus := 0 } : Transit).plus.toNat 0 = false) := by
  exact ⟨by decide +kernel, by decide +kernel, by decide +kernel⟩

/-- As linked and UP, with the first page of partition 0 exported under key 7. -/
def exporting : State := ((linked { st := 2 }).modPtn 0 fun q => { q with lnkEn := true, lnkKey := 7, expPages := 1, expRead := true, expWrite := true })
theorem test_LinksRequests :
    ((exporting.link 0).st = 2 ∧ (exporting.ptn 0).exports 8 0 8 false = false ∧ 0 < signalPage) ∧
    (∀ op, op < 5 → (exporting.ptn 0).exports 7 0 512 (op != 0) = true ∧
      piecesOf (exporting.exportMap 0 0 512 { r := op != 1, w := op != 0 }).1 = some [(0, 512)] ∧
      (exporting.exportMap 0 0 512 { r := op != 1, w := op != 0 }).2.remoteGet [(0, 512)] = some (zeros 512, false) ∧
      piecesOf ((exporting.exportMap 0 0 512 { r := op != 1, w := op != 0 }).2.piecesPoint 0 { r := op != 1, w := op != 0 } [(0, 512)]).1 = some [(0, 512)]) ∧
    ((signalPage + 56) % 8 = 0 ∧ (exporting.ptn 0).live = true ∧ (exporting.ptn 0).lnkEn = true ∧ (exporting.ptn 0).lnkKey = 7 ∧
      (signalPage + 56 - signalPage) / 8 < (exporting.ptn 0).syncCount) ∧
    (let s := rig.modCore 63 fun k => { k with threads := [(31, { pend := .uncached 0x2000000000000 none }), (30, { remoteW := 2 })], bobs := [{ srcPa := 0x2000000000000 }] }
     (s.thr 63 31).pend = .uncached 0x2000000000000 none ∧ paRemote 0x2000000000000 = true ∧ (s.thr 63 30).pend = .none ∧ (s.thr 63 30).remoteW = 2 ∧
       (s.core 63).bobs = [{ srcPa := 0x2000000000000 }]) := by
  exact ⟨by decide +kernel, by decide +kernel, by decide +kernel, by decide +kernel⟩

/-- A CHECKPOINT or RESTORE of partition 0 over no pages (R364). -/
def saveEntry (op mods id key : Nat) : List Byte := bytesLE 8 op ++ bytesLE 8 0x1000 ++ bytesLE 4 0 ++ bytesLE 2 mods ++ zeros 2 ++ bytesLE 8 id ++ bytesLE 8 key
/-- As job, with a checkpoint namespace and the slots given. -/
def saves (e : List Byte) (slots : Tab CkSlot) : State :=
  ((job e).modFlash fun f => { f with nss := [{ nsid := 1, purpose := 4, size := 1000000, attached := true }] }).modLinks fun l => { l with slots := slots }
/-- A running CHECKPOINT. -/
def saving (e : List Byte) (slots : Tab CkSlot) : State := (saves e slots).modSh fun h => { h with jobs := [{ theJob e with stage := .running }] }
/-- The well-known SHA-256 of the empty string, its first byte lowest. -/
def emptyDigest : BitVec 256 := 0x55B852781B9995A44C939B64E441AE2724B96F99C8F4FB9A141CFC9842C4B0E3
theorem test_CheckpointsAndCollectives :
    (∀ op, op ∈ ([8, 9] : List Nat) → ∀ mods, mods ∈ ([1, 2] : List Nat) →
      let e := saveEntry op mods 2 0
      let j := theJob e
      let s := saves e [(0, { id := 1, st := 3 })]
      let r := s.flashWake.bufRead j 0 (leAt j.entry 8 8) (16 * leAt j.entry 0x10 4)
      s.nvme.ps ≠ 2 ∧ s.job 1 = some j ∧ s.admitted 1 op = some j ∧ s.ckptKeyBad 0 j.entry = (mods == 2) ∧ r.1 = some [] ∧ r.2.coordThere 0 j.entry = true ∧
        r.2.lastCommitted 0 = 1 ∧ r.2.ckptArea = some { nsid := 1, purpose := 4, size := 1000000, attached := true } ∧
        (r.2.commitSlot 0 (r.2.lastCommitted 0)).writeSlot 0 (r.2.lastCommitted 0) = some 1 ∧ (r.2.job 1).isSome = true ∧ (r.2.coord 0).prepared = [] ∧
        (tget (r.2.ptn 0).regs 3 {}).holds 3 false = false ∧ r.2.slotOf 0 (ckptId j.entry) [2, 3] = none) ∧
    BitVec.ofNat 256 (leNat (sha256 [])) = emptyDigest ∧ (∀ same : Bool,
      let e := saveEntry 9 1 2 0
      let s := saves e [(0, { id := 2, st := 3, digest := if same then emptyDigest else 5 })]
      let r := s.flashWake.bufRead (theJob e) 0 (leAt (theJob e).entry 8 8) (16 * leAt (theJob e).entry 0x10 4)
      r.1 = some [] ∧ r.2.coordThere 0 (theJob e).entry = true ∧ r.2.slotOf 0 (ckptId (theJob e).entry) [2, 3] = some 0 ∧ r.2.lastCommitted 0 = 2 ∧ ((r.2.ckSlot 0).digest == emptyDigest) = same) ∧
    extentsBad [] = false ∧ extentVas [] = [] ∧ ckptKey (saveEntry 9 1 2 0) = 0 := by
  exact ⟨by decide +kernel, by decide +kernel, by decide +kernel, by decide +kernel, rfl, by decide +kernel⟩

theorem test_CheckpointsDecide :
    (let e := saveEntry 8 2 2 7
     let s := (saving e [(0, { id := 2, st := 1, key := 7 })]).modPtn 0 fun q => { q with lnkKey := 7, lnkCoord := 5 }
     s.job 1 = some { theJob e with stage := .running } ∧ leAt (theJob e).entry 0 1 = 8 ∧ s.slotOf (ckptKey e) (ckptId e) [1] = some 0 ∧
       s.coordOf 0 (theJob e).entry ≠ s.links.torus.number) ∧
    (let s := saves [] [(0, { id := 2, st := 3 })]
     (s.coord 0).cur = 0 ∧ s.lastCommitted 0 = 2) ∧
    (∀ m, m ∈ ([1, 2] : List Nat) →
      let s := (saves [] [(0, { id := 2, st := 2 })]).modLinks fun l => { l with coords := [{ cur := 2, modules := m }] }
      (s.coord 0).cur = 2 ∧ (s.coord 0).prepared = [] ∧ (s.coord 0).modules = m ∧ (s.coord 0).key = 0 ∧ s.links.torus.number = 0 ∧ s.slotOf 0 2 [2] = some 0 ∧
        s.ckptJobs 0 2 = []) ∧
    (let e := saveEntry 8 1 2 0
     let s := saving e [(0, { id := 2, st := 2 })]
     s.slotOf 0 2 [2] = some 0 ∧ s.ckptJobs 0 2 = [{ theJob e with stage := .running }] ∧ (s.coord 0).cur ≠ 2 ∧ (1#8).toNat ≠ stOk) := by
  exact ⟨by decide +kernel, by decide +kernel, by decide +kernel, by decide +kernel⟩

/-- A collective record on two modules (R384): one FP32 element, or none for BARRIER. -/
def collRec (op root rsv : Nat) : List Byte :=
  bytesLE 2 op ++ bytesLE 1 0 ++ bytesLE 1 1 ++ bytesLE 4 0xFFFF ++ bytesLE 8 9 ++
    (if op = 3 then zeros 48 else bytesLE 4 1 ++ bytesLE 2 root ++ zeros 2 ++ bytesLE 8 0x1000 ++ bytesLE 8 0x2000 ++ bytesLE 8 0x3000 ++ bytesLE 16 rsv)
/-- The record at the front of the collective ring of partition 0 on a torus of `n` modules. -/
def collective (n op root rsv : Nat) : State :=
  put (((rig.modPtn 0 fun q => { q with coll := { enable := true, avail := 1 }, lnkEn := true }).modLinks fun l => { l with torus := { dimX := n } }).modXl fun x => { x with
    leaves := [{ agent := 0x11F3, r := true, w := true }, { agent := 64, r := true, w := true }] }) (collRec op root rsv)
theorem test_Collectives :
    (∀ n, n ∈ ([1, 2] : List Nat) → ∀ x, x ∈ ([(1, 0), (1, 1), (2, 0), (2, 1), (3, 0)] : List (Nat × Nat)) →
      let bs := collRec x.1 0 x.2
      let s := collective n x.1 0 x.2
      s.ringFront 0 2 64 = some (0, bs) ∧ s.collBad 0 (collRecOf bs) = (x.2 == 1) ∧ s.xl.halted = [] ∧ s.heldAt 0 (s.recAt 0 2 64) false = none ∧ (collRecOf bs).op = x.1 ∧
        ((s.links.torus.group (collRecOf bs).dims).filter fun m => m != s.links.torus.number) = (if n = 2 then [1] else []) ∧ (collRecOf (collRec x.1 1 0)).seq = 9 ∧
        (collRecOf bs).agrees (collRecOf bs) = true ∧ (collRecOf bs).agrees { collRecOf bs with dims := 3 } = false) ∧
    (let bs := collRec 1 0 0
     let r := collRecOf bs
     let s := collective 1 1 0 0
     let a := State.bufXlate 0 { r := true } (pagePieces r.src r.bytes) [] (s.collPoint 0 id)
     let b := State.bufXlate 0 { w := true, free := true } (pagePieces r.scratch (2 * r.bytes)) [] (a.2.piecesFx 0 [(0x1000, 4)])
     let c := State.bufXlate 0 { w := true, free := true } (pagePieces r.dst r.bytes) [] b.2
     piecesOf a.1 = some [(0x1000, 4)] ∧ a.2.readPieces [(0x1000, 4)] = some (zeros 4) ∧ piecesOf b.1 = some [(0x3000, 8)] ∧ piecesOf c.1 = some [(0x2000, 4)]) ∧
    (let r := collRecOf (collRec 2 1 0)
     let s := collective 2 2 1 0
     let b := State.bufXlate 0 { w := true, free := true } (pagePieces r.scratch (2 * r.bytes)) [] (s.collPoint 0 id)
     let c := State.bufXlate 0 { w := true, free := true } (pagePieces r.dst r.bytes) [] b.2
     r.root = 1 ∧ s.collBad 0 r = false ∧ r.root ≠ s.links.torus.number ∧ piecesOf b.1 = some [(0x3000, 8)] ∧ piecesOf c.1 = some [(0x2000, 4)]) := by
  exact ⟨by decide +kernel, by decide +kernel, by decide +kernel⟩

/-- A Weft MGMT entry reading or writing a register (R367). -/
def csrEntry (code off n addr : Nat) : List Byte := bytesLE 4 0x0C ++ bytesLE 4 code ++ zeros 16 ++ bytesLE 8 addr ++ zeros 4 ++ bytesLE 4 off ++ bytesLE 8 n ++ bytesLE 8 3
theorem test_HostRegisters :
    (∀ f, f ∈ ([false, true] : List Bool) →
      let s := rig.modNvme fun n => { n with cc := if f then 1 else 0, psTarget := 2 }
      s.pwr.domainUp = true ∧ bitN s.nvme.cc.toNat 0 = f ∧ s.nvme.psTarget ≠ s.nvme.ps ∧ s.nvme.outs = []) ∧
    (fld 0x00460001 14 2 = 0 ∧ bitN 0x00460001 0 = true ∧ fld 0x00460001 16 4 = 6 ∧ fld 0x00460001 20 4 = 4 ∧ fld 0x00460001 4 3 = 0 ∧
      fld 0x00460001 11 3 = 0 ∧ fld 0x00460001 7 4 = 0 ∧ fld 0x00460201 7 4 = 4 ∧ fld 0x00460281 7 4 = 5 ∧ fld 0x00464001 14 2 ≠ 0) ∧
    (∀ a, a ∈ ([0, 0x1000] : List Nat) →
      let e := csrEntry 1 0 8 a
      (job e).mgmtJob 1 1 = some (theJob e) ∧ leAt (theJob e).entry 0x18 8 = a ∧ ((job e).bufMap (theJob e) 0 0x1000 8 true).1 = some [(0x1000, 8)] ∧
        leAt (theJob e).entry 0x28 1 = 8) ∧
    (let off := 0x81F008
     let e := csrEntry 2 off 8 0
     (job e).mgmtJob 1 2 = some (theJob e) ∧ leAt (theJob e).entry 0x24 4 = off ∧ csrDefined off = true ∧ csrAt off = some (.ptnCores 31) ∧ aligned off true = true ∧
       aligned (off + 4) true = false ∧ (job e).warp.locked = false ∧ ((job e).modWarp fun w => { w with locked := true }).warp.locked = true) ∧
    (csrDefined 0xFFFFFFF = false ∧ aligned 0x3800008 true = true ∧ ((nvme id).sq 0).isSome = true ∧ 0x200000 ≤ (0x200000#28).toNat ∧ 16 * 144 ≤ (0x900#28).toNat) ∧
    (∀ c, c ∈ ([1, 2] : List Nat) → ∀ l : Bool,
      let s := mailed c (bytesLE 4 0x81F008 ++ bytesLE 4 8 ++ bytesLE 8 7) fun w => { w with locked := l }
      s.pwr.domainUp = true ∧ s.pwr.isolated = false ∧ s.mgt.running = true ∧ s.mgt.recovery = false ∧ s.mgt.mbGo = true ∧
        s.mgt.mbCode.toNat = c ∧ 16 ≤ s.mgt.mbArgs.length ∧ leAt s.mgt.mbArgs 4 1 = 8 ∧ leAt s.mgt.mbArgs 0 4 % 8 = 0 ∧
        leAt s.mgt.mbArgs 5 3 = 0 ∧ csrAt (leAt s.mgt.mbArgs 0 4) = some (.ptnCores 31) ∧ s.warp.locked = l ∧ s.warp.lockErr = false) ∧
    ({ size := 2 } : RegAccess).fits = false ∧ ({ size := 8 } : RegAccess).fits = true ∧ ({ size := 4 } : RegAccess).fits = true ∧
    (∀ w, w ∈ ([16, 8, 4, 2, 1] : List Nat) → pcieOk { rate := 32, width := w } = true) ∧ pcieOk { rate := 64, flit := false } = false ∧
    rig.host.linkUp = false := by
  refine ⟨?_, ?_, ?_, ?_, ?_, ?_, ?_, ?_, ?_, ?_, ?_, ?_⟩ <;> decide +kernel

/-- As rig, with the chain and the time base as given. -/
def chained (c : ChainSt) : State := (rig.modMgt fun m => { m with running := true, bootSlot := 1 }).setChain { c with upUp := true }
def timed (t : TimeSt) : State := rig.setTime t
/-- An ENUM of one walk (R454). -/
def enumOf (walk flags count claimed : Nat) : ChainFrame := { dst := 0x3F, type := 1, payload := enumBytes walk flags count claimed }
theorem test_TimeAndChain :
    ((timed { setVal := 999999999 }).pwr.domainUp = true ∧ timeNs 999999999#64 < 1000000000 ∧ 1000000000 ≤ timeNs 1000000000#64 ∧
      (timed { pending := true }).time.pending = true ∧ (timed {}).time.source ≠ 3) ∧
    (∀ src, src ∈ ([1, 2, 3] : List Nat) → ∀ m : Bool,
      let s := timed { source := src, measured := m, ns := 1000, goodRun := 15 }
      s.time.source = src ∧ s.time.st < 3 ∧ s.time.measured = m ∧ s.time.ns ≤ 1000 ∧ s.time.goodRun = 15) ∧
    ((100000 : Int).natAbs ≤ 100000 ∧ 100000 < (-100001 : Int).natAbs) ∧
    (∀ d : Bool, (chained { downUp := true }).chainRx d = true) ∧
    ((∀ d : Bool, frameBad d { type := 4, crcOk := false } = true) ∧ frameBad false (enumOf 1 2 1 2) = false ∧ (chained {}).chain.upUp = true) ∧
    (∀ c, c ∈ ([0, 61] : List Nat) →
      frameBad true (enumOf 1 0 c 2) = false ∧ leAt (enumOf 1 0 c 2).payload 2 1 = c ∧ (chained { addr := 5 }).enumTake 1 c 2 = (5, false) ∧
        frameBad true (enumOf 2 0 c 0x3E) = false ∧ (chained {}).enumTake 2 c 0x3E = (6, false) ∧ bitN 2 5 = false) ∧
    (let s := chained { addr := 5, confirmed := true }
     let f : ChainFrame := { dst := 5, src := 0x80, type := 2, payload := [0, 1, 0, 0] }
     let r := s.mgmtRun (.chain 0) 0 0x100 [] 4096
     frameBad true f = false ∧ fld f.dst.toNat 0 6 ≠ 63 ∧ s.chainMine f = true ∧ s.chain.confirmed = true ∧ leAt f.payload 0 2 = 0x100 ∧ f.payload.drop 4 = [] ∧
       r.ans.isSome = true) ∧
    (frameBad true { dst := 6, type := 2, payload := zeros 4 } = false ∧ (chained { addr := 5, confirmed := true }).chainMine { dst := 6, type := 2, payload := zeros 4 } = false) ∧
    ((chained {}).chainOn = true) := by
  exact ⟨by decide +kernel, by decide +kernel, by decide +kernel, by decide +kernel, by decide +kernel, by decide +kernel, by decide +kernel, by decide +kernel, by decide +kernel⟩

/-- As rig, with the outputs of partition 0 loaded and energised. -/
def fielded (f : FieldSt → FieldSt) : State :=
  rig.setField (f { supplyLost := false, loaded := true, commanded := 0xFF, set := { dos := List.replicate 8 { source := 0, inhMask := 3, safe := true }, slotOwner := List.replicate 64 0 } })
/-- A field record (R431). -/
def fieldRec (op flip slot mask value period rsv : Nat) : List Byte :=
  bytesLE 1 op ++ bytesLE 1 flip ++ bytesLE 2 7 ++ bytesLE 2 1 ++ bytesLE 1 slot ++ bytesLE 1 mask ++ bytesLE 1 value ++ bytesLE 1 rsv ++ bytesLE 2 period ++ zeros 52
/-- As fielded, with the record at the front of the field ring. -/
def fieldRing (bs : List Byte) : State := put ((fielded id).modPtn 0 fun q => { q with fring := { enable := true, avail := 1 }, wdogExpired := true }) bs
theorem test_FieldOutputsAndInputs :
    (∀ l : Bool, (fielded fun f => { f with supplyLost := l }).field.supplyLost = l) ∧
    (let s := fielded fun f => { f with inh := [(0, { aRel := true, bRel := true }), (1, { aRel := true, bRel := true })] }
     (∀ n, n ∈ ([0, 7] : List Nat) → s.driven n = true) ∧ s.pwr.domainUp = true ∧ s.pwr.standby = true ∧ bitN (s.field.doSet 7).inhMask.toNat 1 = true ∧
       (fielded id).driven 0 = true ∧ (s.field.inhOf 1).aRel = (s.field.inhOf 1).bRel) ∧
    (∀ r, r ∈ ([fieldRec 1 0 63 0 0 0 0, fieldRec 1 1 0 0 0 0 0, fieldRec 2 0 0 0x81 0x80 0 0, fieldRec 3 0 0 0 0 65535 0, fieldRec 1 0 0 0 0 0 1] : List (List Byte)) →
      (fieldRing r).ringFront 0 3 64 = some (0, r) ∧ (fieldRing r).heldAt 0 ((fieldRing r).recAt 0 3 64) false = none ∧ (fieldRing r).fieldBad 0 r = (leAt r 9 1 == 1)) ∧
    (∀ w : Bool, ((fielded id).modPtn 31 fun q => { q with wdogRunning := w }).ptn 31 = { wdogRunning := w }) ∧
    (bitN (fielded id).field.di.toNat 7 = false) ∧
    (∀ f : Bool, ∀ d, d ∈ ([1999999999, 2000000000] : List Nat) →
      let s := fielded fun x => { x with inh := [(1, { fault := f, disagree := d })] }
      (s.field.inhOf 1).fault = f ∧ (s.field.inhOf 1).disagree = d ∧ (s.field.inhOf 1).disc * 1000000 = 2000000000) ∧
    (∀ b, b < 3 → (fielded fun f => { f with btnState := b }).field.btnState = b) ∧
    ((20#30).toNat = 20 ∧ (7999#30).toNat < 8000 ∧ (8000#30).toNat = 8000 ∧ (29999#30).toNat < 30000 ∧ (30000#30).toNat = 30000) := by
  exact ⟨by decide +kernel, by decide +kernel, by decide +kernel, by decide +kernel, by decide +kernel, by decide +kernel, by decide +kernel, by decide +kernel⟩

/-- A frame to every station with an EtherType and 46 octets. -/
def ethFrame (etype : Nat) (p : List Byte) : List Byte := List.replicate 6 0xFF ++ List.replicate 6 2 ++ [BitVec.ofNat 8 (etype / 256), BitVec.ofNat 8 etype] ++ padTo 46 p
/-- As rig, with port 0 as given and one ingest binding. -/
def wired (e : EthPort) : State :=
  ((rig.modMgt fun m => { m with running := true, bootSlot := 1 }).setField { ports := [(0, { e with linkUp := true, station := 7 })] }).setIngest { binds := [(0, { etype := 0x22F0 })] }
theorem test_FieldPorts :
    ((wired {}).mgt.running = true ∧ (wired {}).field.portsStopped = false ∧ ((wired {}).eth 0).linkUp = true) ∧
    (∀ t, t ∈ ([0x88B5, 0x22F0, 0x22F1] : List Nat) →
      let f := ethFrame t []
      60 ≤ f.length ∧ f.length ≤ 1518 ∧ (wired {}).accepts 0 (macOf f 0) = true ∧ (frameType f).2 = t ∧
        ((wired {}).ingest.binds.filter fun b => b.2.matches 0 (frameType f).2 (beNat ((f.drop (frameType f).1).take 2))) =
          (if t = 0x22F0 then [(0, { etype := 0x22F0 })] else [])) ∧
    (∀ n, n ∈ ([3, 4] : List Nat) → ((wired { queue := List.replicate n (0, []) }).eth 0).queue.length = n) ∧
    (∀ x, x ∈ ([(1, 7), (1, 0xFFFF), (1, 8), (2, 7)] : List (Nat × Nat)) → ∀ v, v ∈ ([1, 2] : List Nat) →
      let f := ethFrame 0x88B5 ([BitVec.ofNat 8 v, BitVec.ofNat 8 x.1, 0, 0, BitVec.ofNat 8 (x.2 / 256), BitVec.ofNat 8 x.2] ++ zeros 10 ++ List.replicate 8 0xFF)
      let s := wired { queue := [(0, f)] }
      let q := f.drop (frameType f).1
      (s.eth 0).queue = [(0, f)] ∧ beNat ((q.drop 0).take 1) = v ∧ beNat ((q.drop 1).take 1) = x.1 ∧ beNat ((q.drop 4).take 2) = x.2 ∧ (s.eth 0).station = 7) ∧
    ((wired { ready := [{}] }).eth 0).ready = [{}] ∧ ((wired { gatesNew := some {} }).eth 0).gatesNew = some {} ∧
    (∀ v, v ∈ ([1, 0xFE] : List Byte) →
      let g : Gates := { cycleNs := 10000, ents := [(v, 600), (~~~v, 9400)] }
      let s := wired { ready := [{}], gates := g }
      s.time.total < 600 ∧ (s.eth 0).gates = g ∧ s.mayReply 0 {} = decide (v = 1)) ∧
    ((Gates.start { base := 5 } : Nat) = 5 ∧ ((wired {}).time.total : Int) < 5 ∧ (Gates.start {} : Int) ≤ (wired {}).time.total) ∧
    ((wired {}).modPwr fun p => { p with isolated := true }).pwr.isolated = true ∧ (wired {}).pwr.isolated = false := by
  exact ⟨by decide +kernel, by decide +kernel, by decide +kernel, by decide +kernel, rfl, rfl, by decide +kernel, by decide +kernel, rfl, rfl⟩

/-- A boot slot whose image forbids raising the minimum beyond 5. -/
def fused (v : Nat) : State := (mail 0x211 (bytesLE 1 v)).modMgt fun m => { m with secverMin := 4, slotA := [{ comps := 7, secver := 5 }] }
def fusedOk (v : Nat) : Bool :=
  let s := fused v
  s.mgt.mbGo && s.mgt.mbCode.toNat == 0x211 && s.mgt.running && !s.mgt.recovery && s.pwr.domainUp && s.mgt.long == none && s.mgt.mbArgs == bytesLE 1 v
theorem test_SecverOnlyRises :
    (∀ v, v ∈ ([4, 5, 6] : List Nat) → fusedOk v = true) ∧ (fused 5).mgt.secverMin < 5 ∧ (fused 5).mgt.slot (fused 5).mgt.bootSlot = [{ comps := 7, secver := 5 }] ∧
    (fused 5).mgt.log.queue.length = 0 ∧ (∃ u, step (fused 5) = .next u) ∧
    ∃ i, i ∈ ((fused 5).modMgt fun m => { m with secverMin := 6 }).mgt.slot 1 ∧ i.secver < 6 :=
  ⟨by decide +kernel, by decide +kernel, rfl, rfl, ⟨_, rfl⟩, _, List.mem_singleton.2 rfl, by decide⟩

theorem test_InvariantKept : State.reset.Inv ∧ ∃ u, step State.reset = .next u := ⟨⟨(by decide +kernel : State.reset.mem.wf = true), (by decide +kernel : State.reset.time.ns < 1000000000), (by decide +kernel : State.reset.time.sec < 2 ^ 34)⟩, _, rfl⟩
theorem test_StepRunsFront :
    (rig.pending = [] ∧ (rig.modClk fun c => { c with onXclk := false }).clk.onXclk = false ∧ rig.time.rate = 0 ∧ rig.time.fracPpb = 0 ∧
      rig.time.ns + 5 < 1000000000 ∧ rig.time.sec < 2 ^ 34) := by decide +kernel

end Sys2Proof.Tests
end

/-! What a notice, a log entry and a write by physical address leave alone. -/

namespace Sys2Proof.Machine

/-- The state without what a notice can touch: the notice engine, the memory it writes its record to, the log and the event frames
the log draws, and the vectors raised (R97-R100, R106, R401, R456). -/
def State.outsideNotices (s : State) : State :=
  { s with notice := {}, mem := [], cores := [], dir := {}, xl := {}, chain := {}
           mgt := { s.mgt with log := {} }, host := { s.host with raised := 0 } }

section OutsideNotices
variable (s : State)

@[simp] theorem outsideNotices_modNotice (f : NoticeSt → NoticeSt) : (s.modNotice f).outsideNotices = s.outsideNotices := rfl
@[simp] theorem outsideNotices_setMem (v : Memory) : (s.setMem v).outsideNotices = s.outsideNotices := rfl
@[simp] theorem outsideNotices_modCore (c : Nat) (f : CoreSt → CoreSt) : (s.modCore c f).outsideNotices = s.outsideNotices := rfl
@[simp] theorem outsideNotices_modDir (f : Directory → Directory) : (s.modDir f).outsideNotices = s.outsideNotices := rfl
@[simp] theorem outsideNotices_modXl (f : XlatSt → XlatSt) : (s.modXl f).outsideNotices = s.outsideNotices := rfl
@[simp] theorem outsideNotices_modChain (f : ChainSt → ChainSt) : (s.modChain f).outsideNotices = s.outsideNotices := rfl
@[simp] theorem outsideNotices_modLog (f : LogSt → LogSt) : (s.modLog f).outsideNotices = s.outsideNotices := rfl
@[simp] theorem outsideNotices_raise (v : Nat) : (s.raise v).outsideNotices = s.outsideNotices := rfl

@[simp] theorem outsideNotices_ite (c : Prop) [Decidable c] (a b : State) :
    (if c then a else b).outsideNotices = if c then a.outsideNotices else b.outsideNotices := apply_ite ..

@[simp] theorem outsideNotices_each {α : Type} (xs : List α) (f : State → α → State)
    (hf : ∀ t x, (f t x).outsideNotices = t.outsideNotices) : (s.each xs f).outsideNotices = s.outsideNotices := by
  induction xs generalizing s with
  | nil => rfl
  | cons x xs ih => exact (ih (f s x)).trans (hf s x)

/-! The log (R401-R406). -/

@[simp] theorem outsideNotices_chainEvent (e : LogEnt) : (s.chainEvent e).outsideNotices = s.outsideNotices := by
  simp [State.chainEvent, State.chainUp]

@[simp] theorem outsideNotices_logAt (time : BitVec 64) (src : BitVec 16) (code : Nat) (payload : List Byte) :
    (s.logAt time src code payload).outsideNotices = s.outsideNotices := by
  simp [State.logAt]

@[simp] theorem outsideNotices_log (src : BitVec 16) (code : Nat) (payload : List Byte) :
    (s.log src code payload).outsideNotices = s.outsideNotices := outsideNotices_logAt ..

@[simp] theorem outsideNotices_logFolded (key period : Nat) (src : BitVec 16) (code : Nat) (payload : Nat → List Byte) :
    (s.logFolded key period src code payload).outsideNotices = s.outsideNotices := by
  unfold State.logFolded
  split
  · simp
  · split <;> simp

/-! Writes by physical address (R106, R132). -/

@[simp] theorem outsideNotices_putLine (line : Nat) (d : BitVec 512) : (s.putLine line d).outsideNotices = s.outsideNotices := rfl
@[simp] theorem outsideNotices_setL1 (c line : Nat) (v : Option L1Line) : (s.setL1 c line v).outsideNotices = s.outsideNotices := rfl
@[simp] theorem outsideNotices_modDirEnt (line : Nat) (f : DirEntry → DirEntry) :
    (s.modDirEnt line f).outsideNotices = s.outsideNotices := rfl
@[simp] theorem outsideNotices_unpoison (line : Nat) : (s.unpoison line).outsideNotices = s.outsideNotices := rfl

@[simp] theorem outsideNotices_purgeLine (line : Nat) : (s.purgeLine line).outsideNotices = s.outsideNotices := by
  simp [State.purgeLine]

@[simp] theorem outsideNotices_writeLine (line : Nat) (mask : BitVec 64) (d : BitVec 512) :
    (s.writeLine line mask d).outsideNotices = s.outsideNotices := by
  simp only [State.writeLine, outsideNotices_ite, outsideNotices_unpoison, outsideNotices_modDir, outsideNotices_putLine,
    outsideNotices_purgeLine, ite_self]
  split
  · rw [outsideNotices_each]
    · rfl
    · intro t c
      split <;> simp
  · rfl

@[simp] theorem outsideNotices_paWrite (pa : Nat) (bs : List Byte) : (s.paWrite pa bs).outsideNotices = s.outsideNotices := by
  unfold State.paWrite
  split
  · split
    · simp
    · split <;> simp
  · rfl

/-! The notice engine (R97-R102). -/

@[simp] theorem outsideNotices_modNring (r : Nat) (f : NoticeRing → NoticeRing) : (s.modNring r f).outsideNotices = s.outsideNotices := rfl

@[simp] theorem outsideNotices_putNotice (r : Nat) (rec : NoticeRec) : (s.putNotice r rec).outsideNotices = s.outsideNotices := by
  simp [State.putNotice, State.devWrite]

@[simp] theorem outsideNotices_holdNotice (r : Nat) (rec : NoticeRec) : (s.holdNotice r rec).outsideNotices = s.outsideNotices := by
  simp [State.holdNotice]

variable {s} in
theorem outsideNotices_of_writeHeld {r : Nat} {u : State} (h : s.writeHeld r = some u) : u.outsideNotices = s.outsideNotices := by
  simp only [State.writeHeld] at h
  split at h
  · cases h
  · split at h
    · split at h <;> cases h <;> simp
    · cases h

@[simp] theorem outsideNotices_sendNotice (r : Nat) (rec : NoticeRec) : (s.sendNotice r rec).outsideNotices = s.outsideNotices := by
  unfold State.sendNotice
  cases h : (s.holdNotice r rec).writeHeld r with
  | none => simp [h]
  | some u => simp [h, outsideNotices_of_writeHeld h]

@[simp] theorem outsideNotices_meetLevel (kind index level : Nat) : (s.meetLevel kind index level).1.outsideNotices = s.outsideNotices := by
  have hfold : ∀ (ws : List Nat) (acc : State × List Nat), (ws.foldl (fun acc w =>
      let m : WmSt := tget acc.1.notice.wms w {}
      if m.watches kind index then
        let r := m.meet level
        (acc.1.modNotice fun n => { n with wms := tset n.wms w r.1 }, if r.2 then acc.2 ++ [w] else acc.2)
      else acc) acc).1.outsideNotices = acc.1.outsideNotices := by
    intro ws
    induction ws with
    | nil => intro acc; rfl
    | cons w ws ih =>
      intro acc
      rw [List.foldl_cons, ih]
      dsimp only
      split <;> simp
  exact hfold _ _

@[simp] theorem outsideNotices_noticeStep (e : NoticeEvt) : (s.noticeStep e).1.outsideNotices = s.outsideNotices := by
  cases e with
  | send r rec => simp [State.noticeStep]
  | drain r =>
    cases h : s.writeHeld r with
    | none => simp [State.noticeStep, h]
    | some u => simp [State.noticeStep, h, outsideNotices_of_writeHeld h]
  | level kind index value => simp [State.noticeStep]

@[simp] theorem outsideNotices_noticeRun (fuel : Nat) (es : List NoticeEvt) :
    (State.noticeRun fuel s es).outsideNotices = s.outsideNotices := by
  induction fuel generalizing s es with
  | zero => rfl
  | succ fuel ih =>
    cases es with
    | nil => rfl
    | cons e es => simp [State.noticeRun, ih]

@[simp] theorem outsideNotices_notifyModule (code source : Nat) (data : BitVec 64) :
    (s.notifyModule code source data).outsideNotices = s.outsideNotices := outsideNotices_noticeRun ..

@[simp] theorem outsideNotices_meetLevels : s.meetLevels.outsideNotices = s.outsideNotices :=
  outsideNotices_each _ _ _ fun _ _ => outsideNotices_noticeRun ..

end OutsideNotices

end Sys2Proof.Machine

/-! What keeps the host's sessions and the NVMe controller as they are, and what keeps an ended session ended. -/

namespace Sys2Proof.Machine

/-- The doorbell pages, PF1's MSI-X table and the NVMe controller. -/
def State.sessions (s : State) : Tab WeftPage × Tab (BitVec 128) × NvmeSt := (s.host.pages, s.host.msix1, s.nvme)

/-- Notices and the log leave the sessions alone. -/
theorem sessions_of_outsideNotices {s u : State} (h : u.outsideNotices = s.outsideNotices) : u.sessions = s.sessions :=
  (congrArg State.sessions h : u.outsideNotices.sessions = s.outsideNotices.sessions)

section Parts
variable {u : State} {pages : Tab WeftPage} {msix1 : Tab (BitVec 128)} {nvme : NvmeSt} (h : u.sessions = (pages, msix1, nvme))
include h

theorem page_of_sessions (p : Nat) : u.page p = tget pages p {} :=
  congrArg (fun t : Tab WeftPage => tget t p {}) (congrArg Prod.fst h)
theorem msix1_of_sessions : u.host.msix1 = msix1 := congrArg (fun x => x.2.1) h
theorem nvme_of_sessions : u.nvme = nvme := congrArg (fun x => x.2.2) h

end Parts

section Sessions
variable (s : State)

@[simp] theorem sessions_ite (c : Prop) [Decidable c] (a b : State) :
    (if c then a else b).sessions = if c then a.sessions else b.sessions := apply_ite ..

@[simp] theorem sessions_each {α : Type} (xs : List α) (f : State → α → State) (hf : ∀ t x, (f t x).sessions = t.sessions) :
    (s.each xs f).sessions = s.sessions := by
  induction xs generalizing s with
  | nil => rfl
  | cons x xs ih => exact (ih (f s x)).trans (hf s x)

@[simp] theorem sessions_setFree (v : Nat) : (s.setFree v).sessions = s.sessions := rfl
@[simp] theorem sessions_setMctok (v : Tab McastTok) : (s.setMctok v).sessions = s.sessions := rfl
@[simp] theorem sessions_modCore (c : Nat) (f : CoreSt → CoreSt) : (s.modCore c f).sessions = s.sessions := rfl
@[simp] theorem sessions_modThr (c t : Nat) (f : Thread → Thread) : (s.modThr c t f).sessions = s.sessions := rfl
@[simp] theorem sessions_modPtn (p : Nat) (f : PtnSt → PtnSt) : (s.modPtn p f).sessions = s.sessions := rfl
@[simp] theorem sessions_modSync (f : SyncSt → SyncSt) : (s.modSync f).sessions = s.sessions := rfl
@[simp] theorem sessions_modXl (f : XlatSt → XlatSt) : (s.modXl f).sessions = s.sessions := rfl
@[simp] theorem sessions_modSh (f : ShuttleSt → ShuttleSt) : (s.modSh f).sessions = s.sessions := rfl
@[simp] theorem sessions_modModel (f : ModelSt → ModelSt) : (s.modModel f).sessions = s.sessions := rfl
@[simp] theorem sessions_modFlash (f : FlashSt → FlashSt) : (s.modFlash f).sessions = s.sessions := rfl
@[simp] theorem sessions_modSearch (f : SearchSt → SearchSt) : (s.modSearch f).sessions = s.sessions := rfl
@[simp] theorem sessions_modLinks (f : LinksSt → LinksSt) : (s.modLinks f).sessions = s.sessions := rfl
@[simp] theorem sessions_raise (v : Nat) : (s.raise v).sessions = s.sessions := rfl

@[simp] theorem sessions_log (src : BitVec 16) (code : Nat) (payload : List Byte) : (s.log src code payload).sessions = s.sessions :=
  sessions_of_outsideNotices (outsideNotices_log ..)

@[simp] theorem sessions_paWrite (pa : Nat) (bs : List Byte) : (s.paWrite pa bs).sessions = s.sessions :=
  sessions_of_outsideNotices (outsideNotices_paWrite ..)

@[simp] theorem sessions_meetLevels : s.meetLevels.sessions = s.sessions := sessions_of_outsideNotices (outsideNotices_meetLevels s)

@[simp] theorem sessions_chargeMem (p pa n : Nat) : (s.chargeMem p pa n).sessions = s.sessions := by
  unfold State.chargeMem
  split
  · simp [State.charge]
  · rfl

/-! Messages to other modules (R374). -/

@[simp] theorem sessions_modLink (l : Nat) (f : LinkSt → LinkSt) : (s.modLink l f).sessions = s.sessions := rfl

@[simp] theorem sessions_queueDir (dir : Nat) (flow : List Nat) (fs : List LkFlit) : (s.queueDir dir flow fs).sessions = s.sessions := by
  unfold State.queueDir
  split <;> simp

@[simp] theorem sessions_queueTo (m agent vc : Nat) (fs : Nat → List LkFlit) : (s.queueTo m agent vc fs).sessions = s.sessions := by
  unfold State.queueTo
  split <;> simp

@[simp] theorem sessions_sendLink (m : LinkMsg) : (s.sendLink m).sessions = s.sessions := by
  cases m <;> simp [State.sendLink, State.queueCtl]

@[simp] theorem sessions_coordAbort (key : BitVec 64) (status : Nat) : (s.coordAbort key status).sessions = s.sessions := by
  simp [State.coordAbort, State.setCoord]

@[simp] theorem sessions_ckptStopped (j : Job) (status : Nat) : (s.ckptStopped j status).sessions = s.sessions := by
  simp [State.ckptStopped, State.logCkptFail]

/-! The flash books (R306-R309, R317). -/

@[simp] theorem sessions_modBlk (k : Nat) (f : BlockSt → BlockSt) : (s.modBlk k f).sessions = s.sessions := rfl
@[simp] theorem sessions_modFcd (f : Nat) (g : FcDie → FcDie) : (s.modFcd f g).sessions = s.sessions := rfl

@[simp] theorem sessions_journal (f : Nat) (r : JRec) : (s.journal f r).sessions = s.sessions := by
  simp [State.journal]

@[simp] theorem sessions_toFree (k : Nat) : (s.toFree k).sessions = s.sessions := by
  simp [State.toFree, State.setPool]

@[simp] theorem sessions_leaveRow (k id : Nat) : (s.leaveRow k id).sessions = s.sessions := by
  unfold State.leaveRow
  split
  · rfl
  · simp [State.dropRow]

@[simp] theorem sessions_releaseUnit (u : Nat) : (s.releaseUnit u).sessions = s.sessions := by
  simp [State.releaseUnit, State.freeBlock]

@[simp] theorem sessions_freeRunAt (unit : Nat) : (s.freeRunAt unit).sessions = s.sessions := by
  unfold State.freeRunAt
  split <;> simp

@[simp] theorem sessions_holdRun (unit : Nat) (up : Bool) : (s.holdRun unit up).sessions = s.sessions := by
  simp only [State.holdRun]
  split <;> simp

@[simp] theorem sessions_writeBack (key : Nat) : (s.writeBack key).sessions = s.sessions := rfl

@[simp] theorem sessions_evictPage : s.evictPage.sessions = s.sessions := by
  simp only [State.evictPage]
  split
  · rfl
  · split <;> split <;> simp

@[simp] theorem sessions_remap (r : RunSt) (mapped : Bool) : (s.remap r mapped).sessions = s.sessions := by
  simp [State.remap, State.putEnt, State.mapTouch]

@[simp] theorem sessions_freeExtent (nsid lba : Nat) : (s.freeExtent nsid lba).sessions = s.sessions := by
  unfold State.freeExtent
  split <;> simp

/-! Indexes and batches (R271-R274, R282). -/

@[simp] theorem sessions_freeVersion (nsid : Nat) (v : Version) : (s.freeVersion nsid v).sessions = s.sessions := by
  simp [State.freeVersion]

@[simp] theorem sessions_freeIndex (h : Nat) : (s.freeIndex h).sessions = s.sessions := by
  unfold State.freeIndex
  split <;> simp

@[simp] theorem sessions_unpin (holder : Nat) : (s.unpin holder).sessions = s.sessions := by
  simp [State.unpin, State.retain, State.modIndex]

@[simp] theorem sessions_dropBatch (b : Batch) : (s.dropBatch b).sessions = s.sessions := by
  simp [State.dropBatch, State.leaveEngine, State.dropDescs, State.dropDesc, State.modEng, State.modBatch]

/-! Cores, threads and jobs (R73, R96, R248, R250). -/

@[simp] theorem sessions_fresh : s.fresh.2.sessions = s.sessions := rfl
@[simp] theorem sessions_modJob (id : Nat) (f : Job → Job) : (s.modJob id f).sessions = s.sessions := rfl
/- What runs inside `State.each` is proved by `simp`: a lemma proved by `rfl` does not discharge its side condition. -/
@[simp] theorem sessions_dropWaiter (w : Waiter) : (s.dropWaiter w).sessions = s.sessions := by
  simp [State.dropWaiter]
@[simp] theorem sessions_unsave (c job : Nat) : (s.unsave c job).sessions = s.sessions := by
  simp [State.unsave]
@[simp] theorem sessions_freeThread (c t : Nat) : (s.freeThread c t).sessions = s.sessions := by
  simp [State.freeThread]

@[simp] theorem sessions_laneStop (c eng : Nat) (o : EngOp) : (s.laneStop c eng o).2.sessions = s.sessions := by
  simp only [State.laneStop]
  split <;> simp

@[simp] theorem sessions_endOps (c id : Nat) : (s.endOps c id).sessions = s.sessions := by
  simp [State.endOps, State.scramble]

@[simp] theorem sessions_dropStreamWaiters (id : Nat) : (s.dropStreamWaiters id).sessions = s.sessions := by
  simp [State.dropStreamWaiters]

@[simp] theorem sessions_releaseCore (c : Nat) : (s.releaseCore c).sessions = s.sessions := by
  simp [State.releaseCore]

end Sessions

/-! Sessions that have ended stay ended (R240, R334). -/

/-- Between two states no session begins, and the NVMe controller stays as it is. -/
structure NoSessionBegins (s u : State) : Prop where
  nvme : u.nvme = s.nvme
  idle : ∀ p, s.page p = {} → u.page p = {}

namespace NoSessionBegins

theorem refl (s : State) : NoSessionBegins s s := ⟨rfl, fun _ h => h⟩

theorem of_sessions {s u : State} (h : u.sessions = s.sessions) : NoSessionBegins s u where
  nvme := nvme_of_sessions h
  idle p hp := (page_of_sessions h p).trans hp

theorem trans {s t u : State} (h : NoSessionBegins s t) (k : NoSessionBegins t u) : NoSessionBegins s u :=
  ⟨k.nvme.trans h.nvme, fun p hp => k.idle p (h.idle p hp)⟩

theorem each {α : Type} (f : State → α → State) (hf : ∀ t x, NoSessionBegins t (f t x)) (s : State) (xs : List α) :
    NoSessionBegins s (s.each xs f) := by
  induction xs generalizing s with
  | nil => exact refl s
  | cons x xs ih => exact (hf s x).trans (ih (f s x))

theorem ite {s a b : State} {c : Prop} [Decidable c] (ha : NoSessionBegins s a) (hb : NoSessionBegins s b) :
    NoSessionBegins s (if c then a else b) := by
  split
  · exact ha
  · exact hb

/-- A ring of an active session moves on: the page was not that of an ended one. -/
theorem modWring {s : State} {p : Nat} (r : Nat) (f : WeftRing → WeftRing) (h : s.page p ≠ {}) : NoSessionBegins s (s.modWring p r f) where
  nvme := rfl
  idle q hq := by
    have hne : q ≠ p := fun e => h (e ▸ hq)
    rw [← hq]
    simp [State.page, State.modWring, State.modPage, State.modHost, tget_tset_ne _ _ _ hne]

/-- A completion is written only to an active session (R240). -/
theorem complete (s : State) (p r tag status rflags downgrades result jobId : Nat) (noIrq : Bool) :
    NoSessionBegins s (s.complete p r tag status rflags downgrades result jobId noIrq) := by
  simp only [State.complete]
  split
  · exact refl s
  next hactive =>
    have hpage : s.page p ≠ {} := fun h => hactive (by rw [h]; rfl)
    have hring : ∀ (t : State) (f : WeftRing → WeftRing), t.sessions = s.sessions → NoSessionBegins s (t.modWring p r f) :=
      fun t f ht => (of_sessions ht).trans (modWring r f (page_of_sessions ht p ▸ hpage))
    refine ite (trans (hring _ _ ?_) (of_sessions (sessions_raise ..))) (hring _ _ ?_) <;> simp

theorem finishJob (s : State) (id status result : Nat) : NoSessionBegins s (s.finishJob id status result) := by
  unfold State.finishJob
  split
  · exact refl s
  · exact trans (of_sessions (by simp)) (complete ..)

theorem dropCheck (s : State) : NoSessionBegins s s.dropCheck :=
  each _ (fun t _ => ite (trans (of_sessions (sessions_freeIndex ..)) (finishJob ..)) (refl t)) s _

theorem endJob (s : State) (id status result : Nat) : NoSessionBegins s (s.endJob id status result) :=
  ((finishJob s id status result).trans (of_sessions (by simp))).trans (dropCheck _)

theorem loadFailed (s : State) (status offset : Nat) : NoSessionBegins s (s.loadFailed status offset) := by
  refine trans (of_sessions (by simp)) (ite (of_sessions (sessions_modSh ..)) ?_)
  exact each (fun t (j : Job) => t.finishJob j.id status 0) (fun t j => finishJob t j.id status 0) _ _

theorem stopOne (s : State) (id status : Nat) : NoSessionBegins s (s.stopOne id status) := by
  unfold State.stopOne
  split
  · exact refl s
  · refine trans (ite (trans (of_sessions ?_) (loadFailed ..)) (of_sessions ?_)) (endJob ..) <;> simp

theorem stopJob (s : State) (id status : Nat) : NoSessionBegins s (s.stopJob id status) := by
  unfold State.stopJob
  refine ite (stopOne s id status) ?_
  exact trans (each _ (fun t j => stopOne t j status) s _) (of_sessions (sessions_setMctok ..))

end NoSessionBegins

/-! Ending sessions (R334, R349, R350). -/

theorem nvme_endSession (s : State) (p : Nat) : (s.endSession p).nvme = s.nvme :=
  nvme_of_sessions (sessions_meetLevels _ : (s.endSession p).sessions = _)

theorem page_endSession (s : State) (p q : Nat) : (s.endSession p).page q = if q = p then {} else s.page q :=
  (page_of_sessions (sessions_meetLevels _) q).trans (tget_tset ..)

theorem NoSessionBegins.endSession (s : State) (p : Nat) : NoSessionBegins s (s.endSession p) where
  nvme := nvme_endSession s p
  idle q hq := by rw [page_endSession, hq, ite_self]

theorem page_each_endSession (s : State) (ps : List Nat) {p : Nat} (h : p ∈ ps) : (s.each ps fun s p => s.endSession p).page p = {} := by
  induction ps generalizing s with
  | nil => cases h
  | cons q ps ih =>
    cases h with
    | head => exact (NoSessionBegins.each _ NoSessionBegins.endSession _ ps).idle p (by rw [page_endSession, if_pos rfl])
    | tail _ h => exact ih _ h

/-! The function-level resets (R334). -/

/-- The state of an FLR of PF1 when every session has ended and every job has stopped, before its vectors are masked. -/
def State.flr1Stopped (s : State) : State :=
  let s1 := s.each (List.range 32) fun s p => s.endSession p
  s1.each s1.sh.jobs fun s j => s.stopJob j.id stRestart

theorem NoSessionBegins.stopJobs (s : State) (js : List Job) : NoSessionBegins s (s.each js fun s j => s.stopJob j.id stRestart) := by
  apply NoSessionBegins.each
  intro t j
  exact NoSessionBegins.stopJob t j.id stRestart

theorem noSessionBegins_flr1Stopped (s : State) : NoSessionBegins s s.flr1Stopped := by
  unfold State.flr1Stopped
  exact (NoSessionBegins.each _ NoSessionBegins.endSession s _).trans (NoSessionBegins.stopJobs ..)

theorem page_flr1Stopped (s : State) {p : Nat} (hp : p < 32) : s.flr1Stopped.page p = {} := by
  unfold State.flr1Stopped
  exact (NoSessionBegins.stopJobs ..).idle p (page_each_endSession s _ (List.mem_range.2 hp))

/-- An FLR of PF1 ends on the stopped state with every vector of PF1 masked, and its log entry. -/
theorem sessions_flr1 (s : State) : s.flr1.sessions =
    (s.flr1Stopped.host.pages, s.flr1Stopped.host.msix1.map (fun e => (e.1, e.2 ||| BitVec.ofNat 128 (2 ^ 96))), s.flr1Stopped.nvme) := by
  unfold State.flr1 State.flr1Stopped
  dsimp only
  rw [sessions_log]
  generalize State.each (State.each s (List.range 32) _) _ _ = t
  rfl

theorem nvme_flr1 (s : State) : s.flr1.nvme = s.nvme :=
  (nvme_of_sessions (sessions_flr1 s)).trans (noSessionBegins_flr1Stopped s).nvme

theorem page_flr1 (s : State) {p : Nat} (hp : p < 32) : s.flr1.page p = {} :=
  (page_of_sessions (sessions_flr1 s) p).trans (page_flr1Stopped s hp)

theorem masked_flr1 (s : State) {e : Nat × BitVec 128} (he : e ∈ s.flr1.host.msix1) : e.2.getLsbD 96 = true := by
  obtain ⟨x, _, rfl⟩ := List.mem_map.1 (msix1_of_sessions (sessions_flr1 s) ▸ he)
  have hbit : (BitVec.ofNat 128 (2 ^ 96)).getLsbD 96 = true := by decide
  simp only [BitVec.getLsbD_or, hbit, Bool.or_true]

end Sys2Proof.Machine

/-! The controller's registers (R334, R335, R345, R346). -/

namespace Sys2Proof.Machine

theorem jbuf_flushJournal (s : State) (f g : Nat) : ((s.flushJournal f).fcd g).jbuf = if g = f then [] else (s.fcd g).jbuf := by
  simp only [State.flushJournal, State.fcd, State.modFcd, State.modFlash, State.setFlash_flash, tget_tset]
  split <;> rfl

/-- Writing the journal buffers of some dies changes only the flash books, there neither the map nor a buffer that is empty. -/
theorem each_flushJournal (s : State) (fs : List Nat) : ∃ q, s.each fs State.flushJournal = s.setFlash q ∧ q.map = s.flash.map ∧
    ∀ f, f ∈ fs ∨ (s.fcd f).jbuf = [] → (tget q.dies f {}).jbuf = [] := by
  induction fs generalizing s with
  | nil => exact ⟨s.flash, rfl, rfl, fun f h => h.resolve_left List.not_mem_nil⟩
  | cons g fs ih =>
    obtain ⟨q, hq, hmap, hempty⟩ := ih (s.flushJournal g)
    refine ⟨q, hq, hmap, fun f h => hempty f ?_⟩
    rw [jbuf_flushJournal]
    by_cases hfg : f = g
    · exact .inr (if_pos hfg)
    · rw [if_neg hfg]
      exact h.imp_left fun hmem => (List.mem_cons.1 hmem).resolve_left hfg

/-- Writing the journal buffers of all eight dies. -/
theorem each_flushJournal_all (s : State) : ∃ q, s.each (List.range 8) State.flushJournal = s.setFlash q ∧ q.map = s.flash.map ∧
    ∀ f, f < 8 → ((s.setFlash q).fcd f).jbuf = [] := by
  obtain ⟨q, hq, hmap, hempty⟩ := each_flushJournal s (List.range 8)
  exact ⟨q, hq, hmap, fun f hf => hempty f (.inl (List.mem_range.2 hf))⟩

/-! A write of CC (R335). -/

/-- The formats that a value of CC enables the controller with (R335). -/
def CcFormats (v : Nat) : Prop := fld v 16 4 = 6 ∧ fld v 20 4 = 4 ∧ fld v 4 3 = 0 ∧ fld v 11 3 = 0 ∧ fld v 7 4 ≤ 4

section WriteOfCc
variable {s : State} {cc : BitVec 32}

theorem shnWrite_of_no_shn (h : fld cc.toNat 14 2 = 0) : s.shnWrite cc = s := if_pos h

/-- RDY follows EN at SL2 (R335): it is set, or stays as it was. -/
theorem nvReadyCheck_of_en (hen : bitN s.nvme.cc.toNat 0 = true) :
    s.nvReadyCheck = s.setNvme { s.nvme with rdy := s.nvme.rdy || (!s.nvme.cfs && decide (2 ≤ s.pwr.level)) } := by
  generalize hx : (!s.nvme.cfs && decide (2 ≤ s.pwr.level)) = x
  have hcond : (bitN s.nvme.cc.toNat 0 && !s.nvme.rdy && !s.nvme.cfs && decide (2 ≤ s.pwr.level)) = (!s.nvme.rdy && x) := by
    rw [hen, Bool.true_and, Bool.and_assoc, hx]
  have hkeep : ∀ b, s.nvme.rdy = b → s = s.setNvme { s.nvme with rdy := b } := by
    rintro b rfl
    rfl
  simp only [State.nvReadyCheck, hcond]
  cases hrdy : s.nvme.rdy with
  | true => exact hkeep true hrdy
  | false =>
    cases x with
    | true => rfl
    | false => exact hkeep false hrdy

theorem ccWrite_enable (hen : bitN cc.toNat 0 = true) (hwas : bitN s.nvme.cc.toNat 0 = false) (hf : CcFormats cc.toNat) :
    s.ccWrite cc = s.setNvme { s.nvme with
      cc := cc, rdy := s.nvme.rdy || (!s.nvme.cfs && decide (2 ≤ s.pwr.level))
      sqs := [(0, { base := s.nvme.asq.toNat, size := fld s.nvme.aqa.toNat 0 12 + 1, cq := 0 })]
      cqs := [(0, { base := s.nvme.acq.toNat, size := fld s.nvme.aqa.toNat 16 12 + 1, vector := 0 })] } := by
  obtain ⟨h16, h20, h4, h11, h7⟩ := hf
  have hgood : ¬ (fld cc.toNat 16 4 ≠ 6 ∨ fld cc.toNat 20 4 ≠ 4 ∨ fld cc.toNat 4 3 ≠ 0 ∨ fld cc.toNat 11 3 ≠ 0 ∨ 4 < fld cc.toNat 7 4) := by
    omega
  simp only [State.ccWrite, hen, hwas, if_neg hgood, Bool.not_false, Bool.and_self, if_true]
  exact nvReadyCheck_of_en hen

theorem ccWrite_badFormats (hen : bitN cc.toNat 0 = true) (hwas : bitN s.nvme.cc.toNat 0 = false) (hf : ¬ CcFormats cc.toNat) :
    s.ccWrite cc = s.setNvme { s.nvme with cc := cc, cfs := true } := by
  have hbad : fld cc.toNat 16 4 ≠ 6 ∨ fld cc.toNat 20 4 ≠ 4 ∨ fld cc.toNat 4 3 ≠ 0 ∨ fld cc.toNat 11 3 ≠ 0 ∨ 4 < fld cc.toNat 7 4 := by
    unfold CcFormats at hf
    omega
  simp only [State.ccWrite, hen, hwas, if_pos hbad]
  rfl

theorem ccWrite_disable (hen : bitN cc.toNat 0 = false) (hwas : bitN s.nvme.cc.toNat 0 = true) :
    s.ccWrite cc = s.setNvme { s.nvme with
      cc := cc, rdy := false, cfs := false, shst := 0, sqs := [], cqs := [], outs := [], feats := [], aers := [], events := []
      eventMasked := [], errLog := [], intm := 0 } := by
  simp only [State.ccWrite, hen, hwas]
  rfl

theorem ccWrite_sameEn (h : bitN cc.toNat 0 = bitN s.nvme.cc.toNat 0) : s.ccWrite cc = s.setNvme { s.nvme with cc := cc } := by
  simp only [State.ccWrite, h]
  cases bitN s.nvme.cc.toNat 0 <;> rfl

theorem shnWrite_shn (h : fld cc.toNat 14 2 ≠ 0) :
    s.shnWrite cc = (s.each (List.range 8) State.flushJournal).modNvme fun n => { n with shst := 2 } := if_neg h

/-- CONTROLLER_ENABLE and SHUTDOWN are the same write of CC. -/
theorem exec_ccRow {row : Instr} (hrow : row = .controllerEnable cc ∨ row = .shutdown cc) :
    exec row s = .next (if s.pwr.domainUp then (s.ccWrite cc).shnWrite cc else s) := by
  obtain rfl | rfl := hrow <;> rfl

theorem completes_ccRow_down {row : Instr} (hrow : row = .controllerEnable cc ∨ row = .shutdown cc) (hdown : s.pwr.domainUp = false) :
    Completes row s fun u => u = s := ⟨s, by rw [exec_ccRow hrow, hdown]; rfl, rfl⟩

theorem completes_ccRow {row : Instr} (hrow : row = .controllerEnable cc ∨ row = .shutdown cc) (hup : s.pwr.domainUp = true)
    {P : State → Prop} (h : P ((s.ccWrite cc).shnWrite cc)) : Completes row s P := ⟨_, by rw [exec_ccRow hrow, hup]; rfl, h⟩

/-- A write of CC with SHN that leaves EN writes the journal buffers and completes the shutdown. -/
theorem shutdown_spec (hshn : fld cc.toNat 14 2 ≠ 0) (hen : bitN cc.toNat 0 = bitN s.nvme.cc.toNat 0) :
    let u := (s.ccWrite cc).shnWrite cc
    u.nvme = { s.nvme with cc := cc, shst := 2 } ∧ (∀ f, f < 8 → (u.fcd f).jbuf = []) ∧ u.flash.map = s.flash.map ∧ SameBytes s u := by
  obtain ⟨q, hq, hmap, hempty⟩ := each_flushJournal_all (s.setNvme { s.nvme with cc := cc })
  rw [shnWrite_shn hshn, ccWrite_sameEn hen, hq]
  exact ⟨rfl, hempty, hmap, fun _ => rfl⟩

end WriteOfCc

/-- A write of CC without SHN ends in the state that EN decides. -/
theorem completes_ccWrite_no_shn {cc : BitVec 32} {s : State} {row : Instr} (hrow : row = .controllerEnable cc ∨ row = .shutdown cc)
    (hup : s.pwr.domainUp = true) (hshn : fld cc.toNat 14 2 = 0) {t : State} (ht : s.ccWrite cc = t) : Completes row s (· = t) :=
  completes_ccRow hrow hup (by rw [shnWrite_of_no_shn hshn, ht])

/-! Power states (R345, R346). -/

theorem nvGo_of_no_outs {s : State} (h : s.nvme.outs = []) : s.nvGo = s := by
  simp [State.nvGo, nvPump, State.nvNote, State.each, h]

/-- The state targeted is held; the operational state is the last one held (R346). -/
def NvmeSt.holdTarget (n : NvmeSt) : NvmeSt := { n with ps := n.psTarget, psOper := if n.psTarget = 2 then n.psOper else n.psTarget }

/-- A transition writes the journal buffers on the way into PS2, and holds the state targeted. -/
theorem exec_powerStateTransitionDone {s : State} (hne : s.nvme.psTarget ≠ s.nvme.ps) :
    ∃ q, exec .powerStateTransitionDone s = .next (((s.setFlash q).modNvme NvmeSt.holdTarget).nvGo) ∧
      (s.nvme.psTarget = 2 → ∀ f, f < 8 → ((s.setFlash q).fcd f).jbuf = []) := by
  have hexec : exec .powerStateTransitionDone s = .next (((if s.nvme.psTarget = 2 then s.each (List.range 8) State.flushJournal else s).modNvme
      NvmeSt.holdTarget).nvGo) := congrArg Host.Outcome.next (if_neg hne)
  by_cases h2 : s.nvme.psTarget = 2
  · obtain ⟨q, hq, -, hempty⟩ := each_flushJournal_all s
    exact ⟨q, by rw [hexec, if_pos h2, hq], fun _ => hempty⟩
  · exact ⟨s.flash, by rw [hexec, if_neg h2]; rfl, fun h => absurd h h2⟩

theorem powerStateTransition_spec {s : State} (hne : s.nvme.psTarget ≠ s.nvme.ps) (houts : s.nvme.outs = []) :
    Completes .powerStateTransitionDone s fun u => u.nvme = s.nvme.holdTarget ∧
      (s.nvme.psTarget = 2 → ∀ f, f < 8 → (u.fcd f).jbuf = []) := by
  obtain ⟨q, hexec, hempty⟩ := exec_powerStateTransitionDone hne
  rw [nvGo_of_no_outs (s := (s.setFlash q).modNvme NvmeSt.holdTarget) houts] at hexec
  exact ⟨_, hexec, rfl, hempty⟩

/-! Resets (R334). -/

theorem flrPf0_spec {s : State} (hup : s.pwr.domainUp = true) : Completes .flrPf0 s fun u =>
    u = s.setNvme u.nvme ∧ u.nvme.cc = 0 ∧ u.nvme.rdy = false ∧ u.nvme.sqs = [] ∧ u.nvme.cqs = [] ∧ u.nvme.outs = [] :=
  ⟨s.flr0, congrArg Host.Outcome.next (if_pos hup), rfl, rfl, rfl, rfl, rfl, rfl⟩

theorem flrPf1_spec {s : State} (hup : s.pwr.domainUp = true) : Completes .flrPf1 s fun u =>
    (∀ p, p < 32 → tget u.host.pages p {} = {}) ∧ ∀ e, e ∈ u.host.msix1 → e.2.getLsbD 96 = true :=
  ⟨s.flr1, congrArg Host.Outcome.next (if_pos hup), fun _ hp => page_flr1 s hp, fun _ he => masked_flr1 s he⟩

theorem hotReset_spec {s : State} (hup : s.pwr.domainUp = true) : Completes .hotReset s fun u =>
    u.host.linkUp = false ∧ u.host.msix0 = [] ∧ u.host.msix1 = [] ∧ u.nvme.cc = 0 ∧ u.nvme.rdy = false ∧ u.nvme.sqs = [] := by
  refine ⟨_, congrArg Host.Outcome.next (if_pos hup), rfl, rfl, rfl, ?_⟩
  rw [State.modHost, State.setHost_nvme, nvme_flr1]
  exact ⟨rfl, rfl, rfl⟩

end Sys2Proof.Machine

/-! Accesses of the CSR window and of the other BARs (R7-R10, R70, R333, R335, R349, R367). -/

namespace Sys2Proof.Machine

section CsrWindow
variable {s : State} {w : CsrWr} {p off : Nat}

/-- What a late write leaves in WARP_LOCKERR: one more in COUNT and, while LOCKERR is 0, its source and offset (R70). -/
def WarpSt.late (x : WarpSt) (w : CsrWr) : WarpSt :=
  let y := { x with lockCount := satAdd 16 x.lockCount 1 }
  if x.lockErr then y else { y with lockErr := true, lockSrc := lockSrcOf w.src, lockAddr := BitVec.ofNat 28 w.off }

theorem lockCount_late (x : WarpSt) (w : CsrWr) : (x.late w).lockCount = min (x.lockCount + 1) 0xFFFF :=
  (apply_ite WarpSt.lockCount ..).trans (ite_self _)

theorem late_of_no_lockErr {x : WarpSt} (h : x.lockErr = false) (w : CsrWr) : x.late w =
    { x with lockCount := satAdd 16 x.lockCount 1, lockErr := true, lockSrc := lockSrcOf w.src, lockAddr := BitVec.ofNat 28 w.off } :=
  if_neg (by simp [h])

/-- Beside the notice and the log entry it draws, a late write changes only WARP_LOCKERR. -/
theorem outsideNotices_lateWrite (s : State) (w : CsrWr) (held : Nat) :
    (s.lateWrite w held).outsideNotices = (s.setWarp (s.warp.late w)).outsideNotices := by
  simp only [State.lateWrite, outsideNotices_logFolded, outsideNotices_ite, outsideNotices_notifyModule, WarpSt.late]
  by_cases h : s.warp.lockErr = true
  · simp only [if_pos h]
    rfl
  · simp only [if_neg h]
    rfl

theorem ptns_lateWrite (s : State) (w : CsrWr) (held : Nat) : (s.lateWrite w held).ptns = s.ptns :=
  (congrArg State.ptns (outsideNotices_lateWrite s w held) : (s.lateWrite w held).outsideNotices.ptns = _)

theorem warp_lateWrite (s : State) (w : CsrWr) (held : Nat) : (s.lateWrite w held).warp = s.warp.late w :=
  (congrArg State.warp (outsideNotices_lateWrite s w held) : (s.lateWrite w held).outsideNotices.warp = _)

theorem mbGo_lateWrite (s : State) (w : CsrWr) (held : Nat) : (s.lateWrite w held).mgt.mbGo = s.mgt.mbGo :=
  (congrArg (fun u : State => u.mgt.mbGo) (outsideNotices_lateWrite s w held) : (s.lateWrite w held).outsideNotices.mgt.mbGo = _)

theorem csrDefined_of_ptnCores (h : csrAt off = some (.ptnCores p)) : csrDefined off = true := by
  simp [csrDefined, h, Csr.half]

theorem csrWrite_undefined (h : csrDefined w.off = false ∨ aligned w.off w.wide = false) : s.csrWrite w = (.undefined, s) := by
  unfold State.csrWrite
  split
  · rfl
  · rw [if_pos]
    obtain h | h := h <;> simp [h]

theorem csrWrite_of_csrAt {r : Csr} (hr : csrAt w.off = some r) (hdef : csrDefined w.off = true) (hal : aligned w.off w.wide = true) :
    s.csrWrite w = (if (s.csrReg r w).1 then .taken else .locked, (s.csrReg r w).2) := by
  simp [State.csrWrite, hr, hdef, hal]

theorem csrWrite_ptnCores_locked (hr : csrAt w.off = some (.ptnCores p)) (hal : aligned w.off w.wide = true) (hl : s.warp.locked = true) :
    s.csrWrite w = (.locked, s.lateWrite w (s.csr (.ptnCores p))) := by
  rw [csrWrite_of_csrAt hr (csrDefined_of_ptnCores hr) hal]
  simp [State.csrReg, State.lkWrite, hl]

theorem csrWrite_ptnCores_unlocked (hr : csrAt w.off = some (.ptnCores p)) (hwide : w.wide = true) (hal : aligned w.off true = true)
    (hl : s.warp.locked = false) :
    s.csrWrite w = (.taken, s.modPtn p fun q => { q with cores := BitVec.ofNat 64 w.data }) := by
  rw [csrWrite_of_csrAt hr (csrDefined_of_ptnCores hr) (hwide ▸ hal)]
  have hdata : BitVec.ofNat 64 (w.data % 2 ^ 64) = BitVec.ofNat 64 w.data := by
    apply BitVec.eq_of_toNat_eq
    simp
  simp only [State.csrReg, State.lkWrite, hl, CsrWr.onto, hwide, hdata, Bool.false_eq_true, if_true, if_false]

/-- Reading a register changes only the latches of TIME_NOW (R446). -/
theorem csrRead_eq_setTime (s : State) (iface off n : Nat) : ∃ t, (s.csrRead iface off n).2 = s.setTime t := by
  unfold State.csrRead
  split
  · exact ⟨s.time, rfl⟩
  · split
    · exact ⟨s.time, rfl⟩
    · split
      · split
        · exact ⟨_, rfl⟩
        · unfold State.timeHighRead
          split
          · exact ⟨_, rfl⟩
          · exact ⟨s.time, rfl⟩
      · exact ⟨s.time, rfl⟩

end CsrWindow

theorem sameBytes_of_mem {s u : State} (hmem : u.mem = s.mem) (hpwr : u.pwr = s.pwr) : SameBytes s u := fun a => by
  rw [State.mb, hmem, hpwr, State.mb]

/-! By Weft (R367). -/

section ByWeft
variable {s : State} {job : BitVec 32} {j : Job}

theorem exec_csrRead_weft (s : State) (job : BitVec 32) : exec (.csrRead (.weft job)) s = .next (s.weftRead job.toNat) := rfl
theorem exec_csrWrite_weft (s : State) (job : BitVec 32) : exec (.csrWrite (.weft job)) s = .next (s.weftWrite job.toNat) := rfl

theorem csrRead_weft_no_reply (hj : s.mgmtJob job.toNat 1 = some j) (hva : leAt j.entry 0x18 8 = 0) :
    exec (.csrRead (.weft job)) s = .next ((s.csrRead (4 + j.ptn) (leAt j.entry 0x24 4) (leAt j.entry 0x28 1)).2.endJob j.id stOk 0) := by
  simp [exec_csrRead_weft, State.weftRead, hj, hva]

theorem csrRead_weft_reply {ps : List (Nat × Nat)} {s1 : State} (hj : s.mgmtJob job.toNat 1 = some j) (hva : leAt j.entry 0x18 8 ≠ 0)
    (hmap : s.bufMap j 0 (leAt j.entry 0x18 8) (leAt j.entry 0x28 1) true = (some ps, s1)) :
    let r := s1.csrRead (4 + j.ptn) (leAt j.entry 0x24 4) (leAt j.entry 0x28 1)
    exec (.csrRead (.weft job)) s =
      .next ((State.writePieces j.ptn ps (bytesLE (leAt j.entry 0x28 1) r.1) r.2).endJob j.id stOk (leAt j.entry 0x28 1)) := by
  simp [exec_csrRead_weft, State.weftRead, hj, hva, hmap]

/-- The write of the window that a CSR_WRITE entry asks for. -/
def Job.csrWr (j : Job) : CsrWr :=
  { src := .weft j.ptn, off := leAt j.entry 0x24 4, wide := leAt j.entry 0x28 1 == 8, data := leAt j.entry 0x30 8 }

/-- The status with which a CSR_WRITE completes (R367). -/
def WrEnd.status : WrEnd → Nat
  | .taken => stOk
  | .locked => stLockViolation
  | .undefined => stInvalidField

theorem csrWrite_weft (hj : s.mgmtJob job.toNat 2 = some j) :
    exec (.csrWrite (.weft job)) s = .next ((s.csrWrite j.csrWr).2.endJob j.id (s.csrWrite j.csrWr).1.status 0) := by
  simp only [exec_csrWrite_weft, State.weftWrite, hj, Job.csrWr]
  generalize s.csrWrite _ = r
  obtain ⟨e, t⟩ := r
  cases e <;> rfl

end ByWeft

/-! By the mailbox (R393). -/

section ByMailbox
variable {s : State}

/-- The state in which the mailbox's command runs. -/
def State.mbTaken (s : State) : State := s.setMgt { s.mgt with mbGo := false, mbBusy := true }

theorem mailboxCmd_answered {code n : Nat} {a : MgmtAns} {t : State} (hgo : s.mgt.mbGo = true) (hup : s.pwr.domainUp = true)
    (hrun : s.mgt.running = true) (hrec : s.mgt.recovery = false) (hcode : s.mgt.mbCode.toNat = code)
    (hlen : mgmtArgLen code s.mgt.mbArgs = some n) (hn : n ≤ s.mgt.mbArgs.length) (hlong : s.mbTaken.mgmtLong code = false)
    (hop : s.mbTaken.mgmtOp .mailbox 0 code s.mgt.mbArgs 4096 = { ans := some a, st := t }) :
    s.mailboxCmd code = t.mbAnswer { a with bytes := a.bytes.take 4096, seq := seqSince s.mbTaken t } := by
  have hrec' : s.mbTaken.mgt.recovery = false := hrec
  have hmgmt : (s.modMgt fun m => { m with mbGo := false, mbBusy := true }).mgmtRun .mailbox 0 code s.mgt.mbArgs 4096 =
      { ans := some { a with bytes := a.bytes.take 4096, seq := seqSince s.mbTaken t }, st := t } := by
    change s.mbTaken.mgmtRun .mailbox 0 code s.mgt.mbArgs 4096 = _
    simp only [State.mgmtRun, hlen, hrec', hlong, Nat.not_lt.2 hn, hop]
    rfl
  subst hcode
  unfold State.mailboxCmd
  dsimp only
  rw [if_neg (by simp [hgo, hup, hrun]), hmgmt]
  rfl

/-- The mailbox shows an answer: not BUSY, DONE, its status and at most 4096 bytes; module vector 129 is raised (R393). -/
theorem mbAnswer_shows (t : State) (a : MgmtAns) (hgo : t.mgt.mbGo = false) :
    let u := t.mbAnswer a
    (u.mgt.mbGo = false ∧ u.mgt.mbBusy = false ∧ u.mgt.mbDone = true ∧ u.host.raised.getLsbD 129 = true) ∧
      u.mgt.mbStatus = a.status ∧ u.mgt.mbReply = a.bytes.take 4096 := by
  refine ⟨⟨hgo, rfl, rfl, ?_⟩, rfl, rfl⟩
  simp [State.mbAnswer, State.raise, State.modHost]

section
variable (t : State) (a : MgmtAns)

@[simp] theorem mbAnswer_mem : (t.mbAnswer a).mem = t.mem := by
  rw [State.mbAnswer, State.raise, State.modHost, State.setHost_mem, State.modMgt, State.setMgt_mem]

@[simp] theorem mbAnswer_pwr : (t.mbAnswer a).pwr = t.pwr := by
  rw [State.mbAnswer, State.raise, State.modHost, State.setHost_pwr, State.modMgt, State.setMgt_pwr]

@[simp] theorem mbAnswer_ptns : (t.mbAnswer a).ptns = t.ptns := by
  rw [State.mbAnswer, State.raise, State.modHost, State.setHost_ptns, State.modMgt, State.setMgt_ptns]

@[simp] theorem mbAnswer_warp : (t.mbAnswer a).warp = t.warp := by
  rw [State.mbAnswer, State.raise, State.modHost, State.setHost_warp, State.modMgt, State.setMgt_warp]

end

theorem length_bytesLE (n v : Nat) : (bytesLE n v).length = n := by
  induction n generalizing v with
  | zero => rfl
  | succ n ih => exact congrArg (· + 1) (ih _)

/-- What the mailbox needs to take a register access: the host has set GO, MGT runs outside recovery, the domain is up and the
bridge not isolated. -/
structure MailboxOpen (s : State) : Prop where
  up : s.pwr.domainUp = true
  joined : s.pwr.isolated = false
  running : s.mgt.running = true
  normal : s.mgt.recovery = false
  go : s.mgt.mbGo = true

theorem csrRead_mailbox (h : MailboxOpen s) (hcode : s.mgt.mbCode = 1) (hlen : 5 ≤ s.mgt.mbArgs.length)
    (hn : leAt s.mgt.mbArgs 4 1 = 4 ∨ leAt s.mgt.mbArgs 4 1 = 8) (hal : leAt s.mgt.mbArgs 0 4 % leAt s.mgt.mbArgs 4 1 = 0) :
    let r := s.mbTaken.csrRead 1 (leAt s.mgt.mbArgs 0 4) (leAt s.mgt.mbArgs 4 1)
    ∃ a, exec (.csrRead .mailbox) s = .next (r.2.mbAnswer a) ∧ a.status = stOk ∧
      a.bytes = (bytesLE (leAt s.mgt.mbArgs 4 1) r.1).take 4096 := by
  have hcode' : s.mgt.mbCode.toNat = 1 := congrArg BitVec.toNat hcode
  have hok : ¬ ((leAt s.mgt.mbArgs 4 1 ≠ 4 ∧ leAt s.mgt.mbArgs 4 1 ≠ 8) ∨ leAt s.mgt.mbArgs 0 4 % leAt s.mgt.mbArgs 4 1 ≠ 0) := by omega
  have hiso : s.mbTaken.pwr.isolated = false := h.joined
  have hop : s.mbTaken.mgmtOp .mailbox 0 1 s.mgt.mbArgs 4096 =
      mgmtBytes (bytesLE (leAt s.mgt.mbArgs 4 1) (s.mbTaken.csrRead 1 (leAt s.mgt.mbArgs 0 4) (leAt s.mgt.mbArgs 4 1)).1)
        (s.mbTaken.csrRead 1 (leAt s.mgt.mbArgs 0 4) (leAt s.mgt.mbArgs 4 1)).2 := by
    simp only [State.mgmtOp, State.mgmtCsrRead, if_neg hok, hiso, Bool.false_and, Bool.false_eq_true, if_false, readIface]
  exact ⟨_, congrArg Host.Outcome.next (mailboxCmd_answered h.go h.up h.running h.normal hcode' rfl hlen rfl hop : s.mailboxCmd 1 = _), rfl, rfl⟩

/-- The write of the window that the mailbox's CSR_WRITE asks for, with 8 bytes. -/
def MgtSt.csrWr (m : MgtSt) : CsrWr := { src := .mailbox, off := leAt m.mbArgs 0 4, wide := true, data := leAt m.mbArgs 8 8 }

theorem csrWrite_mailbox (h : MailboxOpen s) (hcode : s.mgt.mbCode = 2) (hlen : 16 ≤ s.mgt.mbArgs.length)
    (hn : leAt s.mgt.mbArgs 4 1 = 8) (hal : leAt s.mgt.mbArgs 0 4 % 8 = 0) (hres : leAt s.mgt.mbArgs 5 3 = 0) :
    let r := s.mbTaken.csrWrite s.mgt.csrWr
    ∃ a, exec (.csrWrite .mailbox) s = .next (r.2.mbAnswer a) ∧ a.status = r.1.status := by
  have hcode' : s.mgt.mbCode.toNat = 2 := congrArg BitVec.toNat hcode
  have hok : ¬ ((8 ≠ 4 ∧ 8 ≠ 8) ∨ leAt s.mgt.mbArgs 0 4 % 8 ≠ 0 ∨ leAt s.mgt.mbArgs 5 3 ≠ 0) := by omega
  have hiso : s.mbTaken.pwr.isolated = false := h.joined
  have hop : s.mbTaken.mgmtOp .mailbox 0 2 s.mgt.mbArgs 4096 =
      mgmtSt (s.mbTaken.csrWrite s.mgt.csrWr).1.status (s.mbTaken.csrWrite s.mgt.csrWr).2 := by
    simp only [State.mgmtOp, State.mgmtCsrWrite, hn, if_neg hok, hiso, Bool.false_and, Bool.false_eq_true, if_false]
    rfl
  exact ⟨_, congrArg Host.Outcome.next (mailboxCmd_answered h.go h.up h.running h.normal hcode' rfl hlen rfl hop : s.mailboxCmd 2 = _), rfl⟩

end ByMailbox

/-! Plain writes of the host (R7-R10, R333, R349). -/

section PlainWrites
variable {s : State} {a : RegAccess}

theorem registerWrite_dropped (h : s.pwr.domainUp = false ∨ a.fits = false ∨ aligned a.off.toNat a.wide = false) :
    exec (.registerWrite a) s = .next s :=
  congrArg Host.Outcome.next (if_pos (by obtain h | h | h := h <;> simp [h]))

/-- The write of the window that an access asks for. -/
def plainWr (a : RegAccess) : CsrWr := { off := a.off.toNat, wide := a.wide, data := a.data.toNat }

/-- An access that the host can make acts on its BAR. -/
theorem registerWrite_reaches (hup : s.pwr.domainUp = true) (hfits : a.fits = true) (hal : aligned a.off.toNat a.wide = true) :
    exec (.registerWrite a) s = .next (match a.bar with
      | 0 => if a.wide then (s.nvReg a.off.toNat (a.data.toNat % 2 ^ 32)).nvReg (a.off.toNat + 4) (a.data.toNat / 2 ^ 32)
          else s.nvReg a.off.toNat (a.data.toNat % 2 ^ 32)
      | 1 => if a.off.toNat < 0x200000 then s.pageWrite (a.off.toNat / 0x10000) (plainWr a) else s
      | 2 => (s.csrWrite (plainWr a)).2
      | 3 => if a.off.toNat < 16 * 144 then s.modHost fun h => { h with
          msix1 := msixPut h.msix1 a.off.toNat a.wide (if a.wide then a.data.toNat else a.data.toNat % 2 ^ 32) } else s) :=
  congrArg Host.Outcome.next (if_neg (by simp [hup, hfits, hal]))

end PlainWrites

theorem csrAt_timeSet : csrAt 0x3800008 = some .timeSet := by decide

theorem nvReg_intms (s : State) (v : Nat) : s.nvReg 0x0C v = s.setNvme { s.nvme with intm := s.nvme.intm ||| BitVec.ofNat 32 v } := rfl

theorem nvReg_doorbell (s : State) {o : Nat} (v : Nat) (hlo : 0x1000 ≤ o) (hhi : o < 0x1000 + 8 * 129) :
    s.nvReg o v = s.nvDoorbell (o - 0x1000) v := by
  simp [State.nvReg, hlo, hhi, show o ≠ 0x0C by omega, show o ≠ 0x10 by omega, show o ≠ 0x14 by omega, show o ≠ 0x24 by omega,
    show o ≠ 0x28 by omega, show o ≠ 0x2C by omega, show o ≠ 0x30 by omega, show o ≠ 0x34 by omega]

theorem nvDoorbell_sq0 {s : State} {q : NvmeSq} {v : Nat} (hq : s.sq 0 = some q) (hv : v % 65536 < q.size) :
    s.nvDoorbell 0 v = s.setNvme { s.nvme with sqs := tset s.nvme.sqs 0 { q with tail := v % 65536 } } := by
  rw [State.sq] at hq
  simp only [State.nvDoorbell, hq, hv, if_true, Nat.zero_mod, Nat.zero_div]
  rfl

section
variable {s : State} {a : RegAccess} (hup : s.pwr.domainUp = true) (hfits : a.fits = true) (hal : aligned a.off.toNat a.wide = true)
include hup hfits hal

theorem registerWrite_csr (hbar : a.bar = 2) : exec (.registerWrite a) s = .next (s.csrWrite (plainWr a)).2 := by
  simp only [registerWrite_reaches hup hfits hal, hbar]

theorem registerWrite_undefined (hbar : a.bar = 2) (hdef : csrDefined a.off.toNat = false) : exec (.registerWrite a) s = .next s := by
  rw [registerWrite_csr hup hfits hal hbar, csrWrite_undefined (w := plainWr a) (.inl hdef)]

theorem registerWrite_timeSet (hbar : a.bar = 2) (hoff : a.off = 0x3800008#28) (hwide : a.wide = true) :
    exec (.registerWrite a) s = .next (s.setTime { s.time with setVal := a.data }) := by
  have hr : csrAt (plainWr a).off = some .timeSet := by
    rw [plainWr, hoff]
    exact csrAt_timeSet
  have hdef : csrDefined (plainWr a).off = true := by
    rw [csrDefined, hr]
    simp [Csr.half]
  have hset : (plainWr a).onto (s.csr .timeSet) = a.data.toNat := by
    simp only [CsrWr.onto, plainWr, hwide, if_true]
    exact Nat.mod_eq_of_lt a.data.isLt
  have hw := csrWrite_of_csrAt (s := s) hr hdef hal
  simp only [State.csrReg, State.csrPlain, hset, BitVec.ofNat_toNat, BitVec.setWidth_eq] at hw
  simp only [registerWrite_csr hup hfits hal hbar, hw, State.modTime]

theorem registerWrite_pf0_narrow (hbar : a.bar = 0) (hwide : a.wide = false) :
    exec (.registerWrite a) s = .next (s.nvReg a.off.toNat (a.data.toNat % 2 ^ 32)) := by
  rw [registerWrite_reaches hup hfits hal, hbar]
  exact congrArg Host.Outcome.next (if_neg (by simp [hwide]))

theorem registerWrite_intms (hbar : a.bar = 0) (hoff : a.off = 0x0C#28) (hwide : a.wide = false) : exec (.registerWrite a) s =
    .next (s.setNvme { s.nvme with intm := s.nvme.intm ||| BitVec.ofNat 32 a.data.toNat }) := by
  have hdata : BitVec.ofNat 32 (a.data.toNat % 2 ^ 32) = BitVec.ofNat 32 a.data.toNat := by
    apply BitVec.eq_of_toNat_eq
    simp
  have ho : a.off.toNat = 0x0C := congrArg BitVec.toNat hoff
  rw [registerWrite_pf0_narrow hup hfits hal hbar hwide, ho, nvReg_intms, hdata]

theorem registerWrite_sq0Tail {q : NvmeSq} (hbar : a.bar = 0) (hoff : a.off = 0x1000#28) (hwide : a.wide = false) (hq : s.sq 0 = some q)
    (htail : a.data.toNat % 65536 < q.size) : exec (.registerWrite a) s =
    .next (s.setNvme { s.nvme with sqs := tset s.nvme.sqs 0 { q with tail := a.data.toNat % 65536 } }) := by
  have hv : a.data.toNat % 2 ^ 32 % 65536 = a.data.toNat % 65536 := Nat.mod_mod_of_dvd _ (by decide)
  have ho : a.off.toNat = 0x1000 := congrArg BitVec.toNat hoff
  rw [registerWrite_pf0_narrow hup hfits hal hbar hwide, ho, nvReg_doorbell s _ (Nat.le_refl _) (by omega), Nat.sub_self,
    nvDoorbell_sq0 hq (hv ▸ htail), hv]

theorem registerWrite_pastPages (hbar : a.bar = 1) (hoff : 0x200000 ≤ a.off.toNat) : exec (.registerWrite a) s = .next s := by
  rw [registerWrite_reaches hup hfits hal, hbar]
  exact congrArg Host.Outcome.next (if_neg (Nat.not_lt.2 hoff))

theorem registerWrite_pastMsix (hbar : a.bar = 3) (hoff : 16 * 144 ≤ a.off.toNat) : exec (.registerWrite a) s = .next s := by
  rw [registerWrite_reaches hup hfits hal, hbar]
  exact congrArg Host.Outcome.next (if_neg (Nat.not_lt.2 hoff))

end

/-! PCIe link training (R331). -/

theorem exec_pcieLinkTraining (s : State) (x : Option PcieRes) : exec (.pcieLinkTraining x) s = execPcieLinkTraining x s := rfl

theorem pcieLinkTraining_up {s : State} {r : PcieRes} (hup : s.pwr.domainUp = true) (hdown : s.host.linkUp = false) (hok : pcieOk r = true) :
    exec (.pcieLinkTraining (some r)) s = .next (s.setHost { s.host with linkUp := true, rate := r.rate, width := r.width, flit := r.flit }) := by
  simp [exec_pcieLinkTraining, execPcieLinkTraining, hup, hdown, hok, State.modHost]

theorem pcieLinkTraining_fails {s : State} {x : Option PcieRes} (hup : s.pwr.domainUp = true) (hdown : s.host.linkUp = false)
    (hx : ∀ r, x = some r → pcieOk r = false) : exec (.pcieLinkTraining x) s = .next (s.log Src.mgt.code 0x7201 []) := by
  cases x with
  | none => simp [exec_pcieLinkTraining, execPcieLinkTraining, hup, hdown]
  | some r => simp [exec_pcieLinkTraining, execPcieLinkTraining, hup, hdown, hx r rfl]

/-- A log entry changes only the log and the event frames of the chain (R401-R406, R456). -/
theorem log_eq (s : State) (src : BitVec 16) (code : Nat) (payload : List Byte) :
    s.log src code payload = (s.setMgt (s.log src code payload).mgt).setChain (s.log src code payload).chain := by
  simp only [State.log, State.logAt, State.chainEvent, State.chainUp]
  split
  · split
    · rfl
    · split
      · rfl
      · split <;> rfl
  · rfl

end Sys2Proof.Machine

/-! The statements. -/

namespace Sys2Proof.Machine

/-- By Weft, a late write of PTN_CORES ends its job with LOCK_VIOLATION and is counted; the partition keeps its cores (R70). -/
theorem csrWrite_weft_late {s : State} {job : BitVec 32} {j : Job} {p : Nat} (hj : s.mgmtJob job.toNat 2 = some j)
    (hr : csrAt (leAt j.entry 0x24 4) = some (.ptnCores p)) (hal : aligned (leAt j.entry 0x24 4) (leAt j.entry 0x28 1 == 8) = true)
    (hl : s.warp.locked = true) : Completes (.csrWrite (.weft job)) s fun u => EndsJob u j.id stLockViolation 0 fun v =>
      (v.ptn p).cores = (s.ptn p).cores ∧ v.warp.lockCount = min (s.warp.lockCount + 1) 0xFFFF := by
  have hw : s.csrWrite j.csrWr = _ := csrWrite_ptnCores_locked hr hal hl
  refine ⟨_, csrWrite_weft hj, s.lateWrite j.csrWr (s.csr (.ptnCores p)), by rw [hw]; rfl, ?_, ?_⟩
  · rw [State.ptn, ptns_lateWrite, State.ptn]
  · rw [warp_lateWrite, lockCount_late]

/-- By Weft, an 8-byte write of PTN_CORES before the lock gives the partition its cores, and nothing else changes. -/
theorem csrWrite_weft_cores {s : State} {job : BitVec 32} {j : Job} {p : Nat} (hj : s.mgmtJob job.toNat 2 = some j)
    (hr : csrAt (leAt j.entry 0x24 4) = some (.ptnCores p)) (hal : aligned (leAt j.entry 0x24 4) (leAt j.entry 0x28 1 == 8) = true)
    (hl : s.warp.locked = false) (hn : leAt j.entry 0x28 1 = 8) : Completes (.csrWrite (.weft job)) s fun u =>
      EndsJob u j.id stOk 0 fun v => (v.ptn p) = { s.ptn p with cores := BitVec.ofNat 64 (leAt j.entry 0x30 8) } ∧ v = s.setPtns v.ptns ∧
        ∀ q, q ≠ p → v.ptn q = s.ptn q := by
  have hwide : j.csrWr.wide = true := by simp [Job.csrWr, hn]
  have hw : s.csrWrite j.csrWr = _ := csrWrite_ptnCores_unlocked hr hwide (hwide ▸ hal) hl
  refine ⟨_, csrWrite_weft hj, _, by rw [hw]; rfl, ?_, rfl, fun q hq => ?_⟩
  · exact State.ptn_modPtn_self ..
  · exact State.ptn_modPtn_ne _ _ hq

/-- By the mailbox, CSR_READ answers with the bytes read. -/
theorem csrRead_mailbox_spec {s : State} (h : MailboxOpen s) (hcode : s.mgt.mbCode = 1) (hlen : 5 ≤ s.mgt.mbArgs.length)
    (hn : leAt s.mgt.mbArgs 4 1 = 4 ∨ leAt s.mgt.mbArgs 4 1 = 8) (hal : leAt s.mgt.mbArgs 0 4 % leAt s.mgt.mbArgs 4 1 = 0) :
    Completes (.csrRead .mailbox) s fun u =>
      (u.mgt.mbGo = false ∧ u.mgt.mbBusy = false ∧ u.mgt.mbDone = true ∧ u.host.raised.getLsbD 129 = true) ∧ u.mgt.mbStatus = stOk ∧
        u.mgt.mbReply = bytesLE (leAt s.mgt.mbArgs 4 1) (s.mbTaken.csrRead 1 (leAt s.mgt.mbArgs 0 4) (leAt s.mgt.mbArgs 4 1)).1 ∧
        SameBytes s u := by
  obtain ⟨a, hexec, ha, hbytes⟩ := csrRead_mailbox h hcode hlen hn hal
  obtain ⟨t, ht⟩ := csrRead_eq_setTime s.mbTaken 1 (leAt s.mgt.mbArgs 0 4) (leAt s.mgt.mbArgs 4 1)
  rw [ht] at hexec
  obtain ⟨hdone, hstatus, hreply⟩ := mbAnswer_shows (s.mbTaken.setTime t) a rfl
  refine ⟨_, hexec, hdone, hstatus.trans ha, ?_, sameBytes_of_mem (mbAnswer_mem ..) (mbAnswer_pwr ..)⟩
  rw [hreply, hbytes, List.take_take, Nat.min_self, List.take_of_length_le]
  rw [length_bytesLE]
  omega

/-- By the mailbox, an 8-byte CSR_WRITE of PTN_CORES answers LOCK_VIOLATION where R70 drops it, and else takes effect. -/
theorem csrWrite_mailbox_spec {s : State} {p : Nat} (h : MailboxOpen s) (hcode : s.mgt.mbCode = 2) (hlen : 16 ≤ s.mgt.mbArgs.length)
    (hn : leAt s.mgt.mbArgs 4 1 = 8) (hal : leAt s.mgt.mbArgs 0 4 % 8 = 0) (hres : leAt s.mgt.mbArgs 5 3 = 0)
    (hr : csrAt (leAt s.mgt.mbArgs 0 4) = some (.ptnCores p)) : Completes (.csrWrite .mailbox) s fun u =>
      (u.mgt.mbGo = false ∧ u.mgt.mbBusy = false ∧ u.mgt.mbDone = true ∧ u.host.raised.getLsbD 129 = true) ∧
      (s.warp.locked = true → u.mgt.mbStatus = stLockViolation ∧ u.warp.lockCount = min (s.warp.lockCount + 1) 0xFFFF ∧
        (s.warp.lockErr = false → u.warp.lockErr = true ∧ u.warp.lockSrc = 2 ∧ u.warp.lockAddr = BitVec.ofNat 28 (leAt s.mgt.mbArgs 0 4)) ∧
        u.ptns = s.ptns) ∧
      (s.warp.locked = false → u.mgt.mbStatus = stOk ∧ (u.ptn p).cores = BitVec.ofNat 64 (leAt s.mgt.mbArgs 8 8) ∧ u.warp = s.warp) := by
  obtain ⟨a, hexec, ha⟩ := csrWrite_mailbox h hcode hlen hn hal hres
  have haligned : aligned s.mgt.csrWr.off true = true := by simp [aligned, MgtSt.csrWr, hal]
  cases hl : s.warp.locked with
  | true =>
    rw [csrWrite_ptnCores_locked (s := s.mbTaken) (w := s.mgt.csrWr) hr haligned hl] at hexec ha
    generalize hv : s.mbTaken.lateWrite s.mgt.csrWr (s.mbTaken.csr (.ptnCores p)) = v at hexec
    have hgo : v.mgt.mbGo = false := by rw [← hv, mbGo_lateWrite]; rfl
    have hwarp : v.warp = s.warp.late s.mgt.csrWr := by rw [← hv, warp_lateWrite]; rfl
    have hptns : v.ptns = s.ptns := by rw [← hv, ptns_lateWrite]; rfl
    obtain ⟨hdone, hstatus, -⟩ := mbAnswer_shows v a hgo
    refine ⟨_, hexec, hdone, fun _ => ⟨hstatus.trans ha, ?_, fun he => ?_, (mbAnswer_ptns v a).trans hptns⟩, nofun⟩
    · rw [mbAnswer_warp, hwarp, lockCount_late]
    · rw [mbAnswer_warp, hwarp, late_of_no_lockErr he]
      exact ⟨rfl, rfl, rfl⟩
  | false =>
    rw [csrWrite_ptnCores_unlocked (s := s.mbTaken) (w := s.mgt.csrWr) hr rfl haligned hl] at hexec ha
    obtain ⟨hdone, hstatus, -⟩ := mbAnswer_shows (s.mbTaken.modPtn p fun q => { q with cores := BitVec.ofNat 64 s.mgt.csrWr.data }) a rfl
    refine ⟨_, hexec, hdone, nofun, fun _ => ⟨hstatus.trans ha, ?_, mbAnswer_warp ..⟩⟩
    rw [State.ptn, mbAnswer_ptns, ← State.ptn, State.ptn_modPtn_self]
    rfl

/-- Settles O53: each clause by the lemma about its command; the sessions of an FLR end since nothing that a stopped job does begins
one (`NoSessionBegins.stopJob`). -/
theorem hostRegisters : Obligations.HostRegisters := by
  unfold Obligations.HostRegisters
  refine ⟨?cc, ?resets, ?weft, ?plain, ?mailbox, ?pcie⟩
  case cc =>
    intro cc s v n was formats row hrow
    refine ⟨completes_ccRow_down hrow, fun hup => ⟨fun hshn hen hwas hf => ?_, fun hshn hen hwas hf => ?_, fun hshn hen hwas => ?_,
      fun hshn hen => ?_⟩⟩
    · obtain ⟨u, hexec, rfl⟩ := completes_ccWrite_no_shn hrow hup hshn (ccWrite_enable hen hwas hf)
      exact ⟨_, hexec, rfl, rfl⟩
    · exact completes_ccWrite_no_shn hrow hup hshn (ccWrite_badFormats hen hwas hf)
    · exact completes_ccWrite_no_shn hrow hup hshn (ccWrite_disable hen hwas)
    · exact completes_ccRow hrow hup (shutdown_spec hshn hen)
  case resets =>
    intro s
    refine ⟨fun h => ⟨s, congrArg Host.Outcome.next (if_pos h), rfl⟩, powerStateTransition_spec, fun hup => ?_⟩
    exact ⟨flrPf0_spec hup, flrPf1_spec hup, hotReset_spec hup⟩
  case weft =>
    intro job j s off n
    refine ⟨fun hj => ⟨fun hva => ?_, fun ps s1 hva hmap => ?_⟩, fun hj => ⟨fun hbad => ?_, fun p _ hal hr => ⟨fun hl => ?_, fun hl hn => ?_⟩⟩⟩
    · exact ⟨_, csrRead_weft_no_reply hj hva, _, rfl, rfl⟩
    · exact ⟨_, csrRead_weft_reply hj hva hmap, _, rfl, rfl⟩
    · have hw : s.csrWrite j.csrWr = _ := csrWrite_undefined hbad
      exact ⟨_, csrWrite_weft hj, s, by rw [hw]; rfl, rfl⟩
    · exact csrWrite_weft_late hj hr hal hl
    · exact csrWrite_weft_cores hj hr hal hl hn
  case plain =>
    intro a s
    refine ⟨fun h => ⟨s, registerWrite_dropped h, rfl⟩, fun hup hfits hal => ⟨?_, ?_, ?_, ?_, ?_, ?_⟩⟩
    · exact fun hbar hdef => ⟨s, registerWrite_undefined hup hfits hal hbar hdef, rfl⟩
    · exact fun hbar hoff hwide => ⟨_, registerWrite_timeSet hup hfits hal hbar hoff hwide, rfl⟩
    · exact fun hbar hoff hwide => ⟨_, registerWrite_intms hup hfits hal hbar hoff hwide, rfl⟩
    · exact fun q hbar hoff hwide hq htail => ⟨_, registerWrite_sq0Tail hup hfits hal hbar hoff hwide hq htail, rfl⟩
    · exact fun hbar hoff => ⟨s, registerWrite_pastPages hup hfits hal hbar hoff, rfl⟩
    · exact fun hbar hoff => ⟨s, registerWrite_pastMsix hup hfits hal hbar hoff, rfl⟩
  case mailbox =>
    intro s hup hiso hrun hrec hgo arg off n at_ done
    have hopen : MailboxOpen s := ⟨hup, hiso, hrun, hrec, hgo⟩
    exact ⟨csrRead_mailbox_spec hopen, fun p => csrWrite_mailbox_spec hopen⟩
  case pcie =>
    intro r s hup hdown
    refine ⟨fun hok => ⟨_, pcieLinkTraining_up hup hdown hok, rfl⟩, fun x hx => ?_⟩
    have hfails : ∀ r', x = some r' → pcieOk r' = false := by
      obtain rfl | ⟨rfl, hbad⟩ := hx
      · exact nofun
      · rintro r' ⟨⟩
        exact hbad
    refine ⟨_, pcieLinkTraining_fails hup hdown hfails, ?_⟩
    rw [log_eq]
    exact ⟨rfl, sameBytes_of_mem rfl rfl⟩

theorem csr_syncCount_reset (n : Nat) : State.reset.csr (.syncCount n) = 0 := by
  have hobj : State.reset.obj n = {} := rfl
  simp [State.csr, State.readMod, State.readWarp, State.readHub, State.readSync, State.readPtn, State.readCore, State.readFc, State.readLnk,
    State.readTime, State.readField, State.readMgmt, State.readNotice, State.readMem, hobj, fields]

theorem inv_reset : State.reset.Inv := ⟨rfl, by decide, by decide⟩

/-- No output is driven before the field configuration is loaded (R429). -/
theorem driven_reset (n : Nat) : State.reset.driven n = false := by
  simp [State.driven, State.reset]

/-- Settles O58: every field stands at its default, and the registers read it. -/
theorem resetState : Obligations.ResetState := by
  unfold Obligations.ResetState
  exact ⟨rfl, inv_reset, fun n => ⟨csr_syncCount_reset n, rfl, rfl⟩, rfl, rfl, rfl, rfl, rfl, rfl, fun p => ⟨rfl, rfl⟩, fun c t => ⟨rfl, rfl⟩,
    rfl, rfl, rfl, rfl, rfl, rfl, rfl, rfl, driven_reset, rfl, rfl⟩

end Sys2Proof.Machine

/-! What the end of the domain's work and a start of MGT leave alone. -/

namespace Sys2Proof.Machine

/-- MGT without its log and what it runs (R406, R412). -/
def MgtSt.outsideRestart (m : MgtSt) : MgtSt :=
  { m with
    log := {}, running := false, recovery := false, bootSlot := 0, nextSlot := 0, norTrial := false, trial := false, trialFails := 0
    held := false, untested := false, mgtVer := 0, fcVer := 0, hubVer := 0, override := none }

/-- The state without what the power-loss sequence, the end of search, the log and a start of MGT change: the books of the flash,
search and ingest, the halted agents, the field settings, the time base, the chain, the level, and of MGT its log and what it runs
(R298, R329, R406, R412, R470). -/
def State.outsideRestart (s : State) : State :=
  { s with free := 0, xl := {}, flash := {}, search := {}, ingest := {}, field := {}, time := {}, chain := {}
           pwr := { s.pwr with level := 0 }, mgt := s.mgt.outsideRestart }

section OutsideRestart
variable (s : State)

@[simp] theorem outsideRestart_modXl (f : XlatSt → XlatSt) : (s.modXl f).outsideRestart = s.outsideRestart := rfl
@[simp] theorem outsideRestart_modFlash (f : FlashSt → FlashSt) : (s.modFlash f).outsideRestart = s.outsideRestart := rfl
@[simp] theorem outsideRestart_modSearch (f : SearchSt → SearchSt) : (s.modSearch f).outsideRestart = s.outsideRestart := rfl
@[simp] theorem outsideRestart_modIngest (f : IngestSt → IngestSt) : (s.modIngest f).outsideRestart = s.outsideRestart := rfl
@[simp] theorem outsideRestart_modField (f : FieldSt → FieldSt) : (s.modField f).outsideRestart = s.outsideRestart := rfl
@[simp] theorem outsideRestart_modTime (f : TimeSt → TimeSt) : (s.modTime f).outsideRestart = s.outsideRestart := rfl
@[simp] theorem outsideRestart_modChain (f : ChainSt → ChainSt) : (s.modChain f).outsideRestart = s.outsideRestart := rfl
@[simp] theorem outsideRestart_modLog (f : LogSt → LogSt) : (s.modLog f).outsideRestart = s.outsideRestart := rfl

theorem outsideRestart_modMgt (f : MgtSt → MgtSt) (hf : ∀ m, (f m).outsideRestart = m.outsideRestart) :
    (s.modMgt f).outsideRestart = s.outsideRestart :=
  congrArg (fun m => { s.outsideRestart with mgt := m }) (hf s.mgt)

@[simp] theorem outsideRestart_ite (c : Prop) [Decidable c] (a b : State) :
    (if c then a else b).outsideRestart = if c then a.outsideRestart else b.outsideRestart := apply_ite ..

@[simp] theorem outsideRestart_each {α : Type} (xs : List α) (f : State → α → State)
    (hf : ∀ t x, (f t x).outsideRestart = t.outsideRestart) : (s.each xs f).outsideRestart = s.outsideRestart := by
  induction xs generalizing s with
  | nil => rfl
  | cons x xs ih => exact (ih (f s x)).trans (hf s x)

/-! The log (R401-R406). -/

@[simp] theorem outsideRestart_chainEvent (e : LogEnt) : (s.chainEvent e).outsideRestart = s.outsideRestart := by
  simp [State.chainEvent, State.chainUp]

@[simp] theorem outsideRestart_log (src : BitVec 16) (code : Nat) (payload : List Byte) :
    (s.log src code payload).outsideRestart = s.outsideRestart := by
  simp [State.log, State.logAt]

@[simp] theorem outsideRestart_logGap (es : List LogEnt) : (s.logGap es).outsideRestart = s.outsideRestart := by
  unfold State.logGap
  split <;> simp

@[simp] theorem outsideRestart_logTrim (fuel : Nat) : (State.logTrim fuel s).outsideRestart = s.outsideRestart := by
  induction fuel generalizing s with
  | zero => rfl
  | succ fuel ih =>
    simp only [State.logTrim]
    split
    · rfl
    · split
      · rfl
      · rw [ih]
        split <;> simp

@[simp] theorem outsideRestart_logRow (e : LogEnt) : (s.logRow e).outsideRestart = s.outsideRestart := by
  simp [State.logRow]

@[simp] theorem outsideRestart_logFreed : s.logFreed.outsideRestart = s.outsideRestart := by
  simp [State.logFreed]

@[simp] theorem outsideRestart_logFlush (fuel : Nat) : (State.logFlush fuel s).outsideRestart = s.outsideRestart := by
  induction fuel generalizing s with
  | zero => rfl
  | succ fuel ih =>
    simp only [State.logFlush]
    split
    · rfl
    · simp [ih]

@[simp] theorem outsideRestart_logAll : s.logAll.outsideRestart = s.outsideRestart := by
  simp [State.logAll]

/-! Blocks, rows and units of the flash (R303-R305, R328). -/

@[simp] theorem outsideRestart_modBlk (k : Nat) (f : BlockSt → BlockSt) : (s.modBlk k f).outsideRestart = s.outsideRestart := by
  simp [State.modBlk]

@[simp] theorem outsideRestart_modFcd (f : Nat) (g : FcDie → FcDie) : (s.modFcd f g).outsideRestart = s.outsideRestart := by
  simp [State.modFcd]

@[simp] theorem outsideRestart_journal (f : Nat) (r : JRec) : (s.journal f r).outsideRestart = s.outsideRestart := by
  simp [State.journal]

@[simp] theorem outsideRestart_setPool (k : Nat) (p : Pool) : (s.setPool k p).outsideRestart = s.outsideRestart := by
  simp [State.setPool]

@[simp] theorem outsideRestart_dropRow (r : RowSt) : (s.dropRow r).outsideRestart = s.outsideRestart := by
  simp [State.dropRow, State.toFree]

@[simp] theorem outsideRestart_freeBlock (k : Nat) : (s.freeBlock k).outsideRestart = s.outsideRestart := by
  unfold State.freeBlock State.leaveRow
  split <;> simp [State.toFree]

@[simp] theorem outsideRestart_releaseUnit (u : Nat) : (s.releaseUnit u).outsideRestart = s.outsideRestart := by
  simp [State.releaseUnit]

@[simp] theorem outsideRestart_freeRunAt (unit : Nat) : (s.freeRunAt unit).outsideRestart = s.outsideRestart := by
  unfold State.freeRunAt
  split <;> simp

@[simp] theorem outsideRestart_holdRun (unit : Nat) (up : Bool) : (s.holdRun unit up).outsideRestart = s.outsideRestart := by
  simp only [State.holdRun]
  split <;> simp

@[simp] theorem outsideRestart_settleRow (id : Nat) : (s.settleRow id).outsideRestart = s.outsideRestart := by
  unfold State.settleRow
  split <;> simp

@[simp] theorem outsideRestart_openRow (h die : Nat) (oneBit : Bool) (fix : Option Nat) (keep : Nat → Bool) :
    (s.openRow h die oneBit fix keep).outsideRestart = s.outsideRestart := by
  simp [State.openRow, State.joinRow]

@[simp] theorem outsideRestart_needMember (ch : Nat) (oneBit : Bool) (fuel : Nat) :
    (State.needMember ch oneBit fuel s).2.outsideRestart = s.outsideRestart := by
  induction fuel generalizing s with
  | zero => rfl
  | succ fuel ih =>
    simp only [State.needMember]
    split
    · rfl
    · split
      · split <;> simp [ih]
      · rfl

/-! The map of the flash (R306-R309, R317). -/

@[simp] theorem outsideRestart_evictPage : s.evictPage.outsideRestart = s.outsideRestart := by
  simp only [State.evictPage]
  split
  · rfl
  · split <;> split <;> simp [State.writeBack]

@[simp] theorem outsideRestart_putEnt (nsid lba : Nat) (e : MapEnt) : (s.putEnt nsid lba e).outsideRestart = s.outsideRestart := by
  simp [State.putEnt, State.mapTouch]

@[simp] theorem outsideRestart_setEnt (nsid lba : Nat) (e : MapEnt) : (s.setEnt nsid lba e).outsideRestart = s.outsideRestart := by
  simp [State.setEnt]

@[simp] theorem outsideRestart_freeExtent (nsid lba : Nat) : (s.freeExtent nsid lba).outsideRestart = s.outsideRestart := by
  unfold State.freeExtent
  split <;> simp [State.remap]

/-! Programs and the power-loss sequence (R311, R324, R329). -/

@[simp] theorem outsideRestart_startProg (ch : Nat) : (s.startProg ch).outsideRestart = s.outsideRestart := by
  simp only [State.startProg]
  split
  · rfl
  · have hneed := outsideRestart_needMember s ch true 4
    split
    next heq =>
      rw [heq] at hneed
      exact hneed
    next heq =>
      rw [heq] at hneed
      simpa using hneed

@[simp] theorem outsideRestart_recordEnts (f : Nat) (es : List (Nat × Nat × MapEnt)) :
    (s.recordEnts f es).outsideRestart = s.outsideRestart := by
  simp [State.recordEnts, State.applyEnts, State.millFreed]

@[simp] theorem outsideRestart_unitDone (f addr : Nat) (g : GUnit) : (s.unitDone f addr g).2.outsideRestart = s.outsideRestart := by
  simp only [State.unitDone]
  split <;> simp

theorem outsideRestart_foldl_snd {α β : Type} (f : α × State → β → α × State)
    (hf : ∀ acc x, (f acc x).2.outsideRestart = acc.2.outsideRestart)
    (xs : List β) (acc : α × State) : (xs.foldl f acc).2.outsideRestart = acc.2.outsideRestart := by
  induction xs generalizing acc with
  | nil => rfl
  | cons x xs ih => exact (ih (f acc x)).trans (hf acc x)

@[simp] theorem outsideRestart_progDone (ch : Nat) (p : ProgSt) : (s.progDone ch p).2.outsideRestart = s.outsideRestart := by
  simp only [State.progDone, outsideRestart_settleRow]
  refine Eq.trans (outsideRestart_foldl_snd _ (fun acc e => ?_) _ _) rfl
  exact outsideRestart_unitDone ..

@[simp] theorem outsideRestart_lossProgram (ch : Nat) : (s.lossProgram ch).outsideRestart = s.outsideRestart := by
  unfold State.lossProgram
  split <;> simp

@[simp] theorem outsideRestart_powerLoss : s.powerLoss.outsideRestart = s.outsideRestart := by
  simp [State.powerLoss, State.flushJournal]

/-! Search (R282, R298). -/

@[simp] theorem outsideRestart_retain : s.retain.outsideRestart = s.outsideRestart := by
  apply outsideRestart_each
  intro t ix
  simp [State.freeVersion, State.modIndex]

@[simp] theorem outsideRestart_dropBatch (b : Batch) : (s.dropBatch b).outsideRestart = s.outsideRestart := by
  simp [State.dropBatch, State.unpin, State.leaveEngine, State.dropDescs, State.dropDesc, State.modEng, State.modBatch]

@[simp] theorem outsideRestart_searchOff : s.searchOff.outsideRestart = s.outsideRestart := by
  simp [State.searchOff]

end OutsideRestart

end Sys2Proof.Machine

/-! The domain held in reset, the clocks, and starts of MGT while the domain is down (R33, R35, R412, R458, R459). -/

namespace Sys2Proof.Machine

section Parts
variable {s u : State} (h : u.outsideRestart = s.outsideRestart)
include h

theorem pending_of_outsideRestart : u.pending = s.pending := (congrArg State.pending h : u.outsideRestart.pending = s.outsideRestart.pending)
theorem clk_of_outsideRestart : u.clk = s.clk := (congrArg State.clk h : u.outsideRestart.clk = s.outsideRestart.clk)
theorem warp_of_outsideRestart : u.warp = s.warp := (congrArg State.warp h : u.outsideRestart.warp = s.outsideRestart.warp)
theorem sync_of_outsideRestart : u.sync = s.sync := (congrArg State.sync h : u.outsideRestart.sync = s.outsideRestart.sync)
theorem mem_of_outsideRestart : u.mem = s.mem := (congrArg State.mem h : u.outsideRestart.mem = s.outsideRestart.mem)
theorem sh_of_outsideRestart : u.sh = s.sh := (congrArg State.sh h : u.outsideRestart.sh = s.outsideRestart.sh)
theorem host_of_outsideRestart : u.host = s.host := (congrArg State.host h : u.outsideRestart.host = s.outsideRestart.host)
theorem pwr_of_outsideRestart : { u.pwr with level := 0 } = { s.pwr with level := 0 } := congrArg State.pwr h
theorem mgt_of_outsideRestart : u.mgt.outsideRestart = s.mgt.outsideRestart := congrArg State.mgt h

theorem domainUp_of_outsideRestart : u.pwr.domainUp = s.pwr.domainUp :=
  (congrArg PwrSt.domainUp (pwr_of_outsideRestart h) :)
theorem boardKey_of_outsideRestart : u.mgt.boardKey = s.mgt.boardKey :=
  (congrArg MgtSt.boardKey (mgt_of_outsideRestart h) :)
theorem mb_of_outsideRestart (a : Nat) : u.mb a = s.mb a :=
  (congrArg (fun v : State => v.mb a) h : u.outsideRestart.mb a = s.outsideRestart.mb a)

end Parts

/-! The level (R470). -/

theorem pwr_log (s : State) (src : BitVec 16) (code : Nat) (payload : List Byte) : (s.log src code payload).pwr = s.pwr := by
  rw [log_eq]
  rfl

/-- SL0 and SL1 are taken with a log entry alone: nothing falls that a lower level than SL2 would stop. -/
theorem setLevel_of_le_one (s : State) {v : Nat} (l : Nat) (h : v ≤ 1) : s.setLevel v l =
    if v = s.pwr.level then s
    else (s.modPwr fun p => { p with level := v }).log Src.mgt.code 0x8502 (bytesLE 1 s.pwr.level ++ bytesLE 1 v) := by
  have h2 : ¬ 2 ≤ v := by omega
  have h3 : ¬ (v = 2 ∧ 2 < s.pwr.level) := by omega
  have h4 : ¬ (s.pwr.level = 4 ∧ v = 3) := by omega
  simp only [State.setLevel, if_neg h2, if_neg h3, if_neg h4]

theorem outsideRestart_setLevel (s : State) {v : Nat} (l : Nat) (h : v ≤ 1) : (s.setLevel v l).outsideRestart = s.outsideRestart := by
  rw [setLevel_of_le_one s l h]
  split
  · rfl
  · exact outsideRestart_log ..

theorem level_setLevel (s : State) {v : Nat} (l : Nat) (h : v ≤ 1) : (s.setLevel v l).pwr.level = v := by
  rw [setLevel_of_le_one s l h]
  split
  next heq => exact heq.symm
  · rw [pwr_log]
    rfl

theorem levelNow_le_one {s : State} (h : s.pwr.domainUp = false) : s.levelNow ≤ 1 := by
  unfold State.levelNow
  split
  · exact Nat.zero_le 1
  · simp [h]

/-! MGT starts (R412, R468). -/

/-- From one state to the other only what `outsideRestart` leaves out has changed, and the level is no higher than SL1 if it was not. -/
structure StartsBelow (s u : State) : Prop where
  same : u.outsideRestart = s.outsideRestart
  level : s.pwr.level ≤ 1 → u.pwr.level ≤ 1

namespace StartsBelow
variable {s t : State}

theorem refl (s : State) : StartsBelow s s := ⟨rfl, id⟩

theorem log (h : StartsBelow s t) (src : BitVec 16) (code : Nat) (payload : List Byte) : StartsBelow s (t.log src code payload) where
  same := (outsideRestart_log ..).trans h.same
  level hl := (pwr_log t src code payload).symm ▸ h.level hl

theorem modMgt (h : StartsBelow s t) {f : MgtSt → MgtSt}
    (hf : ∀ m, (f m).outsideRestart = m.outsideRestart := by exact fun _ => rfl) :
    StartsBelow s (t.modMgt f) :=
  ⟨(outsideRestart_modMgt t f hf).trans h.same, h.level⟩

theorem modField (h : StartsBelow s t) (f : FieldSt → FieldSt) : StartsBelow s (t.modField f) := ⟨h.same, h.level⟩

theorem ite {a b : State} {c : Prop} [Decidable c] (ha : StartsBelow s a) (hb : StartsBelow s b) : StartsBelow s (if c then a else b) := by
  split
  · exact ha
  · exact hb

variable (hdown : s.pwr.domainUp = false)
include hdown

theorem relevel (h : StartsBelow s t) : StartsBelow s t.relevel := by
  have hl : t.levelNow ≤ 1 := levelNow_le_one ((domainUp_of_outsideRestart h.same).trans hdown)
  refine ⟨(outsideRestart_setLevel t 0 hl).trans h.same, fun _ => ?_⟩
  rw [State.relevel, level_setLevel t 0 hl]
  exact hl

theorem mgtStarts (h : StartsBelow s t) : StartsBelow s t.mgtStarts := by
  have h1 : StartsBelow s (t.loadField t.storedField false) := ⟨h.same, h.level⟩
  simp only [State.mgtStarts]
  exact relevel hdown (ite (log (modMgt (modField h1 _)) ..) (modMgt (modField h1 _)))

theorem bootFrom (h : StartsBelow s t) (n : Nat) (trialOk : Bool) : StartsBelow s (t.bootFrom n trialOk) := by
  simp only [State.bootFrom]
  refine ite (ite ?confirmed ?trial) ?plain
  case confirmed => exact mgtStarts hdown (log (modMgt (log (modMgt h) ..)) ..)
  case trial => exact modMgt (log (modMgt h) ..)
  case plain => exact mgtStarts hdown (modMgt (log (modMgt h) ..))

theorem bootMgt (trialOk : Bool) : StartsBelow s (s.bootMgt trialOk) := by
  simp only [State.bootMgt]
  refine ite ?next (ite ?other ?recovery)
  case next => exact bootFrom hdown (modMgt (refl s)) _ trialOk
  case other => exact bootFrom hdown (log (modMgt (refl s)) ..) _ trialOk
  case recovery => exact relevel hdown (modMgt (log (log (modMgt (refl s)) ..) ..))

end StartsBelow

/-! The domain in reset (R329, R458). -/

theorem memFind_filter (p : Nat → Bool) (m : Memory) {a : Nat} (h : p a = true) : memFind (m.filter fun e => p e.1) a = memFind m a := by
  induction m with
  | nil => rfl
  | cons e m ih =>
    obtain ⟨k, v⟩ := e
    by_cases hk : k = a
    · subst hk
      simp [h, memFind]
    · cases hp : p k <;> simp [hp, memFind, hk, ih]

/-- `u` is `s` with its domain held in reset: no job, object, session or active image; host memory is as it was. -/
structure DomainCleared (s u : State) : Prop where
  down : u.pwr.domainUp = false
  sh : u.sh = {}
  sync : u.sync = {}
  host : u.host = {}
  warp : u.warp = {}
  hostMem : ∀ a, 0x1000000000000 ≤ a → u.mb a = s.mb a

namespace DomainCleared
variable {s t u v : State}

theorem of_before (h : DomainCleared t u) (hs : ∀ a, t.mb a = s.mb a) : DomainCleared s u :=
  { h with hostMem := fun a ha => (h.hostMem a ha).trans (hs a) }

theorem to_after (h : DomainCleared s u) (hv : v.outsideRestart = u.outsideRestart) : DomainCleared s v where
  down := (domainUp_of_outsideRestart hv).trans h.down
  sh := (sh_of_outsideRestart hv).trans h.sh
  sync := (sync_of_outsideRestart hv).trans h.sync
  host := (host_of_outsideRestart hv).trans h.host
  warp := (warp_of_outsideRestart hv).trans h.warp
  hostMem a ha := (mb_of_outsideRestart hv a).trans (h.hostMem a ha)

end DomainCleared

theorem mb_of_filter {s u : State} (hups : u.pwr.startUps = s.pwr.startUps)
    (hmem : u.mem = s.mem.filter fun e => decide (0x1000000000000 ≤ e.1)) {a : Nat} (ha : 0x1000000000000 ≤ a) : u.mb a = s.mb a := by
  rw [State.mb, State.mb, memGet, memGet, hups, hmem, memFind_filter (fun k => decide (0x1000000000000 ≤ k)) _ (decide_eq_true ha)]

/-- What no reset of the domain reaches: the clocks, the waiting commands, and of MGT the fuses, the key store and the count of
board-memory keys. -/
def State.lasting (s : State) : ClkSt × List Instr × Nat × Nat × List KeySlot × Bool × Bool :=
  (s.clk, s.pending, s.mgt.boardKey, s.mgt.secverMin, s.mgt.keys, s.mgt.rootKilled, s.mgt.debugOpen)

theorem lasting_of_outsideRestart {s u : State} (h : u.outsideRestart = s.outsideRestart) : u.lasting = s.lasting :=
  (congrArg State.lasting h : u.outsideRestart.lasting = s.outsideRestart.lasting)

/-- Search ends, the dies lose their state, and the level falls to SL1 at most. -/
theorem domainDown_eq_setLevel (s : State) : ∃ t n, s.domainDown = t.setLevel n 0 ∧ n ≤ 1 ∧ DomainCleared s.searchOff t ∧
    t.lasting = s.searchOff.lasting := by
  refine ⟨_, _, rfl, Nat.min_le_right .., ⟨rfl, rfl, rfl, rfl, rfl, fun a ha => ?_⟩, rfl⟩
  apply mb_of_filter _ _ ha <;> rfl

/-- The domain goes down: it is cleared, the level is SL1 at most, and what no reset reaches stays. -/
theorem domainDown_spec (s : State) : DomainCleared s s.domainDown ∧ s.domainDown.pwr.level ≤ 1 ∧ s.domainDown.lasting = s.lasting := by
  obtain ⟨t, n, heq, hn, hc, hl⟩ := domainDown_eq_setLevel s
  have hout := outsideRestart_setLevel t 0 hn
  have hoff := outsideRestart_searchOff s
  rw [heq]
  exact ⟨(hc.to_after hout).of_before (mb_of_outsideRestart hoff), Nat.le_trans (Nat.le_of_eq (level_setLevel t 0 hn)) hn,
    (lasting_of_outsideRestart hout).trans (hl.trans (lasting_of_outsideRestart hoff))⟩

theorem shutDomain_spec {s : State} (hup : s.pwr.domainUp = true) :
    DomainCleared s s.shutDomain ∧ s.shutDomain.pwr.level ≤ 1 ∧ s.shutDomain.lasting = s.lasting := by
  obtain ⟨hc, hl, hk⟩ := domainDown_spec s.powerLoss
  rw [State.shutDomain, if_pos hup]
  exact ⟨hc.of_before (mb_of_outsideRestart (outsideRestart_powerLoss s)), hl, hk.trans (lasting_of_outsideRestart (outsideRestart_powerLoss s))⟩

theorem lasting_shutDomain (s : State) : s.shutDomain.lasting = s.lasting := by
  cases hup : s.pwr.domainUp with
  | true => exact (shutDomain_spec hup).2.2
  | false => exact congrArg State.lasting (if_neg (by simp [hup]))

/-! Module reset (R458, R459). -/

/-- `u` is `s` after a module reset of a cause that MGT itself draws. -/
structure ResetBy (cause : Nat) (s u : State) : Prop extends DomainCleared s u where
  kind : u.pwr.kind = 1
  cause : u.pwr.cause = cause
  source : u.pwr.source = 0
  startDue : u.pwr.startDue = true
  level : u.pwr.level ≤ 1
  keyRegs : u.mgt.keyRegs = []
  boardKey : u.mgt.boardKey = s.mgt.boardKey + 1

theorem ResetBy.of_before {cause : Nat} {s t u : State} (h : ResetBy cause t u) (hkey : t.mgt.boardKey = s.mgt.boardKey)
    (hmem : ∀ a, t.mb a = s.mb a) : ResetBy cause s u :=
  { h with toDomainCleared := h.toDomainCleared.of_before hmem, boardKey := h.boardKey.trans (congrArg (· + 1) hkey) }

theorem ResetBy.of_startsBelow {cause : Nat} {s u v : State} (h : ResetBy cause s u) (hv : StartsBelow u v) : ResetBy cause s v where
  toDomainCleared := h.toDomainCleared.to_after hv.same
  kind := (congrArg PwrSt.kind (pwr_of_outsideRestart hv.same) :).trans h.kind
  cause := (congrArg PwrSt.cause (pwr_of_outsideRestart hv.same) :).trans h.cause
  source := (congrArg PwrSt.source (pwr_of_outsideRestart hv.same) :).trans h.source
  startDue := (congrArg PwrSt.startDue (pwr_of_outsideRestart hv.same) :).trans h.startDue
  level := hv.level h.level
  keyRegs := (congrArg MgtSt.keyRegs (mgt_of_outsideRestart hv.same) :).trans h.keyRegs
  boardKey := (congrArg MgtSt.boardKey (mgt_of_outsideRestart hv.same) :).trans h.boardKey

/-- MGT starts from a state in which the reset has done the rest. -/
theorem moduleReset_eq_bootMgt {s : State} (cause : Nat) (hstandby : s.pwr.standby = true) (hup : s.pwr.domainUp = true) :
    ∃ t b, s.moduleReset cause Src.mgt.code = t.bootMgt b ∧ ResetBy cause s t ∧ t.clk = s.clk := by
  obtain ⟨hc, hl, hk⟩ := shutDomain_spec hup
  simp only [State.lasting, Prod.mk.injEq] at hk
  obtain ⟨hclk, _, hkey, -⟩ := hk
  refine ⟨_, _, if_neg (by simp [hstandby]), ?_, hclk⟩
  exact { down := hc.down, sh := hc.sh, sync := hc.sync, host := hc.host, warp := hc.warp, hostMem := hc.hostMem
          kind := rfl, cause := rfl, source := rfl, startDue := rfl, level := hl, keyRegs := rfl, boardKey := congrArg (· + 1) hkey }

theorem moduleReset_resetBy {s : State} (cause : Nat) (hstandby : s.pwr.standby = true) (hup : s.pwr.domainUp = true) :
    ResetBy cause s (s.moduleReset cause Src.mgt.code) ∧ (s.moduleReset cause Src.mgt.code).clk = s.clk := by
  obtain ⟨t, b, heq, ht, hclk⟩ := moduleReset_eq_bootMgt cause hstandby hup
  have hboot := StartsBelow.bootMgt ht.down b
  rw [heq]
  exact ⟨ht.of_startsBelow hboot, (clk_of_outsideRestart hboot.same).trans hclk⟩

end Sys2Proof.Machine

/-! The clocks (R33, R35). -/

namespace Sys2Proof.Machine

theorem outsideRestart_modClk {s t : State} (h : t.outsideRestart = s.outsideRestart) (f : ClkSt → ClkSt) :
    (t.modClk f).outsideRestart = (s.modClk f).outsideRestart :=
  congrArg (fun v : State => v.modClk f) h

theorem outsideRestart_toXclk (s : State) : s.toXclk.outsideRestart = (s.modClk fun c => { c with onXclk := true }).outsideRestart := by
  simp [State.toXclk]

/-- The clocks of `bad` are recorded as failed, and the lock with them where it is lost (R35). -/
def ClkSt.failed (c : ClkSt) (bad : BitVec 6) (lost : Bool) : ClkSt :=
  { c with
    faults := c.faults ||| bad, ok := c.ok &&& ~~~bad, lock := c.lock && !lost, unlocks := if lost then satAdd 16 c.unlocks 1 else c.unlocks
    onXclk := c.onXclk || decide (bad &&& 3#6 ≠ 0) }

theorem outsideRestart_clocksFail {bad clks : BitVec 6} {lost : Bool} (s : State) (hbad : (if lost then 0x3F#6 else clks) = bad) (hne : bad ≠ 0) :
    (s.clocksFail clks lost).outsideRestart = (s.modClk fun c => c.failed bad lost).outsideRestart := by
  simp only [State.clocksFail, hbad, if_neg hne, ClkSt.failed]
  split
  next hmgt =>
    rw [outsideRestart_toXclk, outsideRestart_modClk (outsideRestart_each _ _ _ fun _ _ => outsideRestart_log ..)]
    simp only [decide_eq_true hmgt, Bool.or_true]
    rfl
  next hmgt =>
    rw [outsideRestart_each _ _ _ fun _ _ => outsideRestart_log ..]
    simp only [decide_eq_false hmgt, Bool.or_false]

theorem clockFailure_resetBy {s : State} {bad clks : BitVec 6} {lost : Bool} (hstandby : s.pwr.standby = true) (hup : s.pwr.domainUp = true)
    (hlock : s.clk.lock = true) (hbad : (if lost then 0x3F#6 else clks) = bad) (hne : bad ≠ 0) :
    Completes (.clockFailure clks lost) s fun u => ResetBy 5 s u ∧ u.clk = s.clk.failed bad lost := by
  have hout := outsideRestart_clocksFail s hbad hne
  have hpwr := pwr_of_outsideRestart hout
  obtain ⟨hreset, hclk⟩ := moduleReset_resetBy (s := s.clocksFail clks lost) 5 ((congrArg PwrSt.standby hpwr :).trans hstandby)
    ((congrArg PwrSt.domainUp hpwr :).trans hup)
  refine ⟨_, congrArg Host.Outcome.next (if_neg ?_), hreset.of_before ?_ ?_, ?_⟩
  · have hevent : ¬ (clks = 0 ∧ lost = false) := by
      rintro ⟨rfl, rfl⟩
      exact hne hbad.symm
    simpa [hstandby, hlock] using hevent
  · exact (boardKey_of_outsideRestart hout :)
  · exact fun a => (mb_of_outsideRestart hout a :)
  · exact hclk.trans (clk_of_outsideRestart hout)

/-! Power-on reset (R33, R458, R468). -/

/-- The clocks as the standby input's arrival leaves them: locked where the PLL locks, then with the clocks that are good (R33). -/
def State.clocksStart (s : State) (e : BootEnv) : State :=
  let s1 := s.modClk fun c => { c with lock := true, ok := 0x3F#6, onXclk := false }
  if e.pllLocks then s1.clocksFail (~~~e.clkOk) false else (s1.modClk fun c => { c with lock := false, ok := 0 }).toXclk

theorem clocksStart_spec (s : State) (e : BootEnv) : ∃ c, (s.clocksStart e).outsideRestart = (s.setClk c).outsideRestart ∧
    c.lock = e.pllLocks ∧ c.ok = if e.pllLocks then e.clkOk else 0 := by
  unfold State.clocksStart
  cases e.pllLocks with
  | false => exact ⟨_, outsideRestart_toXclk _, rfl, rfl⟩
  | true =>
    by_cases hbad : ~~~e.clkOk = 0
    · refine ⟨_, congrArg State.outsideRestart (if_pos hbad), rfl, ?_⟩
      exact (BitVec.not_eq_comm.1 hbad).symm
    · refine ⟨_, outsideRestart_clocksFail _ (if_neg Bool.false_ne_true) hbad, rfl, ?_⟩
      change BitVec.allOnes 6 &&& ~~~(~~~e.clkOk) = e.clkOk
      rw [BitVec.not_not, BitVec.allOnes_and]

theorem powerOn_eq (s : State) (e : BootEnv) (cause : Nat) (src : BitVec 16) : s.powerOn e cause src =
    State.bootMgt ((s.shutDomain.logAll.kept.modPwr fun p => { p with cause := cause, source := src }).clocksStart e) e.trialOk := rfl

/-- Outside what starts with MGT, power-on leaves what `State.kept` keeps of a state that has only ended its work. -/
theorem powerOn_spec (s : State) (e : BootEnv) (cause : Nat) (src : BitVec 16) : ∃ (t : State) (c : ClkSt),
    t.lasting = s.lasting ∧ c.lock = e.pllLocks ∧ (c.ok = if e.pllLocks then e.clkOk else 0) ∧
    (s.powerOn e cause src).outsideRestart =
      ((t.kept.modPwr fun p => { p with cause := cause, source := src }).setClk c).outsideRestart := by
  obtain ⟨c, hc, hlock, hok⟩ := clocksStart_spec (s.shutDomain.logAll.kept.modPwr fun p => { p with cause := cause, source := src }) e
  refine ⟨s.shutDomain.logAll, c, ?_, hlock, hok, ?_⟩
  · rw [lasting_of_outsideRestart (outsideRestart_logAll _), lasting_shutDomain]
  · rw [powerOn_eq]
    exact (StartsBelow.bootMgt (domainUp_of_outsideRestart hc) _).same.trans hc

end Sys2Proof.Machine

/-! The lock's return and XCLK (R35, R438, R450), and the statement. -/

namespace Sys2Proof.Machine

/-- A state with the lock back: MGT on SCLK and every clock good, the time base FREE where it was INVALID, the field ports going on. -/
theorem lockBack_spec (s : State) : s.lockBack.clk = { s.clk with lock := true, ok := 0x3F#6, onXclk := false } ∧
    s.lockBack.field.portsStopped = false ∧
    s.lockBack.time = (if s.time.st = 4 then { s.time with st := 0, valid := false, fracPpb := 0 } else s.time) ∧
    s.lockBack.field.set = s.field.set ∧ SameBytes s s.lockBack := by
  unfold State.lockBack
  split <;> exact ⟨rfl, rfl, rfl, rfl, fun _ => rfl⟩

theorem pllLockRetry_locks {s : State} (hstandby : s.pwr.standby = true) (h : s.clk.lock = false ∨ s.clk.onXclk = true) :
    exec (.pllLockRetry true) s = .next s.lockBack :=
  congrArg Host.Outcome.next (if_pos (by simpa [hstandby] using h))

theorem pllLockRetry_fails (s : State) : exec (.pllLockRetry false) s = .next s :=
  congrArg Host.Outcome.next (if_neg (by simp))

theorem pllLockReturn_eq {s : State} (hstandby : s.pwr.standby = true) (h : s.clk.lock = false ∨ s.clk.onXclk = true) :
    exec .pllLockReturn s = .next s.lockBack :=
  congrArg Host.Outcome.next (if_pos (by simpa [hstandby] using h))

theorem xclkReturn_running {s : State} (hout : s.field.xclkOut = true) (hrun : s.mgt.running = true) : exec .xclkReturn s = .next
    (((s.modField fun f => { f with xclkOut := false }).loadField s.storedField false).modField fun f => { f with xclkLost := false }) := by
  change execXclkReturn s = _
  simp [execXclkReturn, hout, hrun]

theorem xclkReturn_stopped {s : State} (hout : s.field.xclkOut = true) (hrun : s.mgt.running = false) :
    exec .xclkReturn s = .next (s.setField { s.field with xclkOut := false }) := by
  change execXclkReturn s = _
  simp [execXclkReturn, hout, hrun, State.modField]

/-- Settles O38: both module resets by `moduleReset_resetBy`, a failed clock's after `clocksFail`; power-on from `State.kept`, of which
the start of the clocks and of MGT leaves all that the statement names. -/
theorem moduleResets : Obligations.ModuleResets := by
  unfold Obligations.ModuleResets
  refine ⟨?resets, ?powerOn, ?lock, ?xclk⟩
  case resets =>
    intro s hstandby hup byReset
    have hby : ∀ {cause u}, ResetBy cause s u → byReset cause u := fun h =>
      ⟨h.kind, h.cause, h.source, h.down, h.startDue, h.level, congrArg ShuttleSt.jobs h.sh, congrArg SyncSt.objs h.sync,
        congrArg HostSt.pages h.host, congrArg WarpSt.active h.warp, congrArg WarpSt.activeImg h.warp, h.keyRegs,
        h.boardKey, fun _ => h.hostMem⟩
    obtain ⟨hreset, hclk⟩ := moduleReset_resetBy 8 hstandby hup
    refine ⟨⟨_, rfl, hby hreset, hclk⟩, fun clks lost hlock hevent => ?_⟩
    have hne : (if lost then 0x3F#6 else clks) ≠ 0 := by
      cases lost with
      | true => exact (by decide : 0x3F#6 ≠ 0)
      | false => simpa using hevent
    obtain ⟨u, hexec, hu, hclk⟩ := clockFailure_resetBy hstandby hup hlock rfl hne
    refine ⟨u, hexec, hby hu, ?_⟩
    rw [hclk]
    exact ⟨rfl, rfl, by simp [ClkSt.failed, hlock], rfl⟩
  case powerOn =>
    intro e s
    obtain ⟨t, c, hlast, hlock, hok, hout⟩ := powerOn_spec s e 1 0
    simp only [State.lasting, Prod.mk.injEq] at hlast
    obtain ⟨-, hpending, -, hsec, hkeys, hroot, hdebug⟩ := hlast
    refine ⟨s.powerOn e 1 0, rfl, ?_⟩
    generalize s.powerOn e 1 0 = u at hout ⊢
    have hpwr := pwr_of_outsideRestart hout
    have hmgt := mgt_of_outsideRestart hout
    have hclk := clk_of_outsideRestart hout
    exact ⟨(congrArg PwrSt.cause hpwr :), (congrArg PwrSt.kind hpwr :), (congrArg PwrSt.domainUp hpwr :),
      (congrArg PwrSt.standby hpwr :), congrArg ShuttleSt.jobs (sh_of_outsideRestart hout), congrArg SyncSt.objs (sync_of_outsideRestart hout),
      congrArg WarpSt.active (warp_of_outsideRestart hout), (congrArg MgtSt.secverMin hmgt :).trans hsec,
      (congrArg MgtSt.keys hmgt :).trans hkeys, (congrArg MgtSt.rootKilled hmgt :).trans hroot,
      (congrArg MgtSt.debugOpen hmgt :).trans hdebug, (pending_of_outsideRestart hout).trans hpending,
      (congrArg ClkSt.lock hclk).trans hlock, (congrArg ClkSt.ok hclk).trans hok⟩
  case lock =>
    intro s hstandby h back
    exact ⟨⟨_, pllLockRetry_locks hstandby h, lockBack_spec s⟩, ⟨s, pllLockRetry_fails s, rfl⟩,
      ⟨_, pllLockReturn_eq hstandby h, lockBack_spec s⟩⟩
  case xclk =>
    intro s
    refine ⟨⟨_, rfl, rfl⟩, fun hout hrun => ⟨_, xclkReturn_running hout hrun, rfl, rfl, rfl, rfl, fun _ => rfl⟩, fun hout hrun => ?_⟩
    exact ⟨_, xclkReturn_stopped hout hrun, rfl⟩

end Sys2Proof.Machine
